-- ==== Sys2Proof/Word.lean ====
section
/-! DEFINITION. The word types of the Chakel 900 and their plainest arithmetic (R5, R151). -/

namespace Sys2Proof

/-- The smallest addressable unit (R5). -/
abbrev Byte := BitVec 8

/-- An instruction word, and one lane's element of a vector register (R44, R187). -/
abbrev W32 := BitVec 32

/-- A 64-bit operand, held in an even-odd pair (R5). -/
abbrev W64 := BitVec 64

/-- A 128-bit operand, held in four registers (R159). -/
abbrev W128 := BitVec 128

/-- Sparse storage: key and value pairs, keys strictly rising, no value zero; an unlisted key reads 0. -/
abbrev Store (w : Nat) := List (Nat × BitVec w)

end Sys2Proof
end

