-- ==== Sys2Proof/Syntax.lean ====
section
/-! DEFINITION. The instructions and device events of opcode_table.json, one constructor per row. An instruction
carries its guard, its operands with their literal words, and its modifiers as named codes. An event carries what
the outside or the free order chooses about it. -/

namespace Sys2Proof

/-- The type codes 0 to 23, in order (R200). -/
inductive Ty
  | s8 | s16 | s32 | s64 | n8 | n16 | n32 | n64
  | f32 | f16 | bf16 | e4m3 | e5m2 | e2m1 | e2m1b | e3m5
  | f16x2 | bf16x2 | e4m3x4 | e5m2x4 | e2m1x8 | b32 | b64 | b128
  deriving DecidableEq, Repr

/-- The rounding codes 0 to 4, in order (R199). -/
inductive Rnd
  | rne | rtz | rdn | rup | rna
  deriving DecidableEq, Repr

/-- The order codes (R199). -/
inductive Order
  | rlx | acq | rel | ar
  deriving DecidableEq, Repr

/-- The scope codes 0 to 5 (R128, R199). -/
inductive Scope
  | wave | core | clus | dev | ten | sys
  deriving DecidableEq, Repr

/-- The conditions of `icmp` (R224) and, with the last two, of `fcmp` (R230). -/
inductive Cond
  | eq | ne | lt | le | gt | ge | uo | ord
  deriving DecidableEq, Repr

/-- The operations of `lred` and `lscan` (R241). -/
inductive LaneOp
  | add | min | max | and | or | xor
  deriving DecidableEq, Repr

/-- The operations of `rmw` and `fold` (R268). -/
inductive RmwOp
  | add | min | max | and | or | xor | exch
  deriving DecidableEq, Repr

/-- Segment width codes 1 to 5 of the lane operations (R241). -/
inductive Seg
  | w2 | w4 | w8 | w16 | w32
  deriving DecidableEq, Repr

/-- The hint of a global access (R261). -/
inductive Hint
  | none | evf | nl1
  deriving DecidableEq, Repr

/-- The level of `prefetch` (R261). -/
inductive PfLevel
  | l2 | msc
  deriving DecidableEq, Repr

/-- The form of `qpush` (R279). -/
inductive QForm
  | full | rsv | prod
  deriving DecidableEq, Repr

/-- The format codes of AFMT and BFMT (R294). -/
inductive MFmt
  | e2m1b | e4m3 | e5m2 | f16 | bf16
  deriving DecidableEq, Repr

/-- The scratchpad element types of `accld` and `accst` (R294). -/
inductive AccTy
  | f32 | f16 | bf16 | e4m3 | e5m2
  deriving DecidableEq, Repr

/-- The columns of `accz`, `accld`, `accst` (R294). -/
inductive Cols
  | all | lo | hi
  deriving DecidableEq, Repr

/-- The form of a B image (R294). -/
inductive BForm
  | dense | s16 | s8
  deriving DecidableEq, Repr

/-- The operation of `cctl` (R307). -/
inductive CctlOp
  | cinv | wb | inv
  deriving DecidableEq, Repr

/-- The guard: negate bit and predicate index (R194). -/
structure Guard where
  neg : Bool
  p : Fin 8
  deriving DecidableEq, Repr

/-- An operand field with the literal it calls for (R195, R196, R198). -/
inductive Opd
  | v (n : Fin 88)
  | s (n : Fin 32)
  | zero
  | laneix
  | sliceix
  | waveix
  | lit (w : W32)
  | lit2 (w : W64)
  deriving DecidableEq, Repr

/-- Modifier bits 16 and 15 of a long-latency instruction: the flag selector and 'no flag' (R193). -/
structure FlagSel where
  b : Bool
  nf : Bool
  deriving DecidableEq, Repr

/-- Modifiers of the loads and stores (R261, R288). -/
structure MemMods where
  fs : FlagSel
  ty : Ty
  hint : Hint
  order : Order
  scope : Scope
  deriving DecidableEq, Repr

/-- Modifiers of the RMW group (R267). -/
structure RmwMods where
  fs : FlagSel
  ty : Ty
  op : RmwOp
  order : Order
  scope : Scope
  far : Bool
  spad : Bool
  deriving DecidableEq, Repr

/-- Modifiers of `mma` and `mmas` (R294). -/
structure MmaMods where
  fs : FlagSel
  tile : Fin 64
  slot : Fin 8
  afmt : MFmt
  rota : Bool
  rotb : Bool
  half : Bool
  deriving DecidableEq, Repr

/-- Modifiers of `wbload` (R294). -/
structure WbMods where
  fs : FlagSel
  acq : Bool
  rel : Bool
  fscope : Scope
  k192 : Bool
  slot : Fin 8
  bfmt : MFmt
  n128 : Bool
  form : BForm
  deriving DecidableEq, Repr

/-- Modifiers of `accz`, `accld`, `accst` (R294). -/
structure AccMods where
  fs : FlagSel
  tile : Fin 64
  aty : AccTy
  rnd : Rnd
  sat : Bool
  cols : Cols
  deriving DecidableEq, Repr

/-- Modifiers of the COPY group (R303). -/
structure CpMods where
  fs : FlagSel
  one : Bool
  acq : Bool
  rel : Bool
  fscope : Scope
  deriving DecidableEq, Repr

/-- Kinds of fabric window (R323). -/
inductive WinKind
  | host | hdm | peer
  deriving DecidableEq, Repr

/-- Where an uncorrectable error strikes (R413, R437). -/
inductive PoisonLoc
  | dram (granule : Nat)
  | home (kind : WinKind) (dest granule : Nat)
  | l2 (cluster granule : Nat)
  | msc (granule : Nat)
  | mscLine (granule : Nat)
  | spad (group granule : Nat)
  | remote (ctx key member granule : Nat)
  | vreg (core wave reg : Nat) (hi : Bool)
  | tile (group granule : Nat)
  | slot (core slot granule : Nat)
  deriving DecidableEq, Repr

/-- A function of the device that has a KINDLING bit (R361). -/
inductive Func
  | clus (n : Nat) | link (n : Nat) | stack (n : Nat) | port (n : Nat) | firebox | kiln
  deriving DecidableEq, Repr

/-- A span as a message or a request of another device names it, with the protection key that the message carries (R71, R116,
R335). -/
structure SpanMsg where
  pkey : BitVec 16
  ctx : Nat
  key : Nat
  deriving DecidableEq, Repr

/-- A request that arrives over FLUE or CXL with a partition key, or an outside agent's own access at its home
(R335, R116, R323). The data of a write may arrive poisoned (R316). -/
inductive InReq
  | readLocal (key : BitVec 16) (addr n : Nat)
  | cacheLocal (key : BitVec 16) (addr : Nat)
  | writeLocal (key : BitVec 16) (addr : Nat) (data : List Byte) (poison : Bool)
  | atomicLocal (key : BitVec 16) (addr : Nat) (op : RmwOp) (ty : Ty) (c : W64)
  | casLocal (key : BitVec 16) (addr n : Nat) (cmp new : W128)
  | readWindow (span : SpanMsg) (member off n : Nat)
  | writeWindow (span : SpanMsg) (member off : Nat) (data : List Byte) (poison : Bool)
  | memberWrite (span : SpanMsg) (member off : Nat) (data : List Byte) (poison : Bool)
  | arrive (span : SpanMsg) (member : Nat)
  | detach (span : SpanMsg) (member : Nat)
  | exited (span : SpanMsg) (member : Nat)
  | homeWrite (kind : WinKind) (dest addr : Nat) (data : List Byte) (poison : Bool)
  deriving DecidableEq, Repr

/-- An extent: its base, in this device's memory or in that of another 900-L, which a kind of window and its destination
name (R328, R424). -/
structure ExtentAt where
  home : Option (WinKind × Nat)
  base : Nat
  deriving DecidableEq, Repr

/-- What LONG_OP_COMPLETE completes of an operation: a slice, and how many of its lanes where they write one by one (R40,
R260). -/
structure OpShare where
  slice : Nat
  count : Nat
  deriving DecidableEq, Repr

/-- The lanes whose requests a fenced response is about, and whether their target refused them (R335, R422). -/
structure Fenced where
  lanes : W32
  refused : Bool
  deriving DecidableEq, Repr

/-- One constructor per row of opcode_table.json. -/
inductive Instr
  -- A form (R203)
  | nop (g : Guard)
  | iadd (g : Guard) (d a b : Opd)
  | isub (g : Guard) (d a b : Opd)
  | imul (g : Guard) (d a b : Opd)
  | imulhS (g : Guard) (d a b : Opd)
  | imulhN (g : Guard) (d a b : Opd)
  | iminS (g : Guard) (d a b : Opd)
  | iminN (g : Guard) (d a b : Opd)
  | imaxS (g : Guard) (d a b : Opd)
  | imaxN (g : Guard) (d a b : Opd)
  | and (g : Guard) (d a b : Opd)
  | or (g : Guard) (d a b : Opd)
  | xor (g : Guard) (d a b : Opd)
  | andn (g : Guard) (d a b : Opd)
  | shl (g : Guard) (d a b : Opd)
  | shr (g : Guard) (d a b : Opd)
  | sar (g : Guard) (d a b : Opd)
  | rotl (g : Guard) (d a b : Opd)
  | popc (g : Guard) (d a : Opd)
  | clz (g : Guard) (d a : Opd)
  | brev (g : Guard) (d a : Opd)
  | iabs (g : Guard) (d a : Opd)
  | mov (g : Guard) (d a : Opd)
  | sel (g : Guard) (d a b : Opd)
  | iaddQ (g : Guard) (d a b : Opd)
  | isubQ (g : Guard) (d a b : Opd)
  | shlQ (g : Guard) (d a b : Opd)
  | shrQ (g : Guard) (d a b : Opd)
  | sarQ (g : Guard) (d a b : Opd)
  | movQ (g : Guard) (d a : Opd)
  | fadd (g : Guard) (d a b : Opd)
  | fsub (g : Guard) (d a b : Opd)
  | fmul (g : Guard) (d a b : Opd)
  | fmin (g : Guard) (d a b : Opd)
  | fmax (g : Guard) (d a b : Opd)
  | faddBf16x2 (g : Guard) (d a b : Opd)
  | fmulBf16x2 (g : Guard) (d a b : Opd)
  | fminBf16x2 (g : Guard) (d a b : Opd)
  | fmaxBf16x2 (g : Guard) (d a b : Opd)
  | faddF16x2 (g : Guard) (d a b : Opd)
  | fmulF16x2 (g : Guard) (d a b : Opd)
  | fminF16x2 (g : Guard) (d a b : Opd)
  | fmaxF16x2 (g : Guard) (d a b : Opd)
  | lea (g : Guard) (d a b : Opd)
  -- B form (R202)
  | br (g : Guard) (off : BitVec 21)
  | call (g : Guard) (off : BitVec 21)
  -- INTX (R224)
  | icmp (g : Guard) (a b : Opd) (ty : Ty) (cond : Cond) (pd : Fin 8)
  | imad (g : Guard) (d a b c : Opd)
  | imulQ (g : Guard) (d a b : Opd)
  | iaddSat (g : Guard) (d a b : Opd) (ty : Ty)
  | isubSat (g : Guard) (d a b : Opd) (ty : Ty)
  | bfe (g : Guard) (d a b : Opd) (ty : Ty)
  | bfi (g : Guard) (d a b c : Opd)
  | fshl (g : Guard) (d a b c : Opd)
  | fshr (g : Guard) (d a b c : Opd)
  | pbool (g : Guard) (tt : BitVec 4) (pa pb pd : Fin 8)
  | pget (g : Guard) (d : Opd)
  | pset (g : Guard) (a : Opd)
  -- FPX (R230)
  | ffma (g : Guard) (d a b c : Opd) (ty : Ty) (rnd : Rnd)
  | faddFpx (g : Guard) (d a b : Opd) (ty : Ty) (rnd : Rnd)
  | fsubFpx (g : Guard) (d a b : Opd) (ty : Ty) (rnd : Rnd)
  | fmulFpx (g : Guard) (d a b : Opd) (ty : Ty) (rnd : Rnd)
  | fabs (g : Guard) (d a : Opd) (ty : Ty)
  | fneg (g : Guard) (d a : Opd) (ty : Ty)
  | frcp (g : Guard) (d a : Opd) (rnd : Rnd)
  | fsqrt (g : Guard) (d a : Opd) (rnd : Rnd)
  | frsqrt (g : Guard) (d a : Opd) (rnd : Rnd)
  | fexp2 (g : Guard) (d a : Opd) (rnd : Rnd)
  | flog2 (g : Guard) (d a : Opd) (rnd : Rnd)
  | frnd (g : Guard) (d a : Opd) (rnd : Rnd)
  | fcmp (g : Guard) (a b : Opd) (cond : Cond) (pd : Fin 8)
  -- CVT (R234)
  | cvt (g : Guard) (d a : Opd) (dty sty : Ty) (rnd : Rnd) (sat : Bool)
  | qblk (g : Guard) (d a b : Opd)
  | dqblk (g : Guard) (d a b : Opd)
  | cvtHad (g : Guard) (d a b c : Opd) (dty : Ty) (rnd : Rnd) (sat inv : Bool) (fs : FlagSel)
  -- LANE (R241)
  | lany (g : Guard) (ps pd : Fin 8)
  | lall (g : Guard) (ps pd : Fin 8)
  | lmask (g : Guard) (d : Opd) (ps : Fin 8)
  | lpickIdx (g : Guard) (d a b : Opd) (ty : Ty) (seg : Seg)
  | lpickUp (g : Guard) (d a b : Opd) (ty : Ty) (seg : Seg)
  | lpickDown (g : Guard) (d a b : Opd) (ty : Ty) (seg : Seg)
  | lpickXor (g : Guard) (d a b : Opd) (ty : Ty) (seg : Seg)
  | lred (g : Guard) (d a : Opd) (op : LaneOp) (ty : Ty) (seg : Seg)
  | lscan (g : Guard) (d a : Opd) (op : LaneOp) (ty : Ty) (seg : Seg) (excl : Bool)
  -- CTRL (R247)
  | regang (g : Guard)
  | wide (g : Guard)
  | endwide (g : Guard)
  | wbase (g : Guard) (a : Opd) (add : Bool)
  | exit (g : Guard)
  | trap (g : Guard) (a : Opd)
  | trapret (g : Guard)
  | ifence (g : Guard)
  | icinv (g : Guard) (a b : Opd) (fs : FlagSel)
  | jmpi (g : Guard) (a : Opd)
  | ret (g : Guard) (a : Opd)
  | calli (g : Guard) (d a : Opd)
  | brk (g : Guard)
  | yieldto (g : Guard) (a b c : Opd)
  -- MEM (R261)
  | ld (g : Guard) (d a b : Opd) (m : MemMods)
  | st (g : Guard) (a b c : Opd) (m : MemMods)
  | lds (g : Guard) (d a b : Opd) (m : MemMods)
  | sts (g : Guard) (a b c : Opd) (m : MemMods)
  | ldc (g : Guard) (d a b : Opd) (ty : Ty) (fs : FlagSel)
  | gather (g : Guard) (d a b : Opd) (m : MemMods)
  | prefetch (g : Guard) (a b : Opd) (lvl : PfLevel)
  -- RMW (R267)
  | rmw (g : Guard) (d a b c : Opd) (m : RmwMods)
  | fold (g : Guard) (a b c : Opd) (m : RmwMods)
  | rmwCas (g : Guard) (d a b c : Opd) (m : RmwMods)
  -- SYNC (R271)
  | fence (g : Guard) (order : Order) (scope : Scope)
  | gatePass (g : Guard) (a : Opd) (bar : Fin 16)
  | gateWait (g : Guard) (a : Opd) (bar : Fin 16)
  | bobjOpen (g : Guard) (a b : Opd)
  | bobjDue (g : Guard) (a b : Opd) (mark : Bool)
  | bobjMark (g : Guard) (a : Opd)
  | bobjHold (g : Guard) (a b : Opd)
  | emberArm (g : Guard) (a b : Opd) (k : Fin 4)
  | emberWait (g : Guard) (d a : Opd)
  | emberDisarm (g : Guard) (mask : BitVec 4)
  | emberTimeout (core wave strand : Nat)
  -- TASK (R279)
  | spawn (g : Guard) (a b : Opd) (fs : FlagSel)
  | launch (g : Guard) (a : Opd) (fs : FlagSel)
  | await (g : Guard) (a : Opd) (pd : Fin 8)
  | futSet (g : Guard) (a b : Opd)
  | lockTake (g : Guard) (a : Opd) (pd : Fin 8)
  | lockGive (g : Guard) (a : Opd)
  | qpush (g : Guard) (d a b : Opd) (form : QForm) (order : Order) (scope : Scope) (fs : FlagSel)
  | qpop (g : Guard) (d a b : Opd) (order : Order) (scope : Scope) (fs : FlagSel)
  | park (g : Guard) (a : Opd)
  -- SPAN (R288)
  | ldw (g : Guard) (d a b : Opd) (m : MemMods)
  | stw (g : Guard) (a b c : Opd) (m : MemMods)
  | spanArrive (g : Guard)
  | spanSync (g : Guard)
  | spanDetach (g : Guard)
  | spanPeer (g : Guard) (d a : Opd)
  -- MAT (R294)
  | crewSet (g : Guard) (a b : Opd)
  | tokTake (g : Guard)
  | tokGive (g : Guard) (a : Opd) (pass : Bool)
  | mma (g : Guard) (a : Opd) (m : MmaMods)
  | mmas (g : Guard) (a : Opd) (m : MmaMods)
  | matrixEntry (core group crew : Nat)
  | matrixOpFinish (core : Nat)
  | wbload (g : Guard) (a : Opd) (m : WbMods)
  | accz (g : Guard) (m : AccMods)
  | accld (g : Guard) (a b : Opd) (m : AccMods)
  | accst (g : Guard) (a b : Opd) (m : AccMods)
  -- COPY (R303)
  | cpTile (g : Guard) (d a b c : Opd) (m : CpMods)
  | cpMcast (g : Guard) (d a b c : Opd) (m : CpMods) (mask : Byte)
  | cpOut (g : Guard) (d a b c : Opd) (m : CpMods)
  | cpGather (g : Guard) (d a b c : Opd) (m : CpMods)
  | copyDelivery (core copy lines : Nat)
  -- SYS (R307)
  | sget (g : Guard) (d : Opd) (sreg : Byte)
  | sset (g : Guard) (a : Opd) (sreg : Byte)
  | cctl (g : Guard) (a b : Opd) (op : CctlOp) (fs : FlagSel)
  | tlbinv (g : Guard) (a b : Opd) (fs : FlagSel)
  | probe (g : Guard) (d a : Opd) (fs : FlagSel)
  | scanStart (g : Guard) (d a : Opd) (fs : FlagSel)
  | scanPoll (g : Guard) (d a : Opd) (fs : FlagSel)
  | halt (g : Guard)
  -- Steps of the wave machinery
  | clauseStart
  | longOpComplete (core wave op : Nat) (share : OpShare)
  | waveExit (core wave : Nat)
  | trapEntry (core wave : Nat)
  | adopt (core wave : Nat)
  | waitableReady (ctx rec : Nat)
  | adoptionEnd (core wave : Nat)
  | slotTakeTask (core wave : Nat)
  | segmentLink (ctx queue seg : Nat)
  | stallDetect (group : Nat)
  -- Steps of KILN
  | doorbell (fn : Nat) (value : W32)
  | hostQueueRecordRead (ctx queue : Nat)
  | launchAccept (index : Nat)
  | launchComplete (launch : Nat)
  | gangPlace (arena reserve : List Nat)
  | timeSliceExpiry (gang : Nat)
  | gangPreempt (gang : Nat)
  | gangSave (gang : Nat)
  | gangRestore (gang : Nat)
  | spanReserve (span : SpanMsg) (arena reserve : List Nat)
  | spanCommit (span : SpanMsg) (prio : Nat) (remotes : List (Nat × Nat))
  | spanPriorityUpdate (span : SpanMsg) (prio : Nat)
  | memberDepart (span : SpanMsg) (member : Nat)
  | inboxWake (session : Nat)
  | packetRead (session block : Nat)
  | sessionKeyInstall (session : Nat) (key : BitVec 256)
  -- Memory, fabric and error events
  | extentAdd (tenant : Nat) (base : ExtentAt) (size : Nat)
  | extentRelease (tenant : Nat) (base : ExtentAt)
  | extentReleaseAnswer (tenant : Nat) (base : ExtentAt)
  | bisnp (kind : WinKind) (dest addr : Nat)
  | inboundRequest (r : InReq)
  | cxlViralIndication (port : Nat)
  | fencedResponse (core wave op : Nat) (fenced : Fenced)
  | linkReplay (link : Nat) (again : Bool)
  | linkRetrain (link : Nat) (ok : Bool)
  | routeLost (kind : WinKind) (dest : Nat) (other performed : Bool)
  | selfTestPass (f : Func)
  | functionReset (fn : Nat)
  | correctableError (stack row : Nat)
  | uncorrectableError (loc : PoisonLoc)
  | clinkerClear
  | scanRun (handle core : Nat)
  | scanComplete (handle : Nat) (pass : Bool)
  | clockAdjust (mhz : Nat)
  -- Mailbox commands (R364)
  | createContext (fn : Nat) (seq : Byte)
  | destroyContext (fn : Nat) (seq : Byte)
  | registerHostQueue (fn : Nat) (seq : Byte)
  | unregisterHostQueue (fn : Nat) (seq : Byte)
  | registerKernel (fn : Nat) (seq : Byte)
  | writeFabricWindow (fn : Nat) (seq : Byte)
  | writeFormatRegion (fn : Nat) (seq : Byte)
  | declareDeadOrLive (fn : Nat) (seq : Byte)
  | writeTenantPolicy (fn : Nat) (seq : Byte)
  | attachOrDetachDebugger (fn : Nat) (seq : Byte)
  | readDbgctl (fn : Nat) (seq : Byte)
  | writeDbgctl (fn : Nat) (seq : Byte)
  | stageFirmware (fn : Nat) (seq : Byte)
  | activateFirmware (fn : Nat) (seq : Byte)
  | safePoint
  | cone (version : W64)
  | coneDeadlineExpiry
  | openSession (fn : Nat) (seq : Byte)
  | closeSession (fn : Nat) (seq : Byte)
  | assignOrRemoveLocalRange (fn : Nat) (seq : Byte)
  | setDeviceNumber (fn : Nat) (seq : Byte)
  | enrolOrRemoveKernelKey (fn : Nat) (seq : Byte)
  | mailboxReservedCommand (fn : Nat) (code seq : Byte)
  | registerWrite (fn offset : Nat) (value : W32)
  | unassignedEncoding (major : BitVec 7) (sub : Option Byte)
  | functionEnable (fn : Nat)
  | expanderLost (port : Nat)
  | dirtySectorWriteback (cluster sector : Nat)
  deriving DecidableEq, Repr

end Sys2Proof
end

