-- ==== Sys2Proof/WellFormed.lean ====
section
/-! DEFINITION. When an instruction has an encoding: its operands fit the shapes of its entry (R195 to R197, R396)
and its modifiers are ones the entry takes (R397). An event has no word and is always well formed. -/

namespace Sys2Proof

/-- What an instruction's entry says of an operand field (R195, R196). -/
inductive Shape
  /-- not read or written: holds 120 (R197) -/
  | un
  /-- a 32-bit source, a 32-bit source that takes no literal word, a 32-bit destination -/
  | r32 | r32d | w32
  /-- a pair as source, as destination -/
  | r64 | w64
  /-- a 128-bit operand, source or destination -/
  | q
  /-- a register group of n as source, as destination (R237) -/
  | rg (n : Nat) | wg (n : Nat)
  deriving DecidableEq, Repr

/-- Whether an operand fits the shape (R195, R196, R237, R396). The d field of `cp.tile`, `cp.mcast` and `cp.gather` is a 32-bit
source (R303), but R198 gives the literals of a, b and c only: code 124 is refused there with code 0x04, DETAIL 0. DESIGN CHOICE
(log 150). -/
def Shape.ok : Shape → Opd → Bool
  | .un, o => o == .zero
  | .r32, .lit2 _ => false
  | .r32, _ => true
  | .r32d, .lit2 _ => false
  | .r32d, .lit _ => false
  | .r32d, _ => true
  | .w32, .v _ => true
  | .w32, .s _ => true
  | .w32, o => o == .zero
  | .r64, .v n => n.val % 2 == 0
  | .r64, .s n => n.val % 2 == 0
  | .r64, _ => true
  | .w64, .v n => n.val % 2 == 0
  | .w64, .s n => n.val % 2 == 0
  | .w64, o => o == .zero
  | .q, .v n => n.val % 4 == 0
  | .q, .s n => n.val % 4 == 0
  | .q, o => o == .zero
  | .rg n, .v k => k.val % n == 0 && decide (k.val + n ≤ 88)
  | .rg _, _ => false
  | .wg n, .v k => k.val % n == 0 && decide (k.val + n ≤ 88)
  | .wg _, _ => false

/-- Bits of a register operand of the type: 32, 64 or 128 (R200, R258). -/
def Ty.regBits : Ty → Nat
  | .s64 | .n64 | .b64 => 64
  | .b128 => 128
  | _ => 32

/-- The source shape of an operand of the type. -/
def Ty.src (t : Ty) : Shape := if t.regBits = 128 then .q else if t.regBits = 64 then .r64 else .r32

/-- The destination shape of an operand of the type. -/
def Ty.dst (t : Ty) : Shape := if t.regBits = 128 then .q else if t.regBits = 64 then .w64 else .w32

/-- Types of a load or store (R258). -/
def Ty.isMem : Ty → Bool
  | .s8 | .n8 | .s16 | .n16 | .f16 | .bf16 | .s32 | .n32 | .f32 | .b32 | .s64 | .n64 | .b64 | .b128 => true
  | _ => false

/-- Element types of `cvt` (R235). -/
def Ty.isElem : Ty → Bool
  | .s8 | .s16 | .s32 | .s64 | .n8 | .n16 | .n32 | .n64 | .f32 | .f16 | .bf16 | .e4m3 | .e5m2 | .e2m1 | .e3m5 => true
  | _ => false

/-- Elements of a packed type, 0 for every other type (R159). -/
def Ty.packN : Ty → Nat
  | .f16x2 | .bf16x2 => 2
  | .e4m3x4 | .e5m2x4 => 4
  | .e2m1x8 => 8
  | _ => 0

/-- The type pairs that `cvt` accepts (R235). -/
def cvtPairOk (d s : Ty) : Bool :=
  (d.isElem && s.isElem) || (d.packN != 0 && s == .f32) || (d == .f32 && s.packN != 0)

/-- Types of the packed and f32 arithmetic of FPX (R230). -/
def Ty.isFpx : Ty → Bool
  | .f32 | .f16x2 | .bf16x2 => true
  | _ => false

/-- The types an `rmw` or `fold` operation takes (R268). -/
def rmwTyOk : RmwOp → Ty → Bool
  | .add, t | .min, t | .max, t => t == .s32 || t == .n32 || t == .s64 || t == .n64 || t == .f32
  | _, t => t == .b32 || t == .b64

/-- The types a lane operation takes (R241). -/
def laneTyOk : LaneOp → Ty → Bool
  | .add, t | .min, t | .max, t => t == .s32 || t == .n32 || t == .f32
  | _, t => t == .b32

/-- Orders of a load: `.rlx`, `.acq`, `.ar` (R261). -/
def Order.isLd : Order → Bool
  | .rel => false
  | _ => true

/-- Orders of a store: `.rlx`, `.rel`, `.ar` (R261). -/
def Order.isSt : Order → Bool
  | .acq => false
  | _ => true

/-- The d and a shapes of `cvt` (R235, R237). -/
def cvtShapes (dty sty : Ty) : Shape × Shape :=
  if dty.packN != 0 && sty == .f32 then (.w32, .rg dty.packN)
  else if dty == .f32 && sty.packN != 0 then (.wg sty.packN, .r32)
  else (dty.dst, sty.src)

/-- The special registers of 64 bits (R309). -/
def sregIs64 (c : Nat) : Bool := c == 0x13 || c == 0x18 || c == 0x19 || c == 0x20 || c == 0x22

/-- The destination types of `cvt.had` (R240). -/
def Ty.isHad : Ty → Bool
  | .f32 | .f16 | .bf16 | .e4m3 | .e5m2 => true
  | _ => false

/-- A three-operand form: d destination, a and b sources of 32 bits. -/
def wf3 (d a b : Opd) : Bool := Shape.w32.ok d && Shape.r32.ok a && Shape.r32.ok b

/-- A two-operand form. -/
def wf2 (d a : Opd) : Bool := Shape.w32.ok d && Shape.r32.ok a

/-- Operand shapes of a copy other than d (R303). -/
def wfCp (a b c : Opd) : Bool := Shape.r64.ok a && Shape.q.ok b && Shape.r32.ok c

/-- `ld`-like operands: d by type, a of the given shape, b 32-bit. -/
def wfLd (sa : Shape) (d a b : Opd) (m : MemMods) : Bool :=
  m.ty.dst.ok d && sa.ok a && Shape.r32.ok b && m.ty.isMem && m.order.isLd

/-- `st`-like operands. -/
def wfSt (sa : Shape) (a b c : Opd) (m : MemMods) : Bool :=
  sa.ok a && Shape.r32.ok b && m.ty.src.ok c && m.ty.isMem && m.order.isSt

/-- An RMW instruction's modifiers that are not of its operation (R267). -/
def wfRmw (a : Opd) (m : RmwMods) : Bool :=
  (if m.spad then Shape.r32 else Shape.r64).ok a && !(m.far && m.spad)

/-- Whether the instruction has an encoding that decodes to it. -/
def Instr.wf : Instr → Bool
  | .nop _ => true
  | .iadd _ d a b | .isub _ d a b | .imul _ d a b | .imulhS _ d a b | .imulhN _ d a b | .iminS _ d a b
  | .iminN _ d a b | .imaxS _ d a b | .imaxN _ d a b | .and _ d a b | .or _ d a b | .xor _ d a b | .andn _ d a b
  | .shl _ d a b | .shr _ d a b | .sar _ d a b | .rotl _ d a b | .sel _ d a b
  | .fadd _ d a b | .fsub _ d a b | .fmul _ d a b | .fmin _ d a b | .fmax _ d a b
  | .faddBf16x2 _ d a b | .fmulBf16x2 _ d a b | .fminBf16x2 _ d a b | .fmaxBf16x2 _ d a b
  | .faddF16x2 _ d a b | .fmulF16x2 _ d a b | .fminF16x2 _ d a b | .fmaxF16x2 _ d a b => wf3 d a b
  | .popc _ d a | .clz _ d a | .brev _ d a | .iabs _ d a | .mov _ d a => wf2 d a
  | .iaddQ _ d a b | .isubQ _ d a b => Shape.w64.ok d && Shape.r64.ok a && Shape.r64.ok b
  | .shlQ _ d a b | .shrQ _ d a b | .sarQ _ d a b | .lea _ d a b =>
    Shape.w64.ok d && Shape.r64.ok a && Shape.r32.ok b
  | .movQ _ d a => Shape.w64.ok d && Shape.r64.ok a
  | .br _ _ | .call _ _ => true
  | .icmp _ a b ty c _ =>
    (ty == .s32 || ty == .n32 || ty == .s64 || ty == .n64) && ty.src.ok a && ty.src.ok b && c != .uo && c != .ord
  | .imad _ d a b c | .bfi _ d a b c | .fshl _ d a b c | .fshr _ d a b c => wf3 d a b && Shape.r32.ok c
  | .imulQ _ d a b => Shape.w64.ok d && Shape.r64.ok a && Shape.r64.ok b
  | .iaddSat _ d a b ty | .isubSat _ d a b ty | .bfe _ d a b ty => wf3 d a b && (ty == .s32 || ty == .n32)
  | .pbool _ _ _ _ _ => true
  | .pget _ d => Shape.w32.ok d
  | .pset _ a => Shape.r32.ok a
  | .ffma _ d a b c ty _ => wf3 d a b && Shape.r32.ok c && ty.isFpx
  | .faddFpx _ d a b ty _ | .fsubFpx _ d a b ty _ | .fmulFpx _ d a b ty _ => wf3 d a b && ty.isFpx
  | .fabs _ d a ty | .fneg _ d a ty => wf2 d a && ty.isFpx
  | .frcp _ d a _ | .fsqrt _ d a _ | .frsqrt _ d a _ | .fexp2 _ d a _ | .flog2 _ d a _ | .frnd _ d a _ => wf2 d a
  | .fcmp _ a b _ _ => Shape.r32.ok a && Shape.r32.ok b
  | .cvt _ d a dty sty _ _ => cvtPairOk dty sty && (cvtShapes dty sty).1.ok d && (cvtShapes dty sty).2.ok a
  | .qblk _ d a b => Shape.w64.ok d && (Shape.rg 8).ok a && Shape.r32.ok b
  | .dqblk _ d a b => (Shape.wg 8).ok d && Shape.r64.ok a && Shape.r32.ok b
  | .cvtHad _ d a b c dty _ _ _ _ => wf3 d a b && Shape.r64.ok c && dty.isHad
  | .lany _ _ _ | .lall _ _ _ => true
  | .lmask _ d _ => Shape.w32.ok d
  | .lpickIdx _ d a b ty _ | .lpickUp _ d a b ty _ | .lpickDown _ d a b ty _ | .lpickXor _ d a b ty _ =>
    (ty == .b32 || ty == .b64) && ty.dst.ok d && ty.src.ok a && Shape.r32.ok b
  | .lred _ d a op ty _ | .lscan _ d a op ty _ _ => wf2 d a && laneTyOk op ty
  | .regang _ | .wide _ | .endwide _ | .exit _ | .trapret _ | .ifence _ | .brk _ => true
  | .wbase _ a _ | .trap _ a => Shape.r32.ok a
  | .icinv _ a b _ => Shape.r64.ok a && Shape.r32.ok b
  | .jmpi _ a | .ret _ a => Shape.r64.ok a
  | .calli _ d a => Shape.w64.ok d && Shape.r64.ok a
  | .yieldto _ a b c => Shape.r32.ok a && Shape.r32.ok b && Shape.r64.ok c
  | .ld _ d a b m => wfLd .r64 d a b m
  | .st _ a b c m => wfSt .r64 a b c m
  | .lds _ d a b m => wfLd .r32 d a b m && m.hint == .none
  | .sts _ a b c m => wfSt .r32 a b c m && m.hint == .none
  | .ldc _ d a b ty _ => ty.isMem && ty != .b128 && ty.dst.ok d && Shape.r64.ok a && Shape.r32.ok b
  | .gather _ d a b m => wfLd .r64 d a b m && m.ty != .b128
  | .prefetch _ a b _ => Shape.r64.ok a && Shape.r32.ok b
  | .rmw _ d a b c m => wfRmw a m && rmwTyOk m.op m.ty && m.ty.dst.ok d && Shape.r32.ok b && m.ty.src.ok c
  | .fold _ a b c m => wfRmw a m && rmwTyOk m.op m.ty && Shape.r32.ok b && m.ty.src.ok c
      && (m.order == .rlx || m.order == .rel)
  | .rmwCas _ d a b c m => wfRmw a m && m.op == .add && (m.ty == .b32 || m.ty == .b64 || m.ty == .b128)
      && m.ty.dst.ok d && m.ty.src.ok b && m.ty.src.ok c
  | .fence _ o _ => o != .rlx
  | .gatePass _ a bar | .gateWait _ a bar => if bar.val = 0 then Shape.un.ok a else Shape.r32.ok a
  | .bobjOpen _ a b | .bobjDue _ a b _ | .bobjHold _ a b => Shape.r32.ok a && Shape.r32.ok b
  | .bobjMark _ a => Shape.r32.ok a
  | .emberArm _ a b _ => Shape.r64.ok a && Shape.r32.ok b
  | .emberWait _ d a => wf2 d a
  | .emberDisarm _ _ => true
  | .spawn _ a b _ | .futSet _ a b => Shape.r64.ok a && Shape.r64.ok b
  | .launch _ a _ | .await _ a _ | .lockTake _ a _ | .lockGive _ a | .park _ a => Shape.r64.ok a
  | .qpush _ d a b f o _ _ => Shape.w64.ok d && Shape.r64.ok a && (if f = .rsv then Shape.un.ok b else Shape.r64.ok b)
      && (o == .rlx || o == .rel)
  | .qpop _ d a b o _ _ => Shape.w64.ok d && Shape.r64.ok a && Shape.r64.ok b && (o == .rlx || o == .acq)
  | .ldw _ d a b m => wfLd .r32 d a b m && m.hint == .none
  | .stw _ a b c m => wfSt .r32 a b c m && m.hint == .none
  | .spanArrive _ | .spanSync _ | .spanDetach _ => true
  | .spanPeer _ d a => wf2 d a
  | .crewSet _ a b => Shape.r32.ok a && Shape.r32.ok b
  | .tokTake _ => true
  | .tokGive _ a pass => if pass then Shape.r32.ok a else Shape.un.ok a
  | .mma _ a _ | .mmas _ a _ | .wbload _ a _ => Shape.r32.ok a
  | .accz _ m => m.aty == .f32 && m.rnd == .rne && !m.sat
  | .accld _ a b m => Shape.r32.ok a && Shape.r32.ok b && m.rnd == .rne && !m.sat
  | .accst _ a b _ => Shape.r32.ok a && Shape.r32.ok b
  | .cpTile _ d a b c _ | .cpMcast _ d a b c _ _ | .cpGather _ d a b c _ => Shape.r32d.ok d && wfCp a b c
  | .cpOut _ d a b c _ => Shape.q.ok d && wfCp a b c
  | .sget _ d r => (if sregIs64 r.toNat then Shape.w64 else Shape.w32).ok d
  | .sset _ a r => (if sregIs64 r.toNat then Shape.r64 else Shape.r32).ok a
  | .cctl _ a b op _ =>
    if op == .cinv then Shape.un.ok a && Shape.un.ok b else Shape.r64.ok a && Shape.r32.ok b
  | .tlbinv _ a b _ => Shape.r64.ok a && Shape.r32.ok b
  | .probe _ d a _ => Shape.w32.ok d && Shape.r64.ok a
  | .scanStart _ d a _ | .scanPoll _ d a _ => wf2 d a
  | .halt _ => true
  | .emberTimeout _ _ _ | .matrixEntry _ _ _ | .matrixOpFinish _ | .copyDelivery _ _ _ | .clauseStart
  | .longOpComplete _ _ _ _ | .waveExit _ _ | .trapEntry _ _ | .adopt _ _ | .waitableReady _ _ | .adoptionEnd _ _
  | .slotTakeTask _ _ | .segmentLink _ _ _ | .stallDetect _ | .doorbell _ _ | .hostQueueRecordRead _ _
  | .launchAccept _ | .launchComplete _ | .gangPlace _ _ | .timeSliceExpiry _ | .gangPreempt _ | .gangSave _
  | .gangRestore _ | .spanReserve _ _ _ | .spanCommit _ _ _ | .spanPriorityUpdate _ _ | .memberDepart _ _
  | .inboxWake _ | .packetRead _ _ | .sessionKeyInstall _ _ | .extentAdd _ _ _ | .extentRelease _ _
  | .extentReleaseAnswer _ _ | .bisnp _ _ _ | .inboundRequest _ | .cxlViralIndication _ | .fencedResponse _ _ _ _
  | .linkReplay _ _ | .linkRetrain _ _ | .routeLost _ _ _ _ | .selfTestPass _ | .functionReset _ | .correctableError _ _
  | .uncorrectableError _ | .clinkerClear | .scanRun _ _ | .scanComplete _ _ | .clockAdjust _ | .createContext _ _
  | .destroyContext _ _ | .registerHostQueue _ _ | .unregisterHostQueue _ _ | .registerKernel _ _
  | .writeFabricWindow _ _ | .writeFormatRegion _ _ | .declareDeadOrLive _ _ | .writeTenantPolicy _ _
  | .attachOrDetachDebugger _ _ | .readDbgctl _ _ | .writeDbgctl _ _ | .stageFirmware _ _ | .activateFirmware _ _
  | .safePoint | .cone _ | .coneDeadlineExpiry | .openSession _ _ | .closeSession _ _ | .assignOrRemoveLocalRange _ _
  | .setDeviceNumber _ _ | .enrolOrRemoveKernelKey _ _ | .mailboxReservedCommand _ _ _ | .registerWrite _ _ _
  | .unassignedEncoding _ _ | .functionEnable _ | .expanderLost _ | .dirtySectorWriteback _ _ => true

/-- Whether the row is an event of the device, which has no instruction word. -/
def Instr.isEvent : Instr → Bool
  | .emberTimeout _ _ _ | .matrixEntry _ _ _ | .matrixOpFinish _ | .copyDelivery _ _ _ | .clauseStart
  | .longOpComplete _ _ _ _ | .waveExit _ _ | .trapEntry _ _ | .adopt _ _ | .waitableReady _ _ | .adoptionEnd _ _
  | .slotTakeTask _ _ | .segmentLink _ _ _ | .stallDetect _ | .doorbell _ _ | .hostQueueRecordRead _ _
  | .launchAccept _ | .launchComplete _ | .gangPlace _ _ | .timeSliceExpiry _ | .gangPreempt _ | .gangSave _
  | .gangRestore _ | .spanReserve _ _ _ | .spanCommit _ _ _ | .spanPriorityUpdate _ _ | .memberDepart _ _
  | .inboxWake _ | .packetRead _ _ | .sessionKeyInstall _ _ | .extentAdd _ _ _ | .extentRelease _ _
  | .extentReleaseAnswer _ _ | .bisnp _ _ _ | .inboundRequest _ | .cxlViralIndication _ | .fencedResponse _ _ _ _
  | .linkReplay _ _ | .linkRetrain _ _ | .routeLost _ _ _ _ | .selfTestPass _ | .functionReset _ | .correctableError _ _
  | .uncorrectableError _ | .clinkerClear | .scanRun _ _ | .scanComplete _ _ | .clockAdjust _ | .createContext _ _
  | .destroyContext _ _ | .registerHostQueue _ _ | .unregisterHostQueue _ _ | .registerKernel _ _
  | .writeFabricWindow _ _ | .writeFormatRegion _ _ | .declareDeadOrLive _ _ | .writeTenantPolicy _ _
  | .attachOrDetachDebugger _ _ | .readDbgctl _ _ | .writeDbgctl _ _ | .stageFirmware _ _ | .activateFirmware _ _
  | .safePoint | .cone _ | .coneDeadlineExpiry | .openSession _ _ | .closeSession _ _ | .assignOrRemoveLocalRange _ _
  | .setDeviceNumber _ _ | .enrolOrRemoveKernelKey _ _ | .mailboxReservedCommand _ _ _ | .registerWrite _ _ _
  | .unassignedEncoding _ _ | .functionEnable _ | .expanderLost _ | .dirtySectorWriteback _ _ => true
  | _ => false

end Sys2Proof
end

