-- ==== Sys2Proof/Decode.lean ====
section
/-! DEFINITION. The decoder: from instruction words to an instruction or a named reject (R187 to R203, R391 to R399),
and the encoder, written from the same tables. -/

namespace Sys2Proof

/-! ## Fields and their codes -/

/-- The n-bit field of w whose lowest bit is lo. -/
def bits (w lo n : Nat) : Nat := w / 2 ^ lo % 2 ^ n

/-- One bit of w. -/
def bit (w i : Nat) : Bool := bits w i 1 == 1

/-- A flag as the bit i of a modifier field. -/
def fl (b : Bool) (i : Nat) : Nat := if b then 2 ^ i else 0

/-- The guard of a 4-bit code (R194). -/
def Guard.ofCode (n : Nat) : Guard := ⟨bit n 3, Fin.ofNat 8 n⟩

/-- The 4-bit code of a guard (R194). -/
def Guard.code (g : Guard) : Nat := fl g.neg 3 + g.p.val

/-- The type of a code below 24 (R200). A reserved code stands for no type; its operands are judged as of 32 bits, as R308
has it for an unknown register code (log 38). -/
def Ty.ofCode : Nat → Ty
  | 0 => .s8 | 1 => .s16 | 2 => .s32 | 3 => .s64 | 4 => .n8 | 5 => .n16 | 6 => .n32 | 7 => .n64
  | 8 => .f32 | 9 => .f16 | 10 => .bf16 | 11 => .e4m3 | 12 => .e5m2 | 13 => .e2m1 | 14 => .e2m1b | 15 => .e3m5
  | 16 => .f16x2 | 17 => .bf16x2 | 18 => .e4m3x4 | 19 => .e5m2x4 | 20 => .e2m1x8 | 21 => .b32 | 22 => .b64
  | 23 => .b128 | _ => .s8

/-- The code of a type (R200). -/
def Ty.code : Ty → Nat
  | .s8 => 0 | .s16 => 1 | .s32 => 2 | .s64 => 3 | .n8 => 4 | .n16 => 5 | .n32 => 6 | .n64 => 7
  | .f32 => 8 | .f16 => 9 | .bf16 => 10 | .e4m3 => 11 | .e5m2 => 12 | .e2m1 => 13 | .e2m1b => 14 | .e3m5 => 15
  | .f16x2 => 16 | .bf16x2 => 17 | .e4m3x4 => 18 | .e5m2x4 => 19 | .e2m1x8 => 20 | .b32 => 21 | .b64 => 22
  | .b128 => 23

def Rnd.ofCode : Nat → Rnd
  | 0 => .rne | 1 => .rtz | 2 => .rdn | 3 => .rup | _ => .rna

/-- Rounding codes (R199). -/
def Rnd.code : Rnd → Nat
  | .rne => 0 | .rtz => 1 | .rdn => 2 | .rup => 3 | .rna => 4

def Order.ofCode : Nat → Order
  | 0 => .rlx | 1 => .acq | 2 => .rel | _ => .ar

/-- Order codes (R199). -/
def Order.code : Order → Nat
  | .rlx => 0 | .acq => 1 | .rel => 2 | .ar => 3

def Scope.ofCode : Nat → Scope
  | 0 => .wave | 1 => .core | 2 => .clus | 3 => .dev | 4 => .ten | _ => .sys

/-- Scope codes (R199). -/
def Scope.code : Scope → Nat
  | .wave => 0 | .core => 1 | .clus => 2 | .dev => 3 | .ten => 4 | .sys => 5

def Cond.ofCode : Nat → Cond
  | 0 => .eq | 1 => .ne | 2 => .lt | 3 => .le | 4 => .gt | 5 => .ge | 6 => .uo | _ => .ord

/-- Condition codes (R224, R230). -/
def Cond.code : Cond → Nat
  | .eq => 0 | .ne => 1 | .lt => 2 | .le => 3 | .gt => 4 | .ge => 5 | .uo => 6 | .ord => 7

def LaneOp.ofCode : Nat → LaneOp
  | 0 => .add | 1 => .min | 2 => .max | 3 => .and | 4 => .or | _ => .xor

/-- Lane operation codes (R241). -/
def LaneOp.code : LaneOp → Nat
  | .add => 0 | .min => 1 | .max => 2 | .and => 3 | .or => 4 | .xor => 5

def RmwOp.ofCode : Nat → RmwOp
  | 0 => .add | 1 => .min | 2 => .max | 3 => .and | 4 => .or | 5 => .xor | _ => .exch

/-- RMW operation codes (R268). -/
def RmwOp.code : RmwOp → Nat
  | .add => 0 | .min => 1 | .max => 2 | .and => 3 | .or => 4 | .xor => 5 | .exch => 6

def Seg.ofCode : Nat → Seg
  | 1 => .w2 | 2 => .w4 | 3 => .w8 | 4 => .w16 | _ => .w32

/-- Segment codes (R241). -/
def Seg.code : Seg → Nat
  | .w2 => 1 | .w4 => 2 | .w8 => 3 | .w16 => 4 | .w32 => 5

def Hint.ofCode : Nat → Hint
  | 0 => .none | 1 => .evf | _ => .nl1

/-- Hint codes (R261). -/
def Hint.code : Hint → Nat
  | .none => 0 | .evf => 1 | .nl1 => 2

def QForm.ofCode : Nat → QForm
  | 0 => .full | 1 => .rsv | _ => .prod

/-- Forms of `qpush` (R279). -/
def QForm.code : QForm → Nat
  | .full => 0 | .rsv => 1 | .prod => 2

def MFmt.ofCode : Nat → MFmt
  | 0 => .e2m1b | 1 => .e4m3 | 2 => .e5m2 | 3 => .f16 | _ => .bf16

/-- Matrix format codes (R294). -/
def MFmt.code : MFmt → Nat
  | .e2m1b => 0 | .e4m3 => 1 | .e5m2 => 2 | .f16 => 3 | .bf16 => 4

def AccTy.ofCode : Nat → AccTy
  | 0 => .f32 | 1 => .f16 | 2 => .bf16 | 3 => .e4m3 | _ => .e5m2

/-- ATYPE codes (R294). -/
def AccTy.code : AccTy → Nat
  | .f32 => 0 | .f16 => 1 | .bf16 => 2 | .e4m3 => 3 | .e5m2 => 4

def Cols.ofCode : Nat → Cols
  | 0 => .all | 1 => .lo | _ => .hi

/-- COLS codes (R294). -/
def Cols.code : Cols → Nat
  | .all => 0 | .lo => 1 | .hi => 2

def BForm.ofCode : Nat → BForm
  | 0 => .dense | 1 => .s16 | _ => .s8

/-- FORM codes of `wbload` (R294). -/
def BForm.code : BForm → Nat
  | .dense => 0 | .s16 => 1 | .s8 => 2

def CctlOp.ofCode : Nat → CctlOp
  | 0 => .cinv | 1 => .wb | _ => .inv

/-- OP codes of `cctl` (R307). -/
def CctlOp.code : CctlOp → Nat
  | .cinv => 0 | .wb => 1 | .inv => 2

/-! ## Modifier records (R193, R199 and the groups' tables) -/

def tyAt (m lo : Nat) : Ty := Ty.ofCode (bits m lo 5)
def rndAt (m lo : Nat) : Rnd := Rnd.ofCode (bits m lo 3)
def ordAt (m : Nat) : Order := Order.ofCode (bits m 5 2)
def scopeAt (m lo : Nat) : Scope := Scope.ofCode (bits m lo 3)
def segAt (m : Nat) : Seg := Seg.ofCode (bits m 4 3)
def pAt (m lo : Nat) : Fin 8 := Fin.ofNat 8 (bits m lo 3)

def FlagSel.ofMods (m : Nat) : FlagSel := ⟨bit m 16, bit m 15⟩
def FlagSel.mods (f : FlagSel) : Nat := fl f.b 16 + fl f.nf 15

def MemMods.ofMods (m : Nat) : MemMods :=
  ⟨.ofMods m, tyAt m 10, Hint.ofCode (bits m 7 2), ordAt m, scopeAt m 2⟩
def MemMods.mods (m : MemMods) : Nat :=
  m.fs.mods + m.ty.code * 2 ^ 10 + m.hint.code * 2 ^ 7 + m.order.code * 2 ^ 5 + m.scope.code * 2 ^ 2

def RmwMods.ofMods (m : Nat) : RmwMods :=
  ⟨.ofMods m, tyAt m 10, RmwOp.ofCode (bits m 7 3), ordAt m, scopeAt m 2, bit m 1, bit m 0⟩
def RmwMods.mods (m : RmwMods) : Nat :=
  m.fs.mods + m.ty.code * 2 ^ 10 + m.op.code * 2 ^ 7 + m.order.code * 2 ^ 5 + m.scope.code * 2 ^ 2
    + fl m.far 1 + fl m.spad 0

def MmaMods.ofMods (m : Nat) : MmaMods :=
  ⟨.ofMods m, Fin.ofNat 64 (bits m 9 6), Fin.ofNat 8 (bits m 6 3), MFmt.ofCode (bits m 3 3), bit m 2, bit m 1,
    bit m 0⟩
def MmaMods.mods (m : MmaMods) : Nat :=
  m.fs.mods + m.tile.val * 2 ^ 9 + m.slot.val * 2 ^ 6 + m.afmt.code * 2 ^ 3 + fl m.rota 2 + fl m.rotb 1
    + fl m.half 0

def WbMods.ofMods (m : Nat) : WbMods :=
  ⟨.ofMods m, bit m 14, bit m 13, scopeAt m 10, bit m 9, Fin.ofNat 8 (bits m 6 3), MFmt.ofCode (bits m 3 3),
    bit m 2, BForm.ofCode (bits m 0 2)⟩
def WbMods.mods (m : WbMods) : Nat :=
  m.fs.mods + fl m.acq 14 + fl m.rel 13 + m.fscope.code * 2 ^ 10 + fl m.k192 9 + m.slot.val * 2 ^ 6
    + m.bfmt.code * 2 ^ 3 + fl m.n128 2 + m.form.code

def AccMods.ofMods (m : Nat) : AccMods :=
  ⟨.ofMods m, Fin.ofNat 64 (bits m 9 6), AccTy.ofCode (bits m 6 3), rndAt m 3, bit m 2, Cols.ofCode (bits m 0 2)⟩
def AccMods.mods (m : AccMods) : Nat :=
  m.fs.mods + m.tile.val * 2 ^ 9 + m.aty.code * 2 ^ 6 + m.rnd.code * 2 ^ 3 + fl m.sat 2 + m.cols.code

def CpMods.ofMods (m : Nat) : CpMods :=
  ⟨.ofMods m, bit m 14, bit m 13, bit m 12, scopeAt m 9⟩
def CpMods.mods (m : CpMods) : Nat :=
  m.fs.mods + fl m.one 14 + fl m.acq 13 + fl m.rel 12 + m.fscope.code * 2 ^ 9

/-! ## Operand fields and literal words (R195 to R198) -/

/-- The 7-bit code of an operand (R195). -/
def Opd.code : Opd → Nat
  | .v n => n.val
  | .s n => 88 + n.val
  | .zero => 120
  | .laneix => 121
  | .sliceix => 122
  | .waveix => 123
  | .lit _ => 124
  | .lit2 _ => 125

/-- The literal words an operand calls for (R196, R198). -/
def Opd.words : Opd → List W32
  | .lit w => [w]
  | .lit2 w => [w.extractLsb' 0 32, w.extractLsb' 32 32]
  | _ => []

/-- How many literal words a code calls for (R198). -/
def litCount (code : Nat) : Nat := if code = 124 then 1 else if code = 125 then 2 else 0

/-- The operand of a code with its literal words; none for the codes 126 and 127, which no field takes. -/
def opdOf (code : Nat) (ls : List W32) : Option Opd :=
  if h : code < 88 then some (.v ⟨code, h⟩)
  else if h : code < 120 then some (.s ⟨code - 88, by omega⟩)
  else if code = 120 then some .zero
  else if code = 121 then some .laneix
  else if code = 122 then some .sliceix
  else if code = 123 then some .waveix
  else match ls with
    | [w] => if code = 124 then some (.lit w) else none
    | [lo, hi] => if code = 125 then some (.lit2 (hi ++ lo)) else none
    | _ => none

/-- Whether a field's operand is there and has the shape its entry gives (R396). -/
def fieldOk (sh : Shape) (o : Option Opd) : Bool := match o with | some o => sh.ok o | none => false

/-! ## Rejects (R391) -/

/-- Why an encoding is refused at decode. -/
inductive Reject
  /-- a reserved major opcode (R394) -/
  | major (op : Nat)
  /-- a reserved sub-opcode (R395) -/
  | sub (op sub : Nat)
  /-- a literal word past the clause end, a transfer not last, an instruction word past the clause end (R399) -/
  | literalPastEnd | transferNotLast | wordPastEnd
  /-- a reserved or misplaced operand code in field 0 d, 1 a, 2 b, 3 c (R396) -/
  | operand (field : Nat)
  /-- a reserved modifier, by its lowest bit (R397) -/
  | modifier (bit : Nat)
  deriving DecidableEq, Repr

/-- CODE of `%trapcause` for a decode reject (R391). -/
def Reject.causeCode : Reject → Nat
  | .major _ => 1
  | .sub _ _ => 2
  | .literalPastEnd | .transferNotLast | .wordPastEnd => 3
  | .operand _ => 4
  | .modifier _ => 5

/-- DETAIL of `%trapinfo` for a decode reject (R391). -/
def Reject.detail : Reject → Nat
  | .major _ => 0
  | .sub op _ => op
  | .literalPastEnd => 2
  | .transferNotLast => 3
  | .wordPastEnd => 4
  | .operand f => f
  | .modifier b => b

/-! ## The rows of the encoding tables -/

/-- One row: the shapes of d, a, b, c; each modifier field's lowest bit with whether its value is taken; whether
it is a transfer of R189; the instruction it stands for. -/
structure Row where
  d : Shape
  a : Shape
  b : Shape
  c : Shape
  fields : List (Nat × Bool)
  last : Bool
  make : Guard → Opd → Opd → Opd → Opd → Instr

def fld (m lo n : Nat) (p : Nat → Bool) : Nat × Bool := (lo, p (bits m lo n))
/-- A field that holds 0. -/
def res (m lo n : Nat) : Nat × Bool := fld m lo n (· == 0)
def fTy (m lo : Nat) (p : Ty → Bool) : Nat × Bool := fld m lo 5 (fun t => decide (t < 24) && p (Ty.ofCode t))
def fRnd (m lo : Nat) : Nat × Bool := fld m lo 3 (· ≤ 4)
def fOrd (m : Nat) (p : Order → Bool) : Nat × Bool := fld m 5 2 (fun o => p (Order.ofCode o))
def fScope (m lo : Nat) : Nat × Bool := fld m lo 3 (· ≤ 5)

def fSeg (m : Nat) : Nat × Bool := fld m 4 3 (fun s => decide (1 ≤ s) && decide (s ≤ 5))

/-- The types a row takes. -/
def isTy (t u : Ty) : Bool := u == t
def cmpTy (t : Ty) : Bool := t == .s32 || t == .n32 || t == .s64 || t == .n64
def satTy (t : Ty) : Bool := t == .s32 || t == .n32
def pickTy (t : Ty) : Bool := t == .b32 || t == .b64
def casTy (t : Ty) : Bool := t == .b32 || t == .b64 || t == .b128
def laneTy (t : Ty) : Bool := laneTyOk .add t || laneTyOk .and t
def rmwTy (t : Ty) : Bool := rmwTyOk .add t || rmwTyOk .and t
def mem64Ty (t : Ty) : Bool := t.isMem && t != .b128

/-- The orders of a reduction and of `qpush`; of `qpop` (R267, R279). -/
def Order.isRel (o : Order) : Bool := o == .rlx || o == .rel
def Order.isAcq (o : Order) : Bool := o == .rlx || o == .acq

/-- A combination of fields whose codes are each taken reports the lowest bit among them (R397). -/
def laneCombo (m : Nat) : Nat × Bool :=
  (7, decide (6 ≤ bits m 7 3) || !laneTy (tyAt m 10) || laneTyOk (LaneOp.ofCode (bits m 7 3)) (tyAt m 10))
def rmwCombo (m : Nat) : Nat × Bool :=
  (7, decide (7 ≤ bits m 7 3) || !rmwTy (tyAt m 10) || rmwTyOk (RmwOp.ofCode (bits m 7 3)) (tyAt m 10))
def cvtCombo (m : Nat) : Nat × Bool :=
  (0, decide (24 ≤ bits m 10 5) || decide (24 ≤ bits m 0 5) || cvtPairOk (tyAt m 10) (tyAt m 0))
/-- FAR and SPAD together (R267, R403). -/
def farSpad (m : Nat) : Nat × Bool := (0, !(bit m 1 && bit m 0))

/-- The A-form rows but `nop` (R203). -/
def rowA (op : Nat) : Option Row :=
  match op with
  | 0x01 => some ⟨.w32, .r32, .r32, .un, [], false, fun g d a b _ => .iadd g d a b⟩
  | 0x02 => some ⟨.w32, .r32, .r32, .un, [], false, fun g d a b _ => .isub g d a b⟩
  | 0x03 => some ⟨.w32, .r32, .r32, .un, [], false, fun g d a b _ => .imul g d a b⟩
  | 0x04 => some ⟨.w32, .r32, .r32, .un, [], false, fun g d a b _ => .imulhS g d a b⟩
  | 0x05 => some ⟨.w32, .r32, .r32, .un, [], false, fun g d a b _ => .imulhN g d a b⟩
  | 0x06 => some ⟨.w32, .r32, .r32, .un, [], false, fun g d a b _ => .iminS g d a b⟩
  | 0x07 => some ⟨.w32, .r32, .r32, .un, [], false, fun g d a b _ => .iminN g d a b⟩
  | 0x08 => some ⟨.w32, .r32, .r32, .un, [], false, fun g d a b _ => .imaxS g d a b⟩
  | 0x09 => some ⟨.w32, .r32, .r32, .un, [], false, fun g d a b _ => .imaxN g d a b⟩
  | 0x0A => some ⟨.w32, .r32, .r32, .un, [], false, fun g d a b _ => .and g d a b⟩
  | 0x0B => some ⟨.w32, .r32, .r32, .un, [], false, fun g d a b _ => .or g d a b⟩
  | 0x0C => some ⟨.w32, .r32, .r32, .un, [], false, fun g d a b _ => .xor g d a b⟩
  | 0x0D => some ⟨.w32, .r32, .r32, .un, [], false, fun g d a b _ => .andn g d a b⟩
  | 0x0E => some ⟨.w32, .r32, .r32, .un, [], false, fun g d a b _ => .shl g d a b⟩
  | 0x0F => some ⟨.w32, .r32, .r32, .un, [], false, fun g d a b _ => .shr g d a b⟩
  | 0x10 => some ⟨.w32, .r32, .r32, .un, [], false, fun g d a b _ => .sar g d a b⟩
  | 0x11 => some ⟨.w32, .r32, .r32, .un, [], false, fun g d a b _ => .rotl g d a b⟩
  | 0x12 => some ⟨.w32, .r32, .un, .un, [], false, fun g d a _ _ => .popc g d a⟩
  | 0x13 => some ⟨.w32, .r32, .un, .un, [], false, fun g d a _ _ => .clz g d a⟩
  | 0x14 => some ⟨.w32, .r32, .un, .un, [], false, fun g d a _ _ => .brev g d a⟩
  | 0x15 => some ⟨.w32, .r32, .un, .un, [], false, fun g d a _ _ => .iabs g d a⟩
  | 0x16 => some ⟨.w32, .r32, .un, .un, [], false, fun g d a _ _ => .mov g d a⟩
  | 0x17 => some ⟨.w32, .r32, .r32, .un, [], false, fun g d a b _ => .sel g d a b⟩
  | 0x18 => some ⟨.w64, .r64, .r64, .un, [], false, fun g d a b _ => .iaddQ g d a b⟩
  | 0x19 => some ⟨.w64, .r64, .r64, .un, [], false, fun g d a b _ => .isubQ g d a b⟩
  | 0x1A => some ⟨.w64, .r64, .r32, .un, [], false, fun g d a b _ => .shlQ g d a b⟩
  | 0x1B => some ⟨.w64, .r64, .r32, .un, [], false, fun g d a b _ => .shrQ g d a b⟩
  | 0x1C => some ⟨.w64, .r64, .r32, .un, [], false, fun g d a b _ => .sarQ g d a b⟩
  | 0x1D => some ⟨.w64, .r64, .un, .un, [], false, fun g d a _ _ => .movQ g d a⟩
  | 0x20 => some ⟨.w32, .r32, .r32, .un, [], false, fun g d a b _ => .fadd g d a b⟩
  | 0x21 => some ⟨.w32, .r32, .r32, .un, [], false, fun g d a b _ => .fsub g d a b⟩
  | 0x22 => some ⟨.w32, .r32, .r32, .un, [], false, fun g d a b _ => .fmul g d a b⟩
  | 0x23 => some ⟨.w32, .r32, .r32, .un, [], false, fun g d a b _ => .fmin g d a b⟩
  | 0x24 => some ⟨.w32, .r32, .r32, .un, [], false, fun g d a b _ => .fmax g d a b⟩
  | 0x28 => some ⟨.w32, .r32, .r32, .un, [], false, fun g d a b _ => .faddBf16x2 g d a b⟩
  | 0x29 => some ⟨.w32, .r32, .r32, .un, [], false, fun g d a b _ => .fmulBf16x2 g d a b⟩
  | 0x2A => some ⟨.w32, .r32, .r32, .un, [], false, fun g d a b _ => .fminBf16x2 g d a b⟩
  | 0x2B => some ⟨.w32, .r32, .r32, .un, [], false, fun g d a b _ => .fmaxBf16x2 g d a b⟩
  | 0x30 => some ⟨.w32, .r32, .r32, .un, [], false, fun g d a b _ => .faddF16x2 g d a b⟩
  | 0x31 => some ⟨.w32, .r32, .r32, .un, [], false, fun g d a b _ => .fmulF16x2 g d a b⟩
  | 0x32 => some ⟨.w32, .r32, .r32, .un, [], false, fun g d a b _ => .fminF16x2 g d a b⟩
  | 0x33 => some ⟨.w32, .r32, .r32, .un, [], false, fun g d a b _ => .fmaxF16x2 g d a b⟩
  | 0x40 => some ⟨.w64, .r64, .r32, .un, [], false, fun g d a b _ => .lea g d a b⟩
  | _ => none

/-- The rows of group INTX, major opcode 0x58 (R224); `m` is the modifier field. -/
def rowIntx (sub m : Nat) : Option Row :=
  match sub with
  | 0x00 => some ⟨.un, (tyAt m 10).src, (tyAt m 10).src, .un,
      [res m 15 2, fTy m 10 cmpTy, fld m 7 3 (· ≤ 5), res m 3 4],
      false, fun g _ a b _ => .icmp g a b (tyAt m 10) (Cond.ofCode (bits m 7 3)) (pAt m 0)⟩
  | 0x01 => some ⟨.w32, .r32, .r32, .r32,
      [res m 15 2, fTy m 10 (isTy .n32), res m 7 3, res m 3 4, res m 0 3],
      false, fun g d a b c => .imad g d a b c⟩
  | 0x02 => some ⟨.w64, .r64, .r64, .un,
      [res m 15 2, fTy m 10 (isTy .n32), res m 7 3, res m 3 4, res m 0 3],
      false, fun g d a b _ => .imulQ g d a b⟩
  | 0x03 => some ⟨.w32, .r32, .r32, .un,
      [res m 15 2, fTy m 10 satTy, res m 7 3, res m 3 4, res m 0 3],
      false, fun g d a b _ => .iaddSat g d a b (tyAt m 10)⟩
  | 0x04 => some ⟨.w32, .r32, .r32, .un,
      [res m 15 2, fTy m 10 satTy, res m 7 3, res m 3 4, res m 0 3],
      false, fun g d a b _ => .isubSat g d a b (tyAt m 10)⟩
  | 0x05 => some ⟨.w32, .r32, .r32, .un,
      [res m 15 2, fTy m 10 satTy, res m 7 3, res m 3 4, res m 0 3],
      false, fun g d a b _ => .bfe g d a b (tyAt m 10)⟩
  | 0x06 => some ⟨.w32, .r32, .r32, .r32,
      [res m 15 2, fTy m 10 (isTy .n32), res m 7 3, res m 3 4, res m 0 3],
      false, fun g d a b c => .bfi g d a b c⟩
  | 0x07 => some ⟨.w32, .r32, .r32, .r32,
      [res m 15 2, fTy m 10 (isTy .n32), res m 7 3, res m 3 4, res m 0 3],
      false, fun g d a b c => .fshl g d a b c⟩
  | 0x08 => some ⟨.w32, .r32, .r32, .r32,
      [res m 15 2, fTy m 10 (isTy .n32), res m 7 3, res m 3 4, res m 0 3],
      false, fun g d a b c => .fshr g d a b c⟩
  | 0x09 => some ⟨.un, .un, .un, .un,
      [res m 15 2, res m 10 1, res m 3 1],
      false, fun g _ _ _ _ => .pbool g (BitVec.ofNat 4 (bits m 11 4)) (pAt m 7) (pAt m 4) (pAt m 0)⟩
  | 0x0A => some ⟨.w32, .un, .un, .un,
      [res m 15 2, fTy m 10 (isTy .n32), res m 7 3, res m 3 4, res m 0 3],
      false, fun g d _ _ _ => .pget g d⟩
  | 0x0B => some ⟨.un, .r32, .un, .un,
      [res m 15 2, fTy m 10 (isTy .n32), res m 7 3, res m 3 4, res m 0 3],
      false, fun g _ a _ _ => .pset g a⟩
  | _ => none

/-- The rows of group FPX, major opcode 0x59 (R230); `m` is the modifier field. -/
def rowFpx (sub m : Nat) : Option Row :=
  match sub with
  | 0x00 => some ⟨.w32, .r32, .r32, .r32,
      [res m 15 2, fTy m 10 Ty.isFpx, fRnd m 7, res m 4 3, res m 3 1, res m 0 3],
      false, fun g d a b c => .ffma g d a b c (tyAt m 10) (rndAt m 7)⟩
  | 0x01 => some ⟨.w32, .r32, .r32, .un,
      [res m 15 2, fTy m 10 Ty.isFpx, fRnd m 7, res m 4 3, res m 3 1, res m 0 3],
      false, fun g d a b _ => .faddFpx g d a b (tyAt m 10) (rndAt m 7)⟩
  | 0x02 => some ⟨.w32, .r32, .r32, .un,
      [res m 15 2, fTy m 10 Ty.isFpx, fRnd m 7, res m 4 3, res m 3 1, res m 0 3],
      false, fun g d a b _ => .fsubFpx g d a b (tyAt m 10) (rndAt m 7)⟩
  | 0x03 => some ⟨.w32, .r32, .r32, .un,
      [res m 15 2, fTy m 10 Ty.isFpx, fRnd m 7, res m 4 3, res m 3 1, res m 0 3],
      false, fun g d a b _ => .fmulFpx g d a b (tyAt m 10) (rndAt m 7)⟩
  | 0x04 => some ⟨.w32, .r32, .un, .un,
      [res m 15 2, fTy m 10 Ty.isFpx, res m 7 3, res m 4 3, res m 3 1, res m 0 3],
      false, fun g d a _ _ => .fabs g d a (tyAt m 10)⟩
  | 0x05 => some ⟨.w32, .r32, .un, .un,
      [res m 15 2, fTy m 10 Ty.isFpx, res m 7 3, res m 4 3, res m 3 1, res m 0 3],
      false, fun g d a _ _ => .fneg g d a (tyAt m 10)⟩
  | 0x08 => some ⟨.w32, .r32, .un, .un,
      [res m 15 2, fTy m 10 (isTy .f32), fRnd m 7, res m 4 3, res m 3 1, res m 0 3],
      false, fun g d a _ _ => .frcp g d a (rndAt m 7)⟩
  | 0x09 => some ⟨.w32, .r32, .un, .un,
      [res m 15 2, fTy m 10 (isTy .f32), fRnd m 7, res m 4 3, res m 3 1, res m 0 3],
      false, fun g d a _ _ => .fsqrt g d a (rndAt m 7)⟩
  | 0x0A => some ⟨.w32, .r32, .un, .un,
      [res m 15 2, fTy m 10 (isTy .f32), fRnd m 7, res m 4 3, res m 3 1, res m 0 3],
      false, fun g d a _ _ => .frsqrt g d a (rndAt m 7)⟩
  | 0x0B => some ⟨.w32, .r32, .un, .un,
      [res m 15 2, fTy m 10 (isTy .f32), fRnd m 7, res m 4 3, res m 3 1, res m 0 3],
      false, fun g d a _ _ => .fexp2 g d a (rndAt m 7)⟩
  | 0x0C => some ⟨.w32, .r32, .un, .un,
      [res m 15 2, fTy m 10 (isTy .f32), fRnd m 7, res m 4 3, res m 3 1, res m 0 3],
      false, fun g d a _ _ => .flog2 g d a (rndAt m 7)⟩
  | 0x0D => some ⟨.w32, .r32, .un, .un,
      [res m 15 2, fTy m 10 (isTy .f32), fRnd m 7, res m 4 3, res m 3 1, res m 0 3],
      false, fun g d a _ _ => .frnd g d a (rndAt m 7)⟩
  | 0x10 => some ⟨.un, .r32, .r32, .un,
      [res m 15 2, fTy m 10 (isTy .f32), res m 7 3, res m 3 1],
      false, fun g _ a b _ => .fcmp g a b (Cond.ofCode (bits m 4 3)) (pAt m 0)⟩
  | _ => none

/-- The rows of group CVT, major opcode 0x5A (R234 to R240); `m` is the modifier field. -/
def rowCvt (sub m : Nat) : Option Row :=
  match sub with
  | 0x00 => some ⟨(cvtShapes (tyAt m 10) (tyAt m 0)).1, (cvtShapes (tyAt m 10) (tyAt m 0)).2, .un, .un,
      [res m 16 1, res m 15 1, fTy m 10 (fun _ => true), fRnd m 7, res m 5 1, fTy m 0 (fun _ => true), cvtCombo m],
      false, fun g d a _ _ => .cvt g d a (tyAt m 10) (tyAt m 0) (rndAt m 7) (bit m 6)⟩
  | 0x01 => some ⟨.w64, .rg 8, .r32, .un,
      [res m 16 1, res m 15 1, fTy m 10 (isTy .e2m1b), res m 7 3, res m 6 1, res m 5 1, fTy m 0 (isTy .f32)],
      false, fun g d a b _ => .qblk g d a b⟩
  | 0x02 => some ⟨.wg 8, .r64, .r32, .un,
      [res m 16 1, res m 15 1, fTy m 10 (isTy .f32), res m 7 3, res m 6 1, res m 5 1, fTy m 0 (isTy .e2m1b)],
      false, fun g d a b _ => .dqblk g d a b⟩
  | 0x03 => some ⟨.w32, .r32, .r32, .r64,
      [fTy m 10 Ty.isHad, fRnd m 7, fTy m 0 (isTy .f32)],
      false, fun g d a b c => .cvtHad g d a b c (tyAt m 10) (rndAt m 7) (bit m 6) (bit m 5) (FlagSel.ofMods m)⟩
  | _ => none

/-- The rows of group LANE, major opcode 0x5B (R241); `m` is the modifier field. -/
def rowLane (sub m : Nat) : Option Row :=
  match sub with
  | 0x00 => some ⟨.un, .un, .un, .un,
      [res m 15 2, res m 10 5, fld m 4 3 (· == 5), res m 3 1],
      false, fun g _ _ _ _ => .lany g (pAt m 7) (pAt m 0)⟩
  | 0x01 => some ⟨.un, .un, .un, .un,
      [res m 15 2, res m 10 5, fld m 4 3 (· == 5), res m 3 1],
      false, fun g _ _ _ _ => .lall g (pAt m 7) (pAt m 0)⟩
  | 0x02 => some ⟨.w32, .un, .un, .un,
      [res m 15 2, res m 10 5, fld m 4 3 (· == 5), res m 3 1, res m 0 3],
      false, fun g d _ _ _ => .lmask g d (pAt m 7)⟩
  | 0x08 => some ⟨(tyAt m 10).dst, (tyAt m 10).src, .r32, .un,
      [res m 15 2, fTy m 10 pickTy, res m 7 3, fSeg m, res m 3 1, res m 0 3],
      false, fun g d a b _ => .lpickIdx g d a b (tyAt m 10) (segAt m)⟩
  | 0x09 => some ⟨(tyAt m 10).dst, (tyAt m 10).src, .r32, .un,
      [res m 15 2, fTy m 10 pickTy, res m 7 3, fSeg m, res m 3 1, res m 0 3],
      false, fun g d a b _ => .lpickUp g d a b (tyAt m 10) (segAt m)⟩
  | 0x0A => some ⟨(tyAt m 10).dst, (tyAt m 10).src, .r32, .un,
      [res m 15 2, fTy m 10 pickTy, res m 7 3, fSeg m, res m 3 1, res m 0 3],
      false, fun g d a b _ => .lpickDown g d a b (tyAt m 10) (segAt m)⟩
  | 0x0B => some ⟨(tyAt m 10).dst, (tyAt m 10).src, .r32, .un,
      [res m 15 2, fTy m 10 pickTy, res m 7 3, fSeg m, res m 3 1, res m 0 3],
      false, fun g d a b _ => .lpickXor g d a b (tyAt m 10) (segAt m)⟩
  | 0x0D => some ⟨.w32, .r32, .un, .un,
      [res m 15 2, fTy m 10 laneTy, fld m 7 3 (· ≤ 5), fSeg m, res m 3 1, res m 0 3, laneCombo m],
      false, fun g d a _ _ => .lred g d a (LaneOp.ofCode (bits m 7 3)) (tyAt m 10) (segAt m)⟩
  | 0x0E => some ⟨.w32, .r32, .un, .un,
      [res m 15 2, fTy m 10 laneTy, fld m 7 3 (· ≤ 5), fSeg m, res m 0 3, laneCombo m],
      false, fun g d a _ _ => .lscan g d a (LaneOp.ofCode (bits m 7 3)) (tyAt m 10) (segAt m) (bit m 3)⟩
  | _ => none

/-- The rows of group CTRL, major opcode 0x5C (R247); `m` is the modifier field. -/
def rowCtrl (sub m : Nat) : Option Row :=
  match sub with
  | 0x00 => some ⟨.un, .un, .un, .un,
      [res m 0 17],
      false, fun g _ _ _ _ => .regang g⟩
  | 0x01 => some ⟨.un, .un, .un, .un,
      [res m 0 17],
      false, fun g _ _ _ _ => .wide g⟩
  | 0x02 => some ⟨.un, .un, .un, .un,
      [res m 0 17],
      false, fun g _ _ _ _ => .endwide g⟩
  | 0x04 => some ⟨.un, .un, .un, .un,
      [res m 0 17],
      true, fun g _ _ _ _ => .exit g⟩
  | 0x06 => some ⟨.un, .un, .un, .un,
      [res m 0 17],
      true, fun g _ _ _ _ => .trapret g⟩
  | 0x07 => some ⟨.un, .un, .un, .un,
      [res m 0 17],
      false, fun g _ _ _ _ => .ifence g⟩
  | 0x0C => some ⟨.un, .un, .un, .un,
      [res m 0 17],
      false, fun g _ _ _ _ => .brk g⟩
  | 0x03 => some ⟨.un, .r32, .un, .un,
      [res m 1 16],
      false, fun g _ a _ _ => .wbase g a (bit m 0)⟩
  | 0x05 => some ⟨.un, .r32, .un, .un,
      [res m 0 17],
      false, fun g _ a _ _ => .trap g a⟩
  | 0x08 => some ⟨.un, .r64, .r32, .un,
      [res m 0 15],
      false, fun g _ a b _ => .icinv g a b (FlagSel.ofMods m)⟩
  | 0x09 => some ⟨.un, .r64, .un, .un,
      [res m 0 17],
      true, fun g _ a _ _ => .jmpi g a⟩
  | 0x0A => some ⟨.un, .r64, .un, .un,
      [res m 0 17],
      true, fun g _ a _ _ => .ret g a⟩
  | 0x0B => some ⟨.w64, .r64, .un, .un,
      [res m 0 17],
      true, fun g d a _ _ => .calli g d a⟩
  | 0x0D => some ⟨.un, .r32, .r32, .r64,
      [res m 0 17],
      true, fun g _ a b c => .yieldto g a b c⟩
  | _ => none

/-- The rows of group MEM, major opcode 0x60 (R261); `m` is the modifier field. -/
def rowMem (sub m : Nat) : Option Row :=
  match sub with
  | 0x00 => some ⟨(tyAt m 10).dst, .r64, .r32, .un,
      [fTy m 10 Ty.isMem, res m 9 1, fld m 7 2 (· ≤ 2), fOrd m Order.isLd, fScope m 2, res m 0 2],
      false, fun g d a b _ => .ld g d a b (MemMods.ofMods m)⟩
  | 0x01 => some ⟨.un, .r64, .r32, (tyAt m 10).src,
      [fTy m 10 Ty.isMem, res m 9 1, fld m 7 2 (· ≤ 2), fOrd m Order.isSt, fScope m 2, res m 0 2],
      false, fun g _ a b c => .st g a b c (MemMods.ofMods m)⟩
  | 0x02 => some ⟨(tyAt m 10).dst, .r32, .r32, .un,
      [fTy m 10 Ty.isMem, res m 9 1, res m 7 2, fOrd m Order.isLd, fScope m 2, res m 0 2],
      false, fun g d a b _ => .lds g d a b (MemMods.ofMods m)⟩
  | 0x03 => some ⟨.un, .r32, .r32, (tyAt m 10).src,
      [fTy m 10 Ty.isMem, res m 9 1, res m 7 2, fOrd m Order.isSt, fScope m 2, res m 0 2],
      false, fun g _ a b c => .sts g a b c (MemMods.ofMods m)⟩
  | 0x04 => some ⟨(tyAt m 10).dst, .r64, .r32, .un,
      [fTy m 10 mem64Ty, res m 9 1, res m 7 2, res m 5 2, res m 2 3, res m 0 2],
      false, fun g d a b _ => .ldc g d a b (tyAt m 10) (FlagSel.ofMods m)⟩
  | 0x05 => some ⟨(tyAt m 10).dst, .r64, .r32, .un,
      [fTy m 10 mem64Ty, res m 9 1, fld m 7 2 (· ≤ 2), fOrd m Order.isLd, fScope m 2, res m 0 2],
      false, fun g d a b _ => .gather g d a b (MemMods.ofMods m)⟩
  | 0x06 => some ⟨.un, .r64, .r32, .un,
      [res m 16 1, res m 15 1, res m 10 5, res m 9 1, fld m 7 2 (· ≤ 1), res m 5 2, res m 2 3, res m 0 2],
      false, fun g _ a b _ => .prefetch g a b (if bits m 7 2 = 1 then .msc else .l2)⟩
  | _ => none

/-- The rows of group RMW, major opcode 0x61 (R267, R268); `m` is the modifier field. -/
def rowRmw (sub m : Nat) : Option Row :=
  match sub with
  | 0x00 => some ⟨(tyAt m 10).dst, if bit m 0 then .r32 else .r64, .r32, (tyAt m 10).src,
      [fTy m 10 rmwTy, fld m 7 3 (· ≤ 6), fScope m 2, farSpad m, rmwCombo m],
      false, fun g d a b c => .rmw g d a b c (RmwMods.ofMods m)⟩
  | 0x01 => some ⟨.un, if bit m 0 then .r32 else .r64, .r32, (tyAt m 10).src,
      [fTy m 10 rmwTy, fld m 7 3 (· ≤ 6), fOrd m Order.isRel, fScope m 2, farSpad m, rmwCombo m],
      false, fun g _ a b c => .fold g a b c (RmwMods.ofMods m)⟩
  | 0x02 => some ⟨(tyAt m 10).dst, if bit m 0 then .r32 else .r64, (tyAt m 10).src, (tyAt m 10).src,
      [fTy m 10 casTy, res m 7 3, fScope m 2, farSpad m],
      false, fun g d a b c => .rmwCas g d a b c (RmwMods.ofMods m)⟩
  | _ => none

/-- The rows of group SYNC, major opcode 0x62 (R271); `m` is the modifier field. -/
def rowSync (sub m : Nat) : Option Row :=
  match sub with
  | 0x00 => some ⟨.un, .un, .un, .un,
      [res m 7 10, fOrd m (· != .rlx), fScope m 2, res m 0 2],
      false, fun g _ _ _ _ => .fence g (ordAt m) (scopeAt m 2)⟩
  | 0x01 => some ⟨.un, if bits m 0 4 = 0 then .un else .r32, .un, .un,
      [res m 7 10, res m 5 2, res m 4 1],
      false, fun g _ a _ _ => .gatePass g a (Fin.ofNat 16 (bits m 0 4))⟩
  | 0x02 => some ⟨.un, if bits m 0 4 = 0 then .un else .r32, .un, .un,
      [res m 7 10, res m 5 2, res m 4 1],
      false, fun g _ a _ _ => .gateWait g a (Fin.ofNat 16 (bits m 0 4))⟩
  | 0x03 => some ⟨.un, .r32, .r32, .un,
      [res m 7 10, res m 5 2, res m 2 3, res m 0 2],
      false, fun g _ a b _ => .bobjOpen g a b⟩
  | 0x04 => some ⟨.un, .r32, .r32, .un,
      [res m 7 10, res m 5 2, res m 2 3, res m 1 1],
      false, fun g _ a b _ => .bobjDue g a b (bit m 0)⟩
  | 0x05 => some ⟨.un, .r32, .un, .un,
      [res m 7 10, res m 5 2, res m 2 3, res m 0 2],
      false, fun g _ a _ _ => .bobjMark g a⟩
  | 0x06 => some ⟨.un, .r32, .r32, .un,
      [res m 7 10, res m 5 2, res m 2 3, res m 0 2],
      false, fun g _ a b _ => .bobjHold g a b⟩
  | 0x08 => some ⟨.un, .r64, .r32, .un,
      [res m 7 10, res m 5 2, res m 2 3],
      false, fun g _ a b _ => .emberArm g a b (Fin.ofNat 4 (bits m 0 2))⟩
  | 0x09 => some ⟨.w32, .r32, .un, .un,
      [res m 7 10, res m 5 2, res m 2 3, res m 0 2],
      false, fun g d a _ _ => .emberWait g d a⟩
  | 0x0A => some ⟨.un, .un, .un, .un,
      [res m 7 10, res m 5 2, res m 4 1],
      false, fun g _ _ _ _ => .emberDisarm g (BitVec.ofNat 4 (bits m 0 4))⟩
  | _ => none

/-- The rows of group TASK, major opcode 0x63 (R279); `m` is the modifier field. -/
def rowTask (sub m : Nat) : Option Row :=
  match sub with
  | 0x00 => some ⟨.un, .r64, .r64, .un,
      [res m 12 3, res m 10 2, res m 8 2, res m 7 1, res m 5 2, res m 2 3, res m 0 2],
      false, fun g _ a b _ => .spawn g a b (FlagSel.ofMods m)⟩
  | 0x01 => some ⟨.un, .r64, .un, .un,
      [res m 12 3, res m 10 2, res m 8 2, res m 7 1, res m 5 2, res m 2 3, res m 0 2],
      false, fun g _ a _ _ => .launch g a (FlagSel.ofMods m)⟩
  | 0x02 => some ⟨.un, .r64, .un, .un,
      [res m 16 1, res m 15 1, res m 10 2, res m 8 2, res m 7 1, res m 5 2, res m 2 3, res m 0 2],
      false, fun g _ a _ _ => .await g a (pAt m 12)⟩
  | 0x03 => some ⟨.un, .r64, .r64, .un,
      [res m 16 1, res m 15 1, res m 12 3, res m 10 2, res m 8 2, res m 7 1, res m 5 2, res m 2 3, res m 0 2],
      false, fun g _ a b _ => .futSet g a b⟩
  | 0x04 => some ⟨.un, .r64, .un, .un,
      [res m 16 1, res m 15 1, res m 10 2, res m 8 2, res m 7 1, res m 5 2, res m 2 3, res m 0 2],
      false, fun g _ a _ _ => .lockTake g a (pAt m 12)⟩
  | 0x05 => some ⟨.un, .r64, .un, .un,
      [res m 16 1, res m 15 1, res m 12 3, res m 10 2, res m 8 2, res m 7 1, res m 5 2, res m 2 3, res m 0 2],
      false, fun g _ a _ _ => .lockGive g a⟩
  | 0x06 => some ⟨.w64, .r64, if bits m 8 2 = 1 then .un else .r64, .un,
      [res m 12 3, res m 10 2, fld m 8 2 (· ≤ 2), res m 7 1, fOrd m Order.isRel, fScope m 2, res m 0 2],
      false, fun g d a b _ => .qpush g d a b (QForm.ofCode (bits m 8 2)) (ordAt m) (scopeAt m 2) (FlagSel.ofMods m)⟩
  | 0x07 => some ⟨.w64, .r64, .r64, .un,
      [res m 12 3, res m 10 2, res m 8 2, res m 7 1, fOrd m Order.isAcq, fScope m 2, res m 0 2],
      false, fun g d a b _ => .qpop g d a b (ordAt m) (scopeAt m 2) (FlagSel.ofMods m)⟩
  | 0x08 => some ⟨.un, .r64, .un, .un,
      [res m 16 1, res m 15 1, res m 12 3, res m 10 2, res m 8 2, res m 7 1, res m 5 2, res m 2 3, res m 0 2],
      false, fun g _ a _ _ => .park g a⟩
  | _ => none

/-- The rows of group SPAN, major opcode 0x64 (R288); `m` is the modifier field. -/
def rowSpan (sub m : Nat) : Option Row :=
  match sub with
  | 0x00 => some ⟨(tyAt m 10).dst, .r32, .r32, .un,
      [fTy m 10 Ty.isMem, res m 7 3, fOrd m Order.isLd, fScope m 2, res m 0 2],
      false, fun g d a b _ => .ldw g d a b (MemMods.ofMods m)⟩
  | 0x01 => some ⟨.un, .r32, .r32, (tyAt m 10).src,
      [fTy m 10 Ty.isMem, res m 7 3, fOrd m Order.isSt, fScope m 2, res m 0 2],
      false, fun g _ a b c => .stw g a b c (MemMods.ofMods m)⟩
  | 0x02 => some ⟨.un, .un, .un, .un,
      [res m 16 1, res m 15 1, res m 10 5, res m 7 3, res m 5 2, res m 2 3, res m 0 2],
      false, fun g _ _ _ _ => .spanArrive g⟩
  | 0x03 => some ⟨.un, .un, .un, .un,
      [res m 16 1, res m 15 1, res m 10 5, res m 7 3, res m 5 2, res m 2 3, res m 0 2],
      false, fun g _ _ _ _ => .spanSync g⟩
  | 0x04 => some ⟨.un, .un, .un, .un,
      [res m 16 1, res m 15 1, res m 10 5, res m 7 3, res m 5 2, res m 2 3, res m 0 2],
      false, fun g _ _ _ _ => .spanDetach g⟩
  | 0x05 => some ⟨.w32, .r32, .un, .un,
      [res m 16 1, res m 15 1, res m 10 5, res m 7 3, res m 5 2, res m 2 3, res m 0 2],
      false, fun g d a _ _ => .spanPeer g d a⟩
  | _ => none

/-- The rows of group MAT, major opcode 0x68 (R294); `m` is the modifier field. -/
def rowMat (sub m : Nat) : Option Row :=
  match sub with
  | 0x00 => some ⟨.un, .r32, .r32, .un,
      [res m 0 17],
      false, fun g _ a b _ => .crewSet g a b⟩
  | 0x01 => some ⟨.un, .un, .un, .un,
      [res m 0 17],
      false, fun g _ _ _ _ => .tokTake g⟩
  | 0x02 => some ⟨.un, if bit m 0 then .r32 else .un, .un, .un,
      [res m 1 16],
      false, fun g _ a _ _ => .tokGive g a (bit m 0)⟩
  | 0x03 => some ⟨.un, .r32, .un, .un,
      [fld m 3 3 (· ≤ 4)],
      false, fun g _ a _ _ => .mma g a (MmaMods.ofMods m)⟩
  | 0x04 => some ⟨.un, .r32, .un, .un,
      [fld m 3 3 (· ≤ 4)],
      false, fun g _ a _ _ => .mmas g a (MmaMods.ofMods m)⟩
  | 0x05 => some ⟨.un, .r32, .un, .un,
      [fScope m 10, fld m 3 3 (· ≤ 4), fld m 0 2 (· ≤ 2)],
      false, fun g _ a _ _ => .wbload g a (WbMods.ofMods m)⟩
  | 0x06 => some ⟨.un, .un, .un, .un,
      [res m 6 3, res m 3 3, res m 2 1, fld m 0 2 (· ≤ 2)],
      false, fun g _ _ _ _ => .accz g (AccMods.ofMods m)⟩
  | 0x07 => some ⟨.un, .r32, .r32, .un,
      [fld m 6 3 (· ≤ 4), res m 3 3, res m 2 1, fld m 0 2 (· ≤ 2)],
      false, fun g _ a b _ => .accld g a b (AccMods.ofMods m)⟩
  | 0x08 => some ⟨.un, .r32, .r32, .un,
      [fld m 6 3 (· ≤ 4), fRnd m 3, fld m 0 2 (· ≤ 2)],
      false, fun g _ a b _ => .accst g a b (AccMods.ofMods m)⟩
  | _ => none

/-- The rows of group COPY, major opcode 0x69 (R303); `m` is the modifier field. -/
def rowCopy (sub m : Nat) : Option Row :=
  match sub with
  | 0x00 => some ⟨.r32d, .r64, .q, .r32,
      [fScope m 9, res m 8 1, res m 0 8],
      false, fun g d a b c => .cpTile g d a b c (CpMods.ofMods m)⟩
  | 0x01 => some ⟨.r32d, .r64, .q, .r32,
      [fScope m 9, res m 8 1],
      false, fun g d a b c => .cpMcast g d a b c (CpMods.ofMods m) (BitVec.ofNat 8 (bits m 0 8))⟩
  | 0x02 => some ⟨.q, .r64, .q, .r32,
      [fScope m 9, res m 8 1, res m 0 8],
      false, fun g d a b c => .cpOut g d a b c (CpMods.ofMods m)⟩
  | 0x03 => some ⟨.r32d, .r64, .q, .r32,
      [fScope m 9, res m 8 1, res m 0 8],
      false, fun g d a b c => .cpGather g d a b c (CpMods.ofMods m)⟩
  | _ => none

/-- The rows of group SYS, major opcode 0x70 (R307, R308); `m` is the modifier field. -/
def rowSys (sub m : Nat) : Option Row :=
  match sub with
  | 0x00 => some ⟨if sregIs64 (bits m 0 8) then .w64 else .w32, .un, .un, .un,
      [res m 16 1, res m 15 1, res m 11 4, res m 8 3],
      false, fun g d _ _ _ => .sget g d (BitVec.ofNat 8 (bits m 0 8))⟩
  | 0x01 => some ⟨.un, if sregIs64 (bits m 0 8) then .r64 else .r32, .un, .un,
      [res m 16 1, res m 15 1, res m 11 4, res m 8 3],
      false, fun g _ a _ _ => .sset g a (BitVec.ofNat 8 (bits m 0 8))⟩
  | 0x02 => some ⟨.un, if bits m 8 3 = 0 then .un else .r64, if bits m 8 3 = 0 then .un else .r32, .un,
      [res m 11 4, fld m 8 3 (· ≤ 2), res m 0 8],
      false, fun g _ a b _ => .cctl g a b (CctlOp.ofCode (bits m 8 3)) (FlagSel.ofMods m)⟩
  | 0x03 => some ⟨.un, .r64, .r32, .un,
      [res m 11 4, res m 8 3, res m 0 8],
      false, fun g _ a b _ => .tlbinv g a b (FlagSel.ofMods m)⟩
  | 0x04 => some ⟨.w32, .r64, .un, .un,
      [res m 11 4, res m 8 3, res m 0 8],
      false, fun g d a _ _ => .probe g d a (FlagSel.ofMods m)⟩
  | 0x05 => some ⟨.w32, .r32, .un, .un,
      [res m 11 4, res m 8 3, res m 0 8],
      false, fun g d a _ _ => .scanStart g d a (FlagSel.ofMods m)⟩
  | 0x06 => some ⟨.w32, .r32, .un, .un,
      [res m 11 4, res m 8 3, res m 0 8],
      false, fun g d a _ _ => .scanPoll g d a (FlagSel.ofMods m)⟩
  | 0x07 => some ⟨.un, .un, .un, .un,
      [res m 16 1, res m 15 1, res m 11 4, res m 8 3, res m 0 8],
      false, fun g _ _ _ _ => .halt g⟩
  | _ => none
/-- The E-form rows by major opcode (R201). -/
def rowE (op sub m : Nat) : Option Row :=
  match op with
  | 0x58 => rowIntx sub m
  | 0x59 => rowFpx sub m
  | 0x5A => rowCvt sub m
  | 0x5B => rowLane sub m
  | 0x5C => rowCtrl sub m
  | 0x60 => rowMem sub m
  | 0x61 => rowRmw sub m
  | 0x62 => rowSync sub m
  | 0x63 => rowTask sub m
  | 0x64 => rowSpan sub m
  | 0x68 => rowMat sub m
  | 0x69 => rowCopy sub m
  | 0x70 => rowSys sub m
  | _ => none

/-- The E-form major opcodes (R201). -/
def isE (op : Nat) : Bool :=
  decide (0x58 ≤ op ∧ op ≤ 0x5C) || decide (0x60 ≤ op ∧ op ≤ 0x64) || op == 0x68 || op == 0x69 || op == 0x70

/-! ## Decoding -/

/-- The lowest operand field that does not fit (R392, R396). -/
def badField (r : Row) (d a b c : Option Opd) : Option Nat :=
  if !fieldOk r.d d then some 0 else if !fieldOk r.a a then some 1
  else if !fieldOk r.b b then some 2 else if !fieldOk r.c c then some 3 else none

/-- The lowest bit among the modifier fields at fault (R392, R397). -/
def badMod : List (Nat × Bool) → Option Nat
  | [] => none
  | (lo, ok) :: rest => match ok, badMod rest with
    | true, r => r
    | false, none => some lo
    | false, some x => some (min lo x)

/-- The decode checks of a row in the order of R392, and the instruction: `ws` are the words after the
instruction's own, `last` says that a transfer has to end its clause. -/
def finish (r : Row) (g : Guard) (cd ca cb cc : Nat) (ws : List W32) : Except Reject (Instr × List W32) :=
  let na := litCount ca
  let nb := litCount cb
  let nc := litCount cc
  if ws.length < na + nb + nc then .error .literalPastEnd
  else
    let rest := ws.drop (na + nb + nc)
    if r.last && !rest.isEmpty then .error .transferNotLast
    else
      let d := opdOf cd []
      let a := opdOf ca (ws.take na)
      let b := opdOf cb ((ws.drop na).take nb)
      let c := opdOf cc ((ws.drop (na + nb)).take nc)
      match badField r d a b c with
      | some f => .error (.operand f)
      | none => match badMod r.fields with
        | some lo => .error (.modifier lo)
        | none => .ok (r.make g (d.getD .zero) (a.getD .zero) (b.getD .zero) (c.getD .zero), rest)

/-- The instruction at the head of the words left in a clause, and the words after it (R192, R198, R392). -/
def decodeWords : List W32 → Except Reject (Instr × List W32)
  | [] => .error .wordPastEnd
  | w0 :: ws =>
    let w := w0.toNat
    let op := bits w 25 7
    let g := Guard.ofCode (bits w 21 4)
    let cd := bits w 14 7
    let ca := bits w 7 7
    let cb := bits w 0 7
    if op = 0 then
      if cd ≠ 0 then .error (.operand 0) else if ca ≠ 0 then .error (.operand 1)
      else if cb ≠ 0 then .error (.operand 2) else .ok (.nop g, ws)
    else if op = 0x50 ∨ op = 0x51 then
      if !ws.isEmpty then .error .transferNotLast
      else .ok (if op = 0x50 then .br g (BitVec.ofNat 21 (bits w 0 21)) else .call g (BitVec.ofNat 21 (bits w 0 21)), ws)
    else if isE op then
      match ws with
      | [] => .error .wordPastEnd
      | w1 :: ws => match rowE op (bits w1.toNat 24 8) (bits w1.toNat 0 17) with
        | none => .error (.sub op (bits w1.toNat 24 8))
        | some r => finish r g cd ca cb (bits w1.toNat 17 7) ws
    else match rowA op with
      | none => .error (.major op)
      | some r => finish r g cd ca cb 120 ws

/-- The flag selector of a long-latency instruction (R193). -/
def Instr.flagSel : Instr → Option FlagSel
  | .cvtHad _ _ _ _ _ _ _ _ _ fs | .icinv _ _ _ fs | .ldc _ _ _ _ _ fs | .spawn _ _ _ fs | .launch _ _ fs
  | .qpush _ _ _ _ _ _ _ fs | .qpop _ _ _ _ _ _ fs | .cctl _ _ _ _ fs | .tlbinv _ _ _ fs | .probe _ _ _ fs
  | .scanStart _ _ _ fs | .scanPoll _ _ _ fs => some fs
  | .ld _ _ _ _ m | .st _ _ _ _ m | .lds _ _ _ _ m | .sts _ _ _ _ m | .gather _ _ _ _ m | .ldw _ _ _ _ m
  | .stw _ _ _ _ m => some m.fs
  | .rmw _ _ _ _ _ m | .fold _ _ _ _ m | .rmwCas _ _ _ _ _ m => some m.fs
  | .mma _ _ m | .mmas _ _ m => some m.fs
  | .wbload _ _ m => some m.fs
  | .accz _ m | .accld _ _ _ m | .accst _ _ _ m => some m.fs
  | .cpTile _ _ _ _ _ m | .cpMcast _ _ _ _ _ m _ | .cpOut _ _ _ _ _ m | .cpGather _ _ _ _ _ m => some m.fs
  | _ => none

/-- The flag selector of the words of an instruction that is refused at decode, where its opcode is that of a long-latency
instruction and it is not under the never guard (R40, R390). -/
def rejectFlag : List W32 → Option FlagSel
  | w0 :: w1 :: _ =>
    if isE (bits w0.toNat 25 7) && !((Guard.ofCode (bits w0.toNat 21 4)).neg && (Guard.ofCode (bits w0.toNat 21 4)).p.val == 0) then
      (rowE (bits w0.toNat 25 7) (bits w1.toNat 24 8) (bits w1.toNat 0 17)).bind (fun r =>
        (r.make (Guard.ofCode (bits w0.toNat 21 4)) .zero .zero .zero .zero).flagSel)
    else none
  | _ => none

/-- Words of the instruction at the head, its literal words among them; 0 where none is whole. -/
def instrWords : List W32 → Nat
  | [] => 0
  | w0 :: ws =>
    let w := w0.toNat
    let op := bits w 25 7
    if op = 0 ∨ op = 0x50 ∨ op = 0x51 then 1
    else
      let lits := litCount (bits w 7 7) + litCount (bits w 0 7)
      if isE op then match ws with
        | [] => 1
        | w1 :: _ => 2 + lits + litCount (bits w1.toNat 17 7)
      else 1 + lits

/-- Four bytes as a little-endian word (R5). -/
def wordOfBytes (b0 b1 b2 b3 : Byte) : W32 := b3 ++ b2 ++ b1 ++ b0

/-- Bytes as little-endian words; a part of a word at the end is dropped. -/
def wordsOfBytes : List Byte → List W32
  | b0 :: b1 :: b2 :: b3 :: rest => wordOfBytes b0 b1 b2 b3 :: wordsOfBytes rest
  | _ => []

/-- The instruction that the bytes of a clause begin with, total on any bytes. -/
def decode (bs : List Byte) : Except Reject (Instr × List W32) := decodeWords (wordsOfBytes bs)

/-- The most words an instruction has: two and two literal words for each of a, b, c (R198). -/
def maxWords : Nat := 8

/-- The words of a table row: `nbits` bits of `w`, the bits above zero, cut to the instruction's length so that a
transfer ends its clause. -/
def tableWords (nbits w : Nat) : List W32 :=
  let ws := (List.range maxWords).map (fun i => BitVec.ofNat 32 (w % 2 ^ nbits / 2 ^ (32 * i)))
  ws.take (instrWords ws)

/-- What the decoder reads from an instruction whose bits are `w`, as opcode_table.json numbers them. -/
def decodeTableWord (nbits w : Nat) : Option Instr :=
  match decodeWords (tableWords nbits w) with
  | .ok (i, _) => some i
  | .error _ => none

/-! ## Encoding -/

/-- The first word (R192). -/
def word0 (op : Nat) (g : Guard) (d a b : Nat) : W32 :=
  BitVec.ofNat 32 (op * 2 ^ 25 + g.code * 2 ^ 21 + d * 2 ^ 14 + a * 2 ^ 7 + b)

/-- The second word of the E form (R192). -/
def word1 (sub c m : Nat) : W32 := BitVec.ofNat 32 (sub * 2 ^ 24 + c * 2 ^ 17 + m)

def encA (op : Nat) (g : Guard) (d a b : Opd) : List W32 :=
  word0 op g d.code a.code b.code :: (a.words ++ b.words)

def encE (op sub : Nat) (g : Guard) (d a b c : Opd) (m : Nat) : List W32 :=
  word0 op g d.code a.code b.code :: word1 sub c.code m :: (a.words ++ b.words ++ c.words)

/-- The words of an instruction (R192 to R203 and the groups' tables); an event has none. -/
def encode : Instr → List W32
  | .nop g => [word0 0 g 0 0 0]
  | .iadd g d a b => encA 0x01 g d a b
  | .isub g d a b => encA 0x02 g d a b
  | .imul g d a b => encA 0x03 g d a b
  | .imulhS g d a b => encA 0x04 g d a b
  | .imulhN g d a b => encA 0x05 g d a b
  | .iminS g d a b => encA 0x06 g d a b
  | .iminN g d a b => encA 0x07 g d a b
  | .imaxS g d a b => encA 0x08 g d a b
  | .imaxN g d a b => encA 0x09 g d a b
  | .and g d a b => encA 0x0A g d a b
  | .or g d a b => encA 0x0B g d a b
  | .xor g d a b => encA 0x0C g d a b
  | .andn g d a b => encA 0x0D g d a b
  | .shl g d a b => encA 0x0E g d a b
  | .shr g d a b => encA 0x0F g d a b
  | .sar g d a b => encA 0x10 g d a b
  | .rotl g d a b => encA 0x11 g d a b
  | .popc g d a => encA 0x12 g d a .zero
  | .clz g d a => encA 0x13 g d a .zero
  | .brev g d a => encA 0x14 g d a .zero
  | .iabs g d a => encA 0x15 g d a .zero
  | .mov g d a => encA 0x16 g d a .zero
  | .sel g d a b => encA 0x17 g d a b
  | .iaddQ g d a b => encA 0x18 g d a b
  | .isubQ g d a b => encA 0x19 g d a b
  | .shlQ g d a b => encA 0x1A g d a b
  | .shrQ g d a b => encA 0x1B g d a b
  | .sarQ g d a b => encA 0x1C g d a b
  | .movQ g d a => encA 0x1D g d a .zero
  | .fadd g d a b => encA 0x20 g d a b
  | .fsub g d a b => encA 0x21 g d a b
  | .fmul g d a b => encA 0x22 g d a b
  | .fmin g d a b => encA 0x23 g d a b
  | .fmax g d a b => encA 0x24 g d a b
  | .faddBf16x2 g d a b => encA 0x28 g d a b
  | .fmulBf16x2 g d a b => encA 0x29 g d a b
  | .fminBf16x2 g d a b => encA 0x2A g d a b
  | .fmaxBf16x2 g d a b => encA 0x2B g d a b
  | .faddF16x2 g d a b => encA 0x30 g d a b
  | .fmulF16x2 g d a b => encA 0x31 g d a b
  | .fminF16x2 g d a b => encA 0x32 g d a b
  | .fmaxF16x2 g d a b => encA 0x33 g d a b
  | .lea g d a b => encA 0x40 g d a b
  | .br g off => [BitVec.ofNat 32 (0x50 * 2 ^ 25 + g.code * 2 ^ 21 + off.toNat)]
  | .call g off => [BitVec.ofNat 32 (0x51 * 2 ^ 25 + g.code * 2 ^ 21 + off.toNat)]
  | .icmp g a b ty co pd =>
    encE 0x58 0x00 g .zero a b .zero (ty.code * 2 ^ 10 + co.code * 2 ^ 7 + pd.val)
  | .imad g d a b c => encE 0x58 0x01 g d a b c (6 * 2 ^ 10)
  | .imulQ g d a b => encE 0x58 0x02 g d a b .zero (6 * 2 ^ 10)
  | .iaddSat g d a b ty => encE 0x58 0x03 g d a b .zero (ty.code * 2 ^ 10)
  | .isubSat g d a b ty => encE 0x58 0x04 g d a b .zero (ty.code * 2 ^ 10)
  | .bfe g d a b ty => encE 0x58 0x05 g d a b .zero (ty.code * 2 ^ 10)
  | .bfi g d a b c => encE 0x58 0x06 g d a b c (6 * 2 ^ 10)
  | .fshl g d a b c => encE 0x58 0x07 g d a b c (6 * 2 ^ 10)
  | .fshr g d a b c => encE 0x58 0x08 g d a b c (6 * 2 ^ 10)
  | .pbool g tt pa pb pd =>
    encE 0x58 0x09 g .zero .zero .zero .zero (tt.toNat * 2 ^ 11 + pa.val * 2 ^ 7 + pb.val * 2 ^ 4 + pd.val)
  | .pget g d => encE 0x58 0x0A g d .zero .zero .zero (6 * 2 ^ 10)
  | .pset g a => encE 0x58 0x0B g .zero a .zero .zero (6 * 2 ^ 10)
  | .ffma g d a b c ty r => encE 0x59 0x00 g d a b c (ty.code * 2 ^ 10 + r.code * 2 ^ 7)
  | .faddFpx g d a b ty r => encE 0x59 0x01 g d a b .zero (ty.code * 2 ^ 10 + r.code * 2 ^ 7)
  | .fsubFpx g d a b ty r => encE 0x59 0x02 g d a b .zero (ty.code * 2 ^ 10 + r.code * 2 ^ 7)
  | .fmulFpx g d a b ty r => encE 0x59 0x03 g d a b .zero (ty.code * 2 ^ 10 + r.code * 2 ^ 7)
  | .fabs g d a ty => encE 0x59 0x04 g d a .zero .zero (ty.code * 2 ^ 10)
  | .fneg g d a ty => encE 0x59 0x05 g d a .zero .zero (ty.code * 2 ^ 10)
  | .frcp g d a r => encE 0x59 0x08 g d a .zero .zero (8 * 2 ^ 10 + r.code * 2 ^ 7)
  | .fsqrt g d a r => encE 0x59 0x09 g d a .zero .zero (8 * 2 ^ 10 + r.code * 2 ^ 7)
  | .frsqrt g d a r => encE 0x59 0x0A g d a .zero .zero (8 * 2 ^ 10 + r.code * 2 ^ 7)
  | .fexp2 g d a r => encE 0x59 0x0B g d a .zero .zero (8 * 2 ^ 10 + r.code * 2 ^ 7)
  | .flog2 g d a r => encE 0x59 0x0C g d a .zero .zero (8 * 2 ^ 10 + r.code * 2 ^ 7)
  | .frnd g d a r => encE 0x59 0x0D g d a .zero .zero (8 * 2 ^ 10 + r.code * 2 ^ 7)
  | .fcmp g a b co pd =>
    encE 0x59 0x10 g .zero a b .zero (8 * 2 ^ 10 + co.code * 2 ^ 4 + pd.val)
  | .cvt g d a dt st r sat =>
    encE 0x5A 0x00 g d a .zero .zero (dt.code * 2 ^ 10 + r.code * 2 ^ 7 + fl sat 6 + st.code)
  | .qblk g d a b => encE 0x5A 0x01 g d a b .zero (14 * 2 ^ 10 + 8)
  | .dqblk g d a b => encE 0x5A 0x02 g d a b .zero (8 * 2 ^ 10 + 14)
  | .cvtHad g d a b c dt r sat inv fs =>
    encE 0x5A 0x03 g d a b c (fs.mods + dt.code * 2 ^ 10 + r.code * 2 ^ 7 + fl sat 6 + fl inv 5 + 8)
  | .lany g ps pd =>
    encE 0x5B 0x00 g .zero .zero .zero .zero (ps.val * 2 ^ 7 + 5 * 2 ^ 4 + pd.val)
  | .lall g ps pd =>
    encE 0x5B 0x01 g .zero .zero .zero .zero (ps.val * 2 ^ 7 + 5 * 2 ^ 4 + pd.val)
  | .lmask g d ps => encE 0x5B 0x02 g d .zero .zero .zero (ps.val * 2 ^ 7 + 5 * 2 ^ 4)
  | .lpickIdx g d a b ty sg =>
    encE 0x5B 0x08 g d a b .zero (ty.code * 2 ^ 10 + sg.code * 2 ^ 4)
  | .lpickUp g d a b ty sg =>
    encE 0x5B 0x09 g d a b .zero (ty.code * 2 ^ 10 + sg.code * 2 ^ 4)
  | .lpickDown g d a b ty sg =>
    encE 0x5B 0x0A g d a b .zero (ty.code * 2 ^ 10 + sg.code * 2 ^ 4)
  | .lpickXor g d a b ty sg =>
    encE 0x5B 0x0B g d a b .zero (ty.code * 2 ^ 10 + sg.code * 2 ^ 4)
  | .lred g d a op ty sg =>
    encE 0x5B 0x0D g d a .zero .zero (ty.code * 2 ^ 10 + op.code * 2 ^ 7 + sg.code * 2 ^ 4)
  | .lscan g d a op ty sg ex =>
    encE 0x5B 0x0E g d a .zero .zero (ty.code * 2 ^ 10 + op.code * 2 ^ 7 + sg.code * 2 ^ 4 + fl ex 3)
  | .regang g => encE 0x5C 0x00 g .zero .zero .zero .zero (0)
  | .wide g => encE 0x5C 0x01 g .zero .zero .zero .zero (0)
  | .endwide g => encE 0x5C 0x02 g .zero .zero .zero .zero (0)
  | .exit g => encE 0x5C 0x04 g .zero .zero .zero .zero (0)
  | .trapret g => encE 0x5C 0x06 g .zero .zero .zero .zero (0)
  | .ifence g => encE 0x5C 0x07 g .zero .zero .zero .zero (0)
  | .brk g => encE 0x5C 0x0C g .zero .zero .zero .zero (0)
  | .wbase g a add => encE 0x5C 0x03 g .zero a .zero .zero (fl add 0)
  | .trap g a => encE 0x5C 0x05 g .zero a .zero .zero (0)
  | .icinv g a b fs => encE 0x5C 0x08 g .zero a b .zero (fs.mods)
  | .jmpi g a => encE 0x5C 0x09 g .zero a .zero .zero (0)
  | .ret g a => encE 0x5C 0x0A g .zero a .zero .zero (0)
  | .calli g d a => encE 0x5C 0x0B g d a .zero .zero (0)
  | .yieldto g a b c => encE 0x5C 0x0D g .zero a b c (0)
  | .ld g d a b m => encE 0x60 0x00 g d a b .zero (m.mods)
  | .st g a b c m => encE 0x60 0x01 g .zero a b c (m.mods)
  | .lds g d a b m => encE 0x60 0x02 g d a b .zero (m.mods)
  | .sts g a b c m => encE 0x60 0x03 g .zero a b c (m.mods)
  | .ldc g d a b ty fs => encE 0x60 0x04 g d a b .zero (fs.mods + ty.code * 2 ^ 10)
  | .gather g d a b m => encE 0x60 0x05 g d a b .zero (m.mods)
  | .prefetch g a b lvl => encE 0x60 0x06 g .zero a b .zero (fl (lvl == .msc) 7)
  | .rmw g d a b c m => encE 0x61 0x00 g d a b c (m.mods)
  | .fold g a b c m => encE 0x61 0x01 g .zero a b c (m.mods)
  | .rmwCas g d a b c m => encE 0x61 0x02 g d a b c (m.mods)
  | .fence g o s => encE 0x62 0x00 g .zero .zero .zero .zero (o.code * 2 ^ 5 + s.code * 2 ^ 2)
  | .gatePass g a bar => encE 0x62 0x01 g .zero a .zero .zero (bar.val)
  | .gateWait g a bar => encE 0x62 0x02 g .zero a .zero .zero (bar.val)
  | .bobjOpen g a b => encE 0x62 0x03 g .zero a b .zero (0)
  | .bobjDue g a b mk => encE 0x62 0x04 g .zero a b .zero (fl mk 0)
  | .bobjMark g a => encE 0x62 0x05 g .zero a .zero .zero (0)
  | .bobjHold g a b => encE 0x62 0x06 g .zero a b .zero (0)
  | .emberArm g a b k => encE 0x62 0x08 g .zero a b .zero (k.val)
  | .emberWait g d a => encE 0x62 0x09 g d a .zero .zero (0)
  | .emberDisarm g mask => encE 0x62 0x0A g .zero .zero .zero .zero (mask.toNat)
  | .spawn g a b fs => encE 0x63 0x00 g .zero a b .zero (fs.mods)
  | .launch g a fs => encE 0x63 0x01 g .zero a .zero .zero (fs.mods)
  | .await g a pd => encE 0x63 0x02 g .zero a .zero .zero (pd.val * 2 ^ 12)
  | .futSet g a b => encE 0x63 0x03 g .zero a b .zero (0)
  | .lockTake g a pd => encE 0x63 0x04 g .zero a .zero .zero (pd.val * 2 ^ 12)
  | .lockGive g a => encE 0x63 0x05 g .zero a .zero .zero (0)
  | .qpush g d a b fo o s fs =>
    encE 0x63 0x06 g d a b .zero (fs.mods + fo.code * 2 ^ 8 + o.code * 2 ^ 5 + s.code * 2 ^ 2)
  | .qpop g d a b o s fs =>
    encE 0x63 0x07 g d a b .zero (fs.mods + o.code * 2 ^ 5 + s.code * 2 ^ 2)
  | .park g a => encE 0x63 0x08 g .zero a .zero .zero (0)
  | .ldw g d a b m => encE 0x64 0x00 g d a b .zero (m.mods)
  | .stw g a b c m => encE 0x64 0x01 g .zero a b c (m.mods)
  | .spanArrive g => encE 0x64 0x02 g .zero .zero .zero .zero (0)
  | .spanSync g => encE 0x64 0x03 g .zero .zero .zero .zero (0)
  | .spanDetach g => encE 0x64 0x04 g .zero .zero .zero .zero (0)
  | .spanPeer g d a => encE 0x64 0x05 g d a .zero .zero (0)
  | .crewSet g a b => encE 0x68 0x00 g .zero a b .zero (0)
  | .tokTake g => encE 0x68 0x01 g .zero .zero .zero .zero (0)
  | .tokGive g a ps => encE 0x68 0x02 g .zero a .zero .zero (fl ps 0)
  | .mma g a m => encE 0x68 0x03 g .zero a .zero .zero (m.mods)
  | .mmas g a m => encE 0x68 0x04 g .zero a .zero .zero (m.mods)
  | .wbload g a m => encE 0x68 0x05 g .zero a .zero .zero (m.mods)
  | .accz g m => encE 0x68 0x06 g .zero .zero .zero .zero (m.mods)
  | .accld g a b m => encE 0x68 0x07 g .zero a b .zero (m.mods)
  | .accst g a b m => encE 0x68 0x08 g .zero a b .zero (m.mods)
  | .cpTile g d a b c m => encE 0x69 0x00 g d a b c (m.mods)
  | .cpMcast g d a b c m mask => encE 0x69 0x01 g d a b c (m.mods + mask.toNat)
  | .cpOut g d a b c m => encE 0x69 0x02 g d a b c (m.mods)
  | .cpGather g d a b c m => encE 0x69 0x03 g d a b c (m.mods)
  | .sget g d sr => encE 0x70 0x00 g d .zero .zero .zero (sr.toNat)
  | .sset g a sr => encE 0x70 0x01 g .zero a .zero .zero (sr.toNat)
  | .cctl g a b op fs => encE 0x70 0x02 g .zero a b .zero (fs.mods + op.code * 2 ^ 8)
  | .tlbinv g a b fs => encE 0x70 0x03 g .zero a b .zero (fs.mods)
  | .probe g d a fs => encE 0x70 0x04 g d a .zero .zero (fs.mods)
  | .scanStart g d a fs => encE 0x70 0x05 g d a .zero .zero (fs.mods)
  | .scanPoll g d a fs => encE 0x70 0x06 g d a .zero .zero (fs.mods)
  | .halt g => encE 0x70 0x07 g .zero .zero .zero .zero (0)
  | _ => []

end Sys2Proof
end

