-- ==== Sys2Proof/Config.lean ====
section
/-! DEFINITION. What the machine's implementation fixes, and the free values: constants with no body, so that no
proof can see what they are. Each is named in the assumption log. -/

namespace Sys2Proof

/-- SHA3-512 of a byte string; the spec names the function and does not define it (R329, R369). Log 20. -/
opaque Config.sha3 (bytes : List Byte) : BitVec 512

/-- KMAC256 with the session key, output 256 bits, customisation "ADRIL-PACKET" (R330). Log 20. -/
opaque Config.kmac (key : BitVec 256) (bytes : List Byte) : BitVec 256

/-- Whether an ML-DSA-87 signature over a digest verifies under a public key (R329, R367). Log 20. -/
opaque Config.verify (key : List Byte) (digest : BitVec 512) (sig : List Byte) : Bool

/-- What FIREBOX finds in a firmware image for a controller: its version where digest, signature and target controller
verify (R367). Log 20. -/
opaque Config.firmware (controller : Nat) (image : List Byte) : Option W64

/-- The format version of the hand-over block that an image writes (R369). Log 20. -/
opaque Config.blockFormat : W64

/-- The capabilities that KILN finds in the path and home of a window, by kind and destination (R324). Log 25. -/
opaque Config.path (kind dest : Nat) : Nat

/-- The `%devid` of the expander behind a CXL port, where it is also a FLUE peer (R325, R337). Log 25. -/
opaque Config.expanderId (port : Nat) : Nat

/-- The key pair FIREBOX draws from its random bit generator (R321), as one 512-bit value. Log 20. -/
opaque Config.drawKey (n : Nat) : BitVec 512

/-- The handle that `scan.start` writes, before the limits of R314 are applied. Log 21. -/
opaque Config.scanHandle (n : Nat) : W32

/-- The i-th of the 4 hashes of a DRAM row that CLINKER's filter uses (R418). Log 22. -/
opaque Config.bloomHash (i row : Nat) : Nat

/-- The DRAM row of a stack that holds a granule; the interleave belongs to the memory controller (R17). Log 22. -/
opaque Config.dramRow (granule : Nat) : Nat

/-- Which entry of count 1 of a full repeat table is replaced when none has count 1 (R418). Log 22. -/
opaque Config.repeatVictim (n : Nat) : Nat

/-- Which waiter proceeds first where the spec fixes no order (R172's tie beyond its breaks, R284). Log 23. -/
opaque Config.freeChoice (n : Nat) : Nat

/-- What ARRIVALS of a barrier object holds after an arrival while it is 0; the spec gives no value (R186). Log 24. -/
opaque Config.arrivalsBelow (n : Nat) : BitVec 12

end Sys2Proof
end

