-- ==== Sys2Proof/Machine/State.lean ====
section
/-! DEFINITION. The state of the device as plain data, what a step may end in besides a next state, and the machine
right after reset. -/

namespace Sys2Proof.Machine

/-- A table: key and value pairs, keys strictly rising. -/
abbrev Tab (α : Type) := List (Nat × α)

/-- Bytes by address, in the canonical form of `Store`. -/
abbrev Mem := Store 8

/-! ## Names of places -/

/-- Where a physical address leads: a byte of local memory, of a tenant's GLAZE space, of fabric space, or of a tenant's
registry area, by R104, R323 and R329. A place in fabric space has the physical address by which the caches hold it, its key
identifier (the tenant's) with its offset `pa` (R104, R110), and where that leads: byte `a` at a home, `dest` being 4,096 ×
kind + port or `%devid`. -/
inductive Place
  | loc (a : Nat)
  | inAlias (tenant a : Nat)
  | home (tenant pa dest a : Nat)
  | registry (tenant a : Nat)
  deriving DecidableEq, Repr

/-- Attributes of a translated page (R106) with its size code (R313) and region (R104). -/
structure Attr where
  w : Bool
  x : Bool
  pol : Nat
  coh : Bool
  psize : Nat
  region : Nat
  deriving DecidableEq, Repr

/-! ## Waves -/

/-- A path of a slice: a program counter and a mask (R30). -/
structure Path where
  pc : Nat
  mask : BitVec 4
  deriving DecidableEq, Repr

/-- The clause a slice has started: its words not yet issued, its two set flags (R187, R188), and whether its first
issue is still to come under a YIELD hint (R191). -/
structure Clause where
  rest : List W32
  seta : Nat
  setb : Nat
  young : Bool
  deriving DecidableEq, Repr

/-- What a strand waits in (R48, R259, R374). The program counter stands at the waiting instruction. `entered` stands
only among saved waits: the joint operation of a member in a handler has entered the array (R381). -/
inductive Wait
  | regang
  | wide
  | trapret
  | gate (bar phase : Nat)
  | hold (obj : Nat) (phase : Bool)
  | yieldto (obj : Nat) (phase : Bool) (cont : Nat) (lanes : W32)
  | ember (deadline : Option Nat) (d : Opd) (lanes : W32)
  | span (phase : Nat)
  | latch
  | token
  | await (lock : Bool) (pd : Fin 8) (addr : W64)
  | entered
  deriving DecidableEq, Repr

/-- A slice (R23, R30, R39, R45). `pc` is the next word to issue, or the header of the clause to start. -/
structure SliceSt where
  pc : Nat
  mask : BitVec 4
  exited : BitVec 4
  stack : List Path
  window : Nat
  flags : List Nat
  strand : Nat
  clause : Option Clause
  wait : Option Wait
  /-- the clock of its strand's last issue, and the one at which its partition has found the strand ready ever since (R73) -/
  lastIssue : Nat
  readySince : Option Nat
  deriving DecidableEq, Repr

/-- One slice of the wide-region save (R36). -/
structure WideSave where
  mask : BitVec 4
  exited : BitVec 4
  stack : List Path
  deriving DecidableEq, Repr

/-- An EMBER slot: the watched 8-byte word, if armed, and the hit bit (R77). -/
structure Ember where
  armed : Option Place
  hit : Bool
  deriving DecidableEq, Repr

/-- The state that goes with the running task: what a park area holds (R83, R93) and what the record gives.
Vector registers are keyed 32 × register + lane, scalars 32 × slice + number, predicates by lane. -/
structure TaskCtx where
  record : W64
  root : Bool
  regs : Nat
  cls : Nat
  vregs : Store 32
  scal : Store 32
  preds : Store 8
  slices : List SliceSt
  wide : Option (List WideSave)
  ember : List Ember
  /-- poisoned granules of vector registers: 2 × register + half (R413, R414) -/
  poison : List Nat
  deriving DecidableEq, Repr

/-- A Helping task of a chain with the wait it stands in (R93, R96, R101). `status` is what its wait has been given
already: true where the Irwald unit took the lock for it, false where it is marked faulted. `past` records that its waitable
has been ready since it began to wait (R94, R433). -/
structure Helper where
  task : TaskCtx
  lock : Bool
  pd : Fin 8
  addr : W64
  status : Option Bool
  past : Bool
  deriving DecidableEq, Repr

/-- A task that a wave has taken for adoption while the wave's outstanding operations complete (R93). The wait for which it
helps, `lock`, `pd` and `addr`, is that of the `await` or `lock.await` that claimed: it goes on while a trap handler of the wave
runs (R94, R374). `status` and `past` are as of a Helper. -/
structure Claim where
  owner : W64
  lock : Bool
  pd : Fin 8
  addr : W64
  status : Option Bool
  past : Bool
  deriving DecidableEq, Repr

/-- How the running task of a slot ended or gave up the slot (R88, R94). -/
inductive TaskEnd
  | done
  | parked
  | waiting
  | fault
  deriving DecidableEq, Repr

/-- An outstanding long-latency operation with its operands as read at issue (R40, R375). `vals` is keyed
32 × field + lane, field 0 to 3 for a to d; a `qpush` that waits for a segment has its payload there from field 2 on; `todo` are the lanes not yet performed. -/
structure Op where
  id : Nat
  instr : Instr
  pc : Nat
  lanes : W32
  todo : W32
  slices : BitVec 8
  undone : BitVec 8
  flag : Option Nat
  vals : Store 128
  wins : List Nat
  checked : Bool
  depth : Nat
  dst : List (Opd × Nat)
  deriving DecidableEq, Repr

/-- A precise trap that a wave is about to take (R372 to R377). -/
structure TrapReq where
  cls : Nat
  code : Nat
  addr : Nat
  lane : Nat
  detail : Nat
  flag : Nat
  slices : BitVec 8
  fpc : Nat
  lanes : W32
  rows : Nat
  lines : Nat
  pend : Nat
  lost : Bool
  deriving DecidableEq, Repr

/-- A pending asynchronous error (R382 to R385), with the handler depth at which its operation was issued. -/
structure AsyncErr where
  code : Nat
  detail : Nat
  addr : Nat
  lane : Nat
  flag : Nat
  slices : BitVec 8
  fpc : Nat
  lanes : W32
  rows : Nat
  lines : Nat
  depth : Nat
  /-- found while the gang was being stopped for pre-emption: it is raised after the restore (R389) -/
  drain : Bool := false
  deriving DecidableEq, Repr

/-- What the device keeps of a stopped wave beside the frame, per handler depth: each slice's clause in progress and
wait, the strand of each slice, the flag counts set aside (R374) and the replay record (R375). -/
structure TrapSave where
  pcs : List Nat
  clauses : List (Option Clause)
  waits : List (Option Wait)
  strands : List Nat
  flags : List (List Nat)
  replay : List Op
  deriving DecidableEq, Repr

/-- A wave slot with its running task (R23, R25, R84, R88, R309, R310). `loop` is the loop buffer: addresses with their
words, the oldest first. -/
structure Wave where
  group : Nat
  idx : Nat
  wid : Nat
  alloc : Nat
  born : Nat
  task : TaskCtx
  /-- how the running task left the slot; none while it runs -/
  ended : Option TaskEnd
  chain : List Helper
  adopting : Option Claim
  /-- the root task while another task has the slot, with its wait; none for a root task that is Parked -/
  root : Option (TaskCtx × Option (Bool × Fin 8 × W64))
  /-- the monitor of a waiting root task has seen its waitable ready (R99) -/
  rootReady : Bool
  queue : Option W64
  exited : Bool
  ops : List Op
  depth : Nat
  narm : Bool
  saves : List TrapSave
  stop : Option TrapReq
  held : List Op
  trapbase : Nat
  cause : W32
  tinfo : W32
  taddr : W64
  pending : List AsyncErr
  lost : Bool
  note : Bool
  clstep : Bool
  brkstop : Bool
  halted : Bool
  spanArrivals : Nat
  loop : List (Nat × W32)
  deriving DecidableEq, Repr

/-! ## Groups and cores -/

/-- A named barrier (R273, R274). -/
structure Bar where
  expected : Nat
  count : Nat
  phase : Nat
  deriving DecidableEq, Repr

/-- A member's arrival in a rendezvous latch (R170, R297). -/
structure Arrival where
  wave : Nat
  op : Nat
  member : Nat
  mods : MmaMods
  sparse : Bool
  addr : Nat
  deriving DecidableEq, Repr

/-- A crew: its member mask, its latch, and whether a joint operation has formed there (R169, R170). -/
structure Crew where
  mask : BitVec 32
  latch : List Arrival
  formed : Bool
  deriving DecidableEq, Repr

/-- A weight slot (R176, R406, R437). -/
structure Slot where
  owner : Option Nat
  loaded : Bool
  fmt : MFmt
  n128 : Bool
  k : Nat
  form : BForm
  img : Mem
  bad : Option Nat
  poison : List Nat
  deriving DecidableEq, Repr

/-- A group (R23, R59, R72, R113, R114). Accumulator elements are keyed 4,096 × tile + 128 × row + column. -/
structure Group where
  launch : Nat
  gang : Nat
  number : Nat
  pos : Nat
  nwaves : Nat
  core : Option Nat
  slot : Nat
  base : Nat
  spad : Mem
  tiles : Store 32
  spadPoison : List Nat
  tilePoison : List Nat
  bars : List Bar
  crews : List (Option Crew)
  detached : Bool
  exited : Bool
  /-- released by R72: the exit is complete and the units are free -/
  freed : Bool
  savedSlots : Tab Slot
  savedToken : Option Nat
  /-- the waves, with their crews, that waited for the token when the group was saved, in their order (R172, R389) -/
  savedTakers : List (Nat × Nat)
  lastIssue : Nat
  deriving DecidableEq, Repr

/-- What has entered a core's array and is unfinished, in order of entry (R173, R179, R180). -/
inductive Entry
  | joint (group crew : Nat) (sparse : Bool) (members : List Arrival)
  | tile (wave op tile : Nat)
  | load (wave op : Nat) (mods : WbMods)
  deriving DecidableEq, Repr

/-- The box of a copy: the layout record's fields (R181) and the copy's own (R182, R305). -/
structure Box where
  base : Nat
  dims : List Nat
  strides : List Nat
  boxes : List Nat
  coords : List Nat
  deriving DecidableEq, Repr

/-- A copy in a SLIP port (R183, R305, R385): `done` lines of the box have been delivered; `excess` says that bytes of it were in a
delivery that raised EARLY past its maximum (R448). -/
structure Copy where
  id : Nat
  wave : Nat
  op : Nat
  lane : Nat
  instr : Instr
  box : Box
  rows : List Nat
  spad : Nat
  obj : Nat
  stamp : Nat
  value : W64
  done : Nat
  excess : Bool
  deriving DecidableEq, Repr

/-- An L1, constant-cache or instruction-cache sector of 128 bytes, by address-space identifier and virtual
address (R12, R110, R112). -/
structure VSector where
  asid : Nat
  va : Nat
  place : Place
  attr : Attr
  data : BitVec 1024
  poison : BitVec 4
  deriving DecidableEq, Repr

/-- A sector of 128 bytes held by physical place, with byte masks (R15, R110), and the tenant and context that
last wrote it. Each of its two granules has 2 bits of poison: 0 none, 1 from DRAM, 2 from SRAM, 3 from the fabric
(R409, R413). -/
structure PSector where
  place : Place
  tenant : Nat
  ctx : Nat
  coh : Bool
  data : BitVec 1024
  valid : BitVec 128
  dirty : BitVec 128
  poison : BitVec 4
  deriving DecidableEq, Repr

/-- A cached translation (R107). -/
structure TlbEntry where
  asid : Nat
  va : Nat
  size : Nat
  pa : Nat
  attr : Attr
  deriving DecidableEq, Repr

/-- A logical core (R12). -/
structure Core where
  token : Option (Nat × Nat)
  /-- waves that wait in `tok.take`, in the order in which they are served: group, crew, wave (R172) -/
  takers : List (Nat × Nat × Nat)
  array : List Entry
  slots : List Slot
  copies : List Copy
  /-- copies that the port, full with 64, has not accepted yet, in order of issue (R183) -/
  pend : List Copy
  l1 : List VSector
  cc : List VSector
  ic : List VSector
  clockBase : Nat
  scanning : Option Nat
  /-- issue cycles that each of the 4 partitions has had (R48, R73) -/
  cycles : List Nat
  deriving DecidableEq, Repr

/-- A logical cluster (R15). -/
structure Cluster where
  l2 : List PSector
  tlb : List TlbEntry
  deriving DecidableEq, Repr

/-- Memory behind the cores (R16, R104, R110, R124, R323, R326, R413). `homes` and `homePoison` are keyed by destination,
host memory by 0. `bad` are the granules of local memory that an uncorrectable DRAM error has poisoned and that are still
poisoned (R455), `sram` the poisoned ones whose error arose in an SRAM, `wire` those whose poison came over the fabric. `msc`
holds lines of fabric space in the slices of the MSC, `lines` the numbers of the lines of local memory that stand there: their
bytes are `loc`, the MSC being their point of coherence. `dirty` are those of them that the MSC holds with a dirty sector (R123).
`snoop` is the snoop filter of the
MSC: lines of local memory, by number, that agents outside cache coherently. -/
structure MemSys where
  loc : Mem
  poison : List Nat
  bad : List Nat
  sram : List Nat
  wire : List Nat
  dead : List (Nat × Nat)
  homes : Tab Mem
  homePoison : List (Nat × Nat)
  msc : List PSector
  lines : List Nat
  dirty : List Nat
  snoop : List Nat
  deriving DecidableEq, Repr

/-! ## Tenants and contexts -/

/-- A format region (R117), VALID with the other control bits in `control`. -/
structure Region where
  base : Nat
  size : Nat
  control : W32
  seed : W64
  deriving DecidableEq, Repr

/-- A fabric window (R323). -/
structure Window where
  base : Nat
  size : Nat
  target : Nat
  control : W32
  deriving DecidableEq, Repr

/-- A registered kernel (R329): its digest, its place in the registry window and its image. -/
structure Kernel where
  digest : BitVec 512
  va : Nat
  image : List Byte
  deriving DecidableEq, Repr

/-- A tenant and its function (R317, R318, R320, R321, R323, R328, R329, R334, R363, R365, R434). `away` are the extents that
it holds of other 900-Ls, `gone` those it held and has released: destination, base, size (R328, R424). -/
structure Tenant where
  enabled : Bool
  key : Option (BitVec 512)
  pkey : BitVec 16
  policy : W32
  ranges : List (Nat × Nat)
  extents : List (Nat × Nat)
  releasing : List (Nat × Nat)
  released : List (Nat × Nat)
  away : List (Nat × Nat × Nat)
  gone : List (Nat × Nat × Nat)
  windows : List Window
  regions : List Region
  signKeys : Tab (List Byte)
  kernels : List Kernel
  quotaUsed : Nat
  payload : Mem
  cmd : W32
  dseq : Nat
  result : Nat
  busy : Bool
  deriving DecidableEq, Repr

/-- A host command queue (R61, R444). -/
structure HostQueue where
  header : Nat
  ring : Nat
  log2 : Nat
  read : Nat
  write : Nat
  overrun : Bool
  /-- a doorbell that KILN has not yet served (R366) -/
  rung : Bool
  deriving DecidableEq, Repr

/-- A context (R109, R310, R317, R319, R415). Blocks taken are (address, size). -/
structure Ctx where
  tenant : Nat
  asid : Nat
  tableRoot : Nat
  trapbase : Nat
  arena : Nat × Nat
  arenaTaken : List (Nat × Nat)
  reserve : Nat × Nat
  reserveTaken : List (Nat × Nat)
  mgmt : Bool
  cap : Bool
  strict : Bool
  att : Bool
  viral : Bool
  queues : Tab HostQueue
  segments : List (Nat × Nat)
  deriving DecidableEq, Repr

/-! ## KILN and the Irwald units -/

/-- Where a launch came from (R64). One from a task packet has its argument block (R333) and the bases of the extents that
the packet named (R328). -/
inductive Source
  | host
  | kernel
  | packet (args : Nat) (extents : List Nat)
  deriving DecidableEq, Repr

/-- States of a launch (R63). A Complete launch is no longer in the table. -/
inductive LState
  | blocked
  | ready
  | running
  | completing
  deriving DecidableEq, Repr

/-- A launch record's fields (R57, R58). -/
structure Record where
  entry : Nat
  args : W64
  completion : Nat
  tag : Nat
  groups : Nat
  ctx : Nat
  regs : Nat
  persist : Bool
  prio : Nat
  gang : Nat
  waves : Nat
  pool : W32
  spanKey : Nat
  spanFirst : Nat
  spanMembers : Nat
  spanDevices : Nat
  deps : List Nat
  deriving DecidableEq, Repr

/-- A live launch (R60, R63, R432). `placed` gangs have been placed once, `ended` gangs have exited. -/
structure Launch where
  record : Record
  source : Source
  age : Nat
  state : LState
  deps : List Nat
  placed : Nat
  ended : Nat
  viral : Bool
  fault : Bool
  nest : Bool
  stall : Bool
  deriving DecidableEq, Repr

/-- States of a placed gang (R65); an Unplaced or Exited gang is not in the table. -/
inductive GState
  | resident
  | saved
  | held
  deriving DecidableEq, Repr

/-- A gang (R65, R70). -/
structure Gang where
  launch : Nat
  number : Nat
  state : GState
  groups : List Nat
  cores : List Nat
  since : Nat
  expired : Bool
  marked : Bool
  saveAreas : List Nat
  records : List Nat
  barrier : Nat
  deriving DecidableEq, Repr

/-- A task that is Waiting or Parked outside its own slot (R83, R87, R99), with its home queue. A Waiting task has
the waitable its monitor is armed on, and whether the monitor has seen it ready. -/
structure ParkedTask where
  ctx : Nat
  task : TaskCtx
  home : W64
  waits : Option W64
  past : Bool
  deriving DecidableEq, Repr

/-- A push of an Irwald unit that waits for a segment. `short` says that none could be supplied when it arose, so that the unit
holds it (R458); of any other KILN links the segment as it does for a `qpush` (R75). -/
structure HeldPush where
  ctx : Nat
  queue : W64
  record : W64
  short : Bool
  deriving DecidableEq, Repr

/-- A session (R330, R331). `extent` is the base of the extent that holds its inbox. -/
structure Session where
  tenant : Nat
  ctx : Nat
  header : Nat
  ring : Nat
  log2 : Nat
  read : Nat
  write : Nat
  overrun : Bool
  seq : Nat
  key : Option (BitVec 256)
  extent : Nat
  deriving DecidableEq, Repr

/-- Status of a scan request (R314, R439). -/
structure Scan where
  core : Option Nat
  status : Nat
  deriving DecidableEq, Repr

/-- A member of a span on another device, as FLUE shows it (R72, R116, R425): its scratchpad, what it has reported,
its arrivals at the span barrier. -/
structure Remote where
  member : Nat
  device : Nat
  spadu : Nat
  spad : Mem
  /-- poisoned granules of that scratchpad (R413) -/
  poison : List Nat
  arrivals : Nat
  detached : Bool
  exited : Bool
  departed : Bool
  deriving DecidableEq, Repr

/-- A placement that KILN has reserved for a gang (R71): the launch, the gang number, the gang if it was saved, and per
group the core, the first wave id, and the addresses taken. -/
structure Plan where
  launch : Nat
  number : Nat
  gang : Option Nat
  spots : List (Nat × Nat)
  arena : List Nat
  save : List Nat
  deriving DecidableEq, Repr

/-- A span as this device knows it (R71, R72, R290, R425). -/
structure Span where
  reserved : List Plan
  ready : Bool
  committed : Bool
  prio : Nat
  remotes : List Remote
  departed : List Nat
  barrier : Nat
  deriving DecidableEq, Repr

/-- What a `launch` instruction has submitted and KILN has not yet accepted: lanes and their records' bytes (R62, R281). -/
structure Submit where
  wave : Nat
  op : Nat
  recs : List (Nat × List Byte)
  deriving DecidableEq, Repr

/-- What KILN, FIREBOX and the Irwald units keep. Groups, waves, gangs and launches are keyed by numbers that are
never used twice. -/
structure Kiln where
  tenants : Tab Tenant
  ctxs : Tab Ctx
  launches : Tab Launch
  gangs : Tab Gang
  groups : Tab Group
  waves : Tab Wave
  parked : List ParkedTask
  heldPushes : List HeldPush
  sessions : Tab Session
  scans : Tab Scan
  spans : Tab Span
  submits : List Submit
  nextUid : Nat
  deriving DecidableEq, Repr

/-! ## The device -/

/-- The two fittings (R1). -/
inductive Fitting
  | h900
  | l900
  deriving DecidableEq, Repr

/-- A CLINKER unit (R418, R419). -/
structure Clinker where
  first : Nat
  repeats : Nat
  spare : Nat
  retired : Nat
  uncorr : Nat
  bloom : List Nat
  table : List (Nat × Nat)
  retiredRows : List Nat
  deriving DecidableEq, Repr

/-- The firmware of one controller (R367 to R370, R442, R443), by its code of R461. -/
structure Firmware where
  version : W64
  staged : Option W64
  stopped : Bool
  deriving DecidableEq, Repr

/-- A section of a hand-over block (R369): its kind, where it stands, and its content as 8-byte numbers. -/
structure Section where
  kind : Nat
  offset : Nat
  length : Nat
  content : List Nat
  deriving DecidableEq, Repr

/-- A hand-over block (R369): the fields of its header, with the sections that it lists. -/
structure HandOver where
  format : Nat
  writer : W64
  length : Nat
  tick : Nat
  digest : BitVec 512
  sections : List Section
  deriving DecidableEq, Repr

/-- An activation in progress (R367 to R370, R442): the deadline is none before the safe point. -/
structure Activation where
  controller : Nat
  fn : Nat
  seq : Nat
  deadline : Option Nat
  old : Bool
  /-- the hand-over block written at the safe point -/
  block : Option HandOver
  deriving DecidableEq, Repr

/-- A FLUE link (R149, R420). -/
structure Link where
  replays : Nat
  retrains : Nat
  out : Bool
  deriving DecidableEq, Repr

/-- Device-wide state (R18, R21, R361, R365, R371, R419, R440). `milli` counts thousandths of arithmetic cycles. -/
structure Dev where
  fitting : Fitting
  populated : Nat
  tick : Nat
  milli : Nat
  mhz : Nat
  limit : Nat
  clus : BitVec 24
  links : BitVec 16
  stackBits : BitVec 8
  ports : BitVec 4
  firebox : Bool
  kiln : Bool
  devid : Nat
  devSet : Bool
  /-- a link has trained since the last device reset or function reset of the PF (R365) -/
  trained : Bool
  linkState : List Link
  lostRoutes : List Nat
  lostPorts : List Nat
  clinker : List Clinker
  lastClear : Nat
  removed : Nat
  spares : Nat
  outOfService : List Nat
  physical : List Nat
  firmware : Tab Firmware
  activation : Option Activation
  deriving DecidableEq, Repr

/-! ## The model's own fields -/

/-- One turn of an agent: an issue slot of a partition (R73), an event of the table, one clock in which several partitions
issue and lines of copies (core, copy, count) are delivered, the command of a function's mailbox that is in progress, time
passing, or a cache dropping a clean sector (R110): in the MSC, those of fabric space first, then the lines of local memory. -/
inductive Turn
  | issue (core part : Nat)
  | event (e : Instr)
  | mailbox (fn : Nat)
  | clock (issues : List (Nat × Nat)) (lines : List (Nat × Nat × Nat))
  | elapse (ticks : Nat)
  | dropL1 (core i : Nat)
  | dropL2 (cluster i : Nat)
  | dropMsc (i : Nat)
  | dropSnoop (i : Nat)
  | dropIc (core i : Nat)
  | dropTlb (cluster i : Nat)
  deriving DecidableEq, Repr

/-- The strand that is issuing: a wave and the number of one of its strands. -/
structure Cur where
  wave : Nat
  strand : Nat
  deriving DecidableEq, Repr

/-- Soft errors of the arithmetic units that the outside injects (R387, R438): bits to flip in the next checked
result of a wave's lane, or, for a member of a joint operation, in group sum `sum` of a row (`lane`) and column. -/
structure Glitch where
  wave : Nat
  lane : Nat
  col : Nat
  sum : Nat
  flips : W32
  deriving DecidableEq, Repr

/-- A change that reaches a barrier object (R186), or a `tok.take` (R172), in a clock: posts and deliveries by bytes, a delivery
with the number of its copy. A `tok.take` has its group's position on the core (R67). -/
inductive Change
  | post (group obj n : Nat)
  | deliver (group obj n copy : Nat)
  | arrive (group obj : Nat)
  | take (core group crew slot wave : Nat)
  deriving DecidableEq, Repr

/-- The model's own fields: whose turn is next, the strand that issues, the turn of the default rotation, the counter
handed to free values, injected soft errors, what has reached barrier objects and tokens in the clock that is being taken,
whether the turn has met a request that must wait for a controller's firmware, and outside events that wait so (R367). -/
structure Sched where
  cur : Option Cur
  agenda : List Turn
  rot : Nat
  fresh : Nat
  glitch : List Glitch
  changes : Option (List Change)
  held : Bool
  waiting : List Turn
  deriving DecidableEq, Repr

/-- The machine. -/
structure State where
  dev : Dev
  mem : MemSys
  kiln : Kiln
  cores : Tab Core
  clusters : Tab Cluster
  sched : Sched
  deriving DecidableEq, Repr

/-! ## What a step may end in -/

/-- Ends of a run that are not the device's. -/
inductive Fault
  /-- `exec` was asked to run an instruction while no strand is issuing; only a caller that bypasses `step` can do
  this. Safe: the device never issues an instruction without a strand. -/
  | noStrand
  deriving DecidableEq, Repr

/-- Refusals. -/
inductive Refusal
  /-- Raised by an arm of `exec` for an instruction that has no meaning yet. Safe: nothing is claimed of it. -/
  | notModelled (mnemonic : String)
  deriving DecidableEq, Repr

/-! ## Reset -/

/-- A slot that has never been loaded (R299). -/
def Slot.empty : Slot := ⟨none, false, .e2m1b, false, 0, .dense, [], none, []⟩

/-- A core with nothing resident and empty caches; what a core unlisted in the table is. -/
def Core.reset : Core := ⟨none, [], [], List.replicate 8 .empty, [], [], [], [], [], 0, none, [0, 0, 0, 0]⟩

/-- A cluster with empty caches; what a cluster unlisted in the table is. -/
def Cluster.reset : Cluster := ⟨[], []⟩

/-- A tenant that holds nothing, its function not enabled (R117, R318, R323, R363). -/
def Tenant.reset (n : Nat) : Tenant :=
  ⟨false, none, BitVec.ofNat 16 (n + 1), 0, [], [], [], [], [], [], List.replicate 32 ⟨0, 0, 0, 0⟩,
    List.replicate 16 ⟨0, 0, 0, 0⟩, [], [], 0, [], 0, 0, 0, false⟩

/-- A CLINKER unit with clear counters (R419); 8 spare rows are the model's choice (log 4). -/
def Clinker.reset : Clinker := ⟨0, 0, 8, 0, 0, [], [], []⟩

/-- The device right after reset (R361, R365, R371, R419, R440). -/
def Dev.reset : Dev :=
  { fitting := .h900, populated := 512 * 2 ^ 30, tick := 0, milli := 0, mhz := 3300, limit := 1500,
    clus := 0, links := 0, stackBits := 0, ports := 0, firebox := false, kiln := false, devid := 0, devSet := false, trained := false,
    linkState := List.replicate 16 ⟨0, 0, false⟩, lostRoutes := [], lostPorts := [],
    clinker := List.replicate 8 .reset, lastClear := 0, removed := 0, spares := 8, outOfService := [],
    physical := List.range 192, firmware := [], activation := none }

/-- The machine right after reset. -/
def State.reset : State :=
  { dev := .reset
    mem := ⟨[], [], [], [], [], [], [], [], [], [], [], []⟩
    kiln := ⟨(List.range 16).map (fun n => (n, .reset n)), [], [], [], [], [], [], [], [], [], [], [], 1⟩
    cores := []
    clusters := []
    sched := ⟨none, [], 0, 0, [], none, false, []⟩ }

end Sys2Proof.Machine
end

