-- ==== Sys2Proof/Machine/Store.lean ====
section
/-! DEFINITION. The named operations over sparse storage and tables: reading, writing, ranges, bit helpers. -/

namespace Sys2Proof

/-- The value a sparse store holds at a key; an unlisted key reads 0. -/
def Store.get {w : Nat} : Store w → Nat → BitVec w
  | [], _ => 0
  | (k', v) :: r, k => if k' = k then v else Store.get r k

/-- Writing one key, keeping the canonical form: a zero leaves no entry. -/
def Store.set {w : Nat} : Store w → Nat → BitVec w → Store w
  | [], k, v => if v = 0 then [] else [(k, v)]
  | (k', v') :: r, k, v =>
    if k < k' then (if v = 0 then (k', v') :: r else (k, v) :: (k', v') :: r)
    else if k = k' then (if v = 0 then r else (k, v) :: r)
    else (k', v') :: Store.set r k v

/-- The canonical form: keys strictly rising from `lo`, no value zero. -/
def Store.wfFrom {w : Nat} : Nat → Store w → Bool
  | _, [] => true
  | lo, (k, v) :: r => decide (lo ≤ k) && decide (v ≠ 0) && Store.wfFrom (k + 1) r

/-- Whether a sparse store is in canonical form. -/
def Store.wf {w : Nat} (m : Store w) : Bool := Store.wfFrom 0 m

/-- Writing several keys, the later ones last. -/
def Store.setAll {w : Nat} (m : Store w) : List (Nat × BitVec w) → Store w
  | [] => m
  | (k, v) :: r => Store.setAll (m.set k v) r

/-- Dropping every entry with a key in [lo, hi): those keys then read 0. -/
def Store.clear {w : Nat} (lo hi : Nat) : Store w → Store w
  | [] => []
  | (k, v) :: r => if lo ≤ k ∧ k < hi then Store.clear lo hi r else (k, v) :: Store.clear lo hi r

/-- The entries with a key in [lo, lo + n), numbered from 0. -/
def Store.part {w : Nat} (m : Store w) (lo n : Nat) : Store w :=
  m.filterMap (fun x => if lo ≤ x.1 ∧ x.1 < lo + n then some (x.1 - lo, x.2) else none)

/-- n bytes from address a, the lowest address first. -/
def Store.bytes (m : Store 8) (a : Nat) : Nat → List Byte
  | 0 => []
  | n + 1 => m.get a :: Store.bytes m (a + 1) n

/-- Writing bytes from address a upwards. -/
def Store.setBytes (m : Store 8) (a : Nat) : List Byte → Store 8
  | [] => m
  | b :: r => Store.setBytes (m.set a b) (a + 1) r

/-- The little-endian value of bytes (R5). -/
def leNat : List Byte → Nat
  | [] => 0
  | b :: r => b.toNat + 256 * leNat r

/-- The n low bytes of a value, little-endian (R5). -/
def leBytes (v : Nat) : Nat → List Byte
  | 0 => []
  | n + 1 => BitVec.ofNat 8 v :: leBytes (v / 256) n

/-- 32-bit values as bytes from an address, and back. -/
def Store.wordBytes (m : Store 32) (a : Nat) : List (Nat × Byte) :=
  m.flatMap (fun x => [0, 1, 2, 3].map (fun i => (a + 4 * x.1 + i, BitVec.ofNat 8 (x.2.toNat / 256 ^ i))))
def Store.words (m : Store 8) : Store 32 :=
  m.foldl (fun s x => s.set (x.1 / 4) (s.get (x.1 / 4) + BitVec.ofNat 32 (x.2.toNat * 256 ^ (x.1 % 4)))) []

/-- A field of n bytes at an offset of a byte list, little-endian. -/
def fieldAt (bs : List Byte) (off n : Nat) : Nat := leNat ((bs.drop off).take n)

namespace Machine

/-- The value of a table at a key. -/
def Tab.find {α : Type} : Tab α → Nat → Option α
  | [], _ => none
  | (k', v) :: r, k => if k' = k then some v else Tab.find r k

/-- Putting a value at a key. -/
def Tab.put {α : Type} : Tab α → Nat → α → Tab α
  | [], k, v => [(k, v)]
  | (k', v') :: r, k, v =>
    if k < k' then (k, v) :: (k', v') :: r else if k = k' then (k, v) :: r else (k', v') :: Tab.put r k v

/-- Taking a key out. -/
def Tab.drop {α : Type} : Tab α → Nat → Tab α
  | [], _ => []
  | (k', v') :: r, k => if k = k' then r else (k', v') :: Tab.drop r k

/-- The keys of a table. -/
def Tab.keys {α : Type} (t : Tab α) : List Nat := t.map (·.1)

/-- Changing the value at a key, if there is one. -/
def Tab.modify {α : Type} : Tab α → Nat → (α → α) → Tab α
  | [], _, _ => []
  | (k', v') :: r, k, f => if k' = k then (k', f v') :: r else (k', v') :: Tab.modify r k f

/-- Changing the i-th element of a list. -/
def modAt {α : Type} (l : List α) (i : Nat) (f : α → α) : List α :=
  match l, i with
  | [], _ => []
  | a :: r, 0 => f a :: r
  | a :: r, i + 1 => a :: modAt r i f

/-- Changing the elements whose positions, counted from `i`, satisfy p. -/
def modWhere {α : Type} (p : Nat → Bool) (f : Nat → α → α) : Nat → List α → List α
  | _, [] => []
  | i, a :: r => (if p i then f i a else a) :: modWhere p f (i + 1) r

/-- The set bits of a mask below n, ascending. -/
def bitsOf {w : Nat} (m : BitVec w) : List Nat := (List.range w).filter (fun i => m.getLsbD i)

/-- The mask with the given bits. -/
def maskOf {w : Nat} (l : List Nat) : BitVec w := l.foldl (fun m i => m ||| BitVec.ofNat w (2 ^ i)) 0

/-- The number of set bits. -/
def popCount {w : Nat} (m : BitVec w) : Nat := (bitsOf m).length

/-- The least element of a list, if any. -/
def least : List Nat → Option Nat
  | [] => none
  | a :: r => match least r with
    | none => some a
    | some b => some (min a b)

/-- Putting an element before the first that it may precede. -/
def insertBy {α : Type} (le : α → α → Bool) (a : α) : List α → List α
  | [] => [a]
  | b :: r => if le a b then a :: b :: r else b :: insertBy le a r

/-- A list in an order. -/
def sortBy {α : Type} (le : α → α → Bool) : List α → List α
  | [] => []
  | a :: r => insertBy le a (sortBy le r)

/-- The lowest base, a multiple of `al` from `lo`, at which `size` bytes below `hi` meet none of the taken blocks. -/
def firstFit (taken : List (Nat × Nat)) (al size hi : Nat) : Nat → Nat → Option Nat
  | 0, _ => none
  | fuel + 1, lo =>
    let a := (lo + al - 1) / al * al
    if a + size > hi then none
    else match taken.find? (fun b => decide (b.1 < a + size) && decide (a < b.1 + b.2)) with
      | none => some a
      | some b => firstFit taken al size hi fuel (b.1 + b.2)

end Machine
end Sys2Proof
end

