-- ==== Sys2Proof/Machine/Access.lean ====
section
/-! DEFINITION. Named access to the parts of the state: waves, slices, groups, cores, contexts, tenants. -/

namespace Sys2Proof.Machine

/-! ## Parts of the state -/

def State.wave (s : State) (u : Nat) : Option Wave := Tab.find s.kiln.waves u
def State.group (s : State) (g : Nat) : Option Group := Tab.find s.kiln.groups g
def State.gang (s : State) (g : Nat) : Option Gang := Tab.find s.kiln.gangs g
def State.launch (s : State) (l : Nat) : Option Launch := Tab.find s.kiln.launches l
def State.ctx (s : State) (c : Nat) : Option Ctx := Tab.find s.kiln.ctxs c
def State.core (s : State) (c : Nat) : Core := (Tab.find s.cores c).getD .reset
def State.cluster (s : State) (c : Nat) : Cluster := (Tab.find s.clusters c).getD .reset
def State.tenant (s : State) (t : Nat) : Tenant := (Tab.find s.kiln.tenants t).getD (.reset t)

def State.setWave (s : State) (u : Nat) (w : Wave) : State :=
  { s with kiln := { s.kiln with waves := Tab.put s.kiln.waves u w } }
def State.modWave (s : State) (u : Nat) (f : Wave → Wave) : State :=
  { s with kiln := { s.kiln with waves := Tab.modify s.kiln.waves u f } }
def State.setGroup (s : State) (g : Nat) (x : Group) : State :=
  { s with kiln := { s.kiln with groups := Tab.put s.kiln.groups g x } }
def State.modGroup (s : State) (g : Nat) (f : Group → Group) : State :=
  { s with kiln := { s.kiln with groups := Tab.modify s.kiln.groups g f } }
def State.modGang (s : State) (g : Nat) (f : Gang → Gang) : State :=
  { s with kiln := { s.kiln with gangs := Tab.modify s.kiln.gangs g f } }
def State.modLaunch (s : State) (l : Nat) (f : Launch → Launch) : State :=
  { s with kiln := { s.kiln with launches := Tab.modify s.kiln.launches l f } }
def State.modCtx (s : State) (c : Nat) (f : Ctx → Ctx) : State :=
  { s with kiln := { s.kiln with ctxs := Tab.modify s.kiln.ctxs c f } }
def State.setTenant (s : State) (t : Nat) (x : Tenant) : State :=
  { s with kiln := { s.kiln with tenants := Tab.put s.kiln.tenants t x } }
def State.modTenant (s : State) (t : Nat) (f : Tenant → Tenant) : State := s.setTenant t (f (s.tenant t))
def State.setCore (s : State) (c : Nat) (x : Core) : State := { s with cores := Tab.put s.cores c x }
def State.modCore (s : State) (c : Nat) (f : Core → Core) : State := s.setCore c (f (s.core c))
def State.setCluster (s : State) (c : Nat) (x : Cluster) : State := { s with clusters := Tab.put s.clusters c x }
def State.modCluster (s : State) (c : Nat) (f : Cluster → Cluster) : State := s.setCluster c (f (s.cluster c))
def State.setMem (s : State) (m : MemSys) : State := { s with mem := m }
def State.setDev (s : State) (d : Dev) : State := { s with dev := d }

/-- Every wave of a group, ascending wave index. -/
def State.wavesOf (s : State) (g : Nat) : List (Nat × Wave) := s.kiln.waves.filter (fun p => p.2.group == g)

/-- The launch of a group, its context, and the core it is on. -/
def State.launchOf (s : State) (g : Nat) : Option Launch := (s.group g).bind (fun x => s.launch x.launch)
def State.ctxNo (s : State) (g : Nat) : Nat := ((s.launchOf g).map (·.record.ctx)).getD 0
def State.coreOf (s : State) (g : Nat) : Nat := ((s.group g).bind (·.core)).getD 0
def State.ctxOfGroup (s : State) (g : Nat) : Option Ctx := s.ctx (s.ctxNo g)
def State.tenantNo (s : State) (g : Nat) : Nat := ((s.ctxOfGroup g).map (·.tenant)).getD 0

/-- The number of a launch's span on this device, by its context and its key; 0 outside a span. -/
def Record.spanId (r : Record) : Nat := if r.spanKey = 0 then 0 else r.ctx * 2 ^ 32 + r.spanKey


/-- Groups resident on a core (Held ones keep their units, R72). -/
def State.groupsOn (s : State) (c : Nat) : List (Nat × Group) := s.kiln.groups.filter (fun p => p.2.core == some c)

/-- Scratchpad bytes of a group: SPADU × 16,384 (R114). -/
def spadBytes (pool : W32) : Nat := (pool.toNat % 128) * 16384
/-- Accumulator units of a pool partition word (R113). -/
def accUnits (pool : W32) : Nat := pool.toNat / 256 % 128
/-- Register units of a pool partition word (R113). -/
def regUnits (pool : W32) : Nat := pool.toNat / 65536 % 128

def State.poolOf (s : State) (g : Nat) : W32 := ((s.launchOf g).map (·.record.pool)).getD 0
def State.spadSize (s : State) (g : Nat) : Nat := spadBytes (s.poolOf g)

/-- A fresh number for a free value or a unique name. -/
def State.bumpFresh (s : State) : State := { s with sched := { s.sched with fresh := s.sched.fresh + 1 } }
def State.takeUid (s : State) : Nat × State :=
  (s.kiln.nextUid, { s with kiln := { s.kiln with nextUid := s.kiln.nextUid + 1 } })

/-- `%clock` of a core (R21): whole cycles counted since its base. -/
def State.clockOf (s : State) (c : Nat) : Nat := s.dev.milli / 1000 + (s.core c).clockBase

/-- The clocks of an issue partition: those that have passed and those in which it has issued (R73). -/
def State.slotClock (s : State) (c part : Nat) : Nat := s.clockOf c + (s.core c).cycles.getD part 0

/-- Whether KILN works: its function is ready, and its firmware is not being replaced (R361, R367, R443). -/
def State.kilnUp (s : State) : Bool :=
  s.dev.kiln && (match s.dev.activation with
    | some a => !(a.controller == 0 && a.deadline.isSome)
    | none => true)

/-- Whether the gang of a group is being stopped for pre-emption (R52). While KILN's firmware is being replaced no pre-emption takes
place: the waves of a marked gang keep issuing (R367), and stop again once KILN is back. DEDUCED (log 137). -/
def State.preempting (s : State) (g : Nat) : Bool :=
  s.kilnUp && ((((s.group g).bind (fun x => s.gang x.gang)).map (·.marked)).getD false)

/-- An operand of an operation: field i of a lane. -/
def Op.val (o : Op) (field lane : Nat) : W128 := o.vals.get (32 * field + lane)
def Op.val32 (o : Op) (field lane : Nat) : W32 := (o.val field lane).setWidth 32
def Op.val64 (o : Op) (field lane : Nat) : W64 := (o.val field lane).setWidth 64

/-! ## Lanes and slices -/

/-- The slice of a lane (R24). -/
def sliceOf (lane : Nat) : Nat := lane / 4

/-- The lanes of a set of slices. -/
def lanesOf (sl : BitVec 8) : W32 := maskOf ((List.range 32).filter (fun l => sl.getLsbD (l / 4)))

/-- The slices of a set of lanes. -/
def slicesOf (ls : W32) : BitVec 8 := maskOf ((bitsOf ls).map sliceOf)

/-- A slice that starts a task at an address (R88). -/
def SliceSt.fresh (pc : Nat) : SliceSt := ⟨pc, 0xF, 0, [], 0, List.replicate 12 0, 0, none, none, 0, none⟩

/-- Whether a slice has a live lane (R33). -/
def SliceSt.live (x : SliceSt) : Bool := x.exited != 0xF

def TaskCtx.slice (t : TaskCtx) (i : Nat) : SliceSt := t.slices.getD i (.fresh 0)
def Wave.slice (w : Wave) (i : Nat) : SliceSt := w.task.slice i

/-- Changing the slices of a set. -/
def Wave.modSlices (w : Wave) (sl : BitVec 8) (f : SliceSt → SliceSt) : Wave :=
  { w with task := { w.task with slices := modWhere (fun i => sl.getLsbD i) (fun _ => f) 0 w.task.slices } }

/-- Changing the slices of a set, with their numbers. -/
def Wave.modSlicesI (w : Wave) (sl : BitVec 8) (f : Nat → SliceSt → SliceSt) : Wave :=
  { w with task := { w.task with slices := modWhere (fun i => sl.getLsbD i) f 0 w.task.slices } }

/-- The live slices of a wave. -/
def Wave.liveSlices (w : Wave) : BitVec 8 := maskOf ((List.range 8).filter (fun i => (w.slice i).live))

/-- The slices of a strand (R27). -/
def Wave.strandSlices (w : Wave) (n : Nat) : BitVec 8 :=
  maskOf ((List.range 8).filter (fun i => (w.slice i).live && (w.slice i).strand == n))

/-- The strand numbers of a wave, ascending (R27). -/
def Wave.strands (w : Wave) : List Nat :=
  (List.range 8).filter (fun i => (w.slice i).live && (w.slice i).strand == i)

/-- The active lanes of a set of slices (R30). -/
def Wave.activeLanes (w : Wave) (sl : BitVec 8) : W32 :=
  maskOf ((List.range 32).filter (fun l => sl.getLsbD (l / 4) && (w.slice (l / 4)).mask.getLsbD (l % 4)))

/-- Predicate p of a lane; p0 reads true (R47). -/
def Wave.pred (w : Wave) (lane : Nat) (p : Nat) : Bool := p == 0 || (w.task.preds.get lane).getLsbD p

/-- Writing a predicate of a lane; p0 ignores it (R47). -/
def Wave.setPred (w : Wave) (lane p : Nat) (v : Bool) : Wave :=
  if p = 0 then w
  else
    let x := w.task.preds.get lane
    let bitp : Byte := BitVec.ofNat 8 (2 ^ p)
    { w with task := { w.task with preds := w.task.preds.set lane (if v then x ||| bitp else x &&& ~~~bitp) } }

/-- Whether the guard is true in a lane (R194). -/
def Wave.guard (w : Wave) (g : Guard) (lane : Nat) : Bool := w.pred lane g.p.val != g.neg

/-- The always and the never code (R194). -/
def guardAlways (g : Guard) : Bool := !g.neg && g.p.val == 0
def guardNever (g : Guard) : Bool := g.neg && g.p.val == 0

/-- The strand of a slice after its slices may have parted (R28): the lowest live slice of the same old strand at the
same program counter. -/
def newStrand (ss : List SliceSt) (i : Nat) : Nat :=
  let x := ss.getD i (.fresh 0)
  ((List.range 8).find? (fun j =>
    let y := ss.getD j (.fresh 0)
    y.live && y.strand == x.strand && y.pc == x.pc)).getD i

/-- Parting every strand whose slices have come to different program counters (R28). -/
def Wave.reStrand (w : Wave) : Wave :=
  let ss := w.task.slices
  { w with task := { w.task with slices := modWhere (fun _ => true) (fun i x => { x with strand := newStrand ss i }) 0 ss } }

/-- Making the slices of a set one strand (R34, R36, R88). -/
def Wave.mergeSlices (w : Wave) (sl : BitVec 8) : Wave :=
  let n := (least (bitsOf sl)).getD 0
  w.modSlices sl (fun x => { x with strand := n })

end Sys2Proof.Machine
end

