-- ==== Sys2Proof/Machine/Numbers.lean ====
section
/-! DEFINITION. Number formats and arithmetic on exact values (R151 to R159, R215 to R221, R231 to R233). -/

namespace Sys2Proof.Machine

/-! ## Integers (R151) -/

/-- trunc_s(x, n) as an integer. -/
def truncS (x : Int) (n : Nat) : Int :=
  let y := x % (2 ^ n : Nat)
  if y < (2 ^ (n - 1) : Nat) then y else y - (2 ^ n : Nat)

/-- sat_sN. -/
def satS (x : Int) (n : Nat) : Int := min (max x (-(2 ^ (n - 1) : Nat))) ((2 ^ (n - 1) : Nat) - 1)

/-- sat_nN. -/
def satN (x : Int) (n : Nat) : Int := min (max x 0) ((2 ^ n : Nat) - 1)

/-! ## Formats (R152 to R154) -/

/-- A floating-point format: width, mantissa bits, bias, whether it has a sign bit; the largest finite magnitude code;
the infinity's magnitude code, if it has one; the canonical NaN, or for E2M1 the code a NaN converts to (R158). -/
structure Fmt where
  width : Nat
  m : Nat
  b : Nat
  signed : Bool
  maxf : Nat
  inf : Option Nat
  nan : Nat
  deriving DecidableEq, Repr

def fF32 : Fmt := ⟨32, 23, 127, true, 0x7F7FFFFF, some 0x7F800000, 0x7FC00000⟩
def fF16 : Fmt := ⟨16, 10, 15, true, 0x7BFF, some 0x7C00, 0x7E00⟩
def fBf16 : Fmt := ⟨16, 7, 127, true, 0x7F7F, some 0x7F80, 0x7FC0⟩
def fE4m3 : Fmt := ⟨8, 3, 7, true, 0x7E, none, 0x7F⟩
def fE5m2 : Fmt := ⟨8, 2, 15, true, 0x7B, some 0x7C, 0x7E⟩
def fE2m1 : Fmt := ⟨4, 1, 1, true, 0x7, none, 0x0⟩
def fE3m5 : Fmt := ⟨8, 5, 3, false, 0xFE, none, 0xFF⟩

/-- A value: NaN, an infinity, or ± m × 2^e; a zero keeps its sign. -/
inductive Val
  | nan
  | inf (neg : Bool)
  | fin (neg : Bool) (m : Nat) (e : Int)
  deriving DecidableEq, Repr

def Val.isNan : Val → Bool | .nan => true | _ => false
def Val.isZero : Val → Bool | .fin _ 0 _ => true | _ => false
def Val.isFinite : Val → Bool | .fin _ _ _ => true | _ => false
def Val.neg : Val → Val
  | .nan => .nan
  | .inf n => .inf (!n)
  | .fin n m e => .fin (!n) m e

/-- The value of a code (R152, R153). -/
def Fmt.val (f : Fmt) (code : Nat) : Val :=
  let mag := if f.signed then code % 2 ^ (f.width - 1) else code % 2 ^ f.width
  let neg := f.signed && code / 2 ^ (f.width - 1) % 2 == 1
  if f.inf = some mag then .inf neg
  else if mag > f.maxf then .nan
  else
    let e := mag / 2 ^ f.m
    let m := mag % 2 ^ f.m
    if e = 0 then .fin neg m (1 - (f.b : Int) - f.m)
    else .fin neg (2 ^ f.m + m) ((e : Int) - f.b - f.m)

/-- The sign bit of a code. -/
def Fmt.sign (f : Fmt) (neg : Bool) : Nat := if f.signed && neg then 2 ^ (f.width - 1) else 0

/-! ## Rounding (R156, R157) -/

/-- num / den × 2^e as a quotient of naturals. -/
def scale (n d : Nat) (e : Int) : Nat × Nat :=
  if 0 ≤ e then (n * 2 ^ e.toNat, d) else (n, d * 2 ^ (-e).toNat)

/-- floor(log2(n / d)) of a positive quotient. -/
def log2Floor (n d : Nat) : Int :=
  let l : Int := (Nat.log2 n : Int) - Nat.log2 d
  let (n', d') := scale n d (-l)
  if n' < d' then l - 1 else l

/-- Whether a quotient with integer part k and rest r of d is rounded away from zero. -/
def roundsUp (mode : Rnd) (neg : Bool) (k r d : Nat) : Bool :=
  match mode with
  | .rne => decide (d < 2 * r) || (2 * r == d && k % 2 == 1)
  | .rna => decide (d ≤ 2 * r)
  | .rtz => false
  | .rdn => neg && r != 0
  | .rup => !neg && r != 0

/-- Rounding a positive quotient n / d, with a sign, to a format: R156, then the overflow rule of R157. -/
def Fmt.roundQ (f : Fmt) (mode : Rnd) (neg : Bool) (n d : Nat) : Nat :=
  let e := max (log2Floor n d) (1 - (f.b : Int))
  let (n', d') := scale n d ((f.m : Int) - e)
  let k := n' / d'
  let k' := if roundsUp mode neg k (n' % d') d' then k + 1 else k
  let code := ((e + f.b - 1) * (2 ^ f.m : Nat) + k').toNat
  if code ≤ f.maxf then f.sign neg + code
  else f.sign neg + (match f.inf with
    | none => f.maxf
    | some i => match mode with
      | .rne | .rna => i
      | .rtz => f.maxf
      | .rdn => if neg then i else f.maxf
      | .rup => if neg then f.maxf else i)

/-- Converting a value to a format (R158), `sat` turning every infinite result into the largest finite (R157). -/
def Fmt.conv (f : Fmt) (mode : Rnd) (sat : Bool) (v : Val) : Nat :=
  match v with
  | .nan => f.nan
  | .inf neg => if !f.signed && neg then 0 else match f.inf with
    | some i => f.sign neg + (if sat then f.maxf else i)
    | none => f.sign neg + f.maxf
  | .fin neg 0 _ => f.sign neg
  | .fin neg m e =>
    if !f.signed && neg then 0
    else
      let (n, d) := scale m 1 e
      let c := f.roundQ mode neg n d
      if sat && f.inf == some (c - f.sign neg) then f.sign neg + f.maxf else c

/-- round_rne32 of a value (R156), NaN and infinities delivered as such. -/
def rne32 (v : Val) : W32 := BitVec.ofNat 32 (fF32.conv .rne false v)

/-- The value of an f32 pattern. -/
def f32 (w : W32) : Val := fF32.val w.toNat

/-- Rounding a value to an integer by a mode (R156, R158). -/
def roundInt (mode : Rnd) (neg : Bool) (m : Nat) (e : Int) : Int :=
  let (n, d) := scale m 1 e
  let k := n / d
  let k' := if roundsUp mode neg k (n % d) d then k + 1 else k
  if neg then -(k' : Int) else k'

/-! ## Exact arithmetic (R155, R220, R231) -/

/-- The exact sum; an exact zero of opposite signs is −0 under RDN and +0 otherwise (R220, R231). -/
def Val.add (rdn : Bool) : Val → Val → Val
  | .nan, _ => .nan
  | _, .nan => .nan
  | .inf a, .inf b => if a = b then .inf a else .nan
  | .inf a, _ => .inf a
  | _, .inf b => .inf b
  | .fin na ma ea, .fin nb mb eb =>
    let e := min ea eb
    let a : Int := (ma * 2 ^ (ea - e).toNat : Nat)
    let b : Int := (mb * 2 ^ (eb - e).toNat : Nat)
    let x := (if na then -a else a) + (if nb then -b else b)
    if x = 0 then .fin (if na = nb then na else rdn) 0 0
    else .fin (decide (x < 0)) x.natAbs e

/-- The exact product; 0 × ∞ is NaN (R220). -/
def Val.mul : Val → Val → Val
  | .nan, _ => .nan
  | _, .nan => .nan
  | .inf a, .inf b => .inf (a != b)
  | .inf a, .fin nb mb _ => if mb = 0 then .nan else .inf (a != nb)
  | .fin na ma _, .inf b => if ma = 0 then .nan else .inf (na != b)
  | .fin na ma ea, .fin nb mb eb => .fin (na != nb) (ma * mb) (ea + eb)

/-- A sum, difference, product and fused multiply-add of two or three codes, rounded once (R155, R220, R231). -/
def Fmt.add (f : Fmt) (r : Rnd) (a b : Nat) : Nat := f.conv r false ((f.val a).add (r == .rdn) (f.val b))
def Fmt.sub (f : Fmt) (r : Rnd) (a b : Nat) : Nat := f.conv r false ((f.val a).add (r == .rdn) (f.val b).neg)
def Fmt.mul (f : Fmt) (r : Rnd) (a b : Nat) : Nat := f.conv r false ((f.val a).mul (f.val b))
def Fmt.fma (f : Fmt) (r : Rnd) (a b c : Nat) : Nat :=
  f.conv r false (((f.val a).mul (f.val b)).add (r == .rdn) (f.val c))

/-- Comparing two values that are not NaN: less, equal. −0 equals +0 (R233). -/
def Val.lt (a b : Val) : Bool :=
  match a, b with
  | .inf na, .inf nb => na && !nb
  | .inf na, .fin _ _ _ => na
  | .fin _ _ _, .inf nb => !nb
  | .fin na ma ea, .fin nb mb eb =>
    match Val.add false (.fin na ma ea) (.fin (!nb) mb eb) with
    | .fin n m _ => n && m != 0
    | _ => false
  | _, _ => false
def Val.eqv (a b : Val) : Bool := !a.isNan && !b.isNan && !a.lt b && !b.lt a

/-- Minimum (`mx` false) or maximum of two codes (R221). -/
def Fmt.minmax (f : Fmt) (mx : Bool) (a b : Nat) : Nat :=
  let x := f.val a
  let y := f.val b
  if x.isNan && y.isNan then f.nan
  else if x.isNan then b
  else if y.isNan then a
  else if x.isZero && y.isZero then (if a = b then a else if mx then 0 else f.sign true)
  else if mx then (if x.lt y then b else a) else (if y.lt x then b else a)

/-- `fabs` and `fneg` (R231): a NaN element gives the canonical NaN. -/
def Fmt.abs (f : Fmt) (a : Nat) : Nat := if (f.val a).isNan then f.nan else a % 2 ^ (f.width - 1)
def Fmt.negate (f : Fmt) (a : Nat) : Nat := if (f.val a).isNan then f.nan else a ^^^ 2 ^ (f.width - 1)

/-- An operation on each half of a packed pair (R155). -/
def halves2 (f : Nat → Nat → Nat) (a b : W32) : W32 :=
  BitVec.ofNat 32 (f (a.toNat % 65536) (b.toNat % 65536) + 65536 * f (a.toNat / 65536) (b.toNat / 65536))

/-! ## Correctly rounded functions (R232) -/

/-- The integer square root, by bits from i − 1 down. -/
def isqrt (n : Nat) : Nat → Nat → Nat
  | 0, r => r
  | i + 1, r => isqrt n i (if (r + 2 ^ i) * (r + 2 ^ i) ≤ n then r + 2 ^ i else r)

/-- 1 / a. -/
def frcp32 (r : Rnd) (a : W32) : W32 :=
  BitVec.ofNat 32 (match f32 a with
    | .nan => fF32.nan
    | .inf n => fF32.sign n
    | .fin n 0 _ => fF32.sign n + 0x7F800000
    | .fin n m e => let (x, y) := scale 1 m (-e); fF32.roundQ r n x y)

/-- √a: with 60 bits beyond the point kept and a last half for what is dropped, no rounding boundary is crossed. -/
def fsqrt32 (r : Rnd) (a : W32) : W32 :=
  BitVec.ofNat 32 (match f32 a with
    | .nan => fF32.nan
    | .inf n => if n then fF32.nan else 0x7F800000
    | .fin n 0 _ => fF32.sign n
    | .fin true _ _ => fF32.nan
    | .fin false m e =>
      let x := (scale m 1 (e + 400)).1
      let q := isqrt x 280 0
      let (n, d) := scale (if q * q = x then 2 * q else 2 * q + 1) 2 (-200)
      fF32.roundQ r false n d)

/-- 1 / √a. -/
def frsqrt32 (r : Rnd) (a : W32) : W32 :=
  BitVec.ofNat 32 (match f32 a with
    | .nan => fF32.nan
    | .inf n => if n then fF32.nan else 0
    | .fin n 0 _ => fF32.sign n + 0x7F800000
    | .fin true _ _ => fF32.nan
    | .fin false m e =>
      let (n, d) := scale 1 m (400 - e)
      let q := isqrt (n / d) 280 0
      let (n', d') := scale (if q * q * d = n then 2 * q else 2 * q + 1) 2 (-200)
      fF32.roundQ r false n' d')

/-- ln 2 with 256 bits after the point, rounded down. -/
def ln2 : Nat := 0xB17217F7D1CF79ABC9E3B39803F2F6AF40F343267298B62D8A0D175B8BAAFA2B

/-- The sum of y^k / k! from a term on, in units of 2^−256. -/
def expSum (y : Nat) : Nat → Nat → Nat → Nat
  | 0, _, term => term
  | fuel + 1, k, term => term + expSum y fuel (k + 1) (term * y / 2 ^ 256 / k)

/-- 2^a (R232): a is i + f with f from 0 to 1; 2^f is irrational but for f = 0. -/
def fexp2_32 (r : Rnd) (a : W32) : W32 :=
  BitVec.ofNat 32 (match f32 a with
    | .nan => fF32.nan
    | .inf n => if n then 0 else 0x7F800000
    | .fin _ 0 _ => 0x3F800000
    | .fin n m e =>
      let big := fF32.roundQ r false (2 ^ 200) 1
      let small := fF32.roundQ r false 1 (2 ^ 200)
      if log2Floor (scale m 1 e).1 (scale m 1 e).2 ≥ 9 then (if n then small else big)
      else
        let x : Int := ((scale m 1 (e + 256)).1 : Int)
        let x := if n then -x else x
        let i := x / (2 ^ 256 : Nat)
        let f := (x % (2 ^ 256 : Nat)).toNat
        let (nn, dd) := if f = 0 then scale 1 1 i
          else scale (2 * expSum (f * ln2 / 2 ^ 256) 80 1 (2 ^ 256) + 1) (2 ^ 257) i
        fF32.roundQ r false nn dd)

/-- The first bits of log2 z for z from 1 to 2 in units of 2^−400, by repeated squaring. -/
def logBits : Nat → Nat → Nat → Nat
  | 0, _, acc => acc
  | fuel + 1, z, acc =>
    let z2 := z * z / 2 ^ 400
    if z2 ≥ 2 ^ 401 then logBits fuel (z2 / 2) (2 * acc + 1) else logBits fuel z2 (2 * acc)

/-- log2 a (R232): irrational but for powers of two. -/
def flog2_32 (r : Rnd) (a : W32) : W32 :=
  BitVec.ofNat 32 (match f32 a with
    | .nan => fF32.nan
    | .inf n => if n then fF32.nan else 0x7F800000
    | .fin _ 0 _ => 0xFF800000
    | .fin true _ _ => fF32.nan
    | .fin false m e =>
      let l := Nat.log2 m
      let i : Int := e + l
      if m = 2 ^ l then (if i = 0 then 0 else fF32.roundQ r (decide (i < 0)) i.natAbs 1)
      else
        let v : Int := i * (2 ^ 140 : Nat) + logBits 140 (m * 2 ^ (400 - l)) 0
        -- the value lies strictly between v and v + 1, in units of 2^−140
        let w := 2 * v + 1
        fF32.roundQ r (decide (w < 0)) w.natAbs (2 ^ 141))

/-- `frnd` (R232): rounded to an integral value, an f32. -/
def frnd32 (r : Rnd) (a : W32) : W32 :=
  BitVec.ofNat 32 (match f32 a with
    | .nan => fF32.nan
    | .inf _ => a.toNat
    | .fin n m e =>
      let k := (roundInt r n m e).natAbs
      if k = 0 then fF32.sign n else fF32.roundQ r n k 1)

/-! ## Compares (R225, R233) -/

/-- A condition on two integers. -/
def Cond.onInt (c : Cond) (a b : Int) : Bool :=
  match c with
  | .eq => a == b | .ne => a != b | .lt => decide (a < b) | .le => decide (a ≤ b)
  | .gt => decide (a > b) | .ge => decide (a ≥ b) | .uo => false | .ord => true

/-- A condition on two values (R233). -/
def Cond.onVal (c : Cond) (a b : Val) : Bool :=
  let uo := a.isNan || b.isNan
  match c with
  | .eq => !uo && a.eqv b | .ne => uo || !a.eqv b | .lt => !uo && a.lt b | .le => !uo && !b.lt a
  | .gt => !uo && b.lt a | .ge => !uo && !a.lt b | .uo => uo | .ord => !uo

/-! ## The vector shadow check (R386, R387) -/

/-- A finite value with its mantissa truncated to the 4 bits behind its leading bit, of a subnormal number too: the
truncation that changes every input by less than 2^-4 of its magnitude, as R387 says of it (DEDUCED, log 95). -/
def Fmt.trunc4 (f : Fmt) (code : Nat) : Val := match f.val code with
  | .fin n m e => let k := Nat.log2 m - 4
                  .fin n (m / 2 ^ k * 2 ^ k) e
  | v => v

/-- |v| as a positive value. -/
def Val.mag : Val → Val
  | .fin _ m e => .fin false m e
  | v => v

/-- Whether a rounding mode delivers ±maxf for a number beyond it (R157). -/
def Rnd.clamps (rnd : Rnd) (neg : Bool) : Bool :=
  match rnd with
  | .rtz => true
  | .rdn => !neg
  | .rup => neg
  | .rne | .rna => false

/-- The check of R387 for a result r against q with magnitude bound m: |r − q| ≤ m / 4 + the smallest subnormal. Where the
rounding mode delivers the largest finite number for any larger one (R157), it passes for any larger q of its sign: a correct
unit always passes (DEDUCED, log 95). -/
def Fmt.shadow (f : Fmt) (rnd : Rnd) (inputs : List Nat) (r : Nat) (q m : Val) : Bool :=
  if inputs.any (fun x => !(f.val x).isFinite) || !(f.val r).isFinite then true
  else if (Rnd.clamps rnd false && r == f.maxf && !q.lt (f.val r))
      || (Rnd.clamps rnd true && r == f.sign true + f.maxf && !(f.val r).lt q) then true
  else
    let d := ((f.val r).add false q.neg).mag
    let bound := (m.mul (.fin false 1 (-2))).add false (.fin false 1 (1 - (f.b : Int) - f.m))
    !bound.lt d

def Fmt.shadowAdd (f : Fmt) (rnd : Rnd) (sub : Bool) (a b r : Nat) : Bool :=
  let x := f.trunc4 a
  let y := if sub then (f.trunc4 b).neg else f.trunc4 b
  f.shadow rnd [a, b] r (x.add false y) (x.mag.add false y.mag)
def Fmt.shadowMul (f : Fmt) (rnd : Rnd) (a b r : Nat) : Bool :=
  let q := (f.trunc4 a).mul (f.trunc4 b)
  f.shadow rnd [a, b] r q q.mag
def Fmt.shadowFma (f : Fmt) (rnd : Rnd) (a b c r : Nat) : Bool :=
  let p := (f.trunc4 a).mul (f.trunc4 b)
  f.shadow rnd [a, b, c] r (p.add false (f.trunc4 c)) (p.mag.add false (f.trunc4 c).mag)

end Sys2Proof.Machine
end

