-- ==== Sys2Proof/Machine/Glaze.lean ====
section
/-! DEFINITION. The e2m1b block format (R160, R161), the signed Hadamard transform (R162, R163) and the format
regions of GLAZE (R117 to R121, R427). -/

namespace Sys2Proof.Machine

/-! ## Blocks of e2m1b -/

/-- The block value of an element: without the band factor (R160). -/
def blockValue (elem scale : Nat) : Val :=
  if elem % 8 = 0 then .fin false 0 0
  else if scale = 0xFF then .nan
  else if scale = 0 then .fin false 0 0
  else (fE2m1.val elem).mul (fE3m5.val scale)

/-- The full value of an element (R160). -/
def elemValue (elem scale : Nat) (band : Val) : Val :=
  if elem % 8 = 0 ∨ scale = 0 then .fin false 0 0 else (blockValue elem scale).mul band

/-- The exact quotient of two finite values, the divisor not zero, rounded to a format by R158. -/
def quotConv (f : Fmt) (r : Rnd) (neg : Bool) (m : Nat) (e : Int) (dm : Nat) (de : Int) : Nat :=
  if m = 0 then f.sign neg
  else let (n, d) := scale m dm (e - de); f.roundQ r neg n d

/-- |v| as a quotient of naturals. -/
def magQ : Val → Nat × Nat
  | .fin _ m e => scale m 1 e
  | _ => (0, 1)

/-- a < b for quotients. -/
def ltQ (a b : Nat × Nat) : Bool := decide (a.1 * b.2 < b.1 * a.2)

/-- Quantising a block of 8 values by the band scale: scale code and element codes (R161). The sign of a zero element is that
of the quotient, so a negative band turns it: the rule speaks of the input's sign and does not name the case. DESIGN CHOICE
(log 116). -/
def quantBlock (xs : List Val) (band : Val) : Nat × List Nat :=
  match band with
  | .fin bn bm be =>
    if bm = 0 then (0xFF, List.replicate 8 0)
    else if xs.any (·.isNan) then (0xFF, List.replicate 8 0)
    else if xs.all (·.isZero) then (0, List.replicate 8 0)
    else if xs.any (fun v => !v.isFinite) then
      -- amax is infinite: the scale is the largest, and a quotient of an infinity saturates (R158)
      let s := fE3m5.val 0xFE
      (0xFE, xs.map (fun v => match v, s with
        | .inf n, _ => fE2m1.sign (n != bn) + 7
        | .fin n m e, .fin _ sm se => quotConv fE2m1 .rne (n != bn) m e (bm * sm) (be + se)
        | _, _ => 0))
    else
      let a := xs.foldl (fun a v => if ltQ a (magQ v) then magQ v else a) (0, 1)
      let bq := scale bm 1 be
      let code := fE3m5.roundQ .rup false (a.1 * bq.2) (a.2 * bq.1 * 6)
      match fE3m5.val code with
      | .fin _ sm se => (code, xs.map (fun v => match v with
          | .fin n m e => quotConv fE2m1 .rne (n != bn) m e (bm * sm) (be + se)
          | _ => 0))
      | _ => (code, List.replicate 8 0)
  | _ => (0xFF, List.replicate 8 0)

/-! ## The signed Hadamard transform -/

/-- The SplitMix64 finaliser (R163). -/
def mix64 (z : W64) : W64 :=
  let z := (z ^^^ (z >>> 30)) * 0xBF58476D1CE4E5B9
  let z := (z ^^^ (z >>> 27)) * 0x94D049BB133111EB
  z ^^^ (z >>> 31)

/-- The flip word of a group (R163). -/
def flips (seed : W64) (g : Nat) : W32 := (mix64 (seed ^^^ BitVec.ofNat 64 g)).setWidth 32

/-- One stage of the butterfly. -/
def hadStage (x : List W32) (h : Nat) : List W32 :=
  (List.range 32).map (fun i =>
    if i / h % 2 = 0 then rne32 ((f32 (x.getD i 0)).add false (f32 (x.getD (i + h) 0)))
    else rne32 ((f32 (x.getD (i - h) 0)).add false (f32 (x.getD i 0)).neg))

/-- −x as an f32 pattern, a NaN canonical. -/
def neg32 (w : W32) : W32 := rne32 (f32 w).neg

/-- The forward or inverse transform of 32 values under a flip word (R162). -/
def hadamard (inv : Bool) (fw : W32) (x : List W32) : List W32 :=
  let flip (x : List W32) := (List.range 32).map (fun j => if fw.getLsbD j then neg32 (x.getD j 0) else x.getD j 0)
  let st := [1, 2, 4, 8, 16].foldl hadStage (if inv then x else flip x)
  let sc := st.map (fun w => rne32 ((f32 w).mul (.fin false 1 (if inv then -2 else -3))))
  if inv then flip sc else sc

/-! ## Format regions -/

def Region.valid (r : Region) : Bool := r.control.getLsbD 12
def Region.quant (r : Region) : Bool := r.control.toNat / 512 % 4 == 1
def Region.rot (r : Region) : Bool := r.control.getLsbD 11

/-- The region of a GLAZE address (R119): PA[43:40]. -/
def aliasRegion (rs : List Region) (a : Nat) : Region := rs.getD (a / 2 ^ 40 % 16) ⟨0, 0, 0, 0⟩
def aliasKind (a : Nat) : Nat := a / 2 ^ 39 % 2
def aliasOff (a : Nat) : Nat := a % 2 ^ 39

/-- DETAIL of code 3 for a GLAZE address that does not decode (R409): not VALID or past the last row, kind 1 of a
region in transcode mode. -/
def aliasErr (rs : List Region) (a : Nat) : Option Nat :=
  let r := aliasRegion rs a
  let row := if aliasKind a = 0 then aliasOff a / 256 else aliasOff a / 1024
  if !r.valid || decide (r.size * 8192 ≤ row) then some 2
  else if aliasKind a = 1 && !r.quant then some 5
  else none

/-- The band base of a row (R118). -/
def bandBase (r : Region) (row : Nat) : Nat := r.base + row / 64 * 16384

/-- The plane byte that a byte of a glazed line stands for (R118, R119); none for the reserved bytes and for kind 1,
which reads zero (R427). -/
def aliasPlane (rs : List Region) (a : Nat) : Option Nat :=
  let r := aliasRegion rs a
  if aliasKind a = 1 then none
  else
    let row := aliasOff a / 256
    let j := aliasOff a % 256
    let i := row % 64
    if j < 192 then some (bandBase r row + i * 192 + j)
    else if j < 240 then some (bandBase r row + 12288 + i * 48 + (j - 192))
    else if j < 242 then some (bandBase r row + 15360 + (j - 240))
    else none

/-- The plane granules of a whole glazed line: a poisoned one poisons all four granules of the line (R427). -/
def aliasGranules (rs : List Region) (a : Nat) : List Nat :=
  if aliasKind a = 1 then []
  else
    let base := a / 256 * 256
    ((List.range 242).filterMap (fun j => aliasPlane rs (base + j))).map (· / 64)

/-- Plane bytes that a row of a region stands on: the ends of its element and block-scale bytes, and the band scale. No
2 MiB range and no 4 KiB piece of a stack holds the ends of one and not what lies between (R17, R320). -/
def aliasEnds (rs : List Region) (a : Nat) : List Nat :=
  let r := aliasRegion rs a
  let row := if aliasKind a = 0 then aliasOff a / 256 else aliasOff a / 1024
  let b := bandBase r row
  let i := row % 64
  [b + i * 192, b + i * 192 + 191, b + 12288 + i * 48, b + 12288 + i * 48 + 47, b + 15360]

/-- What a writeback of the masked bytes of a GLAZE sector stores: plane address, byte, and the byte of the sector it comes
from. Kind 0 stores its plane bytes, kind 1 whole groups of 32 elements, quantised (R120, R121, R427). -/
def aliasStores (rs : List Region) (m : Mem) (a : Nat) (data : BitVec 1024) (mask : BitVec 128) : List (Nat × Byte × Nat) :=
  let r := aliasRegion rs a
  let byte (i : Nat) : Nat := data.toNat / 2 ^ (8 * i) % 256
  if aliasKind a = 0 then
    (bitsOf mask).filterMap (fun i => (aliasPlane rs (a + i)).map (fun x => (x, BitVec.ofNat 8 (byte i), i)))
  else
    let o := aliasOff a
    let row := o / 1024
    let band := fBf16.val (leNat (m.bytes (bandBase r row + 15360) 2))
    [0, 1].flatMap (fun h =>
      let j := o % 1024 + 64 * h
      if j < 768 ∧ mask.toNat / 2 ^ (64 * h) % 2 ^ 64 = 2 ^ 64 - 1 then
        let g := row * 12 + j / 64
        let x := (List.range 32).map (fun k =>
          BitVec.ofNat 32 (65536 * (byte (64 * h + 2 * k) + 256 * byte (64 * h + 2 * k + 1))))
        let y := if r.rot then hadamard false (flips r.seed g) x else x
        let k0 := j / 64 * 32
        [0, 1, 2, 3].flatMap (fun b =>
          let (sc, es) := quantBlock ((List.range 8).map (fun i => f32 (y.getD (8 * b + i) 0))) band
          (bandBase r row + 12288 + row % 64 * 48 + (k0 + 8 * b) / 8, BitVec.ofNat 8 sc, 64 * h)
            :: (List.range 4).map (fun i => (bandBase r row + row % 64 * 192 + (k0 + 8 * b) / 2 + i,
                BitVec.ofNat 8 (es.getD (2 * i) 0 + 16 * es.getD (2 * i + 1) 0), 64 * h)))
      else [])

end Sys2Proof.Machine
end

