-- ==== Sys2Proof/Machine/Memory.lean ====
section
/-! DEFINITION. The memory system: translation (R105 to R109, R411, R412), decode of physical addresses (R104, R117,
R320, R323), the caches with their sizes (R12, R15, R16, R110, R112), coherent regions (R126, R326, R327), the points of
the scopes (R111) and the cache actions of R143. -/

namespace Sys2Proof.Machine

/-- Why an access is not performed: CODE and DETAIL[3:0] of class 3 (R409). -/
structure MemErr where
  code : Nat
  detail : Nat
  deriving DecidableEq, Repr

/-! ## Places, sectors and lines -/

/-- The place moved by n bytes. -/
def Place.add : Place → Nat → Place
  | .loc a, n => .loc (a + n)
  | .inAlias t a, n => .inAlias t (a + n)
  | .home t pa d a, n => .home t (pa + n) d (a + n)
  | .registry t a, n => .registry t (a + n)

/-- The place moved back by n bytes. -/
def Place.back : Place → Nat → Place
  | .loc a, n => .loc (a - n)
  | .inAlias t a, n => .inAlias t (a - n)
  | .home t pa d a, n => .home t (pa - n) d (a - n)
  | .registry t a, n => .registry t (a - n)

/-- The byte address within the place's space, for fabric space at the home. BASE and TARGET of a window are multiples of
2 MiB (R323), so the physical address has the same offset in its page. -/
def Place.addr : Place → Nat
  | .loc a | .inAlias _ a | .home _ _ _ a | .registry _ a => a

/-- The 128-byte sector a place lies in, and its offset there. -/
def Place.sector (p : Place) : Place := p.back (p.addr % 128)
def Place.off (p : Place) : Nat := p.addr % 128

/-- The 256-byte line a place lies in, and its two sectors (R12, R15). -/
def Place.line (p : Place) : Place := p.back (p.addr % 256)
def Place.sectors (p : Place) : List Place := [p.line, p.line.add 128]

def Place.isHome : Place → Bool
  | .home _ _ _ _ => true
  | _ => false

/-- The destination of a place in fabric space. -/
def Place.dest : Place → Option Nat
  | .home _ _ d _ => some d
  | _ => none

/-- Whether a read finds zero bytes whatever was written: a quantise window of GLAZE space (R427). -/
def Place.readsZero : Place → Bool
  | .inAlias _ a => aliasKind a == 1
  | _ => false

def Place.isLocal : Place → Bool
  | .loc _ => true
  | _ => false

/-- n bytes of a sector's data from an offset, as a number. -/
def secGet (data : BitVec 1024) (off n : Nat) : Nat := data.toNat / 2 ^ (8 * off) % 2 ^ (8 * n)

/-- A sector's data with n bytes replaced. -/
def secPut (data : BitVec 1024) (off n v : Nat) : BitVec 1024 :=
  let m : BitVec 1024 := BitVec.ofNat 1024 ((2 ^ (8 * n) - 1) * 2 ^ (8 * off))
  (data &&& ~~~m) ||| BitVec.ofNat 1024 (v % 2 ^ (8 * n) * 2 ^ (8 * off))

/-- The byte mask of n bytes from an offset. -/
def byteMask (off n : Nat) : BitVec 128 := BitVec.ofNat 128 ((2 ^ n - 1) * 2 ^ off)

/-- The bits of data that a byte mask covers. -/
def wideMask (m : BitVec 128) : BitVec 1024 :=
  BitVec.ofNat 1024 ((bitsOf m).foldl (fun x i => x + 255 * 2 ^ (8 * i)) 0)

/-- The bytes of a granule (0 or 1) of a sector that a mask covers, as a number; all of them are 2^64 − 1. -/
def granuleMask (m : BitVec 128) (i : Nat) : Nat := m.toNat / 2 ^ (64 * i) % 2 ^ 64

/-- The poison code of the granule of a byte offset in a sector. -/
def poisonAt (p : BitVec 4) (off : Nat) : Nat := p.toNat / 4 ^ (off / 64) % 4

/-- The poison code of the first poisoned granule that n bytes at an offset in a sector touch. -/
def poisonIn (p : BitVec 4) (off n : Nat) : Nat :=
  if poisonAt p off ≠ 0 then poisonAt p off else poisonAt p ((off + n - 1) % 128)

/-- Setting the poison code of the granule of a byte offset in a sector. -/
def poisonSet (p : BitVec 4) (off code : Nat) : BitVec 4 :=
  p - BitVec.ofNat 4 (poisonAt p off * 4 ^ (off / 64)) + BitVec.ofNat 4 (code * 4 ^ (off / 64))

/-- Whether a destination is an expander that is also a FLUE peer of the device (R324). -/
def fluePeer (dest : Nat) : Bool := dest / 4096 == 1 && Config.path 1 (dest % 4096) % 2 == 0

/-- The destination of a FLUE peer that is an expander: its `%devid` (R325, R336). -/
def peerDest (dest : Nat) : Nat := 8192 + Config.expanderId (dest % 4096) % 4096

/-- The memory at a destination: host memory is one, whichever port leads to it; an expander and a peer have their own, and
an expander that is also a peer is one device under both names. DEDUCED (log 98). -/
def homeKey (dest : Nat) : Nat := if dest < 4096 then 0 else if fluePeer dest then peerDest dest else dest

/-- The byte that a place is, whatever physical address leads there: two places are one byte exactly if these agree. -/
def Place.key : Place → Place
  | .home _ _ d a => .home 0 0 (homeKey d) a
  | p => p

/-- The space a place lies in. -/
def Place.space (p : Place) : Place := p.key.back p.addr

/-- The stack a physical address selects (R17). -/
def stackOf (pa : Nat) : Nat := (pa / 2 ^ 12 % 8) ^^^ (pa / 2 ^ 21 % 8)

/-- The stack, with its slice of the MSC, that a place's physical address selects (R16, R17). -/
def Place.stack : Place → Nat
  | .loc a | .inAlias _ a | .registry _ a => stackOf a
  | .home _ pa _ _ => stackOf pa

/-- DETAIL of code 4 for a poison code (R409). -/
def poisonDetail (p : Nat) : Nat := p - 1

/-! ## Sizes of the caches (R12, R15, R16, R112) -/

/-- Lines of 256 bytes: an L2 slice of 8 MiB, an MSC slice of 32 MiB, an L1 of 256 KiB. -/
def l2Lines : Nat := 32768
def mscLines : Nat := 131072
def l1Lines : Nat := 1024

/-- Sectors of 128 bytes: an instruction cache of 64 KiB, a constant cache of 32 KiB. -/
def icSectors : Nat := 512
def ccSectors : Nat := 256

/-- The line that leaves a cache of `cap` lines, given the lines of its sectors, to make room for another; none where
there is room. Which line goes is open (log 100). -/
def evicted {α : Type} [DecidableEq α] (cap pick : Nat) (lines : List α) (x : α) : Option α :=
  if lines.length < cap ∨ lines.contains x then none
  else
    let ls := lines.dedup
    if ls.length < cap then none else ls[pick % ls.length]?

/-! ## What lies behind the L2 -/

def State.homeMem (s : State) (dest : Nat) : Mem := (Tab.find s.mem.homes (homeKey dest)).getD []

/-- The MSC's sector of a place in fabric space. -/
def State.mscFind (s : State) (p : Place) : Option PSector := s.mem.msc.find? (fun x => x.place == p)

/-- A byte of a tenant's registry area: the images one after another (R329). -/
def registryByte (ks : List Kernel) (a : Nat) : Byte :=
  match ks.find? (fun k => decide (k.va ≤ a) && decide (a < k.va + k.image.length)) with
  | some k => k.image.getD (a - k.va) 0
  | none => 0

/-- A byte at a home. -/
def State.homeByte (s : State) (dest a : Nat) : Byte := (s.homeMem dest).get a

/-- The byte of a place as the MSC sees it (R110, R120). -/
def State.backByte (s : State) : Place → Byte
  | .loc a => s.mem.loc.get a
  | .inAlias t a => match aliasPlane (s.tenant t).regions a with
    | some x => s.mem.loc.get x
    | none => 0
  | .home t pa d a => match s.mscFind (Place.home t pa d a).sector with
    | some x => if x.valid.getLsbD (a % 128) then BitVec.ofNat 8 (secGet x.data (a % 128) 1) else s.homeByte d a
    | none => s.homeByte d a
  | .registry t a => registryByte (s.tenant t).kernels a

/-- The poison code of a granule of local memory: 1 from DRAM, 2 from SRAM, 3 from the fabric. -/
def MemSys.code (m : MemSys) (g : Nat) : Nat :=
  if !m.poison.contains g then 0 else if m.wire.contains g then 3 else if m.sram.contains g then 2 else 1

/-- The poison code of the granule of a place, as the MSC sees it (R413, R427). -/
def State.backPoison (s : State) : Place → Nat
  | .loc a => s.mem.code (a / 64)
  | .inAlias t a => (aliasGranules (s.tenant t).regions a).foldl (fun c g => max c (s.mem.code g)) 0
  | .home t pa d a => match s.mscFind (Place.home t pa d a).sector with
    | some x => poisonAt x.poison (a % 128)
    | none => if s.mem.homePoison.contains (homeKey d, a / 64) then 3 else 0
  | .registry _ _ => 0

/-- A whole sector as the MSC sees it, with its poison. -/
def State.backSector (s : State) (p : Place) : BitVec 1024 × BitVec 4 :=
  (BitVec.ofNat 1024 (leNat ((List.range 128).map (fun i => s.backByte (p.add i)))),
    BitVec.ofNat 4 (s.backPoison p + 4 * s.backPoison (p.add 64)))

/-! ## EMBER (R77) -/

/-- Whether the n bytes at a place touch the watched 8-byte word. -/
def touches (watch p : Place) (n : Nat) : Bool :=
  watch.space == p.space && decide (watch.addr < p.addr + n) && decide (p.addr < watch.addr + 8)

/-- The hit bits of a task's slots after a write performed to the n bytes at a place. -/
def TaskCtx.hit (t : TaskCtx) (p : Place) (n : Nat) : TaskCtx :=
  { t with ember := t.ember.map (fun e => match e.armed with
      | some a => if touches a p n then { e with hit := true } else e
      | none => e) }

/-- A write performed to the n bytes at a place sets the hit bit of every slot that watches one of them. -/
def State.emberHit (s : State) (p : Place) (n : Nat) : State :=
  let f (w : Wave) : Wave :=
    { w with task := w.task.hit p n, chain := w.chain.map (fun h => { h with task := h.task.hit p n })
             root := w.root.map (fun r => (r.1.hit p n, r.2)) }
  { s with kiln := { s.kiln with
      waves := s.kiln.waves.map (fun x => (x.1, f x.2))
      parked := s.kiln.parked.map (fun x => { x with task := x.task.hit p n }) } }

/-! ## Poison of memory (R413) -/

/-- A write to a granule of local memory: `whole` says that it covers all 64 bytes, `code` that its data is poisoned. -/
def MemSys.poisonWrite (m : MemSys) (u : Nat × Bool × Nat) : MemSys :=
  let out (l : List Nat) : List Nat := l.filter (· != u.1)
  if u.2.2 ≠ 0 then
    { m with poison := if m.poison.contains u.1 then m.poison else u.1 :: m.poison
             sram := if u.2.2 = 2 then u.1 :: out m.sram else out m.sram
             wire := if u.2.2 = 3 then u.1 :: out m.wire else out m.wire }
  else if u.2.1 then { m with poison := out m.poison, bad := out m.bad, sram := out m.sram, wire := out m.wire }
  else m

/-- The granules that a write of the masked bytes of a sector touches. -/
def sectorGranules (a : Nat) (mask : BitVec 128) (p : BitVec 4) : List (Nat × Bool × Nat) :=
  ([0, 1].filter (fun i => granuleMask mask i != 0)).map (fun i =>
    (a / 64 + i, granuleMask mask i == 2 ^ 64 - 1, poisonAt p (64 * i)))

/-- The granules that stores to plane bytes touch. -/
def planeGranules (ts : List (Nat × Byte × Nat)) (p : BitVec 4) : List (Nat × Bool × Nat) :=
  ((ts.map (fun x => x.1 / 64)).dedup).map (fun g =>
    let bs := ts.filter (fun x => x.1 / 64 == g)
    (g, decide (bs.length = 64), bs.foldl (fun c x => max c (poisonAt p x.2.2)) 0))

/-- Poison at a home after such writes. -/
def homePoisonWrite (k : Nat) (ps : List (Nat × Nat)) (u : Nat × Bool × Nat) : List (Nat × Nat) :=
  if u.2.2 ≠ 0 then (if ps.contains (k, u.1) then ps else (k, u.1) :: ps)
  else if u.2.1 then ps.filter (· != (k, u.1)) else ps

/-! ## Writing behind the L2 -/

/-- The masked bytes of a sector as address and value pairs. -/
def maskedBytes (a : Nat) (data : BitVec 1024) (mask : BitVec 128) : List (Nat × Byte) :=
  (bitsOf mask).map (fun i => (a + i, BitVec.ofNat 8 (secGet data i 1)))

/-- Writing the masked bytes of a sector at a home (R323, R413). -/
def State.homeWrite (s : State) (d a : Nat) (data : BitVec 1024) (mask : BitVec 128) (p : BitVec 4) : State :=
  let k := homeKey d
  { s with mem := { s.mem with
      homes := Tab.put s.mem.homes k ((s.homeMem d).setAll (maskedBytes a data mask))
      homePoison := (sectorGranules a mask p).foldl (homePoisonWrite k) s.mem.homePoison } }

/-- Merging masked bytes into a held sector. A granule written whole is clean, one that is written in part stays
poisoned (R413). -/
def PSector.merge (x : PSector) (data : BitVec 1024) (mask : BitVec 128) (p : BitVec 4) (dirty : Bool) : PSector :=
  let wm := wideMask mask
  let pz := [0, 1].foldl (fun q i =>
    if granuleMask mask i = 0 then q
    else if poisonAt p (64 * i) ≠ 0 then poisonSet q (64 * i) (poisonAt p (64 * i))
    else if dirty && granuleMask mask i == 2 ^ 64 - 1 then poisonSet q (64 * i) 0 else q) x.poison
  { x with data := (x.data &&& ~~~wm) ||| (data &&& wm), valid := x.valid ||| mask,
           dirty := if dirty then x.dirty ||| mask else x.dirty, poison := pz }

/-- Replacing or adding a sector of a list. -/
def putSec (l : List PSector) (x : PSector) : List PSector := x :: l.filter (fun y => y.place != x.place)

/-- Whether a context's outbound writes are discarded (R416). -/
def State.viral (s : State) (ctx : Nat) : Bool := ((s.ctx ctx).map (·.viral)).getD false

/-- Why a destination in fabric space cannot be reached: an expander that has left, a route or a port out of service, no
FLUE link that is ready (R336, R337, R362, R420, R424). Which link leads to which peer is not stated: any ready one does
(log 101). -/
def State.destErr (s : State) (dest : Nat) : Option MemErr :=
  if dest / 4096 = 1 && s.dev.lostPorts.contains dest then some ⟨7, 3⟩
  else if s.dev.lostRoutes.contains dest then some ⟨7, 2⟩
  else if dest < 8192 then (if s.dev.ports.getLsbD (dest % 4096) then none else some ⟨7, 2⟩)
  else if s.dev.links = 0 then some ⟨7, 2⟩ else none

/-- Why a place in fabric space cannot be reached: its destination cannot, or it lies in an extent of another 900-L that its
tenant has released (R424). -/
def State.homeErr (s : State) (p : Place) : Option MemErr :=
  match p with
  | .home t _ d a => match s.destErr d with
    | some e => some e
    | none => if (s.tenant t).gone.any (fun x => x.1 == homeKey d && decide (x.2.1 ≤ a) && decide (a < x.2.1 + x.2.2))
        then some ⟨7, 1⟩ else none
  | _ => none

/-- Whether flits wait: the controller of the only link that is ready is being replaced (R367; log 101). -/
def State.linkWaits (s : State) : Bool :=
  s.dev.activation.any (fun a => a.deadline.isSome && decide (0x10 ≤ a.controller) && decide (a.controller < 0x20)
    && s.dev.links == BitVec.ofNat 16 (2 ^ (a.controller - 0x10)))

/-- Whether a new request to a place waits: the firmware of the controller on its way is being replaced, between its safe
point and CONE (R367). A flit for a peer takes another link that is ready (log 101). -/
def State.waitsAt (s : State) (p : Place) : Bool :=
  match s.dev.activation with
  | none => false
  | some a =>
    let at_ (x : Nat) : Bool := decide (0x20 ≤ a.controller) && stackOf x == a.controller % 8
    a.deadline.isSome && (match p with
      | .loc x => at_ x
      | .inAlias t x => (aliasEnds (s.tenant t).regions x).any at_
      | .home _ _ d _ => decide (8192 ≤ d) && s.linkWaits
      | .registry _ _ => false)

/-- The turn meets a controller whose firmware is being replaced, and is put off (R367, R368; log 88). -/
def State.hold (s : State) : State := { s with sched := { s.sched with held := true } }

/-- A request to a place is made: if it must wait, so must the turn that makes it (log 88). -/
def State.noteWait (s : State) (p : Place) : State :=
  if s.waitsAt p then s.hold else s

/-- Whether a request for n bytes of local memory waits so. 16 pages in a row stand in all eight stacks (R17). -/
def State.rangeWaits (s : State) (a n : Nat) : Bool :=
  (List.range (min 16 ((a + n + 4095) / 4096 - a / 4096))).any (fun i => s.waitsAt (.loc (a + 4096 * i)))

/-- A read that nothing before the MSC serves: the MSC serves what it holds of fabric space. -/
def State.noteRead (s : State) (p : Place) : State :=
  if (s.mscFind p).any (fun x => x.valid == BitVec.allOnes 128) then s else s.noteWait p

/-- Where the blocks that follow one another from the one that holds byte a end; a itself where none holds it. -/
def blocksEnd (bs : List (Nat × Nat)) : Nat → Nat → Nat
  | 0, a => a
  | fuel + 1, a => match bs.find? (fun b => decide (b.1 ≤ a) && decide (a < b.1 + b.2)) with
    | some b => blocksEnd bs fuel (b.1 + b.2)
    | none => a

/-- Whether every byte of [a, a + n) lies in one of the blocks (R320): it may cross from one to another that adjoins it. -/
def inBlocks (bs : List (Nat × Nat)) (a n : Nat) : Bool := decide (a + n ≤ blocksEnd bs bs.length a)

/-- Why a tenant's access does not reach a byte of local memory: beyond the populated capacity, outside the tenant's
ranges, in an extent it has released, in a stack that is not ready (R320, R362, R409, R411, R424). -/
def State.locErr (s : State) (tn : Tenant) (a : Nat) : Option MemErr :=
  if s.dev.populated ≤ a then some ⟨3, 4⟩
  else if !inBlocks tn.ranges a 1 then some (if inBlocks tn.released a 1 then ⟨7, 1⟩ else ⟨3, 6⟩)
  else if !s.dev.stackBits.getLsbD (stackOf a) then some ⟨7, 4⟩
  else none

/-- Viral mode begins (R415, R417); a context without a live launch leaves it at once. -/
def State.goViral (s : State) (ctx : Nat) : State :=
  if s.kiln.launches.any (fun x => x.2.record.ctx == ctx) then
    let s1 := s.modCtx ctx (fun c => { c with viral := true })
    let ls := s1.kiln.launches.map (fun x => (x.1, if x.2.record.ctx = ctx then { x.2 with viral := true } else x.2))
    { s1 with kiln := { s1.kiln with launches := ls } }
  else s

/-- The error of a lost writeback joins the pending errors of a wave (R384, R410, R424). -/
def Wave.lostSector (w : Wave) (addr : Nat) : Wave :=
  if w.pending.length < 4 then
    { w with pending := w.pending ++ [{ code := 6, detail := 0, addr := addr, lane := 0xFF, flag := 15, slices := 0xFF
                                        fpc := 0, lanes := 0, rows := 0, lines := 0, depth := w.depth }] }
  else { w with lost := true }

/-- A writeback of a dirty sector is lost: every wave of every context of its tenant that has a gang resident in the
writing cluster gets the error, and those contexts enter viral mode (R424). For the MSC, which writes for every
cluster, `cl` is none. -/
def State.noteLost (s : State) (cl : Option Nat) (tenant addr : Nat) : State :=
  let here (g : Group) : Bool := match g.core, cl with
    | some k, some c => k / 8 == c
    | some _, none => true
    | none, _ => false
  let cs := ((s.kiln.groups.filter (fun x => here x.2 && s.tenantNo x.1 == tenant)).map (fun x => s.ctxNo x.1)).dedup
  let s1 := { s with kiln := { s.kiln with waves := s.kiln.waves.map (fun x =>
    (x.1, if cs.contains (s.ctxNo x.2.group) then x.2.lostSector addr else x.2)) } }
  cs.foldl (fun s c => s.goViral c) s1

/-- No cache keeps a clean copy of a sector's bytes: what was written there has been discarded, and later reads find the
home (R416). -/
def State.forget (s : State) (p : Place) : State :=
  let f (x : PSector) : Option PSector :=
    if x.place ≠ p then some x else if x.dirty = 0 then none else some { x with valid := x.dirty }
  { s with
    clusters := s.clusters.map (fun c => (c.1, { c.2 with l2 := c.2.l2.filterMap f }))
    cores := s.cores.map (fun c => (c.1, { c.2 with l1 := c.2.l1.filter (fun x => x.place != p) })) }

/-- The dirty bytes of a sector of fabric space go to their home; viral mode (R416) and a lost target (R424) discard them. -/
def State.homeBack (s : State) (cl : Option Nat) (x : PSector) : State :=
  match x.place with
  | .home _ _ d a =>
    if x.dirty = 0 then s
    else if s.viral x.ctx then s.forget x.place
    else if (s.homeErr x.place).isSome then (s.forget x.place).noteLost cl x.tenant a
    else (s.noteWait x.place).homeWrite d a x.data x.dirty x.poison
  | _ => s

/-- Whether a sector is a copy of a coherent line. -/
def PSector.coheres (x : PSector) (p : Place) : Bool := x.coh && x.place.line.key == p.line.key

/-- The sectors in the MSC (`none`) and in the L2s of the clusters (`some`) that satisfy q, and a change to all of them. -/
def State.copies (s : State) (q : Option Nat → PSector → Bool) : List PSector :=
  s.mem.msc.filter (q none) ++ s.clusters.flatMap (fun (c : Nat × Cluster) => c.2.l2.filter (q (some c.1)))
def State.mapCopies (s : State) (f : Option Nat → PSector → Option PSector) : State :=
  { s with
    mem := { s.mem with msc := s.mem.msc.filterMap (f none) }
    clusters := s.clusters.map (fun (c : Nat × Cluster) => (c.1, { c.2 with l2 := c.2.l2.filterMap (f (some c.1)) })) }

/-- The BISnp of a line's home (R126, R326): every coherent copy, in an L2 (`some` cluster) or in the MSC, by whichever
physical address it is held, is written back and removed, but for those that `keep` names by holder and line. A removal hits
the EMBER slots that watch a word of the line (R327). -/
def State.bisnp (s : State) (keep : Option Nat → Place → Bool) (p : Place) : State :=
  let goes (c : Option Nat) (x : PSector) : Bool := x.coheres p && !keep c x.place.line
  let xs := s.copies goes
  if xs.isEmpty then s
  else (xs.foldl (fun (s : State) x => s.homeBack none x)
    (s.mapCopies (fun c x => if goes c x then none else some x))).emberHit p.line 256

/-- Before a write at the home, and before one in the L2 of cluster `cl`, no other copy of a coherent line stays. -/
def State.cohHome (s : State) (cl : Option Nat) (p : Place) : State :=
  s.bisnp (fun c q => c.isSome && c == cl && q == p.line) p

/-- Writing back an MSC sector of fabric space to its home and dropping it. -/
def State.mscFlush (s : State) (cl : Option Nat) (p : Place) : State :=
  match s.mscFind p with
  | none => s
  | some x =>
    let s1 := { s with mem := { s.mem with msc := s.mem.msc.filter (fun y => y.place != p) } }
    (if x.coh || x.dirty == 0 then s1 else s1.cohHome none p).homeBack cl x

/-- Lines of local memory have been written in the MSC: those that it holds have a dirty sector there (R110, R123). -/
def MemSys.soil (m : MemSys) (ls : List Nat) : MemSys :=
  { m with dirty := ls.foldl (fun d n => if m.lines.contains n && !d.contains n then n :: d else d) m.dirty }

/-- The MSC holds a line of local memory no longer; a dirty one has been written to its stack. -/
def MemSys.unhold (m : MemSys) (n : Nat) : MemSys :=
  { m with lines := m.lines.filter (· != n), dirty := m.dirty.filter (· != n) }

/-- Room for a line in its slice of the MSC (R16): a full slice first evicts one. -/
def State.mscRoom (s : State) (l : Place) : State :=
  let held := (s.mem.msc.map (·.place.line) ++ s.mem.lines.map (fun n => Place.loc (256 * n))).filter (fun q => q.stack == l.stack)
  match evicted mscLines (Config.freeChoice s.sched.fresh) held l with
  | none => s
  | some (.loc a) => { s.bumpFresh with mem := s.mem.unhold (a / 256) }
  | some q => q.sectors.foldl (fun s p => s.mscFlush none p) s.bumpFresh

/-- Putting a sector of fabric space into its slice of the MSC. -/
def State.mscPut (s : State) (x : PSector) : State :=
  let s1 := s.mscRoom x.place.line
  { s1 with mem := { s1.mem with msc := putSec s1.mem.msc x } }

/-- The lines of local memory that an access to a place has to do with: its own, or those of a glazed row's plane bytes. -/
def State.localLines (s : State) : Place → List Nat
  | .loc a => [a / 256]
  | .inAlias t a => ((aliasEnds (s.tenant t).regions a).map (· / 256)).dedup
  | _ => []

/-- The lines of local memory that a place stands on come to stand in the MSC (R16, R110). -/
def State.mscHold (s : State) (p : Place) : State :=
  (s.localLines p).foldl (fun s n =>
    if s.mem.lines.contains n then s
    else
      let s1 := s.mscRoom (.loc (256 * n))
      { s1 with mem := { s1.mem with lines := n :: s1.mem.lines } }) s

/-- The MSC comes to hold what is read through it, where the page's policy allows it (R106). -/
def State.mscFill (s : State) (p : Place) (tenant ctx : Nat) (at_ : Attr) : State :=
  if at_.pol = 2 then s
  else if !p.isHome then s.mscHold p
  else if (s.mscFind p).isNone then
    let (data, pz) := s.backSector p
    s.mscPut ⟨p, tenant, ctx, at_.coh, data, BitVec.allOnes 128, 0, pz⟩
  else s

/-- Writing masked bytes of a fabric-space sector at the MSC, where they are dirty (R110, R111). -/
def State.mscWrite (s : State) (x : PSector) (mask : BitVec 128) : State :=
  let old := (s.mscFind x.place).getD
    ⟨x.place, x.tenant, x.ctx, x.coh, 0, 0, 0, BitVec.ofNat 4 (s.backPoison x.place + 4 * s.backPoison (x.place.add 64))⟩
  s.mscPut ({ old.merge x.data mask x.poison true with tenant := x.tenant, ctx := x.ctx, coh := x.coh })

/-- Writing the masked bytes of a sector at what lies behind the L2: local memory, plane bytes of a GLAZE line that the
tenant reaches, the MSC for fabric space (R110, R113, R120, R121, R320). An agent outside that caches the line is sent a
BISnp and keeps it no longer (R316, R326). -/
def State.backWrite (s : State) (x : PSector) (mask : BitVec 128) : State :=
  let s := if x.place.isHome then s else s.noteWait x.place
  match x.place with
  | .loc a =>
    let m := (sectorGranules a mask x.poison).foldl MemSys.poisonWrite s.mem
    { s with mem := MemSys.soil { m with
        loc := s.mem.loc.setAll (maskedBytes a x.data mask), snoop := s.mem.snoop.filter (· != a / 256) } [a / 256] }
  | .inAlias t a =>
    let ts := (aliasStores (s.tenant t).regions s.mem.loc a x.data mask).filter (fun y => (s.locErr (s.tenant t) y.1).isNone)
    let m := (planeGranules ts x.poison).foldl MemSys.poisonWrite s.mem
    ts.foldl (fun s y => s.emberHit (.loc y.1) 1)
      { s with mem := MemSys.soil { m with
          loc := s.mem.loc.setAll (ts.map (fun y => (y.1, y.2.1)))
          snoop := s.mem.snoop.filter (fun l => ts.all (fun y => y.1 / 256 != l)) } ((ts.map (fun y => y.1 / 256)).dedup) }
  | .home _ _ _ _ => if s.viral x.ctx then s else s.mscWrite x mask
  | .registry _ _ => s

/-! ## The L2 -/

def State.l2Find (s : State) (cl : Nat) (p : Place) : Option PSector :=
  (s.cluster cl).l2.find? (fun x => x.place == p)

/-- Replacing or adding a sector of a slice, whatever its size. -/
def State.l2Set (s : State) (cl : Nat) (x : PSector) : State :=
  s.modCluster cl (fun c => { c with l2 := putSec c.l2 x })

def State.l2Drop (s : State) (cl : Nat) (p : Place) : State :=
  s.modCluster cl (fun c => { c with l2 := c.l2.filter (fun x => x.place != p) })

/-- Whether the writeback of a sector is lost: its stack, or for a GLAZE sector a stack of the plane bytes it writes, is
out of service (R410, R443). -/
def State.lostBack (s : State) (x : PSector) : Bool :=
  match x.place with
  | .loc a => !s.dev.stackBits.getLsbD (stackOf a)
  | .inAlias t a => (aliasStores (s.tenant t).regions s.mem.loc a x.data x.dirty).any (fun y =>
      !s.dev.stackBits.getLsbD (stackOf y.1))
  | _ => false

/-- Writing back the dirty bytes of a sector of a cluster; the sector stays, clean (R15, R311). Of one whose writeback is
lost or discarded the written bytes are gone (R410, R416, R443). -/
def State.l2WriteBack (s : State) (cl : Nat) (p : Place) : State :=
  match s.l2Find cl p with
  | none => s
  | some x =>
    if x.dirty = 0 then s
    else if s.lostBack x then ((s.l2Set cl { x with dirty := 0 }).forget p).noteLost (some cl) x.tenant p.addr
    else if p.isHome && s.viral x.ctx then (s.l2Set cl { x with dirty := 0 }).forget p
    else ((s.mscHold p).backWrite x x.dirty).l2Set cl { x with dirty := 0 }

/-- Writing back and dropping a sector of a cluster. -/
def State.l2Flush (s : State) (cl : Nat) (p : Place) : State := (s.l2WriteBack cl p).l2Drop cl p

/-- Putting a sector into a slice of 8 MiB (R15): a full one first evicts a line. -/
def State.l2Put (s : State) (cl : Nat) (x : PSector) : State :=
  match evicted l2Lines (Config.freeChoice s.sched.fresh) ((s.cluster cl).l2.map (fun y => y.place.line)) x.place.line with
  | none => s.l2Set cl x
  | some l => (l.sectors.foldl (fun s p => s.l2Flush cl p) s.bumpFresh).l2Set cl x

/-- The bytes of a sector of a cluster that are not dirty are read anew when next asked for. -/
def State.l2Stale (s : State) (cl : Nat) (p : Place) : State :=
  match s.l2Find cl p with
  | none => s
  | some x => if x.coh then s else if x.dirty = 0 then s.l2Drop cl p else s.l2Set cl { x with valid := x.dirty }

/-! ## Coherent regions (R126, R326, R327) -/

/-- The clusters, but one, whose L2 holds a coherent sector by the same physical address. -/
def State.cohHolders (s : State) (but : Option Nat) (p : Place) : List Nat :=
  (Tab.keys s.clusters).filter (fun c => some c != but && (s.l2Find c p).any (·.coh))

/-- Before a read the dirty bytes that others hold of a coherent sector are written back, so that the read finds them: to the
MSC what is held by the same physical address, to the home what is held by another. -/
def State.cohPull (s : State) (cl : Nat) (p : Place) : State :=
  let s1 := (s.cohHolders (some cl) p).foldl (fun s c => s.l2WriteBack c p) s
  let far (x : PSector) : Bool := x.coh && x.dirty != 0 && x.place != p && x.place.key == p.key
  let xs := s1.copies (fun _ => far)
  if xs.isEmpty then s1
  else xs.foldl (fun (s : State) x => s.homeBack none x)
    (s1.mapCopies (fun _ x => some (if far x then { x with dirty := 0 } else x)))

/-- Before a write in the MSC every other cached copy of a coherent line is written back and removed. -/
def State.cohDrop (s : State) (cl : Nat) (p : Place) : State :=
  let hs := p.sectors.filter (fun q => !(s.cohHolders (some cl) q).isEmpty)
  let s1 := if hs.isEmpty then s
    else (hs.foldl (fun s q => (s.cohHolders (some cl) q).foldl (fun s c => s.l2Flush c q) s) s).emberHit p.line 256
  s1.bisnp (fun _ q => q == p.line) p

/-- The sector of a place in a cluster's L2, filled from behind where it is not valid. -/
def State.l2Filled (s : State) (cl : Nat) (p : Place) (tenant ctx : Nat) (coh : Bool) : PSector :=
  let (data, pz) := s.backSector p
  match s.l2Find cl p with
  | none => ⟨p, tenant, ctx, coh, data, BitVec.allOnes 128, 0, pz⟩
  | some x => if x.valid = BitVec.allOnes 128 then x
    else
      let keep := wideMask x.valid
      let q (i : Nat) : Nat := if granuleMask x.dirty i = 2 ^ 64 - 1 then poisonAt x.poison (64 * i)
        else max (poisonAt x.poison (64 * i)) (poisonAt pz (64 * i))
      { x with data := (x.data &&& keep) ||| (data &&& ~~~keep), valid := BitVec.allOnes 128,
               poison := BitVec.ofNat 4 (q 0 + 4 * q 1) }

/-! ## Points of the scopes (R111) -/

/-- Where an access of a scope is performed. -/
inductive Point
  | l2
  | msc
  | home
  deriving DecidableEq, Repr

/-- The point of a scope for a place (R111). -/
def pointOf (sc : Scope) (p : Place) : Point :=
  match sc with
  | .wave | .core | .clus => .l2
  | .dev => .msc
  | .ten | .sys => if p.isHome then .home else .msc

/-- Where a write of a point goes: a page that allocates nothing in the L2 is written behind it, one that allocates
nothing in the MSC at its home (R106). -/
def writePoint (pt : Point) (p : Place) (at_ : Attr) : Point :=
  let q := if at_.pol ≠ 0 ∧ pt = .l2 then .msc else pt
  if at_.pol = 2 ∧ q = .msc ∧ p.isHome then .home else q

/-- Who accesses: a core with its cluster, the context and its tenant. -/
structure Agent where
  core : Nat
  ctx : Nat
  tenant : Nat
  deriving DecidableEq, Repr

def Agent.cluster (a : Agent) : Nat := a.core / 8

/-- Bringing a place to its point: what the agent's own L2, and for the home the MSC, holds of the sector goes down
first, so that the agent's earlier writes are seen (R133, R134). -/
def State.settle (s : State) (ag : Agent) (pt : Point) (p : Place) : State :=
  match pt with
  | .l2 => s
  | .msc => s.l2Flush ag.cluster p.sector
  | .home => (s.l2Flush ag.cluster p.sector).mscFlush (some ag.cluster) p.sector

/-- Reading n bytes, within one sector, at a point: the value, the poison code, and the state with the line allocated
where the policy allows (R106, R110); `alloc` false allocates nowhere (R122). A quantise window reads zero (R427). -/
def State.readAt (s : State) (ag : Agent) (pt : Point) (p : Place) (n : Nat) (at_ : Attr) (alloc : Bool := true) :
    State × Nat × Nat :=
  let b := p.sector
  let seen (r : State × Nat × Nat) : State × Nat × Nat := if p.readsZero then (r.1, 0, 0) else r
  let s0 := if at_.coh then s.cohPull ag.cluster b else s
  match pt with
  | .l2 =>
    let old := s0.l2Find ag.cluster b
    let x := s0.l2Filled ag.cluster b ag.tenant ag.ctx at_.coh
    let whole := old.any (fun y => y.valid == BitVec.allOnes 128)
    let s1 := if whole then s0 else s0.noteRead b
    let s1 := if !alloc then s1
      else
        let s2 := if whole then s1 else s1.mscFill b ag.tenant ag.ctx at_
        if at_.pol = 0 ∨ old.isSome then s2.l2Put ag.cluster x else s2
    seen (s1, secGet x.data p.off n, poisonIn x.poison p.off n)
  | _ =>
    let s1 := (s0.settle ag pt p).noteRead b
    let (data, pz) := s1.backSector b
    seen (if alloc && pt == .msc then s1.mscFill b ag.tenant ag.ctx at_ else s1, secGet data p.off n, poisonIn pz p.off n)

/-- A write to what lies behind the L2 that is no home of fabric space, by the agent itself: `keep` says that the MSC comes to hold
the line. A store that hits the L1 is not checked again (R411), and where the stack, or a stack of the plane bytes, has gone out
of service since the line was filled, it reaches no memory (R362): what it wrote is lost as a dirty sector's bytes are (R410,
R443). DEDUCED (log 134). -/
def State.behind (s : State) (ag : Agent) (x : PSector) (mask : BitVec 128) (keep : Bool) (p : Place) (n : Nat) : State :=
  if s.lostBack x then (s.forget x.place).noteLost (some ag.cluster) ag.tenant x.place.addr
  else ((if keep then s.mscHold x.place else s).backWrite x mask).emberHit p n

/-- Writing n bytes, within one sector, at a point. Every write that is performed sets EMBER hits (R77); of a coherent line
it first removes every other copy (R126). Each lane's store is a write of its own where it does not rest in the L2: no group of
a quantise window is then whole, and nothing is quantised (R121). DESIGN CHOICE (log 122). -/
def State.writeAt (s : State) (ag : Agent) (pt : Point) (p : Place) (n v : Nat) (at_ : Attr) : State :=
  let b := p.sector
  let mask := byteMask p.off n
  let data := secPut 0 p.off n v
  let new : PSector := ⟨b, ag.tenant, ag.ctx, at_.coh, data, mask, mask, 0⟩
  if p.isHome && s.viral ag.ctx then s
  else match writePoint pt p at_ with
    | .l2 =>
      let s1 := if at_.coh then s.cohHome (some ag.cluster) b else s
      let old := (s1.l2Find ag.cluster b).getD ⟨b, ag.tenant, ag.ctx, at_.coh, 0, 0, 0, 0⟩
      (s1.l2Put ag.cluster { old.merge data mask 0 true with tenant := ag.tenant, ctx := ag.ctx, coh := at_.coh }).emberHit p n
    | .msc =>
      let s1 := if at_.coh then s.cohDrop ag.cluster b else s
      (s1.settle ag .msc p).behind ag new mask (at_.pol != 2) p n
    | .home => match p with
      | .home _ _ d _ =>
        let s1 := (s.settle ag .home p).cohHome none b
        if (s1.homeErr p).isSome then s1 else ((s1.noteWait p).homeWrite d b.addr data mask 0).emberHit p n
      | _ => (s.settle ag .msc p).behind ag new mask false p n

/-- A granule that one instruction has written whole is clean where the write was performed (R413); of a glazed line, the
plane granules that it fills. -/
def State.cleanGranule (s : State) (ag : Agent) (pt : Point) (p : Place) (at_ : Attr) : State :=
  let b := p.sector
  let f (x : PSector) : PSector := if x.place = b then { x with poison := poisonSet x.poison p.off 0 } else x
  if p.isHome && s.viral ag.ctx then s
  else match writePoint pt p at_ with
    | .l2 => s.modCluster ag.cluster (fun c => { c with l2 := c.l2.map f })
    | q => match p with
      | .loc a => { s with mem := s.mem.poisonWrite (a / 64, true, 0) }
      | .inAlias t a =>
        let xs := ((List.range 64).filterMap (fun i => aliasPlane (s.tenant t).regions (a / 64 * 64 + i))).filter (fun x =>
          (s.locErr (s.tenant t) x).isNone)
        { s with mem := (planeGranules (xs.map (fun x => (x, 0, 0))) 0).foldl MemSys.poisonWrite s.mem }
      | .home _ _ d a =>
        if q = .msc then { s with mem := { s.mem with msc := s.mem.msc.map f } }
        else if (s.homeErr p).isSome then s
        else { s with mem := { s.mem with homePoison := homePoisonWrite (homeKey d) s.mem.homePoison (a / 64, true, 0) } }
      | .registry _ _ => s

/-! ## Translation (R105 to R107, R412) -/

/-- A page-table entry as the walker reads it. -/
def State.pte (s : State) (a : Nat) : Nat := leNat (s.mem.loc.bytes a 8)

/-- Whether a valid entry of a level is malformed (R412); `ranges` are the tenant's. -/
def pteBad (ranges : List (Nat × Nat)) (level e : Nat) : Bool :=
  let leaf := e / 4 % 2 == 1
  let pa := e / 4096 % 2 ^ 34 * 4096
  e / 2 ^ 46 != 0 || e / 512 % 8 != 0 || e / 2 % 2 != 0
    || (level == 0 && !leaf) || (level == 3 && leaf)
    || (level != 0 && e / 256 % 2 == 1) || e / 64 % 4 == 3
    || (leaf && ((level == 1 && pa % 2 ^ 21 != 0) || (level == 2 && pa % 2 ^ 31 != 0)))
    || (!leaf && (let size := if level == 3 then 2 ^ 15 else if level == 2 then 2 ^ 13 else 2 ^ 12
        pa % size != 0 || !inBlocks ranges pa size))

/-- Whether the 16 entries around a C64K entry agree (R106, R412). -/
def c64kOk (es : List Nat) : Bool :=
  let base (e : Nat) := e - e / 4096 % 16 * 4096
  (List.range 16).all (fun i => es.getD i 0 / 4096 % 16 == i && base (es.getD i 0) == base (es.getD 0 0))

/-- The attributes of a leaf (R106). -/
def leafAttr (e psize pa : Nat) : Attr :=
  ⟨e / 8 % 2 == 1, e / 16 % 2 == 1, e / 64 % 4, e / 32 % 2 == 1, psize, pa / 2 ^ 44 % 4⟩

/-- The entry of a table of a level that an address selects (R105). -/
def walkIndex (va level : Nat) : Nat :=
  match level with
  | 3 => va / 2 ^ 43 % 8192
  | 2 => va / 2 ^ 31 % 4096
  | 1 => va / 2 ^ 21 % 1024
  | _ => va / 2 ^ 12 % 512

/-- The walk from a table of a level: physical address of the page, its size, its attributes. Every entry that the walker
reads is checked as any access of the tenant is (R320, R362). -/
def State.walkFrom (s : State) (tn : Tenant) (va : Nat) : Nat → Nat → Except MemErr (Nat × Nat × Attr)
  | level, table =>
    let idx := walkIndex va level
    let e := s.pte (table + 8 * idx)
    let pa := e / 4096 % 2 ^ 34 * 4096
    match s.locErr tn (table + 8 * idx) with
    | some x => .error x
    | none =>
    if e % 2 = 0 then .error ⟨1, level⟩
    else if pteBad tn.ranges level e then .error ⟨9, level⟩
    else match level with
      | 0 =>
        if e / 256 % 2 = 1 then
          if c64kOk ((List.range 16).map (fun i => s.pte (table + 8 * (idx / 16 * 16 + i)))) then
            .ok (pa / 65536 * 65536, 65536, leafAttr e 1 pa)
          else .error ⟨9, 0⟩
        else .ok (pa, 4096, leafAttr e 0 pa)
      | l + 1 =>
        if e / 4 % 2 = 1 then .ok (pa, if level = 1 then 2 ^ 21 else 2 ^ 31, leafAttr e (if level = 1 then 2 else 3) pa)
        else s.walkFrom tn va l pa

/-- The entries that a walk reads, from a table of a level. -/
def State.walkReads (s : State) (va : Nat) : Nat → Nat → List Nat
  | level, table =>
    let a := table + 8 * walkIndex va level
    let e := s.pte a
    a :: (match level with
      | 0 => []
      | l + 1 => if e % 2 = 0 ∨ e / 4 % 2 = 1 then [] else s.walkReads va l (e / 4096 % 2 ^ 34 * 4096))

/-- The registry window (R329). -/
def registryBase : Nat := 0x00FFFFFF80000000

/-- What a virtual address of a context translates to before decode: a physical address, or the registry. -/
inductive Phys
  | pa (a : Nat)
  | reg (a : Nat)
  deriving DecidableEq, Repr

/-- Translating an address as the walkers do: page base, size and attributes (R105, R329). -/
def State.walk (s : State) (ctx : Nat) (va : Nat) : Except MemErr (Phys × Nat × Attr) :=
  match s.ctx ctx with
  | none => .error ⟨1, 3⟩
  | some c =>
    if registryBase ≤ va then
      if ((s.tenant c.tenant).kernels.any (fun k => decide (k.va ≤ va) && decide (va < k.va + k.image.length))) then
        .ok (.reg registryBase, 2 ^ 31, ⟨false, true, 0, false, 3, 0⟩)
      else .error ⟨1, 2⟩
    else match s.walkFrom (s.tenant c.tenant) va 3 c.tableRoot with
      | .error e => .error e
      | .ok (pa, size, at_) => .ok (.pa pa, size, at_)

/-- The window of a tenant that decodes a fabric-space offset (R323). -/
def windowOf (ws : List Window) (a : Nat) : Option Window :=
  ws.find? (fun w => w.control.getLsbD 7 && decide (w.base ≤ a) && decide (a < w.base + w.size))

/-- The destination number of a window: 4,096 × kind + port or device (R323). -/
def Window.dest (w : Window) : Nat := w.control.toNat % 4 * 4096 + w.control.toNat / 256 % 4096

/-- Decoding a physical address for a tenant: region, range, stack and window checks (R104, R320, R323, R362, R409). Of a
GLAZE address the plane bytes that its row stands on are checked. -/
def State.decodePa (s : State) (t pa : Nat) : Except MemErr Place :=
  let tn := s.tenant t
  let a := pa % 2 ^ 44
  match pa / 2 ^ 44 % 4 with
  | 0 => match s.locErr tn a with
    | some e => .error e
    | none => .ok (.loc a)
  | 1 => match aliasErr tn.regions a with
    | some d => .error ⟨3, d⟩
    | none => match (aliasEnds tn.regions a).findSome? (fun x => s.locErr tn x) with
      | some e => .error e
      | none => .ok (.inAlias t a)
  | 2 => match windowOf tn.windows a with
    | none => .error ⟨3, 1⟩
    | some w => .ok (.home t a w.dest (w.target + (a - w.base)))
  | _ => .error ⟨3, 3⟩

/-- COH as it takes effect: only in fabric space in a window whose COHOK is 1 (R106, R313). -/
def State.cohOf (s : State) (t pa : Nat) (at_ : Attr) : Bool :=
  at_.coh && pa / 2 ^ 44 % 4 == 2 && (match windowOf (s.tenant t).windows (pa % 2 ^ 44) with
    | some w => w.control.getLsbD 6
    | none => false)

/-- A cached translation of the cluster (R107, R108). -/
def State.tlbFind (s : State) (cl asid va : Nat) : Option TlbEntry :=
  (s.cluster cl).tlb.find? (fun e => e.asid == asid && decide (e.va ≤ va) && decide (va < e.va + e.size))

/-- What an access needs of the page. -/
inductive Need
  | read
  | write
  | exec
  deriving DecidableEq, Repr

/-- The translation of an address: from the cluster's translation cache or the walkers (R107). -/
def State.lookup (s : State) (ag : Agent) (va : Nat) : Except MemErr (Phys × Nat × Attr) :=
  match s.tlbFind ag.cluster (((s.ctx ag.ctx).map (·.asid)).getD 0) va with
  | some e => .ok (.pa e.pa, e.size, e.attr)
  | none => s.walk ag.ctx va

/-- Translating and checking an address at the L2 boundary (R107, R409, R411). -/
def State.translate (s : State) (ag : Agent) (va : Nat) (need : Need) : Except MemErr (Place × Attr) :=
  match s.lookup ag va with
  | .error e => .error e
  | .ok (ph, size, at_) =>
    if need = .write ∧ !at_.w then .error ⟨2, 0⟩
    else if need = .exec ∧ !at_.x then .error ⟨2, 1⟩
    else match ph with
      | .reg b => .ok (.registry ag.tenant (b + va % size), at_)
      | .pa b => match s.decodePa ag.tenant (b + va % size) with
        | .error e => .error e
        | .ok p => .ok (p, { at_ with coh := s.cohOf ag.tenant (b + va % size) at_ })

/-- Keeping a translation that an access used in the cluster's translation cache (R107). -/
def State.tlbFill (s : State) (ag : Agent) (va : Nat) : State :=
  let asid := ((s.ctx ag.ctx).map (·.asid)).getD 0
  match s.tlbFind ag.cluster asid va with
  | some _ => s
  | none => match s.walk ag.ctx va with
    | .ok (.pa b, size, at_) =>
      let reads := s.walkReads va 3 (((s.ctx ag.ctx).map (·.tableRoot)).getD 0)
      (reads.foldl (fun s a => s.noteWait (.loc a)) s).modCluster ag.cluster (fun c => { c with tlb := ⟨asid, va / size * size, size, b, at_⟩ :: c.tlb })
    | _ => s

/-! ## The caches of a core (R12, R107, R110, R112) -/

def vFind (l : List VSector) (asid va : Nat) : Option VSector :=
  l.find? (fun x => x.asid == asid && x.va == va / 128 * 128)

/-- Putting a sector into a cache of `cap` lines of w bytes, of which one may have to go. -/
def vPut (cap w pick : Nat) (l : List VSector) (x : VSector) : List VSector :=
  let key (y : VSector) : Nat × Nat := (y.asid, y.va / w)
  let rest := l.filter (fun y => !(y.asid == x.asid && y.va == x.va))
  x :: (match evicted cap pick (rest.map key) (key x) with
    | none => rest
    | some k => rest.filter (fun y => key y != k))

def State.asidOf (s : State) (ctx : Nat) : Nat := ((s.ctx ctx).map (·.asid)).getD 0

/-- The sector of an address that the core's L1 holds for the context. -/
def State.l1Hit (s : State) (ag : Agent) (va : Nat) : Option VSector :=
  vFind (s.core ag.core).l1 (s.asidOf ag.ctx) va

/-- Dropping the core's L1 line of an address. -/
def State.l1Drop (s : State) (ag : Agent) (va : Nat) : State :=
  let asid := s.asidOf ag.ctx
  s.modCore ag.core (fun c => { c with l1 := c.l1.filter (fun x => !(x.asid == asid && x.va / 256 == va / 256)) })

/-- A sector as a core's cache keeps it. -/
def State.vSector (s : State) (ag : Agent) (va : Nat) (p : Place) (at_ : Attr) : VSector :=
  let x := s.l2Filled ag.cluster p.sector ag.tenant ag.ctx at_.coh
  ⟨s.asidOf ag.ctx, va / 128 * 128, p.sector, at_, if p.readsZero then 0 else x.data, if p.readsZero then 0 else x.poison⟩

/-- Filling the core's L1, its constant cache, its instruction cache. -/
def State.l1Fill (s : State) (ag : Agent) (va : Nat) (p : Place) (at_ : Attr) : State :=
  let x := s.vSector ag va p at_
  s.bumpFresh.modCore ag.core (fun c => { c with l1 := vPut l1Lines 256 (Config.freeChoice s.sched.fresh) c.l1 x })
def State.ccFill (s : State) (ag : Agent) (va : Nat) (p : Place) (at_ : Attr) : State :=
  let x := s.vSector ag va p at_
  s.bumpFresh.modCore ag.core (fun c => { c with cc := vPut ccSectors 128 (Config.freeChoice s.sched.fresh) c.cc x })
def State.icFill (s : State) (ag : Agent) (va : Nat) (p : Place) (at_ : Attr) : State :=
  let x := s.vSector ag va p at_
  s.bumpFresh.modCore ag.core (fun c => { c with ic := vPut icSectors 128 (Config.freeChoice s.sched.fresh) c.ic x })

/-- Whether a load of the scope may be served by the core's L1. -/
def l1Serves (sc : Scope) : Bool := match sc with | .wave | .core => true | _ => false

/-- How a load is made: as `ld`, or as an element of a gather (R122), each with the hint nl1 or without. -/
inductive Way
  | plain (nl1 : Bool)
  | packed (nl1 : Bool)
  deriving DecidableEq, Repr

def Way.isPacked : Way → Bool
  | .plain _ => false
  | .packed _ => true
def Way.nl1 : Way → Bool
  | .plain b | .packed b => b

/-- The L1 sector that serves a load: an element of a gather in local memory is served from the L2 on (R122). -/
def State.l1Load (s : State) (ag : Agent) (va : Nat) (sc : Scope) (way : Way) : Option VSector :=
  if l1Serves sc then (s.l1Hit ag va).filter (fun x => !(way.isPacked && x.place.isLocal)) else none

/-- Why a store to an address is not performed and traps. One to an extent that the tenant has released is discarded
instead (R424). -/
def State.writeErr (s : State) (ag : Agent) (va : Nat) : Option MemErr :=
  match s.lookup ag va with
  | .error e => some e
  | .ok _ => match s.translate ag va .write with
    | .ok _ => none
    | .error e => if e = ⟨7, 1⟩ then none else some e

/-- The check of one lane's access before any lane's is performed (R411). A hit in the L1 uses the permissions that were
checked when the line was filled, and is not translated (R107). -/
def State.checkAccess (s : State) (ag : Agent) (va : Nat) (need : Need) (sc : Scope) (way : Way := .plain false) : Option MemErr :=
  let below : Option MemErr := match s.translate ag va need with | .ok _ => none | .error e => some e
  match need with
  | .read => if (s.l1Load ag va sc way).isSome then none else below
  | .write => match s.l1Hit ag va with
    | some x => if x.attr.w then none else some ⟨2, 0⟩
    | none => s.writeErr ag va
  | .exec => below

/-- Loading n bytes at a virtual address by one lane: value and poison code. A load that the L1 does not serve and that
allocates no line leaves none behind that it would make stale (R138). -/
def State.loadVa (s : State) (ag : Agent) (va n : Nat) (sc : Scope) (way : Way) : State × Nat × Nat :=
  match s.l1Load ag va sc way with
  | some x => (s, secGet x.data (va % 128) n, poisonIn x.poison (va % 128) n)
  | none => match s.translate ag va .read with
    | .error _ => (s, 0, 0)
    | .ok (p, at_) =>
      let packed := way.isPacked && p.isLocal
      let (s1, v, pz) := (s.tlbFill ag va).readAt ag (pointOf sc p) p n at_ (!packed)
      if at_.pol = 2 ∨ way.nl1 ∨ packed then (s1.l1Drop ag va, v, pz)
      else (s1.l1Fill ag va p at_, v, pz)

/-- Updating the core's L1 sector of an address, if it is present (R110). -/
def State.l1Update (s : State) (ag : Agent) (va n v : Nat) : State :=
  if (s.l1Hit ag va).isSome then
    let asid := s.asidOf ag.ctx
    s.modCore ag.core (fun c => { c with l1 := c.l1.map (fun x =>
      if x.asid = asid ∧ x.va = va / 128 * 128 ∧ !x.place.readsZero then { x with data := secPut x.data (va % 128) n v } else x) })
  else s

/-- Storing n bytes at an address that leads to a place: the L1 line is updated and the write goes through to the point of
its scope, unless viral mode discards it (R416). -/
def State.storeAt (s : State) (ag : Agent) (va n v : Nat) (sc : Scope) (p : Place) (at_ : Attr) : State :=
  if p.isHome && s.viral ag.ctx then s else (s.l1Update ag va n v).writeAt ag (pointOf sc p) p n v at_

/-- Where a lane's store to an address leads: a line in the L1 is not translated anew (R107). -/
def State.storePlace (s : State) (ag : Agent) (va : Nat) : Except MemErr (Place × Attr) :=
  match s.l1Hit ag va with
  | some x => .ok (x.place.add (va % 128), x.attr)
  | none => s.translate ag va .write

/-- Storing n bytes at a virtual address by one lane. -/
def State.storeVa (s : State) (ag : Agent) (va n v : Nat) (sc : Scope) : State :=
  match s.storePlace ag va with
  | .error _ => s
  | .ok (p, at_) => (if (s.l1Hit ag va).isSome then s else s.tlbFill ag va).storeAt ag va n v sc p at_

/-- A granule at an address that one store instruction has written whole is clean (R413), in the L1 only in the line of that
address, since the L1 is not coherent (R12, R110). -/
def State.cleanVa (s : State) (ag : Agent) (va : Nat) (sc : Scope) : State :=
  match s.storePlace ag va with
  | .error _ => s
  | .ok (p, at_) =>
    if p.isHome && s.viral ag.ctx then s
    else
      let asid := s.asidOf ag.ctx
      (s.modCore ag.core (fun c => { c with l1 := c.l1.map (fun x =>
        if x.asid = asid ∧ x.va = va / 128 * 128 then { x with poison := poisonSet x.poison (va % 128) 0 } else x) })).cleanGranule
        ag (pointOf sc p) p at_

/-! ## Cache actions of releases and acquires (R143) -/

/-- The sectors of a cluster that satisfy q, dirty ones first. -/
def State.l2Places (s : State) (cl : Nat) (q : PSector → Bool) : List Place :=
  ((s.cluster cl).l2.filter q).map (·.place)

/-- Whether a scope is device or wider, tenant or wider. -/
def Scope.devUp : Scope → Bool
  | .dev | .ten | .sys => true
  | _ => false
def Scope.tenUp : Scope → Bool
  | .ten | .sys => true
  | _ => false

/-- The cache actions of a release (R126, R143). -/
def State.release (s : State) (ag : Agent) (sc : Scope) : State :=
  if !Scope.devUp sc then s
  else
    let ps := s.l2Places ag.cluster (fun x => x.dirty != 0 && x.tenant == ag.tenant && !x.coh)
    let s1 := ps.foldl (fun s p => s.l2WriteBack ag.cluster p) s
    if !Scope.tenUp sc then s1
    else
      let ms := (s1.mem.msc.filter (fun x => x.dirty != 0 && x.tenant == ag.tenant && !x.coh)).map (·.place)
      ms.foldl (fun s p => s.mscFlush (some ag.cluster) p) s1

/-- The cache actions of an acquire (R126, R143). Only the dirty bytes of a sector stay. -/
def State.acquire (s : State) (ag : Agent) (sc : Scope) : State :=
  if sc = .wave then s
  else
    let asid := s.asidOf ag.ctx
    let s1 := s.modCore ag.core (fun c => { c with l1 := c.l1.filter (fun x => x.asid != asid) })
    if sc = .core ∨ sc = .clus then s1
    else
      let f (x : PSector) : Option PSector :=
        if x.tenant == ag.tenant && !x.coh then (if x.dirty = 0 then none else some { x with valid := x.dirty }) else some x
      let s2 := s1.modCluster ag.cluster (fun c => { c with l2 := c.l2.filterMap f })
      if !Scope.tenUp sc then s2 else { s2 with mem := { s2.mem with msc := s2.mem.msc.filterMap f } }

/-- Release and acquire actions of an order at a scope. -/
def State.before (s : State) (ag : Agent) (o : Order) (sc : Scope) : State :=
  match o with | .rel | .ar => s.release ag sc | _ => s
def State.after (s : State) (ag : Agent) (o : Order) (sc : Scope) : State :=
  match o with | .acq | .ar => s.acquire ag sc | _ => s

/-! ## Objects in memory, reached with the context's translation (R459) -/

/-- Whether a load of a scope that misses the core's caches is served by the home itself: nothing on the way holds the
sector. -/
def State.fromHome (s : State) (ag : Agent) (sc : Scope) (p : Place) : Bool :=
  let whole (x : Option PSector) : Bool := x.any (fun x => x.valid == BitVec.allOnes 128)
  p.isHome && !(pointOf sc p == .l2 && whole (s.l2Find ag.cluster p.sector))
    && !(pointOf sc p != .home && whole (s.mscFind p.sector))

/-- Whether a load that misses the core's caches would read a target that is lost (R421, R424). An extent that its tenant has
released is out of its reach wherever a copy may stand (R125). -/
def State.lostRead (s : State) (ag : Agent) (sc : Scope) (p : Place) : Option MemErr :=
  let e := s.homeErr p
  if s.fromHome ag sc p || e == some ⟨7, 1⟩ then e else none

/-- An access error with the address it is at and whether it writes. -/
structure ObjErr where
  err : MemErr
  addr : Nat
  write : Bool
  deriving DecidableEq, Repr

/-- Reading n bytes of an object at a scope's point, piece by piece within sectors. The core's L1 keeps no line of them: it may be
older than what has now been read (R138). -/
def State.readObj (s : State) (ag : Agent) (sc : Scope) (va : Nat) : Nat → Nat → Except ObjErr (State × List Byte)
  | 0, _ => .ok (s, [])
  | fuel + 1, n =>
    if n = 0 then .ok (s, [])
    else
      let k := min n (128 - va % 128)
      match (if va / 2 ^ 56 = 0 then s.translate ag va .read else .error ⟨1, 3⟩) with
      | .error e => .error ⟨e, va, false⟩
      | .ok (p, at_) => match s.lostRead ag sc p with
        | some e => .error ⟨e, va, false⟩
        | none =>
          let s0 := if (s.l1Hit ag va).isSome then s.l1Drop ag va else s
          let (s1, v, pz) := (s0.tlbFill ag va).readAt ag (pointOf sc p) p k at_
          if pz ≠ 0 then .error ⟨⟨4, poisonDetail pz⟩, va, false⟩
          else match State.readObj s1 ag sc (va + k) fuel (n - k) with
            | .error e => .error e
            | .ok (s2, bs) => .ok (s2, leBytes v k ++ bs)

/-- Reading an object of n bytes (at most 64 KiB) at a scope's point. -/
def State.obj (s : State) (ag : Agent) (sc : Scope) (va n : Nat) : Except ObjErr (State × List Byte) :=
  s.readObj ag sc va 520 n

/-- Whether n bytes at an address can be written. -/
def State.canWrite (s : State) (ag : Agent) (va n : Nat) : Option ObjErr :=
  let starts := (List.range (n / 4096 + 2)).map (fun i => if i = 0 then va else va / 4096 * 4096 + 4096 * i)
  (starts.filter (fun a => decide (a < va + n))).findSome? (fun a =>
    (if a / 2 ^ 56 = 0 then s.writeErr ag a else some ⟨1, 3⟩).map (fun e => ⟨e, a, true⟩))

/-- Writing bytes of an object at a scope's point, piece by piece; what cannot be translated is left. -/
def State.putObj (s : State) (ag : Agent) (sc : Scope) (va : Nat) : Nat → List Byte → State
  | 0, _ => s
  | fuel + 1, bs =>
    if bs.isEmpty then s
    else
      let k := min bs.length (128 - va % 128)
      let s1 := match s.translate ag va .write with
        | .error _ => s
        | .ok (p, at_) => (s.tlbFill ag va).storeAt ag va k (leNat (bs.take k)) sc p at_
      State.putObj s1 ag sc (va + k) fuel (bs.drop k)

/-- Writing an object of at most 64 KiB. -/
def State.setObj (s : State) (ag : Agent) (sc : Scope) (va : Nat) (bs : List Byte) : State := s.putObj ag sc va 520 bs

end Sys2Proof.Machine
end

