-- ==== Sys2Proof/Machine/Operands.lean ====
section
/-! DEFINITION. Reading and writing operands: every form of R195 and R196, the window of R44 and R45, the scalar rule
of R46, and the poison of vector registers (R413, R414). -/

namespace Sys2Proof.Machine

/-! ## Reading -/

/-- The physical register that code n of a lane's slice reaches (R44). -/
def Wave.phys (w : Wave) (n lane : Nat) : Nat := (w.slice (sliceOf lane)).window + n

/-- A lane's element of v n (R44). -/
def Wave.vreg (w : Wave) (n lane : Nat) : W32 := w.task.vregs.get (32 * w.phys n lane + lane)

/-- A slice's scalar s n (R46). -/
def Wave.sreg (w : Wave) (n slice : Nat) : W32 := w.task.scal.get (32 * slice + n)

/-- The i-th register of an operand's register group, read in a lane. -/
def Wave.part (w : Wave) (o : Opd) (i lane : Nat) : W32 :=
  match o with
  | .v n => w.vreg (n + i) lane
  | .s n => w.sreg (n + i) (sliceOf lane)
  | _ => 0

/-- A 32-bit source operand in a lane (R195). -/
def Wave.rd (w : Wave) (o : Opd) (lane : Nat) : W32 :=
  match o with
  | .v n => w.vreg n lane
  | .s n => w.sreg n (sliceOf lane)
  | .zero => 0
  | .laneix => BitVec.ofNat 32 lane
  | .sliceix => BitVec.ofNat 32 (sliceOf lane)
  | .waveix => BitVec.ofNat 32 w.idx
  | .lit x => x
  | .lit2 x => x.setWidth 32

/-- A 64-bit source operand in a lane (R196): a pair is read low register first (R5), a 32-bit literal is
sign-extended. -/
def Wave.rdq (w : Wave) (o : Opd) (lane : Nat) : W64 :=
  match o with
  | .v n => w.vreg (n + 1) lane ++ w.vreg n lane
  | .s n => w.sreg (n + 1) (sliceOf lane) ++ w.sreg n (sliceOf lane)
  | .lit x => x.signExtend 64
  | .lit2 x => x
  | o => (w.rd o lane).setWidth 64

/-- A 128-bit source operand in a lane (R196). -/
def Wave.rdo (w : Wave) (o : Opd) (lane : Nat) : W128 :=
  w.part o 3 lane ++ w.part o 2 lane ++ w.part o 1 lane ++ w.part o 0 lane

/-- A source operand of 1, 2 or 4 registers as 128 bits, zero-extended. -/
def Wave.rdk (w : Wave) (k : Nat) (o : Opd) (lane : Nat) : W128 :=
  if k = 4 then w.rdo o lane else if k = 2 then (w.rdq o lane).setWidth 128 else (w.rd o lane).setWidth 128

/-! ## Writing -/

/-- The lanes that write a scalar destination: the lowest of each slice (R46). -/
def scalarLanes (lanes : W32) : List Nat :=
  (List.range 8).filterMap (fun i => (bitsOf lanes).find? (fun l => sliceOf l == i))

/-- The granule of a lane's element of a vector register: 2 × register + half (R413). -/
def vGranule (reg lane : Nat) : Nat := 2 * reg + lane / 16

/-- The poison left after v n is written in a set of lanes: a granule written whole is clean (R413). -/
def Wave.poisonWritten (w : Wave) (n : Nat) (lanes : W32) : List Nat :=
  w.task.poison.filter (fun g => (List.range 16).any (fun j =>
    let l := g % 2 * 16 + j
    !(lanes.getLsbD l && w.phys n l == g / 2)))

/-- Writing the i-th register of a destination's group in a set of lanes with per-lane values: a vector register in
each lane, a scalar by R46, `zero` discarded (R195). -/
def Wave.wrPart (w : Wave) (o : Opd) (i : Nat) (lanes : W32) (f : Nat → W32) : Wave :=
  match o with
  | .v n => { w with task := { w.task with
      vregs := w.task.vregs.setAll ((bitsOf lanes).map (fun l => (32 * w.phys (n + i) l + l, f l)))
      poison := w.poisonWritten (n + i) lanes } }
  | .s n => { w with task := { w.task with
      scal := w.task.scal.setAll ((scalarLanes lanes).map (fun l => (32 * sliceOf l + (n + i), f l))) } }
  | _ => w

/-- Writing k registers of a destination, register i of a lane holding `f i lane`. -/
def Wave.wrN (w : Wave) (o : Opd) (lanes : W32) (f : Nat → Nat → W32) : Nat → Wave
  | 0 => w
  | k + 1 => (w.wrN o lanes f k).wrPart o k lanes (f k)

/-- Writing a 32-bit destination. -/
def Wave.wr (w : Wave) (o : Opd) (lanes : W32) (f : Nat → W32) : Wave := w.wrPart o 0 lanes f

/-- The i-th word of a value. -/
def wordOf {n : Nat} (v : BitVec n) (i : Nat) : W32 := (v >>> (32 * i)).setWidth 32

/-- Writing a pair. -/
def Wave.wrq (w : Wave) (o : Opd) (lanes : W32) (f : Nat → W64) : Wave := w.wrN o lanes (fun i l => wordOf (f l) i) 2

/-- Writing k registers from a 128-bit value. -/
def Wave.wrk (w : Wave) (k : Nat) (o : Opd) (lanes : W32) (f : Nat → W128) : Wave :=
  w.wrN o lanes (fun i l => wordOf (f l) i) k

/-! ## Poison and outstanding destinations -/

/-- Whether a lane reads a poisoned element of a source operand of k registers (R414). -/
def Wave.srcPoison (w : Wave) (o : Opd) (k lane : Nat) : Bool :=
  match o with
  | .v n => (List.range k).any (fun i => w.task.poison.contains (vGranule (w.phys (n + i) lane) lane))
  | _ => false

/-- The lowest of some lanes in which a source operand is poisoned. -/
def Wave.poisonLane (w : Wave) (srcs : List (Opd × Nat)) (lanes : W32) : Option Nat :=
  if w.task.poison.isEmpty then none
  else (bitsOf lanes).find? (fun l => srcs.any (fun x => w.srcPoison x.1 x.2 l))

/-- Whether two register groups share a register in a slice, given the windows under which they are named. -/
def groupsMeet (o : Opd) (k win : Nat) (o' : Opd) (k' win' : Nat) : Bool :=
  match o, o' with
  | .v n, .v n' => decide (win + n < win' + n' + k') && decide (win' + n' < win + n + k)
  | .s n, .s n' => decide (n.val < n' + k') && decide (n'.val < n + k)
  | _, _ => false

/-- Whether a destination is that of an outstanding operation in one of some slices (R43). -/
def Wave.busy (w : Wave) (sl : BitVec 8) (dsts : List (Opd × Nat)) : Bool :=
  w.ops.any (fun op => (bitsOf (op.undone &&& sl)).any (fun i => op.dst.any (fun e => dsts.any (fun d =>
    groupsMeet e.1 e.2 (op.wins.getD i 0) d.1 d.2 (w.slice i).window))))

end Sys2Proof.Machine
end

