-- ==== Sys2Proof/Machine/Flags.lean ====
section
/-! DEFINITION. The completion flags of the slices: selection, raising, lowering, the wait mask and the stall at 63
(R39 to R42, R188, R193). The hardware has no arithmetic flags (R215). -/

namespace Sys2Proof.Machine

/-- The flag that an operation counts: SETA or SETB of its clause by modifier bit 16; none with bit 15 set or where the
header names 15 (R40, R188, R193). -/
def flagOf (c : Clause) (fs : FlagSel) : Option Nat :=
  let n := if fs.b then c.setb else c.seta
  if fs.nf ∨ 12 ≤ n then none else some n

/-- FLAG of `%trapinfo` (R372). -/
def flagCode (f : Option Nat) : Nat := f.getD 15

/-- A slice's count on a flag. -/
def SliceSt.count (x : SliceSt) (f : Nat) : Nat := x.flags.getD f 0

/-- Whether raising a flag would pass 63 in one of some slices (R41). -/
def Wave.flagFull (w : Wave) (sl : BitVec 8) (f : Option Nat) : Bool :=
  match f with
  | none => false
  | some n => (bitsOf sl).any (fun i => decide (63 ≤ (w.slice i).count n))

/-- Adding 1 to a flag in some slices (R40). -/
def Wave.raise (w : Wave) (sl : BitVec 8) (f : Option Nat) : Wave :=
  match f with
  | none => w
  | some n => w.modSlices sl (fun x => { x with flags := modAt x.flags n (· + 1) })

/-- Subtracting 1 from a flag in some slices (R40). -/
def Wave.lower (w : Wave) (sl : BitVec 8) (f : Option Nat) : Wave :=
  match f with
  | none => w
  | some n => w.modSlices sl (fun x => { x with flags := modAt x.flags n (· - 1) })

/-- Subtracting 1 from a flag of one slice among counts that were set aside (R374). -/
def lowerSaved (flags : List (List Nat)) (slice : Nat) (f : Option Nat) : List (List Nat) :=
  match f with
  | none => flags
  | some n => modAt flags slice (fun l => modAt l n (· - 1))

/-- Whether every flag of a wait mask is clear in some slices (R42). -/
def Wave.waitClear (w : Wave) (sl : BitVec 8) (wait : Nat) : Bool :=
  (List.range 12).all (fun f => wait / 2 ^ f % 2 == 0 || (bitsOf sl).all (fun i => (w.slice i).count f == 0))

end Sys2Proof.Machine
end

