-- ==== Sys2Proof/Machine/Park.lean ====
section
/-! DEFINITION. How the device lays out the state of a wave in memory: the slice and wide-save records of trap frames (R377)
and of park areas (R83), and the image of a task in its park area. -/

namespace Sys2Proof.Machine

/-- Vector registers of a REGS field (R82). -/
def regCount (regs : Nat) : Nat := (regs + 1) * 8

/-- Whether an address may start a clause (R81, R251). -/
def codeAddrOk (a : Nat) : Bool := a % 4 == 0 && decide (a < 2 ^ 56)


/-! ## Records of slices (R377) -/

/-- Mask stack entries, 12 bytes each, in 96 bytes. -/
def stackBytes (st : List Path) : List Byte :=
  (List.range 8).flatMap (fun i => match st[i]? with
    | some p => leBytes p.pc 8 ++ leBytes p.mask.toNat 4
    | none => List.replicate 12 0)

/-- The state word of a slice or wide-save record. -/
def stateWord (mask exited : BitVec 4) (depth : Nat) (waiting : Bool) : Nat :=
  mask.toNat + exited.toNat * 16 + depth * 256 + (if waiting then 4096 else 0)

def SliceSt.record (x : SliceSt) : List Byte :=
  leBytes x.pc 8 ++ leBytes (stateWord x.mask x.exited x.stack.length x.wait.isSome) 4 ++ leBytes x.window 4
    ++ stackBytes x.stack
def WideSave.record (x : WideSave) : List Byte :=
  leBytes (stateWord x.mask x.exited x.stack.length false) 4 ++ List.replicate 4 0 ++ stackBytes x.stack

/-- A path of a frame's mask stack. -/
def pathAt (bs : List Byte) (off : Nat) : Path := ⟨fieldAt bs off 8, BitVec.ofNat 4 (fieldAt bs (off + 8) 4)⟩

/-- A mask stack of a record. -/
def stackAt (bs : List Byte) (off depth : Nat) : List Path := (List.range depth).map (fun i => pathAt bs (off + 12 * i))

/-- What a frame says of a slice: its state, and whether it is WAITING. -/
def sliceAt (bs : List Byte) (base strands : Nat) (old : SliceSt) (i : Nat) : SliceSt × Bool :=
  let off := base + 112 * i
  let sw := fieldAt bs (off + 8) 4
  ({ old with pc := fieldAt bs off 8, mask := BitVec.ofNat 4 sw, exited := BitVec.ofNat 4 (sw / 16)
              stack := stackAt bs (off + 16) (sw / 256 % 16), window := fieldAt bs (off + 12) 4
              strand := strands / 16 ^ i % 16, clause := none, wait := none }, sw / 4096 % 2 == 1)

/-- A wide-save record of a frame. -/
def wideAt (bs : List Byte) (base i : Nat) : WideSave :=
  let off := base + 104 * i
  let sw := fieldAt bs off 4
  ⟨BitVec.ofNat 4 sw, BitVec.ofNat 4 (sw / 16), stackAt bs (off + 8) (sw / 256 % 16)⟩

/-- Whether the values of a frame lie in their ranges (R445), those of slices that have exited among them. -/
def frameOk (alloc : Nat) (ss : List SliceSt) (wide : Option (List WideSave)) : Bool :=
  ss.all (fun x => codeAddrOk x.pc && decide (x.stack.length ≤ 8) && x.stack.all (fun p => codeAddrOk p.pc))
    && ss.all (fun x => x.window % 8 == 0 && decide (x.window + 88 ≤ alloc))
    && (List.range 8).all (fun i =>
      let x := ss.getD i (.fresh 0)
      if x.live then decide (x.strand ≤ i) && (ss.getD x.strand (.fresh 0)).live
          && (ss.getD x.strand (.fresh 0)).strand == x.strand
        else x.strand == 15)
    && (wide.getD []).all (fun x => decide (x.stack.length ≤ 8) && x.stack.all (fun p => codeAddrOk p.pc))

/-! ## The image of a task in its park area (R83, R93, R95, R99)

The vector registers stand first, register after register. Of the layout of the 4,096 bytes after them, which is the device's
(R83), the model has its own: slice records at 0, the strand map at 0x380, WIDE at 0x384, flags at 0x388, the task record's
address at 0x3E8, `%adoptdepth` at 0x3F0, the length of the chain at 0x3F4, scalar registers at 0x400, predicates at 0x800,
EMBER slots at 0x820, waits at 0x8A0, wide-save records at 0xA00, the chain at 0xD40. A wave's part of a save area (R53) is laid
out so too. The remaining words of a clause in progress the device keeps beside it. DESIGN CHOICE (log 44). -/

/-- The 4-byte numbers of some bytes. -/
def wordsOf : List Byte → List W32
  | a :: b :: c :: d :: r => BitVec.ofNat 32 (leNat [a, b, c, d]) :: wordsOf r
  | _ => []

/-- Keys from 0 on for some values. -/
def keyed {w : Nat} (l : List (BitVec w)) : Store w := Store.setAll [] ((l.zipIdx).map (fun x => (x.2, x.1)))

/-- The strand map: 4 bits a slice, 15 for one without a live lane. -/
def strandMap (ss : List SliceSt) : Nat :=
  (ss.zipIdx).foldl (fun m x => m + (if x.1.live then x.1.strand else 15) * 16 ^ x.2) 0

/-- An EMBER slot in 32 bytes. -/
def Ember.bytes (e : Ember) : List Byte :=
  let (kind, par, pa, a) : Nat × Nat × Nat × Nat := match e.armed with
    | none => (0, 0, 0, 0)
    | some (.loc a) => (1, 0, 0, a)
    | some (.inAlias t a) => (2, t, 0, a)
    | some (.home t pa d a) => (3, d + t * 2 ^ 32, pa, a)
    | some (.registry t a) => (4, t, 0, a)
  leBytes a 8 ++ leBytes kind 4 ++ leBytes (if e.hit then 1 else 0) 4 ++ leBytes par 8 ++ leBytes pa 8

/-- An EMBER slot as it is read back; a hit since it was written counts. -/
def emberAt (bs : List Byte) (old : Ember) (i : Nat) : Ember :=
  let off := 0x820 + 32 * i
  let a := fieldAt bs off 8
  let par := fieldAt bs (off + 16) 8
  { armed := match fieldAt bs (off + 8) 4 with
      | 1 => some (.loc a)
      | 2 => some (.inAlias par a)
      | 3 => some (.home (par / 2 ^ 32) (fieldAt bs (off + 24) 8) (par % 2 ^ 32) a)
      | 4 => some (.registry par a)
      | _ => none
    hit := old.hit || fieldAt bs (off + 12) 4 % 2 == 1 }

/-- A slice's wait in 32 bytes: three numbers, lanes and a code. -/
def waitBytes (w : Option Wait) : List Byte :=
  let bit (b : Bool) : Nat := if b then 1 else 0
  let (code, x, y, z, lanes) : Nat × Nat × Nat × Nat × W32 := match w with
    | none => (0, 0, 0, 0, 0)
    | some .regang => (1, 0, 0, 0, 0)
    | some .wide => (2, 0, 0, 0, 0)
    | some (.gate bar ph) => (3, bar, ph, 0, 0)
    | some (.hold o ph) => (4, o, bit ph, 0, 0)
    | some (.yieldto o ph cont lanes) => (5, o, bit ph, cont, lanes)
    | some (.ember dl d lanes) => (6, (dl.map (· + 1)).getD 0, d.code, 0, lanes)
    | some (.span ph) => (7, ph, 0, 0, 0)
    | some (.await lock pd a) => (8, a.toNat, bit lock, pd.val, 0)
    | some .token => (9, 0, 0, 0, 0)
    | some .latch => (10, 0, 0, 0, 0)
    | some .trapret => (11, 0, 0, 0, 0)
    | some .entered => (12, 0, 0, 0, 0)
  leBytes x 8 ++ leBytes y 8 ++ leBytes z 8 ++ leBytes lanes.toNat 4 ++ leBytes code 4

/-- The wait in 32 bytes at an offset. -/
def waitAt (bs : List Byte) (off : Nat) : Option Wait :=
  let x := fieldAt bs off 8
  let y := fieldAt bs (off + 8) 8
  let z := fieldAt bs (off + 16) 8
  let lanes : W32 := BitVec.ofNat 32 (fieldAt bs (off + 24) 4)
  match fieldAt bs (off + 28) 4 with
  | 1 => some .regang
  | 2 => some .wide
  | 3 => some (.gate x y)
  | 4 => some (.hold x (y % 2 == 1))
  | 5 => some (.yieldto x (y % 2 == 1) z lanes)
  | 6 => (opdOf (y % 128) []).map (fun d => .ember (if x = 0 then none else some (x - 1)) d lanes)
  | 7 => some (.span x)
  | 8 => some (.await (y % 2 == 1) (Fin.ofNat 8 z) (BitVec.ofNat 64 x))
  | 9 => some .token
  | 10 => some .latch
  | 11 => some .trapret
  | 12 => some .entered
  | _ => none

/-- The bytes of a task's vector registers. -/
def TaskCtx.regBytes (t : TaskCtx) : List Byte :=
  (List.range (32 * regCount t.regs)).flatMap (fun i => leBytes (t.vregs.get i).toNat 4)

/-- The 4,096 bytes of wave state of a task that stands above a chain of Helping tasks, given by their records. -/
def TaskCtx.waveBytes (t : TaskCtx) (chain : List Nat) : List Byte :=
  t.slices.flatMap SliceSt.record ++ leBytes (strandMap t.slices) 4 ++ leBytes (if t.wide.isSome then 1 else 0) 4
    ++ t.slices.flatMap (fun x => x.flags.map (BitVec.ofNat 8)) ++ leBytes t.record.toNat 8 ++ leBytes chain.length 4
    ++ leBytes chain.length 4 ++ List.replicate 8 0
    ++ (List.range 256).flatMap (fun i => leBytes (t.scal.get i).toNat 4)
    ++ (List.range 32).map (fun l => t.preds.get l) ++ t.ember.flatMap Ember.bytes
    ++ t.slices.flatMap (fun x => waitBytes x.wait) ++ List.replicate 0x60 0
    ++ (match t.wide with
      | some l => l.flatMap WideSave.record
      | none => List.replicate 0x340 0)
    ++ (List.range 4).flatMap (fun i => leBytes (chain.getD i 0) 8) ++ List.replicate 0x2A0 0

/-- A slice as an area has it; a clause in progress goes on where the slice still stands at the same word. -/
def keptSlice (bs : List Byte) (old : SliceSt) (i : Nat) : SliceSt :=
  let (x, waiting) := sliceAt bs 0 (fieldAt bs 0x380 4) old i
  let y := { x with flags := (List.range 12).map (fun k => fieldAt bs (0x388 + 12 * i + k) 1 % 64) }
  if y.pc = old.pc then { y with clause := old.clause, wait := if waiting then waitAt bs (0x8A0 + 32 * i) else none } else y

/-- The wave state of a task as 4,096 bytes have it. -/
def TaskCtx.ofWave (t : TaskCtx) (wb : List Byte) : TaskCtx :=
  { t with
    record := BitVec.ofNat 64 (fieldAt wb 0x3E8 8)
    scal := keyed (wordsOf ((wb.drop 0x400).take 0x400))
    preds := keyed ((wb.drop 0x800).take 32)
    slices := (t.slices.zipIdx).map (fun x => keptSlice wb x.1 x.2)
    wide := if fieldAt wb 0x384 4 % 2 = 1 then some ((List.range 8).map (wideAt wb 0xA00)) else none
    ember := (t.ember.zipIdx).map (fun x => emberAt wb x.1 x.2) }

/-- A task as the bytes of its park area have it. -/
def TaskCtx.ofImage (t : TaskCtx) (rb wb : List Byte) : TaskCtx := { t.ofWave wb with vregs := keyed (wordsOf rb) }

/-- The records of the chain in 4,096 bytes of wave state; more than four, with the running task more than five, are out of range
(R445). -/
def chainAt (wb : List Byte) : List Nat :=
  (List.range (min 5 (fieldAt wb 0x3F4 4))).map (fun i => fieldAt wb (0xD40 + 8 * i) 8)

/-- Whether what a park area gave lies in its ranges (R445). -/
def TaskCtx.inRange (t : TaskCtx) : Bool :=
  frameOk (regCount t.regs) t.slices t.wide

/-- A task stands still: its flags are clear, and it takes up again only a wait in which something has been counted or set
for it; `await`, `tok.take` and `mma` are executed again. -/
def TaskCtx.still (t : TaskCtx) : TaskCtx :=
  { t with slices := t.slices.map (fun x =>
      { x with flags := List.replicate 12 0, readySince := none
               wait := match x.wait with
                 | some (.await _ _ _) | some .token | some .latch | some .trapret | some .entered => none
                 | w => w }) }

/-- A task that becomes Helping stands still in its `await` or `lock.take` (R93, R95). -/
def TaskCtx.helping (t : TaskCtx) (lock : Bool) (pd : Fin 8) (a : W64) : TaskCtx :=
  { t.still with slices := t.still.slices.map (fun x => if x.live then { x with wait := some (.await lock pd a) } else x) }

end Sys2Proof.Machine
end

