-- ==== Sys2Proof/Machine/Irwald.lean ====
section
/-! DEFINITION. The objects of the Irwald units in memory: task records (R81, R82), waitables (R89, R90), queues (R74,
R75), with the pushes the units make of their own accord (R458), and what a task's end writes (R95, R101, R431). Every
object is read and written at tenant scope: at the MSC, or at its home in fabric space (R86, R111). -/

namespace Sys2Proof.Machine

/-- The agent of a group's lanes. -/
def State.agentOf (s : State) (g : Nat) : Agent := ⟨s.coreOf g, s.ctxNo g, s.tenantNo g⟩

/-- The agent of an Irwald unit or KILN acting for a context: it has no L1 and no L2, which core 200 stands for. -/
def State.agentFor (s : State) (ctx : Nat) : Agent := ⟨200, ctx, ((s.ctx ctx).map (·.tenant)).getD 0⟩

/-- The scope at which an operation of a context is performed. -/
def State.capScope (s : State) (ctx : Nat) (sc : Scope) : Scope :=
  if sc = .sys ∧ ((s.ctx ctx).map (·.cap)).getD false then .ten else sc

/-- Writing an n-byte number of an object. -/
def State.putNum (s : State) (ag : Agent) (a n v : Nat) : State := s.setObj ag .ten a (leBytes v n)

/-! ## Launch priority (R66) -/

/-- The effective priority of a launch: its own, with the value that the devices of its span have agreed on except for span
`but`, and that of every launch that has bound a dependence on it. -/
def State.effPrioFuel (s : State) (but : Nat) : Nat → Nat → Nat
  | 0, _ => 0
  | fuel + 1, l => match s.launch l with
    | none => 0
    | some x =>
      let own := if x.record.spanId = but then x.record.prio
        else max x.record.prio (((Tab.find s.kiln.spans x.record.spanId).map (·.prio)).getD 0)
      (s.kiln.launches.filter (fun y => y.2.deps.contains l)).foldl (fun m y => max m (s.effPrioFuel but fuel y.1)) own

def State.effPrio (s : State) (l : Nat) : Nat := s.effPrioFuel 0 (s.kiln.launches.length + 1) l

/-- The effective priority of the launch of a group. -/
def State.groupPrio (s : State) (g : Nat) : Nat := ((s.group g).map (fun x => s.effPrio x.launch)).getD 0

/-- The issue class of a wave (R48, R100): a root task runs at its launch's effective priority. -/
def State.waveClass (s : State) (w : Wave) : Nat :=
  if w.task.root then s.groupPrio w.group
  else if w.chain.any (fun h => h.task.root) then max w.task.cls (s.groupPrio w.group)
  else w.task.cls

/-! ## Task records (R81, R82) -/

/-- The fields of a task record. -/
structure TaskRec where
  entry : Nat
  args : W64
  future : Nat
  park : Nat
  state : Nat
  shape : Nat
  helper : Nat
  home : Nat
  ogroup : Nat
  olaunch : Nat
  deriving DecidableEq, Repr

def TaskRec.ofBytes (bs : List Byte) : TaskRec :=
  ⟨fieldAt bs 0 8, BitVec.ofNat 64 (fieldAt bs 8 8), fieldAt bs 16 8, fieldAt bs 24 8, fieldAt bs 32 4,
    fieldAt bs 36 4, fieldAt bs 40 8, fieldAt bs 48 8, fieldAt bs 56 4, fieldAt bs 60 4⟩

/-- STATE, DEPTH, CTX of the state word; REGS, PRIO, GBIND of the shape word (R82). -/
def TaskRec.st (r : TaskRec) : Nat := r.state % 16
def TaskRec.depth (r : TaskRec) : Nat := r.state / 16 % 16
def TaskRec.ctx (r : TaskRec) : Nat := r.state / 256 % 64
def TaskRec.regs (r : TaskRec) : Nat := r.shape % 64
def TaskRec.prio (r : TaskRec) : Nat := r.shape / 64 % 8
def TaskRec.gbind (r : TaskRec) : Bool := r.shape / 512 % 2 == 1

/-- Whether REGS lies in range and the reserved bits of the shape word are 0 (R82). -/
def TaskRec.shapeOk (r : TaskRec) : Bool := decide (10 ≤ r.regs) && r.shape / 1024 == 0

def State.taskRec (s : State) (ag : Agent) (tr : Nat) : Except ObjErr (State × TaskRec) :=
  match s.obj ag .ten tr 64 with
  | .error e => .error e
  | .ok (s1, bs) => .ok (s1, .ofBytes bs)

/-- Writing STATE and DEPTH of a record, CTX staying as it is for the context (R85, R86). -/
def State.putState (s : State) (ag : Agent) (tr depth st : Nat) : State :=
  s.putNum ag (tr + 0x20) 4 (ag.ctx * 256 + depth * 16 + st)

def State.putHelper (s : State) (ag : Agent) (tr helper : Nat) : State := s.putNum ag (tr + 0x28) 8 helper
def State.putHome (s : State) (ag : Agent) (tr home : Nat) : State := s.putNum ag (tr + 0x30) 8 home

/-! ## Waitables (R89, R90) -/

/-- The 16-byte header of a waitable. -/
structure Waitable where
  owner : Nat
  state : Nat
  entry : Nat
  deriving DecidableEq, Repr

def Waitable.kind (x : Waitable) : Nat := x.state / 4 % 4
def Waitable.st (x : Waitable) : Nat := x.state % 4

/-- Whether a reserved field of the header is not 0: the entry word by kind (R89, R393). -/
def Waitable.reserved (x : Waitable) : Bool :=
  x.state / 16 != 0 || (match x.kind with
    | 0 | 1 => x.entry != 0
    | 2 => x.entry / 65536 != 0
    | _ => false)

/-- Whether the kind and the state are not reserved and the reserved fields are 0 (R90, R393). -/
def Waitable.ok (x : Waitable) : Bool :=
  x.kind != 3 && decide (x.st ≤ (if x.kind = 1 then 1 else 2)) && !x.reserved

/-- Whether a waitable is ready (R90). -/
def Waitable.ready (x : Waitable) : Bool :=
  match x.kind with
  | 0 => x.st == 1 || x.st == 2
  | 1 => x.st == 0
  | _ => x.st == 2

def State.waitable (s : State) (ag : Agent) (a : Nat) : Except ObjErr (State × Waitable) :=
  match s.obj ag .ten a 16 with
  | .error e => .error e
  | .ok (s1, bs) => .ok (s1, ⟨fieldAt bs 0 8, fieldAt bs 8 4, fieldAt bs 12 4⟩)

/-- Whether the waitable at an address is ready, for a monitor (R99): one that cannot be read is not. -/
def State.waitReady (s : State) (ag : Agent) (a : Nat) : Bool :=
  match s.waitable ag a with
  | .ok (_, x) => x.ready
  | .error _ => false

/-! ## Queues (R74, R75) -/

/-- The fields of a queue header. -/
structure Queue where
  head : Nat
  tail : Nat
  pop : Nat
  push : Nat
  shape : Nat
  per : Nat
  clean : Bool
  deriving DecidableEq, Repr

def Queue.esize (q : Queue) : Nat := q.shape % 65536

/-- The queue scope; system scope is capped where the context's policy says so (R148, R407). What a code outside 1 to 5 means is
not stated: it is taken as tenant scope. DESIGN CHOICE (log 104). -/
def Queue.scope (q : Queue) : Scope := match q.shape / 65536 % 8 with
  | 5 => .sys
  | 4 => .ten
  | 3 => .dev
  | 2 => .clus
  | 1 => .core
  | _ => .ten

/-- The scope at which the index pairs of a queue are performed (R74, R285, R286); KILN, and an Irwald unit that acts for a
context and not for a wave, stand behind the clusters. -/
def State.idxScope (s : State) (ag : Agent) (q : Queue) : Scope := if 192 ≤ ag.core then .ten else s.capScope ag.ctx q.scope

/-- What every cluster holds dirty of the lines at an address goes down: what an agent behind the clusters does first where the
indices of a queue may stand at a narrower scope. DEDUCED (log 105). -/
def State.downFor (s : State) (ag : Agent) (a : Nat) : State :=
  if 192 ≤ ag.core then
    match s.translate ag a .read with
    | .error _ => s
    | .ok (p, _) => (Tab.keys s.clusters).foldl (fun s c => p.sectors.foldl (fun s x => s.l2WriteBack c x) s) s
  else s

/-- The header of a queue as it stands at the MSC or its home. -/
def State.queueWords (s : State) (ag : Agent) (hdr : Nat) : Except ObjErr (State × Queue) :=
  match s.obj ag .ten hdr 64 with
  | .error e => .error e
  | .ok (s1, bs) => .ok (s1, ⟨fieldAt bs 0 8, fieldAt bs 8 8, fieldAt bs 16 8, fieldAt bs 24 8, fieldAt bs 32 4,
      fieldAt bs 36 4, fieldAt bs 32 4 / 2 ^ 19 == 0 && fieldAt bs 40 8 == 0 && fieldAt bs 48 8 == 0 && fieldAt bs 56 8 == 0⟩)

/-- A queue header, its indices read at the scope of the queue. -/
def State.queue (s : State) (ag : Agent) (hdr : Nat) : Except ObjErr (State × Queue) :=
  match (s.downFor ag hdr).queueWords ag hdr with
  | .error e => .error e
  | .ok (s1, q) =>
    if s1.idxScope ag q = .ten then .ok (s1, q)
    else match s1.obj ag (s1.idxScope ag q) (hdr + 0x10) 16 with
      | .error e => .error e
      | .ok (s2, bs) => .ok (s2, { q with pop := fieldAt bs 0 8, push := fieldAt bs 8 8 })

/-- Writing an index of a queue, at the scope of the queue. -/
def State.putIdx (s : State) (ag : Agent) (q : Queue) (a v : Nat) : State := s.setObj ag (s.idxScope ag q) a (leBytes v 8)

/-- The next segment's address and the first index of a segment. -/
def State.segment (s : State) (ag : Agent) (seg : Nat) : Except ObjErr (State × Nat × Nat) :=
  match s.obj ag .ten seg 16 with
  | .error e => .error e
  | .ok (s1, bs) => .ok (s1, fieldAt bs 0 8, fieldAt bs 8 8)

/-- The address of entry i of a segment. -/
def entryAddr (seg first esize i : Nat) : Nat := (seg + 0x40 + (i - first) * esize) % 2 ^ 64

/-- Reserving the next index of a queue: the entry's address, or none where the tail segment is full (R75, R285). The pseudocode of
R285 advances the push index before R75 applies, and R75 has the push that finds the tail full without any effect: the index stays
until a segment has been linked. DESIGN CHOICE (log 145). -/
def State.reserve (s : State) (ag : Agent) (hdr : Nat) : Except ObjErr (State × Queue × Option Nat) :=
  match s.queue ag hdr with
  | .error e => .error e
  | .ok (s1, q) =>
    if q.tail = 0 then .ok (s1, q, none)
    else match s1.segment ag q.tail with
      | .error e => .error e
      | .ok (s2, _, first) =>
        if q.per ≤ q.push - first then .ok (s2, q, none)
        else
          let a := entryAddr q.tail first q.esize q.push
          match (match s2.canWrite ag (hdr + 0x18) 8 with
            | some e => some e
            | none => s2.canWrite ag a q.esize) with
          | some e => .error e
          | none => .ok (s2.putIdx ag q (hdr + 0x18) (q.push + 1), q, some a)

/-- Writing the header of an entry: Owner, KIND 2 with a STATE, ESIZE (R89, R285). -/
def State.putEntry (s : State) (ag : Agent) (a owner st esize : Nat) : State :=
  s.setObj ag .ten a (leBytes owner 8 ++ leBytes (8 + st) 4 ++ leBytes esize 4)

/-! ## Segments and quota (R75, R319, R434) -/

/-- Whether a block is free in the arena of a context. -/
def Ctx.arenaFree (c : Ctx) (a size : Nat) : Bool :=
  decide (c.arena.1 ≤ a) && decide (a + size ≤ c.arena.1 + c.arena.2)
    && c.arenaTaken.all (fun b => decide (b.1 + b.2 ≤ a) || decide (a + size ≤ b.1))

/-- Whether blocks of some sizes, each aligned, can all be taken from free space. -/
def fitAll (al lo hi : Nat) : List (Nat × Nat) → List Nat → Bool
  | _, [] => true
  | taken, n :: r => match firstFit taken al n hi (taken.length + 1) lo with
    | some a => fitAll al lo hi ((a, n) :: taken) r
    | none => false

/-- The bytes of a segment of a queue. -/
def Queue.segSize (q : Queue) : Nat := 64 + q.per * q.esize

/-- How many segments k pushes to a queue need, and the size of each. -/
def State.segNeed (s : State) (ag : Agent) (hdr k : Nat) : Nat × Nat :=
  match s.queue ag hdr with
  | .error _ => (0, 0)
  | .ok (_, q) =>
    let free := if q.tail = 0 then 0 else match s.segment ag q.tail with
      | .ok (_, _, first) => q.per - (q.push - first)
      | .error _ => 0
    ((k - free + q.per - 1) / q.per, q.segSize)

/-- The queue header onto which a lane of a pushing operation pushes. -/
def Op.pushHdr (o : Op) (l : Nat) : Option Nat :=
  match o.instr with
  | .spawn .. => some (o.val64 1 l).toNat
  | .qpush _ _ _ _ form _ _ _ => if form = .prod then none else some (o.val64 0 l).toNat
  | _ => none

/-- The pushes that checked operations have still to make: context and header of each. -/
def State.pendingPushes (s : State) : List (Nat × Nat) :=
  s.kiln.waves.flatMap (fun x => (x.2.ops.filter (·.checked)).flatMap (fun o =>
    (bitsOf o.todo).filterMap (fun l => (o.pushHdr l).map (fun h => (s.ctxNo x.2.group, h)))))

/-- What some pushes need of segments: per context and queue their number and size. -/
def State.needs (s : State) (p : List (Nat × Nat)) : List (Nat × Nat × Nat) :=
  p.dedup.map (fun c => (c.1, s.segNeed (s.agentFor c.1) c.2 (p.count c)))

/-- The pushes of Irwald units of a tenant for which segments can be supplied. -/
def State.grantedPushes (s : State) (tenant : Nat) : List (Nat × Nat) :=
  (s.kiln.heldPushes.filter (fun h => !h.short && (s.agentFor h.ctx).tenant == tenant)).map (fun h => (h.ctx, h.queue.toNat))

/-- Whether the segments that pushes to some queues of a context need can be supplied from the quota and the arena, those of
pushes already decided on being counted (R319, R434). -/
def State.canSupply (s : State) (ag : Agent) (hdrs : List Nat) : Bool :=
  let all := s.needs ((s.pendingPushes.filter (fun c => (s.agentFor c.1).tenant == ag.tenant)) ++ s.grantedPushes ag.tenant
    ++ hdrs.map (fun h => (ag.ctx, h)))
  let total := all.foldl (fun n x => n + x.2.1 * x.2.2) 0
  let sizes := all.flatMap (fun x => if x.1 = ag.ctx then List.replicate x.2.1 x.2.2 else [])
  decide ((s.tenant ag.tenant).quotaUsed + total ≤ 2 ^ 28) && (match s.ctx ag.ctx with
    | some c => fitAll 64 c.arena.1 (c.arena.1 + c.arena.2) c.arenaTaken sizes
    | none => false)

/-- The pushes of Irwald units to a queue. -/
def State.pushesTo (s : State) (ctx hdr : Nat) : List HeldPush :=
  s.kiln.heldPushes.filter (fun h => h.ctx == ctx && h.queue.toNat == hdr)

/-- Whether a `qpush` or `spawn` to some queues may go on: it needs no segment, or one can be supplied and none of its queues has
pushes that are held for want of one (R430, R434, R458). -/
def State.quotaOk (s : State) (ag : Agent) (hdrs : List Nat) : Bool :=
  (s.needs (hdrs.map (fun h => (ag.ctx, h)))).all (fun x => x.2.1 == 0)
    || (!hdrs.any (fun h => (s.segNeed ag h (hdrs.count h)).1 != 0 && (s.pushesTo ag.ctx h).any (·.short))
      && s.canSupply ag hdrs)

/-- A push that the Irwald unit makes: an entry naming a task, Produced. One that finds the tail full waits for a segment, behind
those that wait already (R75, R95, R99, R458). -/
def State.pushTask (s : State) (ag : Agent) (hdr : Nat) (tr : W64) : State :=
  let ahead := s.pushesTo ag.ctx hdr
  let hold (s : State) : State :=
    { s with kiln := { s.kiln with heldPushes := s.kiln.heldPushes ++
      [⟨ag.ctx, BitVec.ofNat 64 hdr, tr, ahead.any (·.short) || !s.canSupply ag [hdr]⟩] } }
  if !ahead.isEmpty then hold s
  else match s.reserve ag hdr with
    | .error _ => hold s
    | .ok (s1, _, none) => hold s1
    | .ok (s1, _, some a) => s1.putEntry ag a tr.toNat 2 16

/-- The entry at the head of a queue: the index, its address, its header, and whether it is the last of its segment. -/
structure HeadEntry where
  q : Queue
  addr : Nat
  owner : Nat
  state : Nat
  word : Nat
  last : Bool
  next : Nat
  deriving DecidableEq, Repr

/-- Reading the head entry of a queue; none where the pop index equals the push index. A head segment that a pop has
emptied while it was the tail is left by its link (R75). -/
def State.headEntry (s : State) (ag : Agent) (hdr : Nat) : Except ObjErr (State × Queue × Option HeadEntry) :=
  match s.queue ag hdr with
  | .error e => .error e
  | .ok (s1, q) =>
    if q.pop = q.push then .ok (s1, q, none)
    else match s1.segment ag q.head with
      | .error e => .error e
      | .ok (s2, next, first) =>
        let step : Except ObjErr (State × Nat × Nat × Nat) :=
          if q.per ≤ q.pop - first ∧ next ≠ 0 then
            match s2.segment ag next with
            | .error e => .error e
            | .ok (s3, n2, f2) => .ok (s3, next, n2, f2)
          else .ok (s2, q.head, next, first)
        match step with
        | .error e => .error e
        | .ok (s3, seg, nx, f) =>
          let a := entryAddr seg f q.esize q.pop
          match s3.obj ag .ten a 16 with
          | .error e => .error e
          | .ok (s4, bs) =>
            .ok (s4, q, some ⟨q, a, fieldAt bs 0 8, fieldAt bs 8 4, fieldAt bs 12 4, decide (q.pop - f + 1 = q.per) && seg != q.tail, nx⟩)

/-- Giving a segment back to the quota and the arena (R75, R319). -/
def State.returnSegment (s : State) (ctx seg : Nat) : State :=
  match s.ctx ctx with
  | none => s
  | some c => match c.segments.find? (·.1 == seg) with
    | none => s
    | some (_, size) =>
      (s.modCtx ctx (fun c => { c with segments := c.segments.filter (·.1 != seg)
                                       arenaTaken := c.arenaTaken.filter (·.1 != seg) })).modTenant c.tenant
        (fun t => { t with quotaUsed := t.quotaUsed - size })

/-- Taking the head entry out: STATE Empty, the pop index one up, an emptied segment that is not the tail returned
(R75, R286). -/
def State.popEntry (s : State) (ag : Agent) (hdr : Nat) (h : HeadEntry) : State :=
  let s1 := s.putNum ag (h.addr + 8) 4 (h.state / 4 * 4)
  let s2 := s1.putIdx ag h.q (hdr + 0x10) (h.q.pop + 1)
  if h.last then (s2.putNum ag hdr 8 h.next).returnSegment ag.ctx h.q.head else s2

/-! ## Starting, parking and ending tasks -/

/-- A task that starts fresh (R88). -/
def TaskCtx.fresh (record : W64) (args : W64) (entry regs cls : Nat) (root : Bool) : TaskCtx :=
  { record := record, root := root, regs := regs, cls := cls, vregs := []
    scal := (Store.setAll (w := 32) [] ((List.range 8).flatMap (fun i =>
      [(32 * i, args.setWidth 32), (32 * i + 1, (args >>> 32).setWidth 32)])))
    preds := [], slices := List.replicate 8 (.fresh entry), wide := none
    ember := List.replicate 4 ⟨none, false⟩, poison := [] }

/-- The park area of a task, by its record. -/
def State.parkOf (s : State) (ag : Agent) (t : TaskCtx) : Except ObjErr Nat :=
  match s.taskRec ag t.record.toNat with
  | .error e => .error e
  | .ok (_, r) => .ok r.park

/-- Writing the registers and the wave state of a task, with the chain below it, to its park area (R83, R93, R95, R99). What
happens where the area cannot be written is not stated: nothing is written, and the task goes on from what the device keeps of
it. DESIGN CHOICE (log 123). -/
def State.writeImage (s : State) (ag : Agent) (t : TaskCtx) (chain : List Nat) : State :=
  match s.parkOf ag t with
  | .error _ => s
  | .ok a => (s.setObj ag .ten a t.regBytes).setObj ag .ten (a + (t.regs + 1) * 1024) (t.waveBytes chain)

/-- The bytes of a task's park area: registers and wave state. -/
def State.imageOf (s : State) (ag : Agent) (t : TaskCtx) : Except ObjErr (State × List Byte × List Byte) := do
  let a ← s.parkOf ag t
  let (s1, rb) ← s.obj ag .ten a ((t.regs + 1) * 1024)
  let (s2, wb) ← s1.obj ag .ten (a + (t.regs + 1) * 1024) 4096
  .ok (s2, rb, wb)

/-- A task as its park area has it, with the records of its chain (R88, R96, R445): where the area cannot be read, as the device
has it. -/
def State.readImage (s : State) (ag : Agent) (t : TaskCtx) (chain : List Nat) : State × TaskCtx × List Nat :=
  match s.imageOf ag t with
  | .error _ => (s, t, chain)
  | .ok (s1, rb, wb) => (s1, t.ofImage rb wb, chainAt wb)

/-- Whether an address is a task record of a context, one that cannot be read being none. -/
def State.ownTask (s : State) (ag : Agent) (tr : Nat) : Bool :=
  tr % 64 == 0 && (match s.taskRec ag tr with
    | .ok (_, r) => r.ctx == ag.ctx
    | .error _ => false)

/-- A Helping task that the device does not know, as its record and its park area have it. DEDUCED (log 133). -/
def State.helperOf (s : State) (ag : Agent) (tr : Nat) : Option Helper :=
  if !s.ownTask ag tr then none
  else match s.taskRec ag tr with
    | .error _ => none
    | .ok (_, r) =>
      let t0 := TaskCtx.fresh (BitVec.ofNat 64 tr) r.args r.entry r.regs r.prio false
      match s.imageOf ag t0 with
      | .error _ => none
      | .ok (_, rb, wb) =>
        let t := { t0.ofImage rb wb with record := t0.record }
        let wait : Option Wait := (List.range 8).findSome? (fun i => if (t.slice i).live then waitAt wb (0x8A0 + 32 * i) else none)
        match wait with
        | some (.await lock pd a) => some ⟨t.still, lock, pd, a, none, false⟩
        | _ => some ⟨t.still, false, 0, 0, none, false⟩

/-- The chain that a frame or an area names by its records (R445): of the Helping tasks that the device knows what it has of them;
none where the chain is too long or names what is no task of the context. DEDUCED (log 133). -/
def State.chainOf (s : State) (ag : Agent) (known : List Helper) (recs : List Nat) : Option (List Helper) :=
  let hs := recs.map (fun a => match known.find? (fun h => h.task.record.toNat == a) with
    | some h => some h
    | none => s.helperOf ag a)
  if recs.length ≤ 4 ∧ hs.all Option.isSome then some (hs.filterMap id) else none

/-- Whether what an area says of a task lies in its ranges, its own record among them (R445). -/
def State.imageOk (s : State) (ag : Agent) (kept t : TaskCtx) : Bool :=
  t.inRange && (t.record == kept.record || s.ownTask ag t.record.toNat)

/-- Whether a record's STATE is a reserved code (R445). -/
def State.badState (s : State) (ag : Agent) (tr : Nat) : Bool :=
  match s.taskRec ag tr with
  | .ok (_, r) => decide (8 ≤ r.st)
  | .error _ => false

/-- Making a task Parked or Waiting in its park area (R83, R95, R99). -/
def State.keepTask (s : State) (ag : Agent) (t : TaskCtx) (home : W64) (waits : Option W64) : State :=
  State.writeImage { s with kiln := { s.kiln with parked := s.kiln.parked ++ [⟨ag.ctx, t, home, waits, false⟩] } } ag t []

/-- The Home queue field of a record; 0 where it cannot be read. -/
def State.homeOf (s : State) (ag : Agent) (tr : Nat) : Nat :=
  match s.taskRec ag tr with | .ok (_, r) => r.home | .error _ => 0

/-- Parking a task at the end of an adoption (R95). -/
def State.parkTask (s : State) (ag : Agent) (t : TaskCtx) : State :=
  let tr := t.record.toNat
  let home := s.homeOf ag tr
  let s1 := ((s.keepTask ag t (BitVec.ofNat 64 home) none).putState ag tr 0 4).putHelper ag tr 0
  s1.pushTask ag home t.record

/-- The live launch of a context with a tag. -/
def State.launchTag (s : State) (ctx tag : Nat) : Option Nat :=
  (s.kiln.launches.find? (fun x => x.2.record.ctx == ctx && x.2.record.tag == tag)).map (·.1)

/-- The helpers that R101 marks faulted when task `o` with future `fut` ends by a fault, from the innermost outward. -/
def State.markFaulted (s : State) (ag : Agent) (o fut : Nat) : List Helper → List Helper
  | [] => []
  | h :: r =>
    let a := h.addr.toNat
    let his := match s.waitable ag a with
      | .ok (_, x) => x.kind == 1 && x.st == 1 && x.owner == o || x.kind == 2 && x.st == 1 && x.owner == o
      | .error _ => false
    if (fut != 0 && a == fut) || his then { h with status := some false } :: s.markFaulted ag o fut r else h :: r

/-- Every lane of a task exited. -/
def TaskCtx.allExited (t : TaskCtx) : TaskCtx :=
  { t with wide := none, slices := t.slices.map (fun x =>
      { x with mask := 0, exited := 0xF, stack := [], clause := none, wait := none, flags := List.replicate 12 0 }) }

/-- The ids of a wave's operations that stand in a rendezvous latch of its group (R374). -/
def State.latched (s : State) (u : Nat) : List Nat :=
  match s.wave u with
  | none => []
  | some w => match s.group w.group with
    | none => []
    | some g => g.crews.flatMap (fun c => match c with
      | none => []
      | some c => (c.latch.filter (·.wave == u)).map (·.op))

/-- Whether every operation outstanding for a wave has completed, arrivals in a latch set apart (R52, R374). -/
def State.drained (s : State) (u : Nat) : Bool :=
  match s.wave u with
  | none => true
  | some w => let l := s.latched u; w.ops.all (fun o => l.contains o.id)

/-- Taking a wave's arrivals out of the latches of its group, with their operations. -/
def State.withdraw (s : State) (u : Nat) : State :=
  match s.wave u with
  | none => s
  | some w =>
    let l := s.latched u
    (s.modGroup w.group (fun g => { g with crews := g.crews.map (fun c => c.map (fun c =>
        { c with latch := c.latch.filter (·.wave != u)
                 formed := if c.latch.any (·.wave == u) then false else c.formed })) })).modWave u
      (fun w => { w with ops := w.ops.filter (fun o => !l.contains o.id) })

/-- A wave that does not come to run the task it has taken gives it back: it is Parked or Unstarted as before, and stands on its
home queue again. DEDUCED (log 106). -/
def State.unclaim (s : State) (u : Nat) : State :=
  match s.wave u with
  | none => s
  | some w => match w.adopting with
    | none => s
    | some c =>
      let ag := s.agentOf w.group
      let o := c.owner
      let parked := s.kiln.parked.any (fun p => p.ctx == ag.ctx && p.task.record == o)
      let s1 := (s.putState ag o.toNat 0 (if parked then 4 else 0)).putHelper ag o.toNat 0
      (s1.pushTask ag (s1.homeOf ag o.toNat) o).modWave u (fun w => { w with adopting := none })

/-- A list with the first n of the elements that satisfy p, and all the others. -/
def keepFirst {α : Type} (p : α → Bool) : Nat → List α → List α
  | _, [] => []
  | n, a :: r => if !p a then a :: keepFirst p n r
    else match n with
      | 0 => keepFirst p 0 r
      | k + 1 => a :: keepFirst p k r

/-- Of a wave's requests for a token the first n still wait, those among them that have not been served yet (R172). -/
def State.keepTakes (s : State) (u n : Nat) : State :=
  match s.wave u with
  | none => s
  | some w =>
    let k := s.coreOf w.group
    let held := ((s.core k).takers.filter (fun t => t.2.2 == u)).length
    let s1 := if held ≤ n then s else s.modCore k (fun c => { c with takers := keepFirst (fun t => t.2.2 == u) n c.takers })
    { s1 with sched := { s1.sched with changes := s1.sched.changes.map (keepFirst (fun c => match c with
        | .take _ _ _ _ v => v == u
        | _ => false) (n - held)) } }

/-- A wave waits for a token no longer. -/
def State.dropTakes (s : State) (u : Nat) : State := s.keepTakes u 0

/-- The strands that wait in `tok.take`, by the waits and the strands of the slices. -/
def takesOf (waits : List (Option Wait)) (strands : List Nat) : Nat :=
  (((waits.zip strands).filter (fun x => x.1 == some .token)).map (·.2)).dedup.length

/-- The strands of a wave that wait in `tok.take`, those that stand aside while a trap handler runs among them. -/
def Wave.takes (w : Wave) : Nat :=
  takesOf (w.task.slices.map (·.wait)) (w.task.slices.map (·.strand)) + (w.saves.map (fun v => takesOf v.waits v.strands)).sum

/-- The running task of a wave ends by a fault (R101, R379, R380, R431); `nest` for a kill. Its handler depth returns
to 0 and its frames are discarded. -/
def State.taskFault (s : State) (u : Nat) (nest : Bool) : State :=
  match s.wave u with
  | none => s
  | some w =>
    let ag := s.agentOf w.group
    let tr := w.task.record.toNat
    let s0 := ((s.withdraw u).dropTakes u).unclaim u
    let l := ((s.group w.group).map (·.launch)).getD 0
    let s1 := if nest then s0.modLaunch l (fun x => { x with nest := true }) else s0
    let close (chain : List Helper) (w : Wave) : Wave :=
      { w with task := w.task.allExited, ended := some .fault, chain := chain, exited := w.exited || (w.task.root && w.ops.isEmpty)
               depth := 0, narm := false, saves := [], stop := none, held := [], cause := 0, tinfo := 0, taddr := 0 }
    if w.task.root then
      ((s1.modLaunch l (fun x => { x with fault := true })).putState ag tr 0 6).modWave u (close w.chain)
    else match s1.taskRec ag tr with
      | .error _ => s1.modWave u (close w.chain)
      | .ok (s2, r) =>
        let s3 := s2.putNum ag (tr + 0x20) 4 (r.state / 16 * 16 + 6)
        let s4 := if r.future = 0 then s3 else (s3.release ag .ten).putNum ag (r.future + 8) 4 2
        let s5 := match s4.launchTag ag.ctx r.olaunch with
          | some o => s4.modLaunch o (fun x => { x with fault := true })
          | none => s4
        s5.modWave u (close (s5.markFaulted ag tr r.future w.chain))

/-- The running task of a wave has exited in every lane (R85, R94, R250). Its Helper field becomes 0, which is not stated.
DESIGN CHOICE (log 107). -/
def State.taskDone (s : State) (u : Nat) : State :=
  match s.wave u with
  | none => s
  | some w =>
    let ag := s.agentOf w.group
    let tr := w.task.record.toNat
    (((s.putState ag tr 0 5).putHelper ag tr 0).dropTakes u).modWave u (fun w =>
      { w with ended := some .done, exited := w.exited || (w.task.root && w.ops.isEmpty) })

end Sys2Proof.Machine
end

