-- ==== Sys2Proof/Machine/Ops.lean ====
section
/-! DEFINITION. What every instruction is made of: who executes it (R212), how it issues and completes (R40 to R43,
R190), how it transfers (R28, R31, R33), waits and is released (R34, R36, R259); the precise stop (R374, R390),
asynchronous errors (R382 to R384); and taking a trap (R376 to R380) with the return from it (R381). -/

namespace Sys2Proof.Machine

/-- What `exec` answers. -/
abbrev Out := Host.Outcome State Fault Refusal

/-! ## Who executes -/

/-- The executing strand: its wave, its slices, the slices whose flags count (all 8 in a wide region, R40), its
active and its participating lanes (R212), its agent and the address of the instruction. -/
structure Env where
  u : Nat
  w : Wave
  st : BitVec 8
  sl : BitVec 8
  act : W32
  part : W32
  ag : Agent
  pc : Nat
  deriving DecidableEq, Repr

/-- The leader: the lowest participating lane (R212). -/
def Env.leader (e : Env) : Option Nat := (bitsOf e.part).head?

/-- The leader as a mask. -/
def Env.lead (e : Env) : W32 := maskOf e.leader.toList

/-- The program counter of a set of slices. -/
def Wave.pcOf (w : Wave) (st : BitVec 8) : Nat := (w.slice ((bitsOf st).headD 0)).pc

/-- The participating lanes of some active lanes (R212). -/
def Wave.participants (w : Wave) (g : Guard) (act : W32) : W32 := maskOf ((bitsOf act).filter (w.guard g))

/-- A strand of a wave as an executing strand. -/
def Wave.env (w : Wave) (u : Nat) (ag : Agent) (st : BitVec 8) (g : Guard) : Env :=
  let act := w.activeLanes st
  ⟨u, w, st, if w.task.wide.isSome then 0xFF else st, act, w.participants g act, ag, w.pcOf st⟩

/-- The strand whose turn it is; none where no such strand exists. -/
def State.env (s : State) (g : Guard) : Option Env :=
  match s.sched.cur with
  | none => none
  | some c => match s.wave c.wave with
    | none => none
    | some w => if w.strandSlices c.strand = 0 then none
      else some (w.env c.wave (s.agentOf w.group) (w.strandSlices c.strand) g)

/-- Whether the strand holds every live slice of its wave, or executes inside a wide region (R402). -/
def Env.whole (e : Env) : Bool := e.w.task.wide.isSome || e.st == e.w.liveSlices

/-- Whether the wave runs a trap handler (R378). -/
def Env.inHandler (e : Env) : Bool := e.w.depth != 0

/-! ## The precise stop (R374, R390) -/

/-- A precise cause: class, CODE, DETAIL, LANE, and the address where it is not that of the instruction. -/
structure Bad where
  cls : Nat
  code : Nat
  detail : Nat
  lane : Nat := 0xFF
  addr : Option Nat := none
  deriving DecidableEq, Repr

/-- An illegal use (R391). -/
def illegal (code detail : Nat) : Bad := ⟨2, code, detail, 0xFF, none⟩

/-- An illegal use met in a lane. -/
def illegalIn (code detail lane : Nat) : Bad := ⟨2, code, detail, lane, none⟩

/-- A class 3 cause (R409): DETAIL[6] for a write, DETAIL[7] for a fetch. -/
def memBad (e : MemErr) (write fetch : Bool) (lane addr : Nat) : Bad :=
  ⟨3, e.code, e.detail + (if write then 64 else 0) + (if fetch then 128 else 0), lane, some addr⟩

/-- A fault met in reaching an object (R459). -/
def objBad (e : ObjErr) (lane : Nat) : Bad := memBad e.err e.write false lane e.addr

/-- The trap that a cause asks for (R372, R377): FPC is 0 for classes 0 and 1. -/
def Bad.req (b : Bad) (flag : Option Nat) (sl : BitVec 8) (pc : Nat) (lanes : W32) : TrapReq :=
  { cls := b.cls, code := b.code, addr := b.addr.getD pc, lane := b.lane, detail := b.detail, flag := flagCode flag
    slices := sl, fpc := if b.cls ≤ 1 then 0 else pc, lanes := lanes, rows := 0, lines := 0, pend := 0, lost := false }

/-- The wave is to stop for a trap; the first cause stands (R374). Consumed poison begins viral mode (R415). -/
def State.stopWave (s : State) (u : Nat) (r : TrapReq) : State :=
  let s1 := s.modWave u (fun w => if w.stop.isSome then w else { w with stop := some r })
  if r.cls = 3 ∧ r.code = 4 then
    match s.wave u with
    | some w => s1.goViral (s.ctxNo w.group)
    | none => s1
  else s1

/-- An instruction of a strand has issued: its clause is past its first issue (R191). -/
def Wave.issued (w : Wave) (st : BitVec 8) : Wave :=
  w.modSlices st (fun y => { y with clause := y.clause.map (fun c => { c with young := false }) })

/-- The stop of the executing wave for a cause at its instruction, which has thereby issued. -/
def State.stopAt (s : State) (e : Env) (flag : Option Nat) (b : Bad) : State :=
  (s.modWave e.u (fun w => w.issued e.st)).stopWave e.u (b.req flag e.sl e.pc e.part)

/-! ## Issue -/

/-- Moving some slices past n words of their clause (R187, R190). -/
def SliceSt.skip (x : SliceSt) (n : Nat) : SliceSt :=
  match x.clause with
  | none => x
  | some c =>
    let r := c.rest.drop n
    { x with pc := x.pc + 4 * n, wait := none, clause := if r.isEmpty then none else some { c with rest := r, young := false } }

/-- The stop after a clause that CLSTEP asks for (R310): some of these slices have ended their clause. Where the other strands of the
wave then stop is not stated (R190 has none stop inside a clause): the wave issues nothing more, so one of them may stop inside
its clause. DESIGN CHOICE (log 127). -/
def Wave.clauseStep (w : Wave) (st : BitVec 8) : Wave :=
  if w.clstep && (bitsOf st).any (fun i => (w.slice i).clause.isNone) then { w with halted := true } else w

/-- Moving a strand past n words. -/
def Wave.skip (w : Wave) (st : BitVec 8) (n : Nat) : Wave := (w.modSlices st (fun x => x.skip n)).clauseStep st

/-- Moving a strand past an instruction. -/
def Wave.next (w : Wave) (st : BitVec 8) (i : Instr) : Wave := w.skip st (encode i).length

/-- The strand moves past its instruction. -/
def State.next (s : State) (e : Env) (i : Instr) : State := s.modWave e.u (fun w => w.next e.st i)

/-- The words of the waiting instruction at which a strand stands. -/
def Wave.waitWords (w : Wave) (st : BitVec 8) : Nat :=
  match (w.slice ((bitsOf st).headD 0)).clause with
  | some c => instrWords c.rest
  | none => 0

/-- A strand leaves its wait and stands after the waiting instruction. -/
def Wave.resume (w : Wave) (st : BitVec 8) : Wave :=
  (w.modSlices st (fun x => { x with wait := none })).skip st (w.waitWords st)

/-- Poison read from a register (R414). -/
def poisonBad (lane : Nat) : Bad := ⟨3, 4, 1, lane, some 0⟩

/-- Issue of a short-latency instruction (R40, R43, R194, R392): nothing under the never guard but its passing; a
stall while a destination is outstanding; otherwise its effect or a precise stop. `adv` says that the strand then
moves past it, `rd` the lanes in which its sources are read: the participating ones, or the leader. -/
def runShort (i : Instr) (g : Guard) (dsts srcs : List (Opd × Nat)) (adv : Bool) (s : State)
    (body : Env → Except Bad State) (rd : Env → W32 := fun e => e.part) : Out :=
  match s.env g with
  | none => .fault .noStrand
  | some e =>
    if guardNever g then .next (s.next e i)
    else if e.w.busy e.st dsts then .next s
    else match body e with
      | .error b => .next (s.stopAt e none b)
      | .ok t => match e.w.poisonLane srcs (rd e) with
        | some l => .next (s.stopAt e none (poisonBad l))
        | none => .next (if adv then t.next e i else t)

/-- A 32-bit result in each participating lane. -/
def run32 (i : Instr) (g : Guard) (d : Opd) (srcs : List (Opd × Nat)) (s : State) (f : Wave → Nat → W32) : Out :=
  runShort i g [(d, 1)] srcs true s (fun e => .ok (s.setWave e.u (e.w.wr d e.part (f e.w))))

/-- A 64-bit result in each participating lane. -/
def run64 (i : Instr) (g : Guard) (d : Opd) (srcs : List (Opd × Nat)) (s : State) (f : Wave → Nat → W64) : Out :=
  runShort i g [(d, 2)] srcs true s (fun e => .ok (s.setWave e.u (e.w.wrq d e.part (f e.w))))

/-- Writing a predicate in some lanes (R47). -/
def Wave.setPreds (w : Wave) (lanes : W32) (p : Nat) (f : Nat → Bool) : Wave :=
  (bitsOf lanes).foldl (fun w l => w.setPred l p (f l)) w

/-- A predicate result in each participating lane. -/
def runPred (i : Instr) (g : Guard) (pd : Fin 8) (srcs : List (Opd × Nat)) (s : State) (f : Wave → Nat → Bool) : Out :=
  runShort i g [] srcs true s (fun e => .ok (s.setWave e.u (e.w.setPreds e.part pd.val (f e.w))))

/-! ## The scope ceiling (R148, R407) -/

/-- The ceiling at an instruction: under STRICT a system scope traps, otherwise NOTE is set. DETAIL is 0 for the scope
field, 1 for FSCOPE, 2 for the queue scope. -/
def State.ceiling (s : State) (e : Env) (sc : Scope) (detail : Nat) : Except Bad State :=
  match s.ctx e.ag.ctx with
  | none => .ok s
  | some c =>
    if sc = .sys ∧ c.cap ∧ e.part ≠ 0 then
      if c.strict then .error ⟨7, 1, detail, 0xFF, none⟩
      else .ok (s.modWave e.u (fun w => { w with note := true }))
    else .ok s

/-! ## Long-latency issue (R40, R41) -/

/-- The operands of an operation as read at issue: field i of lane l under key 32 × i + l (R375). -/
def capture (w : Wave) (lanes : W32) (caps : List (Opd × Nat)) : Store 128 :=
  Store.setAll [] ((caps.zipIdx).flatMap (fun x =>
    (bitsOf lanes).map (fun l => (32 * x.2 + l, w.rdk x.1.2 x.1.1 l))))

/-- The leader of an operation. -/
def Op.leader (o : Op) : Nat := (bitsOf o.lanes).headD 0

/-- The clause a strand executes in. -/
def Env.clause (e : Env) : Clause := ((e.w.slice ((bitsOf e.st).headD 0)).clause).getD ⟨[], 15, 15, false⟩

/-- The flag the executing instruction counts. -/
def Env.flag (e : Env) (fs : FlagSel) : Option Nat := flagOf e.clause fs

/-- The operation that an instruction starts. -/
def Env.op (e : Env) (i : Instr) (id : Nat) (flag : Option Nat) (caps dsts : List (Opd × Nat)) : Op :=
  { id := id, instr := i, pc := e.pc, lanes := e.part, todo := e.part, slices := e.sl, undone := e.sl, flag := flag
    vals := capture e.w e.part caps, wins := (List.range 8).map (fun k => (e.w.slice k).window), checked := false
    depth := e.w.depth, dst := dsts }

/-- Issue of a long-latency instruction: its flag is raised and the operation is outstanding; with no participating
lane it completes at once (R212). `stall` are further grounds to stall; `pre` checks the instruction and may note;
`post` is what the issued operation does further, given its id. -/
def issueWith (i : Instr) (g : Guard) (fs : FlagSel) (caps dsts : List (Opd × Nat)) (s : State)
    (stall : Env → Bool) (pre : Env → Except Bad State) (post : Env → Nat → State → State)
    (rd : Env → W32 := fun e => e.part) : Out :=
  match s.env g with
  | none => .fault .noStrand
  | some e =>
    if guardNever g then .next (s.next e i)
    else if e.w.busy e.st dsts || e.w.flagFull e.sl (e.flag fs) || stall e then .next s
    else match pre e with
      | .error b => .next (s.stopAt e (e.flag fs) b)
      | .ok t => match e.w.poisonLane caps (rd e) with
        | some l => .next (s.stopAt e (e.flag fs) (poisonBad l))
        | none =>
          if e.part = 0 then .next (t.next e i)
          else
            let (id, t1) := t.takeUid
            .next (post e id ((t1.modWave e.u (fun w =>
              { w.raise e.sl (e.flag fs) with ops := w.ops ++ [e.op i id (e.flag fs) caps dsts] })).next e i))

/-- Issue of a long-latency instruction with nothing further. -/
def issueLong (i : Instr) (g : Guard) (fs : FlagSel) (caps dsts : List (Opd × Nat)) (s : State)
    (stall : Env → Bool) (pre : Env → Except Bad State) (rd : Env → W32 := fun e => e.part) : Out :=
  issueWith i g fs caps dsts s stall pre (fun _ _ t => t) rd

/-! ## Transfers (R28, R31, R33) -/

/-- A slice's next paths: each active lane goes to its address; `fall` is the fall-through address. None where the
stack would pass 8 entries (R31, R400). The order in which one transfer's pending paths come on the stack is not stated: they
come by ascending address. DESIGN CHOICE (log 103). -/
def SliceSt.transfer (x : SliceSt) (lane0 : Nat) (tgt : Nat → Nat) (fall : Nat) (indirect : Bool) : Option SliceSt :=
  let at_ (a : Nat) : BitVec 4 :=
    maskOf ((List.range 4).filter (fun i => x.mask.getLsbD i && tgt (lane0 + i) == a))
  let addrs := (sortBy Nat.ble ((bitsOf x.mask).map (fun i => tgt (lane0 + i)))).dedup
  match addrs with
  | [] => some { x with pc := fall, clause := none, wait := none }
  | low :: others =>
    let cur := if others = [] ∨ indirect then low else ((low :: others).find? (· != fall)).getD low
    let pend := ((low :: others).filter (· != cur)).map (fun a => ⟨a, at_ a⟩)
    if x.stack.length + pend.length > 8 then none
    else some { x with pc := cur, mask := at_ cur, stack := x.stack ++ pend, clause := none, wait := none }

/-- A strand's transfer: every slice by R31, then the strand parts by R28. The lowest slice whose stack would overflow
is the error (R400). -/
def Wave.transfer (w : Wave) (st : BitVec 8) (tgt : Nat → Nat) (fall : Nat) (indirect : Bool) : Except Nat Wave :=
  match (bitsOf st).find? (fun i => ((w.slice i).transfer (4 * i) tgt fall indirect).isNone) with
  | some i => .error i
  | none => .ok ((w.modSlicesI st (fun i x =>
      (x.transfer (4 * i) tgt fall indirect).getD x)).reStrand.clauseStep st)

/-- A slice of which some lanes exit: the others fall through, or the pending paths with the lowest program counter
are resumed as one (R33, R250). -/
def SliceSt.exitLanes (x : SliceSt) (gone : BitVec 4) (fall : Nat) : SliceSt :=
  let y := { x with mask := x.mask &&& ~~~gone, exited := x.exited ||| gone, clause := none, wait := none }
  if y.mask ≠ 0 then { y with pc := fall }
  else match least (y.stack.map (·.pc)) with
    | none => y
    | some low => { y with pc := low, stack := y.stack.filter (·.pc != low)
                           mask := (y.stack.filter (·.pc == low)).foldl (fun m p => m ||| p.mask) 0 }

/-- The lanes of one slice of a set. -/
def sliceLanes (ls : W32) (i : Nat) : BitVec 4 := (ls >>> (4 * i)).setWidth 4

/-! ## Barrier objects, as a wait sees them (R185) -/

/-- The 16 bytes of a barrier object. -/
def Group.bobj (g : Group) (a : Nat) : BitVec 128 := BitVec.ofNat 128 (leNat (g.spad.bytes a 16))

/-! ## Waits and their release -/

/-- The scope of the span barrier of a group (R144). -/
def State.spanScope (s : State) (g : Nat) : Scope :=
  match s.launchOf g with
  | none => .clus
  | some l => if l.record.spanKey = 0 then .clus else if l.record.spanDevices ≤ 1 then .dev else .ten

/-- The phase of the barrier of a group's span, or of its gang outside a span (R290). -/
def State.spanPhase (s : State) (g : Nat) : Nat :=
  match s.group g with
  | none => 0
  | some x => match s.launch x.launch with
    | none => 0
    | some l => if l.record.spanKey = 0 then ((s.gang x.gang).map (·.barrier)).getD 0
      else ((Tab.find s.kiln.spans l.record.spanId).map (·.barrier)).getD 0

/-- The crew of a wave: crew number and crew (R169). -/
def Group.crewOf (g : Group) (idx : Nat) : Option (Nat × Crew) :=
  (g.crews.zipIdx).findSome? (fun x => match x.1 with
    | some c => if c.mask.getLsbD idx then some (x.2, c) else none
    | none => none)

/-- Whether a slice waits as `regang` does, false, or in `wide`, true (R34, R36, R381). -/
def SliceSt.gangWait (x : SliceSt) : Option Bool :=
  match x.wait with
  | some .regang | some .trapret => some false
  | some .wide => some true
  | _ => none

/-- Opening a wide region (R36): the save, one strand of all 8 slices, full masks, empty stacks, after the `wide`. -/
def Wave.openWide (w : Wave) (live : BitVec 8) : Wave :=
  let c := w.slice ((bitsOf live).headD 0)
  { w with task := { w.task with
      wide := some (w.task.slices.map (fun x => ⟨x.mask, x.exited, x.stack⟩))
      slices := w.task.slices.map (fun x =>
        { (({ x with pc := c.pc, clause := c.clause }).skip 2) with
          mask := 0xF, exited := 0, stack := [], strand := 0, wait := none }) } : Wave }.clauseStep live

/-- Whether a group's wave may be released from a wait: not stopped, not halted, on a core. -/
def State.awake (s : State) (w : Wave) : Bool :=
  w.stop.isNone && !w.halted && w.ended.isNone && ((s.group w.group).bind (·.core)).isSome

/-! ## Asynchronous errors (R382 to R384) -/

/-- The trap of class 5 for a pending error. -/
def AsyncErr.req (x : AsyncErr) : TrapReq :=
  { cls := 5, code := x.code, addr := x.addr, lane := x.lane, detail := x.detail, flag := x.flag, slices := x.slices
    fpc := x.fpc, lanes := x.lanes, rows := x.rows, lines := x.lines, pend := 0, lost := false }

/-- Raising the oldest pending error that a reporting point takes: not one issued before the trap that a handler
serves (R383, R384). -/
def State.reportAt (s : State) (u : Nat) (q : AsyncErr → Bool) : Option State :=
  match s.wave u with
  | none => none
  | some w => match w.pending.findIdx? (fun x => q x && !(x.drain && s.preempting w.group) && decide (w.depth ≤ x.depth)) with
    | none => none
    | some k => match w.pending[k]? with
      | none => none
      | some x => some ((s.modWave u (fun w => { w with pending := w.pending.eraseIdx k })).stopWave u x.req)

/-- Raising an error at an instruction that is a reporting point: the instruction, which is issued again after `trapret`, has had
its first issue (R191). -/
def State.reportHere (s : State) (e : Env) (q : AsyncErr → Bool) : Option State :=
  (s.reportAt e.u q).map (fun t => t.modWave e.u (fun w => w.issued e.st))

/-- Whether an error names a slice of a set. -/
def AsyncErr.names (x : AsyncErr) (st : BitVec 8) : Bool := (x.slices &&& st) != 0

/-- Whether a wait is a reporting point (R383). -/
def Wait.reports : Wait → Bool
  | .gate _ _ | .hold _ _ | .yieldto _ _ _ _ | .ember _ _ _ | .span _ | .token | .await _ _ _ => true
  | _ => false

/-- Raising a pending error in a strand that stands in a waiting instruction. -/
def State.pollAsync (s : State) (u : Nat) : State :=
  match s.wave u with
  | none => s
  | some w =>
    if !s.awake w || w.pending.isEmpty then s
    else ((w.strands.findSome? (fun n =>
        let st := w.strandSlices n
        match (w.slice n).wait with
        | some x => if x.reports then s.reportAt u (fun e => e.names st) else none
        | none => none))).getD s

/-- An error found joins the wave's pending list, at most 4, or is lost (R384). One found while the gang is being stopped for
pre-emption waits for the restore (R389). -/
def State.addAsync (s : State) (u : Nat) (x : AsyncErr) : State :=
  (s.modWave u (fun w => if w.pending.length < 4 then
      { w with pending := w.pending ++ [{ x with drain := s.preempting w.group }] }
    else { w with lost := true })).pollAsync u

/-- The asynchronous error of an operation. -/
def Op.err (o : Op) (code detail addr lane : Nat) (lanes : W32) : AsyncErr :=
  { code := code, detail := detail, addr := addr, lane := lane, flag := flagCode o.flag, slices := o.slices, fpc := o.pc
    lanes := lanes, rows := 0, lines := 0, depth := o.depth }

/-- An error that belongs to no operation: FLAG 15, SLICES 0xFF (R424, R425). -/
def looseErr (w : Wave) (code detail addr : Nat) : AsyncErr :=
  { code := code, detail := detail, addr := addr, lane := 0xFF, flag := 15, slices := 0xFF, fpc := 0, lanes := 0
    rows := 0, lines := 0, depth := w.depth }

/-! ## Completing an operation (R40, R374, R375) -/

/-- Lowering an operation's flag in some slices: among the counts set aside where a handler has been entered since. -/
def Wave.lowerFor (w : Wave) (o : Op) (sl : BitVec 8) : Wave :=
  if o.depth < w.depth then
    { w with saves := modAt w.saves (w.depth - 1 - o.depth) (fun v =>
        { v with flags := (bitsOf sl).foldl (fun f i => lowerSaved f i o.flag) v.flags }) }
  else w.lower sl o.flag

/-- An operation has completed for some slices: its flag falls there, and after the last it is gone. -/
def Wave.opDone (w : Wave) (o : Op) (sl : BitVec 8) : Wave :=
  let left := o.undone &&& ~~~sl
  { w.lowerFor o (o.undone &&& sl) with
    ops := if left = 0 then w.ops.filter (fun x => x.id != o.id)
      else w.ops.map (fun x => if x.id = o.id then { x with undone := left } else x) }

/-- An operation completes whole. -/
def State.endOp (s : State) (u id : Nat) : State :=
  s.modWave u (fun w => match w.ops.find? (fun o => o.id == id) with
    | some o => w.opDone o o.undone
    | none => w)

/-- An operation meets a precise cause after its issue: it has no effect, its flag falls back, it joins the replay
record, which stands in issue order, and the wave stops (R374, R375). -/
def State.holdOp (s : State) (u : Nat) (o : Op) (b : Bad) : State :=
  (s.stopWave u (b.req o.flag o.slices o.pc o.lanes)).modWave u (fun w =>
    { w.lowerFor o o.undone with
      ops := w.ops.filter (fun x => x.id != o.id)
      held := insertBy (fun a b => decide (a.id ≤ b.id)) { o with undone := o.slices, checked := false } w.held })

/-! ## The trap frame (R376, R377) -/

/-- `%trapcause` and `%trapinfo` of a trap (R372). -/
def TrapReq.causeWord (r : TrapReq) : W32 := BitVec.ofNat 32 (r.cls * 2 ^ 28 + r.code % 65536)
def TrapReq.infoWord (r : TrapReq) : W32 :=
  BitVec.ofNat 32 (r.lane % 256 * 2 ^ 24 + r.flag % 16 * 2 ^ 20 + r.slices.toNat * 4096 + (if r.lost then 2048 else 0)
    + r.pend % 8 * 256 + r.detail % 256)

/-- The control word of a frame. -/
def controlWord (live : BitVec 8) (narm replay wide : Bool) : Nat :=
  live.toNat * 256 + (if narm then 4 else 0) + (if replay then 2 else 0) + (if wide then 1 else 0)

/-- The 2,048 bytes of a frame; reserved ones are 0 (R6, R377). -/
def frameBytes (w : Wave) (r : TrapReq) : List Byte :=
  leBytes r.causeWord.toNat 4 ++ leBytes r.infoWord.toNat 4 ++ leBytes r.addr 8 ++ leBytes r.fpc 8
    ++ leBytes r.lanes.toNat 4 ++ leBytes (controlWord w.liveSlices false (!w.held.isEmpty) w.task.wide.isSome) 4
    ++ leBytes (strandMap w.task.slices) 4 ++ leBytes r.rows 4 ++ leBytes r.lines 4 ++ leBytes 0 4 ++ leBytes w.trapbase 8 ++ leBytes 0 8
    ++ (List.range 5).flatMap (fun i => leBytes ((w.task.record.toNat :: w.chain.map (fun h => h.task.record.toNat)).getD i 0) 8)
    ++ List.replicate 24 0
    ++ w.task.slices.flatMap SliceSt.record
    ++ (match w.task.wide with
      | some l => l.flatMap WideSave.record
      | none => List.replicate 0x340 0)
    ++ List.replicate 0xC0 0

/-- The address of the frame of a depth in the running task's park area (R376). -/
def State.frameAddr (s : State) (u depth : Nat) : Except ObjErr Nat :=
  match s.wave u with
  | none => .error ⟨⟨1, 3⟩, 0, true⟩
  | some w => match s.taskRec (s.agentOf w.group) w.task.record.toNat with
    | .error e => .error e
    | .ok (_, r) => .ok ((r.park + (w.task.regs + 1) * 1024 + 2048 * (depth - 1)) % 2 ^ 64)

/-- A trap as it is taken: the errors then pending are those found in the drain too, and a trap of class 5 reports that one has
been lost (R372, R384). -/
def Wave.taking (w : Wave) (r : TrapReq) : TrapReq := { r with pend := w.pending.length, lost := r.cls == 5 && w.lost }

/-- Whether a trap kills the wave (R378, R380). -/
def Wave.killed (w : Wave) : Bool := w.trapbase == 0 || (w.depth == 1 && !w.narm) || decide (2 ≤ w.depth)

/-- The state in which the handler starts (R378), with what the device keeps of the stopped wave (R374, R375). A task
whose lanes had all exited is not over while its handler runs. DEDUCED (log 96). -/
def Wave.enterHandler (w : Wave) (r : TrapReq) : Wave :=
  { w with
    task := { w.task with
      wide := none
      slices := w.task.slices.map (fun x =>
        { x with pc := w.trapbase, mask := 0xF, exited := 0, stack := [], flags := List.replicate 12 0, strand := 0
                 clause := none, wait := none }) }
    saves := ⟨w.task.slices.map (·.pc), w.task.slices.map (·.clause), w.task.slices.map (·.wait),
      w.task.slices.map (·.strand), w.task.slices.map (·.flags), w.held⟩ :: w.saves
    depth := w.depth + 1, narm := false, stop := none, held := [], ended := none
    lost := w.lost && r.cls != 5, cause := r.causeWord, tinfo := r.infoWord, taddr := BitVec.ofNat 64 r.addr }

/-- Taking a trap after the drain (R374 to R380): the frame is written and the handler starts, or the wave is killed
where there is no usable handler or no frame can be written. A task that has ended by a fault has no handler left: what
its outstanding operations meet is dropped. DEDUCED (log 96). -/
def State.takeTrap (s : State) (u : Nat) : State :=
  match s.wave u with
  | none => s
  | some w => match w.stop with
    | none => s
    | some r =>
      if w.ended = some .fault then s.modWave u (fun w => { w with stop := none, held := [] })
      else if w.killed then s.taskFault u true
      else
        let ag := s.agentOf w.group
        match s.frameAddr u (w.depth + 1) with
        | .error _ => s.taskFault u true
        | .ok a => match s.canWrite ag a 0x800 with
          | some _ => s.taskFault u true
          | none => (s.setObj ag .wave a (frameBytes w (w.taking r))).modWave u (fun v => v.enterHandler (w.taking r))

/-! ## The return from a trap (R381, R445) -/

/-- A slice back from a handler: the clause and the wait it had, where the frame still names the same program counter;
the counts set aside are added back; a member whose joint operation entered meanwhile stands after its `mma`. -/
def backSlice (v : TrapSave) (cur : List SliceSt) (i : Nat) (x : SliceSt) (waiting : Bool) : SliceSt :=
  let flags := List.zipWith (· + ·) (cur.getD i (.fresh 0)).flags (v.flags.getD i (List.replicate 12 0))
  let y := { x with flags := flags }
  if v.pcs[i]? = some x.pc then
    let z := { y with clause := (v.clauses.getD i none) }
    match v.waits.getD i none with
    | some .entered => z.skip (match z.clause with | some c => instrWords c.rest | none => 0)
    | wt => if waiting then { z with wait := wt } else z
  else y

/-- The wave as the frame of its depth and the device's own record restore it; none where a value is out of range. A
task whose lanes had all exited has ended again (R33, R250). The operations of the replay record are issued again after all that
the handler has issued: they are numbered from `id`. What the handler has issued counts from then on as issued before any later
trap (R383). -/
def Wave.fromFrame (w : Wave) (id : Nat) (bs : List Byte) (outer : Option (List Byte)) : Option Wave :=
  match w.saves with
  | [] => none
  | v :: rest =>
    let recs := (List.range 8).map (fun i => sliceAt bs 0x80 (fieldAt bs 0x20 4) (w.slice i) i)
    let wide := if fieldAt bs 0x1C 4 % 2 = 1 then some ((List.range 8).map (wideAt bs 0x400)) else none
    if !frameOk (regCount w.task.regs) (recs.map (·.1)) wide then none
    else
      let ss := (recs.zipIdx).map (fun x => backSlice v w.task.slices x.2 x.1.1 x.1.2)
      let replay := if fieldAt bs 0x1C 4 / 2 % 2 = 1 then v.replay else []
      let d := w.depth - 1
      let ops := (replay.zipIdx).map (fun o => { o.1 with id := id + o.2, depth := d })
      let w1 : Wave :=
        { w with
          task := { w.task with slices := ss, wide := wide }
          trapbase := fieldAt bs 0x30 8, depth := d, narm := decide (d = 1), saves := rest
          ended := if ss.any (·.live) then none else some .done
          cause := match outer with | some o => BitVec.ofNat 32 (fieldAt o 0 4) | none => 0
          tinfo := match outer with | some o => BitVec.ofNat 32 (fieldAt o 4 4) | none => 0
          taddr := match outer with | some o => BitVec.ofNat 64 (fieldAt o 8 8) | none => 0
          pending := w.pending.map (fun x => { x with depth := min d x.depth })
          ops := w.ops.map (fun o => { o with depth := min d o.depth }) ++ ops }
      some ((ops.foldl (fun w o => w.raise o.slices o.flag) w1).reStrand)

/-- Whether every flag of a wave is a count of 6 bits (R39). -/
def Wave.flagsFit (w : Wave) : Bool := w.task.slices.all (fun x => x.flags.all (fun n => decide (n ≤ 63)))

/-- Whether an operation has a destination that an outstanding one of some others has too (R43). -/
def Op.clashes (o : Op) (ops : List Op) : Bool :=
  ops.any (fun p => (bitsOf (p.undone &&& o.undone)).any (fun i => p.dst.any (fun e => o.dst.any (fun d =>
    groupsMeet e.1 e.2 (p.wins.getD i 0) d.1 d.2 (o.wins.getD i 0)))))

/-- What of the array an operation on a tile enters as it is issued (R180). -/
def Op.tileEntry (u : Nat) (o : Op) : Option Entry :=
  match o.instr with
  | .accz _ m | .accld _ _ _ m | .accst _ _ _ m => some (.tile u o.id m.tile.val)
  | _ => none

/-- The records in a frame's Chain: the running task's, and those of the Helping tasks (R377). -/
def frameChain (bs : List Byte) : Nat × List Nat :=
  (fieldAt bs 0x40 8, ((List.range 4).map (fun i => fieldAt bs (0x48 + 8 * i) 8)).takeWhile (· != 0))

/-- Whether a wave stands in `await` or `lock.take`, in a handler's stead or itself. -/
def Wave.claims (w : Wave) : Bool :=
  let isAwait (x : Option Wait) : Bool := match x with
    | some (.await _ _ _) => true
    | _ => false
  (w.task.slices.map (·.wait)).any isAwait || w.saves.any (fun v => v.waits.any isAwait)

/-- A wave that has left its `await` or `lock.take` gives the task back that it has taken. -/
def State.settleClaim (s : State) (u : Nat) : State :=
  match s.wave u with
  | none => s
  | some w => if w.claims then s else s.unclaim u

/-- The return from a trap. A frame that cannot be read, or that holds a value out of range, kills the wave; its chain is taken as
found (R445). Where the operations that it issues again, or the counts set aside, would raise a flag past 63, it stalls until
operations of the handler have completed (R41); so it does where an operation to be issued again has a destination that one of
the handler is still to write (R43). A wait in `tok.take`, or for a task taken for adoption, that the frame no longer has is over
(R172, R381; log 140). -/
def State.leaveTrap (s : State) (u : Nat) : State :=
  match s.wave u with
  | none => s
  | some w0 =>
    let ag := s.agentOf w0.group
    let frame (d : Nat) : Except ObjErr (State × List Byte) :=
      match s.frameAddr u d with
      | .error e => .error e
      | .ok a => s.obj ag .wave a 0x740
    match frame w0.depth with
    | .error _ => s.taskFault u true
    | .ok (s1, bs) =>
      let w := (s1.wave u).getD w0
      let outer : Option (List Byte) := if w.depth = 2 then (match frame 1 with | .ok (_, o) => some o | .error _ => none) else none
      let (tr, recs) := frameChain bs
      match w.fromFrame s1.kiln.nextUid bs outer, s1.chainOf ag w.chain recs with
      | some w', some ch =>
        if tr ≠ w.task.record.toNat ∧ !s1.ownTask ag tr then s.taskFault u true
        else if (!w'.flagsFit && !s.drained u) || (w'.ops.drop w.ops.length).any (fun o => o.clashes w.ops) then s
        else
          let new := w'.ops.drop w.ops.length
          let s2 := s1.setWave u { w' with chain := ch, task := { w'.task with record := BitVec.ofNat 64 tr } }
          let s3 := ({ s2 with kiln := { s2.kiln with nextUid := s2.kiln.nextUid + new.length } } : State).modCore (s.coreOf w.group)
            (fun k => { k with array := k.array ++ new.filterMap (Op.tileEntry u) })
          (s3.keepTakes u w'.takes).settleClaim u
      | _, _ => s.taskFault u true

/-! ## Merging strands, and evaluating waits afresh -/

/-- Evaluating a strand's wait afresh: it stays, or it ends and the strand goes on (R54, R79, R172, R273, R275, R290). -/
def State.evalWait (s : State) (u : Nat) (st : BitVec 8) : State :=
  match s.wave u with
  | none => s
  | some w => match s.group w.group with
    | none => s
    | some g =>
      let go (s : State) : State := s.modWave u (fun w => w.resume st)
      match (w.slice ((bitsOf st).headD 0)).wait with
      | some (.gate bar ph) =>
        if ((g.bars[bar]?).map (·.phase)).getD 0 = ph then s
        else (go s).acquire (s.agentOf w.group) .core
      | some (.hold a ph) => if (g.bobj a).getLsbD 95 = ph then s else go s
      | some (.yieldto a ph cont lanes) =>
        if (g.bobj a).getLsbD 95 = ph then s
        else
          let fall := w.pcOf st + 4 * w.waitWords st
          match w.transfer st (fun l => if lanes.getLsbD l then cont else fall) fall false with
          | .ok w' => s.setWave u w'
          | .error _ => s
      | some (.span ph) =>
        if s.spanPhase w.group ≤ ph then s else (go s).acquire (s.agentOf w.group) (s.spanScope w.group)
      | some .token =>
        match g.crewOf w.idx, g.core with
        | some (c, _), some k =>
          if (s.core k).token = some (w.group, c) then
            ((go s).modCore k (fun x => { x with takers := x.takers.eraseP (fun t => t.2.2 == u) })).acquire (s.agentOf w.group) .core
          else s
        | _, _ => s
      | _ => s

/-- Evaluating the waits of every strand of a wave afresh. -/
def State.wakeStrands (s : State) (u : Nat) : State :=
  match s.wave u with
  | none => s
  | some w => if s.awake w then w.strands.foldl (fun s n => s.evalWait u (w.strandSlices n)) s else s

/-- What `regang`, `trapret` and `wide` waits come to once every live slice stands in one (R34, R36, R381, R430). -/
def State.settleGang (s : State) (u : Nat) : State :=
  match s.wave u with
  | none => s
  | some w =>
    let live := w.liveSlices
    let ls := bitsOf live
    if !s.awake w || ls.isEmpty || ls.any (fun i => (w.slice i).gangWait.isNone) then s
    else
      let rg := ls.filter (fun i => (w.slice i).gangWait == some false)
      match least (rg.map (fun i => (w.slice i).pc)) with
      | some low =>
        let grp : BitVec 8 := maskOf (rg.filter (fun i => (w.slice i).pc == low))
        if (w.slice ((bitsOf grp).headD 0)).wait = some .trapret then (((s.setWave u (w.mergeSlices grp)).leaveTrap u).wakeStrands u).pollAsync u
        else s.setWave u ((w.mergeSlices grp).resume grp)
      | none =>
        let pcs := (sortBy Nat.ble (ls.map (fun i => (w.slice i).pc))).dedup
        match pcs with
        | [] => s
        | [_] => s.setWave u (w.openWide live)
        | low :: _ =>
          let grp : BitVec 8 := maskOf (ls.filter (fun i => (w.slice i).pc == low))
          (s.setWave u (w.modSlices grp (fun x => { x with wait := none }))).stopWave u
            ((⟨6, 3, pcs.length, 0xFF, none⟩ : Bad).req none grp low (w.activeLanes grp))

/-- Evaluating every wait of a wave afresh. -/
def State.wake (s : State) (u : Nat) : State :=
  (s.wakeStrands u).settleGang u

/-- Evaluating every wait of a group's waves afresh. -/
def State.wakeGroup (s : State) (g : Nat) : State := (s.wavesOf g).foldl (fun s x => s.wake x.1) s

/-- The executing strand waits at its instruction, which has thereby issued (R191); its wait is evaluated at once. -/
def State.waitIn (s : State) (e : Env) (x : Wait) : State :=
  (s.modWave e.u (fun w => w.modSlices e.st (fun y =>
    { y with wait := some x, clause := y.clause.map (fun c => { c with young := false }) }))).wake e.u

/-- Issue of a waiting instruction: a reporting point before anything else (R383). -/
def runWait (i : Instr) (g : Guard) (dsts srcs : List (Opd × Nat)) (s : State) (body : Env → Except Bad State) : Out :=
  match s.env g with
  | none => .fault .noStrand
  | some e => match (if guardNever g then none else s.reportHere e (fun x => x.names e.st)) with
    | some t => .next t
    | none => runShort i g dsts srcs false s body Env.lead

/-- An engine command (R145): what it accesses is ordered by its own completion, not by program order after it. -/
def isEngine (i : Instr) : Bool :=
  match i with
  | .cpTile .. | .cpMcast .. | .cpOut .. | .cpGather .. | .wbload .. | .mma .. | .mmas .. | .accz .. | .accld .. | .accst .. => true
  | _ => false

/-- Whether an earlier operation of some slices that is no engine command is outstanding (R136, R138). -/
def Wave.behind (w : Wave) (sl : BitVec 8) : Bool :=
  w.ops.any (fun o => !isEngine o.instr && (o.undone &&& sl) != 0)

/-- Whether an ordering instruction waits for what precedes it in its strand; with no participating lane it orders nothing
(R212). -/
def Env.ordered (e : Env) (g : Guard) : Bool := !guardNever g && e.part != 0 && e.w.behind e.sl

/-- Issue of a short-latency instruction that orders what precedes it in its strand: it stalls until that has been
performed. -/
def runOrdered (i : Instr) (g : Guard) (dsts srcs : List (Opd × Nat)) (adv : Bool) (s : State)
    (body : Env → Except Bad State) : Out :=
  match s.env g with
  | none => .fault .noStrand
  | some e => if e.ordered g then .next s else runShort i g dsts srcs adv s body Env.lead

/-- Issue of a waiting instruction that is ordered so: `runWait` once what precedes it in its strand has been performed. -/
def runWaitOrdered (i : Instr) (g : Guard) (srcs : List (Opd × Nat)) (s : State) (body : Env → Except Bad State) : Out :=
  match s.env g with
  | none => .fault .noStrand
  | some e => if e.ordered g then .next s else runWait i g [] srcs s body

end Sys2Proof.Machine
end

