-- ==== Sys2Proof/Machine/Alu.lean ====
section
/-! DEFINITION. The A-form integer and bit operations (R203, R215 to R219) and group INTX (R224 to R229). -/

namespace Sys2Proof.Machine

/-- A left shift by any count, 0 for a count of the width or more (R216). -/
def shlBy {n : Nat} (x : BitVec n) (k : Nat) : BitVec n := if k < n then x <<< k else 0

/-- Left rotation by a count modulo 32 (R216). -/
def rotl32 (x : W32) (n : Nat) : W32 := x <<< (n % 32) ||| (if n % 32 = 0 then 0 else x >>> (32 - n % 32))

/-- The number of 0 bits above the highest 1 bit (R215). -/
def leadingZeros (x : W32) : Nat := if x = 0 then 32 else 31 - Nat.log2 x.toNat

/-- The bits in the other order (R215). -/
def bitReverse (x : W32) : W32 := maskOf ((bitsOf x).map (fun i => 31 - i))

/-- `nop` (R219): no effect under any guard. -/
def execNop (g : Guard) (s : State) : Out := runShort (.nop g) g [] [] true s (fun _ => .ok s)

/-- `iadd: the sum, wrapping (R215).` -/
def execIadd (g : Guard) (d a b : Opd) (s : State) : Out :=
  run32 (.iadd g d a b) g d [(a, 1), (b, 1)] s (fun w l => w.rd a l + w.rd b l)

/-- `isub: the difference, wrapping (R215).` -/
def execIsub (g : Guard) (d a b : Opd) (s : State) : Out :=
  run32 (.isub g d a b) g d [(a, 1), (b, 1)] s (fun w l => w.rd a l - w.rd b l)

/-- `imul: the low 32 bits of the product (R215).` -/
def execImul (g : Guard) (d a b : Opd) (s : State) : Out :=
  run32 (.imul g d a b) g d [(a, 1), (b, 1)] s (fun w l => w.rd a l * w.rd b l)

/-- `imulh.s: the high word of the signed product (R215).` -/
def execImulhS (g : Guard) (d a b : Opd) (s : State) : Out :=
  run32 (.imulhS g d a b) g d [(a, 1), (b, 1)] s (fun w l => BitVec.ofInt 32 ((w.rd a l).toInt * (w.rd b l).toInt / 2 ^ 32))

/-- `imulh.n: the high word of the unsigned product (R215).` -/
def execImulhN (g : Guard) (d a b : Opd) (s : State) : Out :=
  run32 (.imulhN g d a b) g d [(a, 1), (b, 1)] s (fun w l => BitVec.ofNat 32 ((w.rd a l).toNat * (w.rd b l).toNat / 2 ^ 32))

/-- `imin.s (R215).` -/
def execIminS (g : Guard) (d a b : Opd) (s : State) : Out :=
  run32 (.iminS g d a b) g d [(a, 1), (b, 1)] s (fun w l => if (w.rd a l).toInt ≤ (w.rd b l).toInt then w.rd a l else w.rd b l)

/-- `imin.n (R215).` -/
def execIminN (g : Guard) (d a b : Opd) (s : State) : Out :=
  run32 (.iminN g d a b) g d [(a, 1), (b, 1)] s (fun w l => if (w.rd a l).toNat ≤ (w.rd b l).toNat then w.rd a l else w.rd b l)

/-- `imax.s (R215).` -/
def execImaxS (g : Guard) (d a b : Opd) (s : State) : Out :=
  run32 (.imaxS g d a b) g d [(a, 1), (b, 1)] s (fun w l => if (w.rd b l).toInt ≤ (w.rd a l).toInt then w.rd a l else w.rd b l)

/-- `imax.n (R215).` -/
def execImaxN (g : Guard) (d a b : Opd) (s : State) : Out :=
  run32 (.imaxN g d a b) g d [(a, 1), (b, 1)] s (fun w l => if (w.rd b l).toNat ≤ (w.rd a l).toNat then w.rd a l else w.rd b l)

/-- `and, bitwise (R215).` -/
def execAnd (g : Guard) (d a b : Opd) (s : State) : Out :=
  run32 (.and g d a b) g d [(a, 1), (b, 1)] s (fun w l => w.rd a l &&& w.rd b l)

/-- `or, bitwise (R215).` -/
def execOr (g : Guard) (d a b : Opd) (s : State) : Out :=
  run32 (.or g d a b) g d [(a, 1), (b, 1)] s (fun w l => w.rd a l ||| w.rd b l)

/-- `xor, bitwise (R215).` -/
def execXor (g : Guard) (d a b : Opd) (s : State) : Out :=
  run32 (.xor g d a b) g d [(a, 1), (b, 1)] s (fun w l => w.rd a l ^^^ w.rd b l)

/-- `andn: a AND NOT b (R215).` -/
def execAndn (g : Guard) (d a b : Opd) (s : State) : Out :=
  run32 (.andn g d a b) g d [(a, 1), (b, 1)] s (fun w l => w.rd a l &&& ~~~w.rd b l)

/-- `shl: 0 for a count of 32 or more (R216).` -/
def execShl (g : Guard) (d a b : Opd) (s : State) : Out :=
  run32 (.shl g d a b) g d [(a, 1), (b, 1)] s (fun w l => shlBy (w.rd a l) (w.rd b l).toNat)

/-- `shr: 0 for a count of 32 or more (R216).` -/
def execShr (g : Guard) (d a b : Opd) (s : State) : Out :=
  run32 (.shr g d a b) g d [(a, 1), (b, 1)] s (fun w l => w.rd a l >>> (w.rd b l).toNat)

/-- `sar: all sign bits for a count of 32 or more (R216).` -/
def execSar (g : Guard) (d a b : Opd) (s : State) : Out :=
  run32 (.sar g d a b) g d [(a, 1), (b, 1)] s (fun w l => (w.rd a l).sshiftRight (w.rd b l).toNat)

/-- `rotl: the count modulo 32 (R216).` -/
def execRotl (g : Guard) (d a b : Opd) (s : State) : Out :=
  run32 (.rotl g d a b) g d [(a, 1), (b, 1)] s (fun w l => rotl32 (w.rd a l) (w.rd b l).toNat)

/-- `popc: the number of 1 bits (R215).` -/
def execPopc (g : Guard) (d a : Opd) (s : State) : Out :=
  run32 (.popc g d a) g d [(a, 1)] s (fun w l => BitVec.ofNat 32 (popCount (w.rd a l)))

/-- `clz: the 0 bits above the highest 1 bit, 32 for 0 (R215).` -/
def execClz (g : Guard) (d a : Opd) (s : State) : Out :=
  run32 (.clz g d a) g d [(a, 1)] s (fun w l => BitVec.ofNat 32 (leadingZeros (w.rd a l)))

/-- `brev: d[i] = a[31 − i] (R215).` -/
def execBrev (g : Guard) (d a : Opd) (s : State) : Out :=
  run32 (.brev g d a) g d [(a, 1)] s (fun w l => bitReverse (w.rd a l))

/-- `iabs: the absolute value, wrapping (R215).` -/
def execIabs (g : Guard) (d a : Opd) (s : State) : Out :=
  run32 (.iabs g d a) g d [(a, 1)] s (fun w l => BitVec.ofNat 32 (w.rd a l).toInt.natAbs)

/-- `mov (R215).` -/
def execMov (g : Guard) (d a : Opd) (s : State) : Out :=
  run32 (.mov g d a) g d [(a, 1)] s (fun w l => w.rd a l)

/-- `sel` (R218): every active lane takes a where the guard is true and b where it is false. -/
def execSel (g : Guard) (d a b : Opd) (s : State) : Out :=
  runShort (.sel g d a b) g [(d, 1)] [] true s (fun e =>
    let no := e.act &&& ~~~e.part
    match (e.w.poisonLane [(a, 1)] e.part).orElse (fun _ => e.w.poisonLane [(b, 1)] no) with
    | some l => .error (poisonBad l)
    | none => .ok (s.setWave e.u (e.w.wr d e.act (fun l => if e.w.guard g l then e.w.rd a l else e.w.rd b l))))

/-- `iadd.q (R217).` -/
def execIaddQ (g : Guard) (d a b : Opd) (s : State) : Out :=
  run64 (.iaddQ g d a b) g d [(a, 2), (b, 2)] s (fun w l => w.rdq a l + w.rdq b l)

/-- `isub.q (R217).` -/
def execIsubQ (g : Guard) (d a b : Opd) (s : State) : Out :=
  run64 (.isubQ g d a b) g d [(a, 2), (b, 2)] s (fun w l => w.rdq a l - w.rdq b l)

/-- `shl.q: the rule of shl at width 64 (R216).` -/
def execShlQ (g : Guard) (d a b : Opd) (s : State) : Out :=
  run64 (.shlQ g d a b) g d [(a, 2), (b, 1)] s (fun w l => shlBy (w.rdq a l) (w.rd b l).toNat)

/-- `shr.q (R216).` -/
def execShrQ (g : Guard) (d a b : Opd) (s : State) : Out :=
  run64 (.shrQ g d a b) g d [(a, 2), (b, 1)] s (fun w l => w.rdq a l >>> (w.rd b l).toNat)

/-- `sar.q (R216).` -/
def execSarQ (g : Guard) (d a b : Opd) (s : State) : Out :=
  run64 (.sarQ g d a b) g d [(a, 2), (b, 1)] s (fun w l => (w.rdq a l).sshiftRight (w.rd b l).toNat)

/-- `lea: a + sg(b), wrapping at 64 bits (R217).` -/
def execLea (g : Guard) (d a b : Opd) (s : State) : Out :=
  run64 (.lea g d a b) g d [(a, 2), (b, 1)] s (fun w l => w.rdq a l + (w.rd b l).signExtend 64)

/-- `mov.q` (R217). -/
def execMovQ (g : Guard) (d a : Opd) (s : State) : Out :=
  run64 (.movQ g d a) g d [(a, 2)] s (fun w l => w.rdq a l)

/-! ## INTX -/

/-- An operand of a type as an integer, signed or unsigned (R225). -/
def intOf (ty : Ty) (w : Wave) (o : Opd) (l : Nat) : Int :=
  match ty with
  | .s64 => (w.rdq o l).toInt
  | .n64 => (w.rdq o l).toNat
  | .n32 => (w.rd o l).toNat
  | _ => (w.rd o l).toInt

/-- Registers of an operand of a type. -/
def Ty.regs (t : Ty) : Nat := if t.regBits = 128 then 4 else if t.regBits = 64 then 2 else 1

/-- `icmp` (R225): the result goes to predicate pd. -/
def execIcmp (g : Guard) (a b : Opd) (ty : Ty) (cond : Cond) (pd : Fin 8) (s : State) : Out :=
  runPred (.icmp g a b ty cond pd) g pd [(a, Ty.regs ty), (b, Ty.regs ty)] s
    (fun w l => Cond.onInt cond (intOf ty w a l) (intOf ty w b l))

/-- `imad` (R226). -/
def execImad (g : Guard) (d a b c : Opd) (s : State) : Out :=
  run32 (.imad g d a b c) g d [(a, 1), (b, 1), (c, 1)] s (fun w l => w.rd a l * w.rd b l + w.rd c l)

/-- `imul.q`: the low 64 bits (R226). -/
def execImulQ (g : Guard) (d a b : Opd) (s : State) : Out :=
  run64 (.imulQ g d a b) g d [(a, 2), (b, 2)] s (fun w l => w.rdq a l * w.rdq b l)

/-- Saturation to s32 or n32 (R226). -/
def sat32 (ty : Ty) (x : Int) : W32 := BitVec.ofInt 32 (if ty = .n32 then satN x 32 else satS x 32)

/-- `iadd.sat` (R226). -/
def execIaddSat (g : Guard) (d a b : Opd) (ty : Ty) (s : State) : Out :=
  run32 (.iaddSat g d a b ty) g d [(a, 1), (b, 1)] s (fun w l => sat32 ty (intOf ty w a l + intOf ty w b l))

/-- `isub.sat` (R226). -/
def execIsubSat (g : Guard) (d a b : Opd) (ty : Ty) (s : State) : Out :=
  run32 (.isubSat g d a b ty) g d [(a, 1), (b, 1)] s (fun w l => sat32 ty (intOf ty w a l - intOf ty w b l))

/-- Position and width of a field, clipped to the word (R227). -/
def fieldPos (x : W32) : Nat × Nat :=
  let p := min (x.toNat % 256) 32
  (p, min (x.toNat / 256 % 256) (32 - p))

/-- `bfe` of a value: zero-extended, or sign-extended from the field's top bit (R227). -/
def bitField (signed : Bool) (x pw : W32) : W32 :=
  let (p, n) := fieldPos pw
  let f := x.toNat / 2 ^ p % 2 ^ n
  if n = 0 then 0 else if signed then BitVec.ofInt 32 (truncS f n) else BitVec.ofNat 32 f

/-- `bfe` (R227). -/
def execBfe (g : Guard) (d a b : Opd) (ty : Ty) (s : State) : Out :=
  run32 (.bfe g d a b ty) g d [(a, 1), (b, 1)] s (fun w l => bitField (ty == .s32) (w.rd a l) (w.rd b l))

/-- The word with a field put in (R227). -/
def bitInsert (base field pw : W32) : W32 :=
  let (p, n) := fieldPos pw
  let m : W32 := BitVec.ofNat 32 ((2 ^ n - 1) * 2 ^ p)
  (base &&& ~~~m) ||| ((field <<< p) &&& m)

/-- `bfi` (R227). -/
def execBfi (g : Guard) (d a b c : Opd) (s : State) : Out :=
  run32 (.bfi g d a b c) g d [(a, 1), (b, 1), (c, 1)] s (fun w l => bitInsert (w.rd a l) (w.rd b l) (w.rd c l))

/-- `fshl`: the high word of a:b shifted left by c modulo 32 (R228). -/
def execFshl (g : Guard) (d a b c : Opd) (s : State) : Out :=
  run32 (.fshl g d a b c) g d [(a, 1), (b, 1), (c, 1)] s
    (fun w l => (((w.rd a l ++ w.rd b l) <<< ((w.rd c l).toNat % 32)) >>> 32).setWidth 32)

/-- `fshr`: the low word of a:b shifted right by c modulo 32 (R228). -/
def execFshr (g : Guard) (d a b c : Opd) (s : State) : Out :=
  run32 (.fshr g d a b c) g d [(a, 1), (b, 1), (c, 1)] s
    (fun w l => ((w.rd a l ++ w.rd b l) >>> ((w.rd c l).toNat % 32)).setWidth 32)

/-- `pbool` (R229): bit 2 × pa + pb of the truth table. -/
def execPbool (g : Guard) (tt : BitVec 4) (pa pb pd : Fin 8) (s : State) : Out :=
  runPred (.pbool g tt pa pb pd) g pd [] s
    (fun w l => tt.getLsbD (2 * (w.pred l pa.val).toNat + (w.pred l pb.val).toNat))

/-- `pget` (R229): the predicates of the lane, p0 reading 1. -/
def execPget (g : Guard) (d : Opd) (s : State) : Out :=
  run32 (.pget g d) g d [] s (fun w l => maskOf ((List.range 8).filter (fun p => w.pred l p)))

/-- `pset` (R229): p1 to p7 from bits 1 to 7 of a. -/
def execPset (g : Guard) (a : Opd) (s : State) : Out :=
  runShort (.pset g a) g [] [(a, 1)] true s (fun e => .ok (s.setWave e.u
    ((List.range 8).foldl (fun w p => w.setPreds e.part p (fun l => (e.w.rd a l).getLsbD p)) e.w)))

end Sys2Proof.Machine
end

