-- ==== Sys2Proof/Machine/Fpu.lean ====
section
/-! DEFINITION. The A-form floating-point operations (R203, R220, R221) and group FPX (R230 to R233), with the vector
shadow check of the additive and multiplicative ones (R386, R387). -/

namespace Sys2Proof.Machine

/-- The element format of a type of group FPX. -/
def fpFmt (ty : Ty) : Fmt :=
  match ty with
  | .f16x2 => fF16
  | .bf16x2 => fBf16
  | _ => fF32

/-- Whether a type of group FPX is a packed pair. -/
def isPair (ty : Ty) : Bool := ty == .f16x2 || ty == .bf16x2

/-- An operation of two elements on a value of a type (R155). -/
def fpOp2 (ty : Ty) (f : Fmt → Nat → Nat → Nat) (a b : W32) : W32 :=
  if isPair ty then halves2 (f (fpFmt ty)) a b else BitVec.ofNat 32 (f fF32 a.toNat b.toNat)

/-- An operation of one element on a value of a type. -/
def fpOp1 (ty : Ty) (f : Fmt → Nat → Nat) (a : W32) : W32 := fpOp2 ty (fun m x _ => f m x) a 0

/-- A half of a value, or the whole of an f32. -/
def halfOf (ty : Ty) (h : Nat) (x : W32) : Nat := if isPair ty then x.toNat / 65536 ^ h % 65536 else x.toNat

/-- An operation of three elements on values of a type. -/
def fpOp3 (ty : Ty) (f : Fmt → Nat → Nat → Nat → Nat) (a b c : W32) : W32 :=
  let m := fpFmt ty
  if isPair ty then
    BitVec.ofNat 32 (f m (halfOf ty 0 a) (halfOf ty 0 b) (halfOf ty 0 c)
      + 65536 * f m (halfOf ty 1 a) (halfOf ty 1 b) (halfOf ty 1 c))
  else BitVec.ofNat 32 (f m a.toNat b.toNat c.toNat)

/-- The half that fails its check, DETAIL of the trap (R387). -/
def badHalf (ty : Ty) (ok : Nat → Bool) : Option Nat := (List.range (if isPair ty then 2 else 1)).find? (fun h => !ok h)

/-- The bits that an injected soft error flips in a lane's checked result (R387). -/
def flipAt (s : State) (u l : Nat) : W32 :=
  ((s.sched.glitch.find? (fun x => x.wave == u && x.lane == l)).map (·.flips)).getD 0

/-- A 32-bit result checked by the shadow unit: the first lane whose check fails takes the trap of class 4, and an
injected soft error does not outlive the attempt (R386, R387). -/
def runChecked (i : Instr) (g : Guard) (d : Opd) (srcs : List (Opd × Nat)) (s : State) (res : Wave → Nat → W32)
    (bad : Wave → Nat → W32 → Option Nat) : Out :=
  let s0 := match s.env g with
    | some e => if guardNever g || e.w.busy e.st [(d, 1)] || s.sched.glitch.isEmpty then s
      else { s with sched := { s.sched with
        glitch := s.sched.glitch.filter (fun x => !(x.wave == e.u && e.part.getLsbD x.lane)) } }
    | none => s
  runShort i g [(d, 1)] srcs true s0 (fun e =>
    let r (l : Nat) : W32 := res e.w l ^^^ flipAt s e.u l
    match (bitsOf e.part).find? (fun l => (bad e.w l (r l)).isSome) with
    | some l => .error ⟨4, 1, (bad e.w l (r l)).getD 0, l, none⟩
    | none => .ok (s0.setWave e.u (e.w.wr d e.part r)))

/-- The checked addition, subtraction and multiplication of a type. -/
def runAdd (i : Instr) (g : Guard) (d a b : Opd) (ty : Ty) (rnd : Rnd) (s : State) : Out :=
  runChecked i g d [(a, 1), (b, 1)] s (fun w l => fpOp2 ty (fun f => f.add rnd) (w.rd a l) (w.rd b l))
    (fun w l r => badHalf ty (fun h =>
      (fpFmt ty).shadowAdd rnd false (halfOf ty h (w.rd a l)) (halfOf ty h (w.rd b l)) (halfOf ty h r)))
def runSub (i : Instr) (g : Guard) (d a b : Opd) (ty : Ty) (rnd : Rnd) (s : State) : Out :=
  runChecked i g d [(a, 1), (b, 1)] s (fun w l => fpOp2 ty (fun f => f.sub rnd) (w.rd a l) (w.rd b l))
    (fun w l r => badHalf ty (fun h =>
      (fpFmt ty).shadowAdd rnd true (halfOf ty h (w.rd a l)) (halfOf ty h (w.rd b l)) (halfOf ty h r)))
def runMul (i : Instr) (g : Guard) (d a b : Opd) (ty : Ty) (rnd : Rnd) (s : State) : Out :=
  runChecked i g d [(a, 1), (b, 1)] s (fun w l => fpOp2 ty (fun f => f.mul rnd) (w.rd a l) (w.rd b l))
    (fun w l r => badHalf ty (fun h =>
      (fpFmt ty).shadowMul rnd (halfOf ty h (w.rd a l)) (halfOf ty h (w.rd b l)) (halfOf ty h r)))

/-- Minimum or maximum of a type (R221). -/
def runMinmax (i : Instr) (g : Guard) (d a b : Opd) (ty : Ty) (mx : Bool) (s : State) : Out :=
  run32 i g d [(a, 1), (b, 1)] s (fun w l => fpOp2 ty (fun f => f.minmax mx) (w.rd a l) (w.rd b l))

/-! ## A form, rounding RNE -/

/-- `fadd` (R220). -/
def execFadd (g : Guard) (d a b : Opd) (s : State) : Out := runAdd (.fadd g d a b) g d a b .f32 .rne s
/-- `fsub` (R220). -/
def execFsub (g : Guard) (d a b : Opd) (s : State) : Out := runSub (.fsub g d a b) g d a b .f32 .rne s
/-- `fmul` (R220). -/
def execFmul (g : Guard) (d a b : Opd) (s : State) : Out := runMul (.fmul g d a b) g d a b .f32 .rne s
/-- `fmin` (R221). -/
def execFmin (g : Guard) (d a b : Opd) (s : State) : Out := runMinmax (.fmin g d a b) g d a b .f32 false s
/-- `fmax` (R221). -/
def execFmax (g : Guard) (d a b : Opd) (s : State) : Out := runMinmax (.fmax g d a b) g d a b .f32 true s
/-- `fadd.bf16x2` (R220). -/
def execFaddBf16x2 (g : Guard) (d a b : Opd) (s : State) : Out := runAdd (.faddBf16x2 g d a b) g d a b .bf16x2 .rne s
/-- `fmul.bf16x2` (R220). -/
def execFmulBf16x2 (g : Guard) (d a b : Opd) (s : State) : Out := runMul (.fmulBf16x2 g d a b) g d a b .bf16x2 .rne s
/-- `fmin.bf16x2` (R221). -/
def execFminBf16x2 (g : Guard) (d a b : Opd) (s : State) : Out :=
  runMinmax (.fminBf16x2 g d a b) g d a b .bf16x2 false s
/-- `fmax.bf16x2` (R221). -/
def execFmaxBf16x2 (g : Guard) (d a b : Opd) (s : State) : Out :=
  runMinmax (.fmaxBf16x2 g d a b) g d a b .bf16x2 true s
/-- `fadd.f16x2` (R220). -/
def execFaddF16x2 (g : Guard) (d a b : Opd) (s : State) : Out := runAdd (.faddF16x2 g d a b) g d a b .f16x2 .rne s
/-- `fmul.f16x2` (R220). -/
def execFmulF16x2 (g : Guard) (d a b : Opd) (s : State) : Out := runMul (.fmulF16x2 g d a b) g d a b .f16x2 .rne s
/-- `fmin.f16x2` (R221). -/
def execFminF16x2 (g : Guard) (d a b : Opd) (s : State) : Out := runMinmax (.fminF16x2 g d a b) g d a b .f16x2 false s
/-- `fmax.f16x2` (R221). -/
def execFmaxF16x2 (g : Guard) (d a b : Opd) (s : State) : Out := runMinmax (.fmaxF16x2 g d a b) g d a b .f16x2 true s

/-! ## FPX -/

/-- `ffma`: a × b + c, rounded once (R231). -/
def execFfma (g : Guard) (d a b c : Opd) (ty : Ty) (rnd : Rnd) (s : State) : Out :=
  runChecked (.ffma g d a b c ty rnd) g d [(a, 1), (b, 1), (c, 1)] s
    (fun w l => fpOp3 ty (fun f => f.fma rnd) (w.rd a l) (w.rd b l) (w.rd c l))
    (fun w l r => badHalf ty (fun h => (fpFmt ty).shadowFma rnd (halfOf ty h (w.rd a l)) (halfOf ty h (w.rd b l))
      (halfOf ty h (w.rd c l)) (halfOf ty h r)))
/-- `fadd` of group FPX (R231). -/
def execFaddFpx (g : Guard) (d a b : Opd) (ty : Ty) (rnd : Rnd) (s : State) : Out :=
  runAdd (.faddFpx g d a b ty rnd) g d a b ty rnd s
/-- `fsub` of group FPX (R231). -/
def execFsubFpx (g : Guard) (d a b : Opd) (ty : Ty) (rnd : Rnd) (s : State) : Out :=
  runSub (.fsubFpx g d a b ty rnd) g d a b ty rnd s
/-- `fmul` of group FPX (R231). -/
def execFmulFpx (g : Guard) (d a b : Opd) (ty : Ty) (rnd : Rnd) (s : State) : Out :=
  runMul (.fmulFpx g d a b ty rnd) g d a b ty rnd s
/-- `fabs` (R231). -/
def execFabs (g : Guard) (d a : Opd) (ty : Ty) (s : State) : Out :=
  run32 (.fabs g d a ty) g d [(a, 1)] s (fun w l => fpOp1 ty Fmt.abs (w.rd a l))
/-- `fneg` (R231). -/
def execFneg (g : Guard) (d a : Opd) (ty : Ty) (s : State) : Out :=
  run32 (.fneg g d a ty) g d [(a, 1)] s (fun w l => fpOp1 ty Fmt.negate (w.rd a l))
/-- `frcp` (R232). -/
def execFrcp (g : Guard) (d a : Opd) (rnd : Rnd) (s : State) : Out :=
  run32 (.frcp g d a rnd) g d [(a, 1)] s (fun w l => frcp32 rnd (w.rd a l))
/-- `fsqrt` (R232). -/
def execFsqrt (g : Guard) (d a : Opd) (rnd : Rnd) (s : State) : Out :=
  run32 (.fsqrt g d a rnd) g d [(a, 1)] s (fun w l => fsqrt32 rnd (w.rd a l))
/-- `frsqrt` (R232). -/
def execFrsqrt (g : Guard) (d a : Opd) (rnd : Rnd) (s : State) : Out :=
  run32 (.frsqrt g d a rnd) g d [(a, 1)] s (fun w l => frsqrt32 rnd (w.rd a l))
/-- `fexp2` (R232). -/
def execFexp2 (g : Guard) (d a : Opd) (rnd : Rnd) (s : State) : Out :=
  run32 (.fexp2 g d a rnd) g d [(a, 1)] s (fun w l => fexp2_32 rnd (w.rd a l))
/-- `flog2` (R232). -/
def execFlog2 (g : Guard) (d a : Opd) (rnd : Rnd) (s : State) : Out :=
  run32 (.flog2 g d a rnd) g d [(a, 1)] s (fun w l => flog2_32 rnd (w.rd a l))
/-- `frnd` (R232). -/
def execFrnd (g : Guard) (d a : Opd) (rnd : Rnd) (s : State) : Out :=
  run32 (.frnd g d a rnd) g d [(a, 1)] s (fun w l => frnd32 rnd (w.rd a l))
/-- `fcmp` (R233). -/
def execFcmp (g : Guard) (a b : Opd) (cond : Cond) (pd : Fin 8) (s : State) : Out :=
  runPred (.fcmp g a b cond pd) g pd [(a, 1), (b, 1)] s (fun w l => Cond.onVal cond (f32 (w.rd a l)) (f32 (w.rd b l)))

end Sys2Proof.Machine
end

