-- ==== Sys2Proof/Machine/Lane.lean ====
section
/-! DEFINITION. Group LANE: votes, shuffles, reductions and scans over the participating lanes (R241 to R246). -/

namespace Sys2Proof.Machine

/-- Segment width in lanes (R241). -/
def Seg.width (x : Seg) : Nat := match x with | .w2 => 2 | .w4 => 4 | .w8 => 8 | .w16 => 16 | .w32 => 32

/-- `lany` (R242). -/
def execLany (g : Guard) (ps pd : Fin 8) (s : State) : Out :=
  runShort (.lany g ps pd) g [] [] true s (fun e =>
    let v := (bitsOf e.part).any (fun l => e.w.pred l ps.val)
    .ok (s.setWave e.u (e.w.setPreds e.part pd.val (fun _ => v))))

/-- `lall` (R242). -/
def execLall (g : Guard) (ps pd : Fin 8) (s : State) : Out :=
  runShort (.lall g ps pd) g [] [] true s (fun e =>
    let v := (bitsOf e.part).all (fun l => e.w.pred l ps.val)
    .ok (s.setWave e.u (e.w.setPreds e.part pd.val (fun _ => v))))

/-- `lmask` (R242). -/
def execLmask (g : Guard) (d : Opd) (ps : Fin 8) (s : State) : Out :=
  runShort (.lmask g d ps) g [(d, 1)] [] true s (fun e =>
    let v : W32 := maskOf ((bitsOf e.part).filter (fun l => e.w.pred l ps.val))
    .ok (s.setWave e.u (e.w.wr d e.part (fun _ => v))))

/-- A shuffle (R243): `src` gives the source lane from the lane, the segment width and u(b). -/
def runPick (i : Instr) (g : Guard) (d a b : Opd) (ty : Ty) (seg : Seg) (s : State) (src : Nat → Nat → Nat → Nat) : Out :=
  let k := Ty.regs ty
  runShort i g [(d, k)] [(a, k), (b, 1)] true s (fun e =>
    let v (l : Nat) : W128 :=
      let x := src l (Seg.width seg) (e.w.rd b l).toNat
      if e.part.getLsbD x then e.w.rdk k a x else 0
    .ok (s.setWave e.u (e.w.wrk k d e.part v)))

/-- `lpick.idx` (R243). -/
def execLpickIdx (g : Guard) (d a b : Opd) (ty : Ty) (seg : Seg) (s : State) : Out :=
  runPick (.lpickIdx g d a b ty seg) g d a b ty seg s (fun l w b => l / w * w + b % w)
/-- `lpick.up` (R243). -/
def execLpickUp (g : Guard) (d a b : Opd) (ty : Ty) (seg : Seg) (s : State) : Out :=
  runPick (.lpickUp g d a b ty seg) g d a b ty seg s (fun l w b => if w ≤ b ∨ l < l / w * w + b then l else l - b)
/-- `lpick.down` (R243). -/
def execLpickDown (g : Guard) (d a b : Opd) (ty : Ty) (seg : Seg) (s : State) : Out :=
  runPick (.lpickDown g d a b ty seg) g d a b ty seg s (fun l w b => if w ≤ b ∨ l / w * w + w ≤ l + b then l else l + b)
/-- `lpick.xor` (R243). -/
def execLpickXor (g : Guard) (d a b : Opd) (ty : Ty) (seg : Seg) (s : State) : Out :=
  runPick (.lpickXor g d a b ty seg) g d a b ty seg s (fun l w b => l ^^^ (b % w))

/-- The combine step (R244). -/
def combine (op : LaneOp) (ty : Ty) (x y : W32) : W32 :=
  match op with
  | .add => if ty = .f32 then BitVec.ofNat 32 (fF32.add .rne x.toNat y.toNat) else x + y
  | .min => if ty = .f32 then BitVec.ofNat 32 (fF32.minmax false x.toNat y.toNat)
    else if ty = .s32 then (if x.toInt ≤ y.toInt then x else y) else if x.toNat ≤ y.toNat then x else y
  | .max => if ty = .f32 then BitVec.ofNat 32 (fF32.minmax true x.toNat y.toNat)
    else if ty = .s32 then (if y.toInt ≤ x.toInt then x else y) else if y.toNat ≤ x.toNat then x else y
  | .and => x &&& y
  | .or => x ||| y
  | .xor => x ^^^ y

/-- The identity of an operation (R245). -/
def laneIdentity (op : LaneOp) (ty : Ty) : W32 :=
  match op with
  | .add | .or | .xor => 0
  | .min => if ty = .f32 then 0x7F800000 else if ty = .s32 then 0x7FFFFFFF else 0xFFFFFFFF
  | .max => if ty = .f32 then 0xFF800000 else if ty = .s32 then 0x80000000 else 0
  | .and => 0xFFFFFFFF

/-- An f32 NaN result is canonical (R244). -/
def canonF (ty : Ty) (x : W32) : W32 := if ty = .f32 && (f32 x).isNan then BitVec.ofNat 32 fF32.nan else x

/-- The combination of some lanes' values in ascending order, none for no lane (R244). -/
def foldLanes (op : LaneOp) (ty : Ty) (v : Nat → W32) : List Nat → Option W32
  | [] => none
  | l :: r => some (canonF ty (r.foldl (fun acc k => combine op ty acc (v k)) (v l)))

/-- The participating lanes of a lane's segment. -/
def segLanes (part : W32) (seg : Seg) (l : Nat) : List Nat :=
  (bitsOf part).filter (fun k => k / Seg.width seg == l / Seg.width seg)

/-- `lred` (R244). -/
def execLred (g : Guard) (d a : Opd) (op : LaneOp) (ty : Ty) (seg : Seg) (s : State) : Out :=
  runShort (.lred g d a op ty seg) g [(d, 1)] [(a, 1)] true s (fun e =>
    .ok (s.setWave e.u (e.w.wr d e.part (fun l =>
      (foldLanes op ty (e.w.rd a) (segLanes e.part seg l)).getD 0))))

/-- `lscan` (R245). -/
def execLscan (g : Guard) (d a : Opd) (op : LaneOp) (ty : Ty) (seg : Seg) (excl : Bool) (s : State) : Out :=
  runShort (.lscan g d a op ty seg excl) g [(d, 1)] [(a, 1)] true s (fun e =>
    .ok (s.setWave e.u (e.w.wr d e.part (fun l =>
      (foldLanes op ty (e.w.rd a) ((segLanes e.part seg l).filter (fun k => if excl then decide (k < l) else decide (k ≤ l)))).getD
        (laneIdentity op ty)))))

end Sys2Proof.Machine
end

