-- ==== Sys2Proof/Machine/Cvt.lean ====
section
/-! DEFINITION. Group CVT: conversions, packs and unpacks, block quantisation, and the Hadamard conversion (R234 to
R240). -/

namespace Sys2Proof.Machine

/-! ## Element conversions (R235, R236, R158) -/

/-- The format of a floating-point element type. -/
def elemFmt : Ty → Option Fmt
  | .f32 => some fF32
  | .f16 => some fF16
  | .bf16 => some fBf16
  | .e4m3 => some fE4m3
  | .e5m2 => some fE5m2
  | .e2m1 => some fE2m1
  | .e3m5 => some fE3m5
  | _ => none

/-- The width and signedness of an integer element type. -/
def intFmt : Ty → Nat × Bool
  | .s8 => (8, true)
  | .s16 => (16, true)
  | .s32 => (32, true)
  | .s64 => (64, true)
  | .n8 => (8, false)
  | .n16 => (16, false)
  | .n64 => (64, false)
  | _ => (32, false)

/-- An integer narrowed to a type by saturation or truncation. -/
def narrow (ty : Ty) (sat : Bool) (x : Int) : Int :=
  let (n, sg) := intFmt ty
  if sat then (if sg then satS x n else satN x n) else if sg then truncS x n else x % (2 ^ n : Nat)

/-- The register value of an integer of a type: s8 and s16 sign-extended to 32 bits (R235). -/
def intCode (x : Int) : W64 := BitVec.ofInt 64 x

/-- An integer as an exact value. -/
def Val.ofInt (x : Int) : Val := .fin (decide (x < 0)) x.natAbs 0

/-- A floating-point value converted to an integer type, always saturated (R158, R236). -/
def toInt (ty : Ty) (r : Rnd) (v : Val) : Int :=
  match v with
  | .nan => 0
  | .inf neg => narrow ty true (if neg then -(2 ^ 70) else 2 ^ 70)
  | .fin neg m e => narrow ty true (roundInt r neg m e)

/-- The conversion of one element (R236): a 64-bit register value to a 64-bit register value. -/
def convElem (dty sty : Ty) (r : Rnd) (sat : Bool) (x : W64) : W64 :=
  match elemFmt dty, elemFmt sty with
  | some d, some f => BitVec.ofNat 64 (d.conv r sat (f.val (x.toNat % 2 ^ f.width)))
  | some d, none =>
    let (n, sg) := intFmt sty
    BitVec.ofNat 64 (d.conv r sat (Val.ofInt (if sg then truncS x.toNat n else (x.toNat : Int) % (2 ^ n : Nat))))
  | none, some f => intCode (toInt dty r (f.val (x.toNat % 2 ^ f.width)))
  | none, none =>
    let (n, sg) := intFmt sty
    intCode (narrow dty sat (if sg then truncS x.toNat n else (x.toNat : Int) % (2 ^ n : Nat)))

/-- The element format and the element count of a packed type (R159). -/
def packFmt (ty : Ty) : Fmt :=
  match ty with
  | .f16x2 => fF16
  | .bf16x2 => fBf16
  | .e4m3x4 => fE4m3
  | .e5m2x4 => fE5m2
  | _ => fE2m1

/-- Whether a type is packed. -/
def isPacked (ty : Ty) : Bool :=
  match ty with
  | .f16x2 | .bf16x2 | .e4m3x4 | .e5m2x4 | .e2m1x8 => true
  | _ => false

/-- A pack (R237): f32 element i from the i-th register of the group. -/
def packElems (ty : Ty) (r : Rnd) (sat : Bool) (n : Nat) (x : Nat → W32) : W32 :=
  let f := packFmt ty
  BitVec.ofNat 32 ((List.range n).foldl (fun acc i => acc + f.conv r sat (f32 (x i)) * 2 ^ (f.width * i)) 0)

/-- An unpack (R237): element i as f32. The conversion is exact, but an infinite element becomes ±maxf where SAT is selected
(R157). DEDUCED (log 115). -/
def unpackElem (ty : Ty) (sat : Bool) (x : W32) (i : Nat) : W32 :=
  let f := packFmt ty
  BitVec.ofNat 32 (fF32.conv .rne sat (f.val (x.toNat / 2 ^ (f.width * i) % 2 ^ f.width)))

/-- `cvt` (R235 to R237). -/
def execCvt (g : Guard) (d a : Opd) (dty sty : Ty) (rnd : Rnd) (sat : Bool) (s : State) : Out :=
  let i : Instr := .cvt g d a dty sty rnd sat
  if isPacked dty then
    let n := Ty.packN dty
    runShort i g [(d, 1)] [(a, n)] true s (fun e =>
      .ok (s.setWave e.u (e.w.wr d e.part (fun l => packElems dty rnd sat n (fun k => e.w.part a k l)))))
  else if isPacked sty then
    let n := Ty.packN sty
    runShort i g [(d, n)] [(a, 1)] true s (fun e =>
      .ok (s.setWave e.u (e.w.wrN d e.part (fun k l => unpackElem sty sat (e.w.rd a l) k) n)))
  else
    let kd := Ty.regs dty
    let ka := Ty.regs sty
    runShort i g [(d, kd)] [(a, ka)] true s (fun e =>
      .ok (s.setWave e.u (e.w.wrk kd d e.part (fun l =>
        (convElem dty sty rnd sat ((e.w.rdk ka a l).setWidth 64)).setWidth 128))))

/-! ## Blocks (R238, R239) -/

/-- The band scale of an operand. -/
def bandOf (x : W32) : Val := fBf16.val (x.toNat % 65536)

/-- `qblk` (R238): element codes in d, the scale code in d + 1. -/
def execQblk (g : Guard) (d a b : Opd) (s : State) : Out :=
  runShort (.qblk g d a b) g [(d, 2)] [(a, 8), (b, 1)] true s (fun e =>
    .ok (s.setWave e.u (e.w.wrq d e.part (fun l =>
      let (sc, es) := quantBlock ((List.range 8).map (fun k => f32 (e.w.part a k l))) (bandOf (e.w.rd b l))
      BitVec.ofNat 64 ((List.range 8).foldl (fun acc k => acc + es.getD k 0 * 16 ^ k) 0 + sc * 2 ^ 32)))))

/-- `dqblk` (R239). -/
def execDqblk (g : Guard) (d a b : Opd) (s : State) : Out :=
  runShort (.dqblk g d a b) g [(d, 8)] [(a, 2), (b, 1)] true s (fun e =>
    .ok (s.setWave e.u (e.w.wrN d e.part (fun k l =>
      rne32 (elemValue ((e.w.rdq a l).toNat / 16 ^ k % 16) ((e.w.rdq a l).toNat / 2 ^ 32 % 256) (bandOf (e.w.rd b l)))) 8)))

/-! ## The Hadamard conversion (R240) -/

/-- `cvt.had` at issue: the layout record address is checked in the leader (R403). Fields a, b and c are captured. -/
def execCvtHad (g : Guard) (d a b c : Opd) (dty : Ty) (rnd : Rnd) (sat inv : Bool) (fs : FlagSel) (s : State) : Out :=
  issueLong (.cvtHad g d a b c dty rnd sat inv fs) g fs [(a, 1), (b, 1), (c, 2)] [(d, 1)] s (fun _ => false) (fun e =>
    match e.leader with
    | none => .ok s
    | some l =>
      let x := (e.w.rdq c l).toNat
      if x % 64 ≠ 0 then .error (illegalIn 0x09 3 l)
      else if 2 ^ 56 ≤ x then .error (illegalIn 0x0A 3 l)
      else match e.w.poisonLane [(a, 1)] e.part with
        | some k => .error (poisonBad k)
        | none => .ok s) Env.lead

/-- The transform of an operation under a seed: lane j's result (R162, R163, R240). -/
def hadResult (o : Op) (dty : Ty) (rnd : Rnd) (sat inv : Bool) (seed : W64) (j : Nat) : W32 :=
  let x := (List.range 32).map (fun l => if o.lanes.getLsbD l then o.val32 0 l else 0)
  let y := hadamard inv (flips seed (o.val32 1 o.leader).toNat) x
  (convElem dty .f32 rnd sat ((y.getD j 0).setWidth 64)).setWidth 32

end Sys2Proof.Machine
end

