-- ==== Sys2Proof/Machine/Ctrl.lean ====
section
/-! DEFINITION. Branches (R222, R223) and group CTRL: merging, wide regions, windows, exit, traps, indirect transfers,
instruction caches, breakpoints and `yieldto` (R247 to R256). -/

namespace Sys2Proof.Machine

/-! ## Transfers -/

/-- Whether a guard differs between the active lanes (R38, R402). -/
def Env.mixed (e : Env) : Bool := e.part != 0 && e.part != e.act

/-- The fall-through address of a transfer: the next header (R189). -/
def Env.fall (e : Env) (i : Instr) : Nat := e.pc + 4 * (encode i).length

/-- A transfer of the participating lanes to their addresses, every other active lane falling through. -/
def State.transfer (s : State) (e : Env) (i : Instr) (tgt : Nat → Nat) (indirect : Bool) : Except Bad State :=
  match s.wave e.u with
  | none => .ok s
  | some w => match w.transfer e.st (fun l => if e.part.getLsbD l then tgt l else e.fall i) (e.fall i) indirect with
    | .error k => .error (illegal 0x07 k)
    | .ok w' => .ok (s.setWave e.u w')

/-- The target of a B-form instruction (R202). -/
def Env.target (e : Env) (off : BitVec 21) : Nat := (((e.pc : Int) + 4 * off.toInt) % (2 ^ 56 : Nat)).toNat

/-- `br` (R222). -/
def execBr (g : Guard) (off : BitVec 21) (s : State) : Out :=
  runShort (.br g off) g [] [] false s (fun e =>
    if e.w.task.wide.isSome && e.mixed then .error (illegal 0x06 3)
    else s.transfer e (.br g off) (fun _ => e.target off) false)

/-- `call` (R223): the link goes to s30:s31 of each slice with a participating lane. -/
def execCall (g : Guard) (off : BitVec 21) (s : State) : Out :=
  runShort (.call g off) g [(.s 30, 2)] [] false s (fun e =>
    if e.w.task.wide.isSome && e.mixed then .error (illegal 0x06 3)
    else (s.setWave e.u (e.w.wrq (.s 30) e.part (fun _ => BitVec.ofNat 64 (e.fall (.call g off))))).transfer e
      (.call g off) (fun _ => e.target off) false)

/-- The lowest lane whose target is misaligned or past 56 bits (R251). -/
def Env.badTarget (e : Env) (a : Opd) : Option Nat :=
  (bitsOf e.part).find? (fun l => !codeAddrOk (e.w.rdq a l).toNat)

/-- An indirect transfer of a state, checked in the order of R392. The address is that which a held when the instruction issued,
also where `calli` writes its link to the same pair: whether a is read before or after is not stated. DESIGN CHOICE (log 124). -/
def State.indirect (s : State) (e : Env) (i : Instr) (a : Opd) : Except Bad State :=
  if e.w.task.wide.isSome && e.mixed then .error (illegal 0x06 3)
  else match s.transfer e i (fun l => (e.w.rdq a l).toNat) true with
    | .error b => .error b
    | .ok t => match e.badTarget a with
      | some l => .error (illegalIn 0x09 1 l)
      | none => .ok t

/-- `jmpi` (R251). -/
def execJmpi (g : Guard) (a : Opd) (s : State) : Out :=
  runShort (.jmpi g a) g [] [(a, 2)] false s (fun e => s.indirect e (.jmpi g a) a)

/-- `ret`: the effect of `jmpi` (R251). -/
def execRet (g : Guard) (a : Opd) (s : State) : Out :=
  runShort (.ret g a) g [] [(a, 2)] false s (fun e => s.indirect e (.ret g a) a)

/-- `calli`: the link goes to the pair d (R251). -/
def execCalli (g : Guard) (d a : Opd) (s : State) : Out :=
  runShort (.calli g d a) g [(d, 2)] [(a, 2)] false s (fun e =>
    (s.setWave e.u (e.w.wrq d e.part (fun _ => BitVec.ofNat 64 (e.fall (.calli g d a))))).indirect e (.calli g d a) a)

/-! ## Merging and wide regions -/

/-- Whether a guard code is neither always nor never (R248, R297). -/
def guardOther (g : Guard) : Bool := !guardAlways g && !guardNever g

/-- `regang` (R34, R35, R248): inside a wide region it completes at once. -/
def execRegang (g : Guard) (s : State) : Out :=
  runShort (.regang g) g [] [] false s (fun e =>
    if guardOther g then .error (illegal 0x06 1)
    else if e.w.task.wide.isSome then .ok (s.next e (.regang g))
    else .ok (s.waitIn e .regang))

/-- `wide` (R36, R248). -/
def execWide (g : Guard) (s : State) : Out :=
  runShort (.wide g) g [] [] false s (fun e =>
    if guardOther g then .error (illegal 0x06 1)
    else if e.w.task.wide.isSome then .error (illegal 0x06 3)
    else .ok (s.waitIn e .wide))

/-- Closing a wide region (R37): masks, stacks and exited lanes as saved; one strand of every live slice, after the
`endwide`. -/
def Wave.closeWide (w : Wave) (st : BitVec 8) (save : List WideSave) : Wave :=
  let c := w.slice ((bitsOf st).headD 0)
  let ss := (w.task.slices.zipIdx).map (fun x =>
    let v := save.getD x.2 ⟨0xF, 0, []⟩
    let y : SliceSt := { x.1 with pc := c.pc, clause := c.clause, mask := v.mask, exited := v.exited, stack := v.stack }
    if v.exited = 0xF then { y with clause := none } else y.skip 2)
  let w1 : Wave := { w with task := { w.task with wide := none, slices := ss } }
  w1.mergeSlices w1.liveSlices

/-- `endwide` (R37, R248). -/
def execEndwide (g : Guard) (s : State) : Out :=
  runShort (.endwide g) g [] [] false s (fun e =>
    if guardOther g then .error (illegal 0x06 1)
    else match e.w.task.wide with
      | none => .error (illegal 0x06 2)
      | some v =>
        let w := e.w.closeWide e.st v
        .ok ((s.setWave e.u (w.clauseStep w.liveSlices)).wake e.u))

/-- The new window of a slice (R249): from its lowest participating lane, none where no lane of it participates. -/
def newWindow (e : Env) (a : Opd) (add : Bool) (i : Nat) : Option Int :=
  ((bitsOf e.part).find? (fun l => sliceOf l == i)).map (fun l =>
    if add then ((e.w.slice i).window : Int) + (e.w.rd a l).toInt else ((e.w.rd a l).toNat : Int))

/-- Whether a window is a multiple of 8 from 0 to the allocation − 88 (R45, R401). -/
def windowOk (alloc : Nat) (v : Int) : Bool := v % 8 == 0 && decide (0 ≤ v) && decide (v + 88 ≤ alloc)

/-- `wbase` (R249, R401). -/
def execWbase (g : Guard) (a : Opd) (add : Bool) (s : State) : Out :=
  runShort (.wbase g a add) g [] [(a, 1)] true s (fun e =>
    let bad := (List.range 8).find? (fun i => match newWindow e a add i with
      | some v => !windowOk (regCount e.w.task.regs) v
      | none => false)
    match bad with
    | some i => .error (illegalIn 0x08 i (((bitsOf e.part).find? (fun l => sliceOf l == i)).getD 0xFF))
    | none => .ok (s.setWave e.u (e.w.modSlicesI 0xFF (fun i x => match newWindow e a add i with
      | some v => { x with window := v.toNat }
      | none => x))))

/-! ## Exit -/

/-- A member loses its arrival: its operation is gone and its flag falls back; it traps at its `mma` with the cause,
or issues it again after a handler that it runs now (R405, R435). -/
def State.unlatch (s : State) (a : Arrival) (b : Bad) : State :=
  match s.wave a.wave with
  | none => s
  | some w => match w.ops.find? (fun o => o.id == a.op) with
    | none => s
    | some o =>
      let gone (w : Wave) : Wave := { w.lowerFor o o.undone with ops := w.ops.filter (fun x => x.id != o.id) }
      let clear (x : Option Wait) : Option Wait := if x = some .latch then none else x
      if o.depth < w.depth then
        s.modWave a.wave (fun w =>
          let w1 := gone w
          { w1 with saves := modAt w1.saves (w.depth - 1 - o.depth) (fun v => { v with waits := v.waits.map clear }) })
      else
        (s.modWave a.wave (fun w => (gone w).modSlices o.slices (fun x => { x with wait := clear x.wait }))).stopWave
          a.wave (b.req o.flag o.slices o.pc o.lanes)

/-- A waiter in `tok.take` traps with a cause (R435), or issues it again after a handler that it runs now. -/
def State.untake (s : State) (u : Nat) (b : Bad) : State :=
  match s.wave u with
  | none => s
  | some w =>
    let clear (x : Option Wait) : Option Wait := if x = some .token then none else x
    let s1 := (s.dropTakes u).modWave u (fun w =>
      { w with saves := w.saves.map (fun v => { v with waits := v.waits.map clear }) })
    match w.strands.find? (fun n => (w.slice n).wait == some .token) with
    | none => s1
    | some n =>
      let st := w.strandSlices n
      (s1.modWave u (fun w => w.modSlices st (fun x => { x with wait := none }))).stopWave u
        (b.req none st (w.pcOf st) (w.activeLanes st))

/-- A free token goes to the waiting takers in their order (R172): the crew of the first is its holder, and every member of
it that waits and may go on does so. A member that is halted or in a handler goes on waiting. -/
def State.tokServe (s : State) (k : Nat) : State :=
  match (s.core k).token, (s.core k).takers with
  | none, t :: _ => (s.modCore k (fun x => { x with token := some (t.1, t.2.1) })).wakeGroup t.1
  | _, _ => s

/-- Dissolving the crew of a wave that exits (R435): members that wait trap with class 6, code 4; the crew's token is
free. -/
def State.dissolveCrew (s : State) (u : Nat) : State :=
  match s.wave u with
  | none => s
  | some w => match s.group w.group with
    | none => s
    | some g => match g.crewOf w.idx with
      | none => s
      | some (c, crew) =>
        let s1 := s.modGroup w.group (fun g => { g with crews := modAt g.crews c (fun _ => none) })
        let s2 := match g.core with
          | none => s1
          | some k => s1.modCore k (fun x =>
              { x with token := if x.token = some (w.group, c) then none else x.token
                       takers := x.takers.filter (fun t => !(t.1 == w.group && t.2.1 == c)) })
        let b : Bad := ⟨6, 4, c, 0xFF, none⟩
        let s3 := crew.latch.foldl (fun s a => if a.wave = u then s else s.unlatch a b) s2
        (s.wavesOf w.group).foldl (fun s x =>
          if x.1 ≠ u ∧ crew.mask.getLsbD x.2.idx then s.untake x.1 b else s) s3 |> fun s =>
            match g.core with | some k => s.tokServe k | none => s

/-- The waves of a group that have not exited: the count that b0 expects (R273). -/
def State.wavesLeft (s : State) (g : Nat) : Nat := ((s.wavesOf g).filter (fun x => !x.2.exited)).length

/-- A phase of a barrier completes: both counts return to 0, and the waits of the phase end (R274). -/
def State.barComplete (s : State) (g bar : Nat) : State :=
  (s.modGroup g (fun x => { x with bars := modAt x.bars bar (fun b => ⟨0, 0, b.phase + 1⟩) })).wakeGroup g

/-- A wave that has exited lowers the count that b0 expects at once (R273). -/
def State.settleB0 (s : State) (g : Nat) : State :=
  match s.group g with
  | none => s
  | some x => match x.bars[0]? with
    | none => s
    | some b => if b.count ≠ 0 ∧ s.wavesLeft g ≤ b.count then s.barComplete g 0 else s

/-- What follows a wave's exit within its group (R172, R273, R296, R435). -/
def State.waveGone (s : State) (u grp : Nat) : State := ((s.dissolveCrew u).settleB0 grp).wakeGroup grp

/-- The lanes of a strand exit (R33, R250): the task ends with its last live lane, and waits that an exit completes
are evaluated afresh. -/
def State.exitLanes (s : State) (e : Env) (i : Instr) : State :=
  let w := (e.w.modSlicesI e.st (fun k x => x.exitLanes (sliceLanes e.part k) (e.fall i))).reStrand
  let s1 := s.setWave e.u (w.clauseStep e.st)
  if w.liveSlices ≠ 0 then s1.wake e.u
  else
    let s2 := s1.taskDone e.u
    if w.task.root && w.ops.isEmpty then s2.waveGone e.u w.group else s2

/-- A wave whose root task has just ended by a fault with nothing outstanding has exited. -/
def State.ifGone (s : State) (u grp : Nat) : State :=
  if ((s.wave u).map (·.exited)).getD false then s.waveGone u grp else s

/-- `exit` (R250, R379): a reporting point (R383). In a handler it ends the task by a fault. -/
def execExit (g : Guard) (s : State) : Out :=
  runWait (.exit g) g [] [] s (fun e =>
    if e.part = 0 then .ok (s.next e (.exit g))
    else if e.w.task.wide.isSome then .error (illegal 0x06 3)
    else if e.inHandler then .ok ((s.taskFault e.u false).ifGone e.u e.w.group)
    else .ok (s.exitLanes e (.exit g)))

/-! ## Traps and breakpoints -/

/-- `trap` (R252): it completes, and the wave stops for a trap of class 0. -/
def execTrap (g : Guard) (a : Opd) (s : State) : Out :=
  runShort (.trap g a) g [] [(a, 1)] true s (fun e =>
    match e.leader with
    | none => .ok s
    | some l => .ok (s.stopAt e none ⟨0, (e.w.rd a l).toNat % 65536, 0, l, none⟩)) Env.lead

/-- `trapret` (R381): it first waits as `regang` does. Where its guard is true in some active lanes of its strand only, the whole
strand waits and the wave returns. DESIGN CHOICE (log 149). -/
def execTrapret (g : Guard) (s : State) : Out :=
  runShort (.trapret g) g [] [] false s (fun e =>
    if e.part = 0 then .ok (s.next e (.trapret g))
    else if !e.inHandler then .error (illegal 0x06 5)
    else .ok (s.waitIn e .trapret))

/-- `brk` (R253): it completes, and the wave stops for the debugger or for a trap of class 1. -/
def execBrk (g : Guard) (s : State) : Out :=
  runShort (.brk g) g [] [] true s (fun e =>
    if e.part = 0 then .ok s
    else if e.w.brkstop then .ok (s.modWave e.u (fun w => { w with halted := true }))
    else .ok (s.stopAt e none ⟨1, 0, 0, 0xFF, none⟩))

/-! ## Instruction caches -/

/-- `ifence` (R254): the wave's loop buffer is emptied. -/
def execIfence (g : Guard) (s : State) : Out :=
  runShort (.ifence g) g [] [] true s (fun e =>
    .ok (if e.part = 0 then s else s.modWave e.u (fun w => { w with loop := [] })))

/-- `icinv` at issue (R255, R403). Fields a and b are captured. With a length of 0 it completes at once. -/
def execIcinv (g : Guard) (a b : Opd) (fs : FlagSel) (s : State) : Out :=
  issueWith (.icinv g a b fs) g fs [(a, 2), (b, 1)] [] s (fun _ => false) (fun e =>
    match e.leader with
    | none => .ok s
    | some l => if 2 ^ 56 ≤ (e.w.rdq a l).toNat then .error (illegalIn 0x0A 1 l) else .ok s)
    (fun e id t => if e.w.rd b (e.leader.getD 0) = 0 then t.endOp e.u id else t) Env.lead

/-- Whether [a, a + n) overlaps the line of `width` bytes that an address lies in. -/
def lineMeets (width va a n : Nat) : Bool :=
  n != 0 && decide (va / width * width < a + n) && decide (a < va / width * width + width)

/-- Removing the instruction-cache lines of a context's range from every core (R255). Their size is not stated, nor how they are
tagged: 128 bytes, by address-space identifier and virtual address as in the L1, so that lines of other contexts and of other
virtual addresses stay. DESIGN CHOICE (log 100). -/
def State.dropIcache (s : State) (asid a n : Nat) : State :=
  { s with cores := s.cores.map (fun c => (c.1,
      { c.2 with ic := c.2.ic.filter (fun x => !(x.asid == asid && lineMeets 128 x.va a n)) })) }

/-! ## `yieldto` -/

/-- The checks of a barrier-object address and its object (R275, R393, R403): 0x09 and 0x0A in a field, then 0x0B. -/
def bobjBad (s : State) (grp a l : Nat) (live : Bool) : Option Bad :=
  if a % 16 ≠ 0 then some (illegalIn 0x09 1 l)
  else if s.spadSize grp < a + 16 then some (illegalIn 0x0A 1 l)
  else match s.group grp with
    | none => none
    | some g =>
      let o := g.bobj a
      if !live then none
      else if !o.getLsbD 96 then some (illegalIn 0x0B 3 l)
      else if o.toNat / 2 ^ 97 ≠ 0 ∨ o.toNat / 2 ^ 92 % 8 ≠ 0 ∨ o.toNat / 2 ^ 76 % 16 ≠ 0 ∨ o.toNat / 2 ^ 56 % 256 ≠ 0
        ∨ o.toNat / 2 ^ 24 % 256 ≠ 0 then some (illegalIn 0x0B 6 l)
      else none

/-- `yieldto` (R79, R256): the strand waits for the phase; its participating lanes then go on at the continuation. -/
def execYieldto (g : Guard) (a b c : Opd) (s : State) : Out :=
  let i : Instr := .yieldto g a b c
  runWaitOrdered i g [(a, 1), (b, 1), (c, 2)] s (fun e =>
    match e.leader with
    | none => .ok (s.next e i)
    | some l =>
      let cont := (e.w.rdq c l).toNat
      if e.w.task.wide.isSome then .error (illegal 0x06 3)
      else match s.transfer e i (fun _ => cont) false with
        | .error b => .error b
        | .ok _ =>
          let bad := bobjBad s e.w.group (e.w.rd a l).toNat l true
          if (bad.map (·.code)) = some 0x09 then .error (illegalIn 0x09 1 l)
          else if !codeAddrOk cont then .error (illegalIn 0x09 3 l)
          else match bad with
            | some b => .error b
            | none => .ok (s.waitIn e (.yieldto (e.w.rd a l).toNat ((e.w.rd b l).getLsbD 0) cont e.part)))

end Sys2Proof.Machine
end

