-- ==== Sys2Proof/Machine/Mem.lean ====
section
/-! DEFINITION. Groups MEM and RMW with the window accesses of SPAN: addresses (R257), widths (R258), issue, checks
(R403, R409, R411, R423), performance at the points of the scopes (R111, R143, R262 to R270, R289), poison and lost
targets (R413, R414, R424, R426). -/

namespace Sys2Proof.Machine

/-! ## Scratchpads and members -/

/-- Poison of scratchpad granules after [a, a + n) is written whole (R413). -/
def clearPoison (ps : List Nat) (a n : Nat) : List Nat :=
  ps.filter (fun g => !(decide (a ≤ 64 * g) && decide (64 * g + 64 ≤ a + n)))

/-- Whether a slice waits on a barrier object that [a, a + n) touches. -/
def SliceSt.watches (x : SliceSt) (a n : Nat) : Bool :=
  match x.wait with
  | some (.hold o _) | some (.yieldto o _ _ _) => decide (o < a + n) && decide (a < o + 16)
  | _ => false

/-- Writing bytes of a group's scratchpad; the waits on a barrier object among them are evaluated afresh (R447). -/
def State.spadWrite (s : State) (g a : Nat) (bs : List Byte) : State :=
  ((s.wavesOf g).filter (fun w => w.2.task.slices.any (fun x => x.watches a bs.length))).foldl (fun s w => s.wake w.1)
    (s.modGroup g (fun x => { x with spad := x.spad.setBytes a bs, spadPoison := clearPoison x.spadPoison a bs.length }))

/-- Reading n bytes of a group's scratchpad as a number, and whether a granule touched is poisoned. -/
def State.spadRead (s : State) (g a n : Nat) : Nat × Bool :=
  match s.group g with
  | none => (0, false)
  | some x => (leNat (x.spad.bytes a n), x.spadPoison.any (fun p => decide (64 * p < a + n) && decide (a < 64 * p + 64)))

/-- What a member index names (R115, R292): a group of this device, one on another device, a member that cannot be
reached (DETAIL of code 6: 2 detached or exited, 3 departed), or no member. -/
inductive Member
  | here (g : Nat)
  | there (r : Remote)
  | gone (detail : Nat)
  | absent
  deriving DecidableEq, Repr

/-- The group of this device that a member index names (R115). -/
def State.memberGroup (s : State) (g m : Nat) : Option (Nat × Group) :=
  match s.group g, s.launchOf g with
  | some x, some l =>
    if l.record.spanKey = 0 then
      if m < l.record.gang then s.kiln.groups.find? (fun y => y.2.gang == x.gang && y.2.pos == m) else none
    else s.kiln.groups.find? (fun y => match s.launch y.2.launch with
      | some l' => l'.record.spanId == l.record.spanId && l'.record.spanFirst + y.2.number == m
      | none => false)
  | _, _ => none

/-- The member of a span on another device. -/
def State.memberRemote (s : State) (g m : Nat) : Option Remote :=
  match s.launchOf g with
  | some l => if l.record.spanKey = 0 then none
    else (Tab.find s.kiln.spans l.record.spanId).bind (fun p => p.remotes.find? (fun r => r.member == m))
  | none => none

/-- Whether a member of a span has departed (R425). -/
def State.memberDeparted (s : State) (g m : Nat) : Bool :=
  match s.launchOf g with
  | some l => l.record.spanKey != 0
      && ((Tab.find s.kiln.spans l.record.spanId).map (fun p => p.departed.contains m)).getD false
  | none => false

/-- Whether a member index exists for a group (R115). -/
def State.memberIndex (s : State) (g m : Nat) : Bool :=
  match s.launchOf g with
  | some l => if l.record.spanKey = 0 then decide (m < l.record.gang) else decide (m < l.record.spanMembers)
  | none => false

/-- The number of a group's span. -/
def State.spanKeyOf (s : State) (g : Nat) : Nat := ((s.launchOf g).map (·.record.spanId)).getD 0

/-- The groups of this device in the span of a group, or in its gang outside any span. -/
def State.spanLocal (s : State) (g : Nat) : List (Nat × Group) :=
  match s.group g, s.launchOf g with
  | some x, some l =>
    if l.record.spanKey = 0 then s.kiln.groups.filter (fun y => y.2.gang == x.gang)
    else s.kiln.groups.filter (fun y => match s.launch y.2.launch with
      | some l' => l'.record.spanId == l.record.spanId
      | none => false)
  | _, _ => []

/-- The members of a group's span on other devices. -/
def State.spanRemotes (s : State) (g : Nat) : List Remote :=
  let k := s.spanKeyOf g
  if k = 0 then [] else ((Tab.find s.kiln.spans k).map (·.remotes)).getD []

/-- Whether a group, a remote member, no longer takes part. -/
def groupOut (x : Group) : Bool := x.detached || x.exited
def Remote.out (r : Remote) : Bool := r.detached || r.exited || r.departed

/-- Whether a member on another device is detached for a group: it has detached, or its exit has completed, every other member
being out (R72, R426). -/
def State.remoteGone (s : State) (g : Nat) (r : Remote) : Bool :=
  r.detached || (r.exited && (s.spanLocal g).all (fun y => groupOut y.2)
    && (s.spanRemotes g).all (fun x => x.member == r.member || x.out))

/-- The member that an index names for a group. R72 closes a detached member to every other member's window; its own index
still reaches its own scratchpad. DESIGN CHOICE (log 102). -/
def State.member (s : State) (g m : Nat) : Member :=
  if !s.memberIndex g m then .absent
  else if s.memberDeparted g m then .gone 3
  else match s.memberGroup g m with
    | some (k, y) => if k ≠ g ∧ (y.detached ∨ y.freed) then .gone 2 else .here k
    | none => match s.memberRemote g m with
      | some r => if r.departed then .gone 3 else if s.remoteGone g r then .gone 2 else .there r
      | none => .gone 2

/-- Scratchpad bytes of a member; a span's members carry one pool partition word (R113). -/
def State.memberSize (s : State) (g : Nat) : Nat := s.spadSize g

/-- Changing a remote member of a span. -/
def State.modRemote (s : State) (key m : Nat) (f : Remote → Remote) : State :=
  { s with kiln := { s.kiln with spans := Tab.modify s.kiln.spans key (fun p =>
      { p with remotes := p.remotes.map (fun r => if r.member = m then f r else r) }) } }

/-- A window write. Whether two groups' devices differ is decided by where the member stands; a write to another device is
outbound and is discarded in viral mode (R416). -/
def State.windowWrite (s : State) (g ctx m off : Nat) (bs : List Byte) : State :=
  match s.member g m with
  | .here k => s.spadWrite k off bs
  | .there r => if s.viral ctx then s
    else s.modRemote (s.spanKeyOf g) r.member (fun r =>
      { r with spad := r.spad.setBytes off bs, poison := clearPoison r.poison off bs.length })
  | _ => s

/-- The destination number of a member on another device, where a window access leads there (R116, R337). -/
def State.windowDest (s : State) (g m : Nat) : Option Nat :=
  match s.member g m with | .there r => some (8192 + r.device) | _ => none

/-- A window access to another device waits where its link does (R367). -/
def State.noteMember (s : State) (g m : Nat) : State :=
  match s.windowDest g m with | some d => s.noteWait (.home 0 0 d 0) | none => s

/-- Reading a window: value and poison. -/
def State.windowRead (s : State) (g m off n : Nat) : Nat × Bool :=
  match s.member g m with
  | .here k => s.spadRead k off n
  | .there r => (leNat (r.spad.bytes off n), r.poison.any (fun p => decide (64 * p < off + n) && decide (off < 64 * p + 64)))
  | _ => (0, false)

/-- A granule of a window that one store has written whole is clean at the member (R413). -/
def State.windowClean (s : State) (g ctx m p : Nat) : State :=
  match s.member g m with
  | .here k => s.modGroup k (fun x => { x with spadPoison := x.spadPoison.filter (· != p) })
  | .there r => if s.viral ctx || (s.destErr (8192 + r.device)).isSome then s
    else s.modRemote (s.spanKeyOf g) r.member (fun r => { r with poison := r.poison.filter (· != p) })
  | _ => s

/-! ## Accesses -/

/-- The bytes of an access of a type (R258). -/
def tyBytes (t : Ty) : Nat :=
  match t with
  | .s8 | .n8 => 1
  | .s16 | .n16 | .f16 | .bf16 => 2
  | .s64 | .n64 | .b64 => 8
  | .b128 => 16
  | _ => 4

/-- What a load puts in the register (R258). -/
def fill (t : Ty) (v : Nat) : W128 :=
  match t with
  | .s8 => (BitVec.ofInt 32 (truncS v 8)).setWidth 128
  | .s16 => (BitVec.ofInt 32 (truncS v 16)).setWidth 128
  | _ => BitVec.ofNat 128 v

/-- Where an access goes. -/
inductive Space
  | glob
  | const
  | spad
  | win
  deriving DecidableEq, Repr

/-- What an access does. -/
inductive Kind
  | load
  | store
  | atomic
  deriving DecidableEq, Repr

/-- The access of a memory instruction. -/
structure Acc where
  space : Space
  kind : Kind
  ty : Ty
  order : Order
  scope : Scope
  far : Bool
  way : Way
  deriving DecidableEq, Repr

/-- The access that an instruction makes; none for instructions outside this file. -/
def accOf (i : Instr) : Option Acc :=
  match i with
  | .ld _ _ _ _ m => some ⟨.glob, .load, m.ty, m.order, m.scope, false, .plain (m.hint == .nl1)⟩
  | .st _ _ _ _ m => some ⟨.glob, .store, m.ty, m.order, m.scope, false, .plain false⟩
  | .lds _ _ _ _ m => some ⟨.spad, .load, m.ty, m.order, m.scope, false, .plain false⟩
  | .sts _ _ _ _ m => some ⟨.spad, .store, m.ty, m.order, m.scope, false, .plain false⟩
  | .ldc _ _ _ _ ty _ => some ⟨.const, .load, ty, .rlx, .wave, false, .plain false⟩
  | .gather _ _ _ _ m => some ⟨.glob, .load, m.ty, m.order, m.scope, false, .packed (m.hint == .nl1)⟩
  | .rmw _ _ _ _ _ m => some ⟨if m.spad then .spad else .glob, .atomic, m.ty, m.order, m.scope, m.far, .plain false⟩
  | .fold _ _ _ _ m => some ⟨if m.spad then .spad else .glob, .atomic, m.ty, m.order, m.scope, m.far, .plain false⟩
  | .rmwCas _ _ _ _ _ m => some ⟨if m.spad then .spad else .glob, .atomic, m.ty, m.order, m.scope, m.far, .plain false⟩
  | .ldw _ _ _ _ m => some ⟨.win, .load, m.ty, m.order, m.scope, false, .plain false⟩
  | .stw _ _ _ _ m => some ⟨.win, .store, m.ty, m.order, m.scope, false, .plain false⟩
  | _ => none

/-- The bytes of an access. -/
def Acc.n (a : Acc) : Nat := tyBytes a.ty

/-- The address a lane of an operation forms (R257). -/
def Op.addr (o : Op) (l : Nat) : Nat :=
  match o.instr with
  | .rmwCas _ _ _ _ _ m => if m.spad then (o.val32 0 l).toNat else (o.val64 0 l).toNat
  | .gather .. => (o.val64 0 o.leader + (o.val32 1 l).signExtend 64).toNat
  | i => match accOf i with
    | some a => if a.space = .glob ∨ a.space = .const then (o.val64 0 l + (o.val32 1 l).signExtend 64).toNat
      else (o.val32 0 l + o.val32 1 l).toNat
    | none => 0

/-- The scope of an access: a far atomic has at least device scope (R139, R270). -/
def Acc.eff (a : Acc) : Scope := if a.far ∧ !Scope.devUp a.scope then .dev else a.scope

/-- Whether an instruction is an acquire or a release at its own place (R130, R144). -/
def Acc.acquires (a : Acc) : Bool := a.order == .acq || a.order == .ar
def Acc.releases (a : Acc) : Bool := a.order == .rel || a.order == .ar

/-! ## Checks at issue (R257, R403) -/

/-- Whether an address lies outside its space or extent. -/
def State.outside (s : State) (g : Nat) (a : Acc) (x : Nat) : Bool :=
  match a.space with
  | .glob | .const => decide (2 ^ 56 ≤ x)
  | .spad => decide (s.spadSize g < x + a.n)
  | .win => decide (2 ^ 28 ≤ x) || s.member g (x / 2 ^ 21) == .absent || decide (s.memberSize g < x % 2 ^ 21 + a.n)

/-- FAR on an address in GLAZE space (R403): decided by the translation, where there is one that lets the atomic through. Where the
page is not writable, or its region does not decode, the spec ranks neither cause: the class 3 one is reported. DESIGN CHOICE
(log 125). -/
def State.farAlias (s : State) (ag : Agent) (a : Acc) (x : Nat) : Bool :=
  a.far && (match s.translate ag x .write with
    | .ok (.inAlias _ _, _) => true
    | _ => false)

/-- The illegal uses of an access (R392): misalignment in the lowest lane, then an address outside. -/
def State.accBad (s : State) (e : Env) (o : Op) (a : Acc) : Option Bad :=
  let ls := bitsOf o.lanes
  match ls.find? (fun l => o.addr l % a.n != 0) with
  | some l => some (illegalIn 0x09 1 l)
  | none => match ls.find? (fun l => s.outside e.w.group a (o.addr l) || s.farAlias e.ag a (o.addr l)) with
    | some l => some (illegalIn 0x0A 1 l)
    | none => none

/-- The atomic capabilities of a place: ATOM, CAS128, AOP (R313, R324). -/
def State.atomCaps (s : State) (t : Nat) (p : Place) (pa : Nat) : Bool × Bool × Bool :=
  match p with
  | .home _ _ _ _ => match windowOf (s.tenant t).windows (pa % 2 ^ 44) with
    | some w => (w.control.getLsbD 5, w.control.getLsbD 4, w.control.getLsbD 3)
    | none => (false, false, false)
  | .inAlias _ _ => (true, false, false)
  | _ => (true, true, false)

/-- The physical address of a virtual one, by the translation the cluster uses; 0 where there is none. -/
def State.physOf (s : State) (ag : Agent) (va : Nat) : Nat :=
  match s.lookup ag va with
  | .ok (.pa b, size, _) => b + va % size
  | _ => 0

/-- DETAIL of code 8 where the path does not perform an atomic (R325, R423). -/
def State.atomErr (s : State) (ag : Agent) (i : Instr) (p : Place) (va : Nat) : Option Nat :=
  let (atom, cas128, aop) := s.atomCaps ag.tenant p (s.physOf ag va)
  match i with
  | .rmwCas _ _ _ _ _ m => if m.ty = .b128 then (if cas128 then none else some 1) else if atom then none else some 2
  | .rmw _ _ _ _ _ m | .fold _ _ _ _ m =>
    if !atom then some 2
    else if aop && !((m.op == .add && m.ty != .f32) || m.op == .exch) then some 2 else none
  | _ => none

/-- The lowest lane whose atomic the path does not perform: the trap is taken at issue (R423). -/
def State.pathBad (s : State) (ag : Agent) (o : Op) (a : Acc) : Option Bad :=
  if a.kind ≠ .atomic ∨ a.space ≠ .glob then none
  else (bitsOf o.lanes).findSome? (fun l => match s.translate ag (o.addr l) .write with
    | .error _ => none
    | .ok (p, _) => (s.atomErr ag o.instr p (o.addr l)).map (fun d => memBad ⟨8, d⟩ true false l (o.addr l)))

/-- Issue of a memory instruction. -/
def issueMem (i : Instr) (g : Guard) (fs : FlagSel) (caps dsts : List (Opd × Nat)) (s : State) : Out :=
  issueLong i g fs caps dsts s (fun _ => false) (fun e =>
    match accOf i with
    | none => .ok s
    | some a => match s.accBad e (e.op i 0 none caps dsts) a with
      | some b => .error b
      | none =>
        if a.space = .const then .ok s
        else match s.ceiling e a.scope 0 with
          | .error b => .error b
          | .ok t => match s.pathBad e.ag (e.op i 0 none caps dsts) a with
            | some b => .error b
            | none => .ok t)

/-- `ld` (R262). -/
def execLd (g : Guard) (d a b : Opd) (m : MemMods) (s : State) : Out :=
  issueMem (.ld g d a b m) g m.fs [(a, 2), (b, 1)] [(d, Ty.regs m.ty)] s
/-- `st` (R262). -/
def execSt (g : Guard) (a b c : Opd) (m : MemMods) (s : State) : Out :=
  issueMem (.st g a b c m) g m.fs [(a, 2), (b, 1), (c, Ty.regs m.ty)] [] s
/-- `lds` (R262). -/
def execLds (g : Guard) (d a b : Opd) (m : MemMods) (s : State) : Out :=
  issueMem (.lds g d a b m) g m.fs [(a, 1), (b, 1)] [(d, Ty.regs m.ty)] s
/-- `sts` (R262, R263). -/
def execSts (g : Guard) (a b c : Opd) (m : MemMods) (s : State) : Out :=
  issueMem (.sts g a b c m) g m.fs [(a, 1), (b, 1), (c, Ty.regs m.ty)] [] s
/-- `ldc` (R264). -/
def execLdc (g : Guard) (d a b : Opd) (ty : Ty) (fs : FlagSel) (s : State) : Out :=
  issueMem (.ldc g d a b ty fs) g fs [(a, 2), (b, 1)] [(d, Ty.regs ty)] s
/-- `gather` (R265). -/
def execGather (g : Guard) (d a b : Opd) (m : MemMods) (s : State) : Out :=
  issueMem (.gather g d a b m) g m.fs [(a, 2), (b, 1)] [(d, Ty.regs m.ty)] s
/-- `rmw` (R268). -/
def execRmw (g : Guard) (d a b c : Opd) (m : RmwMods) (s : State) : Out :=
  issueMem (.rmw g d a b c m) g m.fs [(a, if m.spad then 1 else 2), (b, 1), (c, Ty.regs m.ty)] [(d, Ty.regs m.ty)] s
/-- `fold` (R268). -/
def execFold (g : Guard) (a b c : Opd) (m : RmwMods) (s : State) : Out :=
  issueMem (.fold g a b c m) g m.fs [(a, if m.spad then 1 else 2), (b, 1), (c, Ty.regs m.ty)] [] s
/-- `rmw.cas` (R269). -/
def execRmwCas (g : Guard) (d a b c : Opd) (m : RmwMods) (s : State) : Out :=
  issueMem (.rmwCas g d a b c m) g m.fs
    [(a, if m.spad then 1 else 2), (b, Ty.regs m.ty), (c, Ty.regs m.ty)] [(d, Ty.regs m.ty)] s
/-- `ldw` (R289). -/
def execLdw (g : Guard) (d a b : Opd) (m : MemMods) (s : State) : Out :=
  issueMem (.ldw g d a b m) g m.fs [(a, 1), (b, 1)] [(d, Ty.regs m.ty)] s
/-- `stw` (R289). -/
def execStw (g : Guard) (a b c : Opd) (m : MemMods) (s : State) : Out :=
  issueMem (.stw g a b c m) g m.fs [(a, 1), (b, 1), (c, Ty.regs m.ty)] [] s

/-- `prefetch` (R266): the line of each participating lane's address is brought in where its page allows; it never
traps. -/
def execPrefetch (g : Guard) (a b : Opd) (lvl : PfLevel) (s : State) : Out :=
  runShort (.prefetch g a b lvl) g [] [] true s (fun e =>
    .ok ((bitsOf e.part).foldl (fun s l =>
      let x := (e.w.rdq a l + (e.w.rd b l).signExtend 64).toNat
      if 2 ^ 56 ≤ x then s
      else match s.translate e.ag x .read with
        | .error _ => s
        | .ok (p, at_) =>
          p.sectors.foldl (fun s q =>
            if (s.lostRead e.ag .wave q).isSome then s
            else match lvl with
              | .l2 => if at_.pol = 0 then (s.readAt e.ag .l2 q 1 at_).1 else s
              | .msc => (if at_.coh then s.cohPull e.ag.cluster q else s).mscFill q e.ag.tenant e.ag.ctx at_)
            (s.tlbFill e.ag x)) s))

/-! ## Checks before the first lane is performed (R409, R411) -/

/-- The class 3 cause of one lane's global load, poison included. -/
def State.loadErr (s : State) (ag : Agent) (sc : Scope) (x n : Nat) (way : Way := .plain false) : Option MemErr :=
  match s.checkAccess ag x .read sc way with
  | some e => some e
  | none =>
    let lost := if (s.l1Load ag x sc way).isSome then none else match s.translate ag x .read with
      | .ok (p, _) => s.lostRead ag sc p
      | .error e => some e
    match lost with
    | some e => some e
    | none =>
      let (_, _, pz) := s.loadVa ag x n sc way
      if pz ≠ 0 then some ⟨4, poisonDetail pz⟩ else none

/-- The place at which an atomic reaches its home: that of an expander that is also a FLUE peer is sent over FLUE (R325, R337).
The device number of that expander is the fabric's (log 25). -/
def State.atomPlace (s : State) (ag : Agent) (p : Place) (va : Nat) : Place :=
  match p with
  | .home t pa d a =>
    let (_, _, aop) := s.atomCaps ag.tenant p (s.physOf ag va)
    .home t pa (if d / 4096 = 1 ∧ !aop then peerDest d else d) a
  | _ => p

/-- The point at which an atomic is performed (R111, R123, R270). -/
def State.atomPoint (s : State) (ag : Agent) (a : Acc) (p : Place) : Point :=
  if a.far then (if p.isHome then .home else .msc) else pointOf (s.capScope ag.ctx a.scope) p

/-- An atomic's sector is brought to its point (R133, R134), with the place at which it is then performed. -/
def State.atomGo (s : State) (ag : Agent) (pt : Point) (p : Place) (va : Nat) : State × Place :=
  if pt = .home then (s.settle ag .home p, s.atomPlace ag p va) else (s, p)

/-- The class 3 cause of one lane's global atomic, other than poison (R416, R423, R424). -/
def State.atomicErr (s : State) (ag : Agent) (i : Instr) (x : Nat) : Option (MemErr × Bool) :=
  match s.translate ag x .write with
  | .error e => some (e, true)
  | .ok (p, _) => match s.atomErr ag i p x with
    | some d => some (⟨8, d⟩, true)
    | none =>
      if s.viral ag.ctx then none
      else ((s.homeErr p).filter (fun e => e.detail == 1 || e.detail == 3)).map (fun e => (e, true))

/-- The class 3 cause of a lane's access before it is performed, and whether the access writes. -/
def State.laneErr (s : State) (ag : Agent) (g : Nat) (o : Op) (a : Acc) (l : Nat) : Option (MemErr × Bool) :=
  let x := o.addr l
  let sc := s.capScope ag.ctx a.scope
  match a.space, a.kind with
  | .glob, .load => (s.loadErr ag sc x a.n a.way).map (fun e => (e, false))
  | .const, _ =>
    match vFind (s.core ag.core).cc (s.asidOf ag.ctx) x with
    | some y => if poisonIn y.poison (x % 128) a.n ≠ 0 then some (⟨4, poisonDetail (poisonIn y.poison (x % 128) a.n)⟩, false) else none
    | none => (s.loadErr ag .clus x a.n).map (fun e => (e, false))
  | .glob, .store => (s.checkAccess ag x .write sc).map (fun e => (e, true))
  | .glob, .atomic => s.atomicErr ag o.instr x
  | .spad, .load => if (s.spadRead g x a.n).2 then some (⟨4, 1⟩, false) else none
  | .win, .load => match s.member g (x / 2 ^ 21) with
    | .gone d => some (⟨6, d⟩, false)
    | .there r => match s.destErr (8192 + r.device) with
      | some e => some (e, false)
      | none => if (s.windowRead g (x / 2 ^ 21) (x % 2 ^ 21) a.n).2 then some (⟨4, 1⟩, false) else none
    | _ => if (s.windowRead g (x / 2 ^ 21) (x % 2 ^ 21) a.n).2 then some (⟨4, 1⟩, false) else none
  | _, _ => none

/-- The precise cause of an operation of this file: that of the lowest faulting lane (R409, R411). -/
def State.memCheck (s : State) (ag : Agent) (g : Nat) (o : Op) (a : Acc) : Option Bad :=
  (bitsOf o.lanes).findSome? (fun l => (s.laneErr ag g o a l).map (fun e => memBad e.1 e.2 false l (o.addr l)))

/-- Whether a lane's atomic finds its granule poisoned (R414). -/
def State.atomPoison (s : State) (ag : Agent) (g : Nat) (o : Op) (a : Acc) (l : Nat) : Bool :=
  let x := o.addr l
  match a.kind, a.space with
  | .atomic, .spad => (s.spadRead g (x / 64 * 64) 64).2
  | .atomic, _ => match s.translate ag x .write with
    | .ok (p, at_) => if p.isHome && s.viral ag.ctx then false
      else
        let pt := s.atomPoint ag a p
        let (s1, p1) := s.atomGo ag pt p x
        let (_, _, pz) := s1.readAt ag pt p1 a.n at_ false
        pz != 0
    | .error _ => false
  | _, _ => false

/-- The destination in fabric space that a lane's access reaches (R323). -/
def State.laneDest (s : State) (ag : Agent) (a : Acc) (x : Nat) : Option Nat :=
  if a.space ≠ .glob then none
  else match a.kind with
    | .load => match s.translate ag x .read with
      | .ok (p, _) => p.dest
      | .error _ => none
    | .store => match s.storePlace ag x with
      | .ok (p, _) => p.dest
      | .error _ => none
    | .atomic => match s.translate ag x .write with
      | .ok (p, _) => (s.atomPlace ag p x).dest
      | .error _ => none

/-- Whether a lane's write or atomic goes to its home itself (R106, R111), and not into a cache first. -/
def State.laneAtHome (s : State) (ag : Agent) (a : Acc) (x : Nat) : Bool :=
  match (if a.kind = .store then s.storePlace ag x else s.translate ag x .write) with
  | .ok (p, at_) => p.isHome && (a.far || writePoint (pointOf (s.capScope ag.ctx a.scope) p) p at_ == .home)
  | .error _ => false

/-- Whether a lane's write or atomic is sent on a route that is lost (R421). -/
def State.laneLost (s : State) (ag : Agent) (o : Op) (a : Acc) (l : Nat) : Bool :=
  a.kind != .load && !s.viral ag.ctx && s.laneAtHome ag a (o.addr l)
    && (match s.laneDest ag a (o.addr l) with
      | some d => (s.destErr d).any (fun e => e.detail == 2)
      | none => false)

/-- Whether a lane's window store is sent to a member whose every route is lost (R337, R421). -/
def State.windowLost (s : State) (ag : Agent) (g : Nat) (o : Op) (l : Nat) : Bool :=
  !s.viral ag.ctx && (s.windowDest g (o.addr l / 2 ^ 21)).any (fun d => (s.destErr d).isSome)

/-- The lanes that are not performed although the operation completes, with the code and DETAIL of their errors:
atomics on poison (R414), writes and atomics on a lost route (R421), window stores to a member that is gone (R426) unless viral
mode discards them (R416), these lanes
standing in FLANES (R410, R429). DEDUCED (log 120). -/
def State.lanesRefused (s : State) (ag : Agent) (g : Nat) (o : Op) (a : Acc) : List (W32 × Nat × Nat) :=
  let pick (q : Nat → Bool) : W32 := maskOf ((bitsOf o.lanes).filter q)
  match a.kind, a.space with
  | .atomic, _ => [(pick (fun l => !s.laneLost ag o a l && s.atomPoison ag g o a l), 5, 0), (pick (s.laneLost ag o a), 7, 0)]
  | .store, .glob => [(pick (s.laneLost ag o a), 7, 0)]
  | .store, .win =>
    let away (m : Nat) : Bool := (s.memberGroup g m).isNone && (s.memberRemote g m).isSome
    let d (l : Nat) : Option Nat := match s.member g (o.addr l / 2 ^ 21) with
      | .gone d => if s.viral ag.ctx && away (o.addr l / 2 ^ 21) then none else some d
      | _ => none
    let ls := pick (fun l => (d l).isSome)
    [(ls, 3, ((bitsOf ls).head?.bind d).getD 2), (pick (s.windowLost ag g o), 7, 0)]
  | _, _ => []

/-! ## Performance -/

/-- Of some lanes of an operation those that write a destination: for a scalar the lowest participating lane of each slice (R46),
in whichever share it is performed. -/
def Op.writers (o : Op) (d : Opd) (lanes : W32) : W32 :=
  match d with
  | .s _ => lanes &&& maskOf (scalarLanes o.lanes)
  | _ => lanes

/-- Writing an operation's destination through the windows it was issued with (R43, R45, R46). -/
def Wave.wrOp (w : Wave) (o : Op) (k : Nat) (d : Opd) (lanes : W32) (f : Nat → W128) : Wave :=
  let w1 := (w.modSlicesI 0xFF (fun i x => { x with window := o.wins.getD i x.window })).wrk k d (o.writers d lanes) f
  w1.modSlicesI 0xFF (fun i x => { x with window := (w.slice i).window })

/-- f(old, c) of `rmw` and `fold` (R268). -/
def rmwOp (op : RmwOp) (ty : Ty) (old c : Nat) : Nat :=
  let n := 8 * tyBytes ty
  let sg (x : Nat) : Int := truncS x n
  let signed := ty == .s32 || ty == .s64
  match op with
  | .add => if ty = .f32 then fF32.add .rne old c else (old + c) % 2 ^ n
  | .min => if ty = .f32 then fF32.minmax false old c
    else if signed then (if sg old ≤ sg c then old else c) else min old c
  | .max => if ty = .f32 then fF32.minmax true old c
    else if signed then (if sg c ≤ sg old then old else c) else max old c
  | .and => old &&& c
  | .or => old ||| c
  | .xor => old ^^^ c
  | .exch => c

/-- The new value of an atomic of a lane, none where nothing is written (R268, R269). -/
def Op.atomicNew (o : Op) (l old : Nat) : Option Nat :=
  match o.instr with
  | .rmw _ _ _ _ _ m => some (rmwOp m.op m.ty old ((o.val 2 l).toNat % 2 ^ (8 * tyBytes m.ty)))
  | .fold _ _ _ _ m => some (rmwOp m.op m.ty old ((o.val 2 l).toNat % 2 ^ (8 * tyBytes m.ty)))
  | .rmwCas _ _ _ _ _ m =>
    if old = (o.val 1 l).toNat % 2 ^ (8 * tyBytes m.ty) then some ((o.val 2 l).toNat % 2 ^ (8 * tyBytes m.ty)) else none
  | _ => none

/-- Where a far atomic on local memory is performed (R123): at the MSC if that holds the line with a dirty sector, and otherwise by
HEARTH on what DRAM holds, the clean copy in the MSC being dropped. What HEARTH writes, the MSC does not come to hold: the answer
is the page's attributes for the access. -/
def State.farAt (s : State) (p : Place) (at_ : Attr) : State × Attr :=
  match p with
  | .loc x => if s.mem.dirty.contains (x / 256) then (s, at_)
    else ({ s with mem := s.mem.unhold (x / 256) }, { at_ with pol := 2 })
  | _ => (s, at_)

/-- One lane's global atomic at its point (R123, R270, R416): the old value, none where viral mode discards it. A far one
first writes back and drops its whole line in the issuing L2. -/
def State.atomicVa (s : State) (ag : Agent) (o : Op) (a : Acc) (l : Nat) : State × Option Nat :=
  let x := o.addr l
  match s.translate ag x .write with
  | .error _ => (s, none)
  | .ok (p, at_) =>
    if p.isHome && s.viral ag.ctx then (s, none)
    else
      let pt := s.atomPoint ag a p
      let s0 := (s.tlbFill ag x).l1Drop ag x
      let (s1, at1) := if a.far then (p.sectors.foldl (fun s q => s.l2Flush ag.cluster q) s0).farAt p at_ else (s0, at_)
      let (s2, p2) := s1.atomGo ag pt p x
      let (s3, old, _) := s2.readAt ag pt p2 a.n at1
      match o.atomicNew l old with
      | some v => (s3.writeAt ag pt p2 a.n v at1, some old)
      | none => (s3, some old)

/-- Bytes of which each that has changed is the old or the new one, as a free value says (R446). -/
def mixBytes (free old new n : Nat) : Nat :=
  (List.range n).foldl (fun v i =>
    let x := old / 256 ^ i % 256
    let y := new / 256 ^ i % 256
    v + (if x = y then x else if Config.freeChoice (free + i) % 2 = 0 then x else y) * 256 ^ i) 0

/-- What `ldc` reads of a line that the constant cache holds (R112): where memory has changed since, some of the old bytes and some
of the new (R446). The choice is a free value (log 23). -/
def State.constRead (s : State) (ag : Agent) (y : VSector) (x n : Nat) : State × Nat :=
  let old := secGet y.data (x % 128) n
  match s.translate ag x .read with
  | .error _ => (s, old)
  | .ok (p, at_) =>
    let new := (s.readAt ag .l2 p n at_ false).2.1
    if old = new then (s, old)
    else ({ s with sched := { s.sched with fresh := s.sched.fresh + n } }, mixBytes s.sched.fresh old new n)

/-- One lane of an operation: the state after it, and the value for its destination. -/
def State.performLane (s : State) (ag : Agent) (g : Nat) (o : Op) (a : Acc) (l : Nat) : State × Option W128 :=
  let x := o.addr l
  let sc := s.capScope ag.ctx a.scope
  let src := (o.val 2 l).toNat % 2 ^ (8 * a.n)
  match a.space, a.kind with
  | .glob, .load => let (s1, v, _) := s.loadVa ag x a.n sc a.way; (s1, some (fill a.ty v))
  | .const, _ =>
    match vFind (s.core ag.core).cc (s.asidOf ag.ctx) x with
    | some y => let (s1, v) := s.constRead ag y x a.n; (s1, some (fill a.ty v))
    | none => match s.translate ag x .read with
      | .error _ => (s, none)
      | .ok (p, at_) =>
        let (s1, v, _) := (s.tlbFill ag x).readAt ag .l2 p a.n at_
        (s1.ccFill ag x p at_, some (fill a.ty v))
  | .glob, .store => (s.storeVa ag x a.n src sc, none)
  | .glob, .atomic => let (s1, old) := s.atomicVa ag o a l; (s1, old.map (BitVec.ofNat 128))
  | .spad, .load => (s, some (fill a.ty (s.spadRead g x a.n).1))
  | .spad, .store => (s.spadWrite g x (leBytes src a.n), none)
  | .spad, .atomic =>
    let old := (s.spadRead g x a.n).1
    (match o.atomicNew l old with
      | some v => s.spadWrite g x (leBytes v a.n)
      | none => s, some (BitVec.ofNat 128 old))
  | .win, .load => (s.noteMember g (x / 2 ^ 21), some (fill a.ty (s.windowRead g (x / 2 ^ 21) (x % 2 ^ 21) a.n).1))
  | .win, .store => ((s.noteMember g (x / 2 ^ 21)).windowWrite g ag.ctx (x / 2 ^ 21) (x % 2 ^ 21) (leBytes src a.n), none)
  | .win, .atomic => (s, none)

/-- Lanes in ascending order (R260), with the values they deliver. -/
def State.performLanes (s : State) (ag : Agent) (g : Nat) (o : Op) (a : Acc) : List Nat → State × List (Nat × W128)
  | [] => (s, [])
  | l :: r =>
    let (s1, v) := s.performLane ag g o a l
    let (s2, vs) := s1.performLanes ag g o a r
    (s2, match v with | some v => (l, v) :: vs | none => vs)

/-- Granules that the lanes of a store cover whole, together (R413). -/
def Op.covers (o : Op) (n p : Nat) : Bool :=
  (List.range 64).all (fun j => (bitsOf o.lanes).any (fun l =>
    decide (o.addr l ≤ 64 * p + j) && decide (64 * p + j < o.addr l + n)))

/-- The granules of the address space that a store covers whole. -/
def Op.wholes (o : Op) (n : Nat) : List Nat :=
  (((bitsOf o.lanes).map (fun l => o.addr l / 64)).dedup).filter (o.covers n)

/-- Whether the release part of an operation's order takes effect: that of a `rmw.cas` only where a compare succeeds (R269). -/
def State.releasing (s : State) (ag : Agent) (g : Nat) (o : Op) (a : Acc) (lanes : W32) : Bool :=
  match o.instr with
  | .rmwCas .. => (s.performLanes ag g o a (bitsOf lanes)).2.any (fun x => (o.atomicNew x.1 x.2.toNat).isSome)
  | .ldc .. => false
  | _ => true

/-- Performing an operation's access for some of its lanes, with the cache actions of its order (R143) and the write
of its destination. -/
def State.performMem (s : State) (u : Nat) (ag : Agent) (g : Nat) (o : Op) (a : Acc) (lanes : W32) : State :=
  let sc := s.capScope ag.ctx a.eff
  let s0 := if s.releasing ag g o a lanes then s.before ag a.order sc else s
  let (s1, vs) := s0.performLanes ag g o a (bitsOf lanes)
  let s2 := if a.kind ≠ .store ∨ o.todo &&& ~~~lanes ≠ 0 then s1
    else if a.space = .spad then s1.modGroup g (fun x => { x with spadPoison := x.spadPoison.filter (fun p => !o.covers a.n p) })
    else if a.space = .glob then (o.wholes a.n).foldl (fun s p => s.cleanVa ag (64 * p) sc) s1
    else (o.wholes a.n).foldl (fun s p => s.windowClean g ag.ctx (p / 2 ^ 15) (p % 2 ^ 15)) s1
  let got : W32 := maskOf (vs.map (·.1))
  let s3 := s2.modWave u (fun w => match o.dst with
    | (d, k) :: _ => w.wrOp o k d got (fun l => ((vs.find? (fun x => x.1 == l)).map (·.2)).getD 0)
    | [] => w)
  if a.space = .const then s3 else s3.after ag a.order sc

end Sys2Proof.Machine
end

