-- ==== Sys2Proof/Machine/Sync.lean ====
section
/-! DEFINITION. Group SYNC: fences, named barriers, barrier objects and EMBER slots (R77, R78, R185, R186, R271 to
R278), with EMBER_TIMEOUT. -/

namespace Sys2Proof.Machine

/-! ## Fences -/

/-- `fence` (R132, R143, R272): a reporting point for any strand of the wave (R383). -/
def execFence (g : Guard) (o : Order) (sc : Scope) (s : State) : Out :=
  match s.env g with
  | none => .fault .noStrand
  | some e => match (if guardNever g then none else s.reportHere e (fun _ => true)) with
    | some t => .next t
    | none => runOrdered (.fence g o sc) g [] [] true s (fun e => match s.ceiling e sc 0 with
      | .error b => .error b
      | .ok t =>
        let c := s.capScope e.ag.ctx sc
        .ok (if e.part = 0 then t else (t.before e.ag o c).after e.ag o c))

/-! ## Named barriers -/

/-- The checks of `gate.pass` and `gate.wait` and the count they give: none where no lane participates (R273, R403). -/
def State.gateCount (s : State) (e : Env) (a : Opd) (bar : Fin 16) : Except Bad (Option Nat) :=
  if !e.whole then .error (illegal 0x06 4)
  else match e.leader with
    | none => .ok none
    | some l =>
      if bar = 0 then .ok (some (s.wavesLeft e.w.group))
      else
        let n := (e.w.rd a l).toNat
        let b := ((s.group e.w.group).bind (fun x => x.bars[bar.val]?)).getD ⟨0, 0, 0⟩
        if n = 0 ∨ 32 < n then .error (illegalIn 0x0B 1 l)
        else if b.count ≠ 0 ∧ b.expected ≠ n then .error (illegalIn 0x0B 2 l)
        else .ok (some n)

/-- One arrival at a barrier, a release at core scope; the phase completes with the last (R144, R273, R274). -/
def State.gateArrive (s : State) (e : Env) (bar : Fin 16) (n : Nat) : State :=
  let s1 := (s.release e.ag .core).modGroup e.w.group (fun x =>
    { x with bars := modAt x.bars bar.val (fun b => ⟨n, b.count + 1, b.phase⟩) })
  let b := ((s1.group e.w.group).bind (fun x => x.bars[bar.val]?)).getD ⟨0, 0, 0⟩
  if n ≤ b.count then s1.barComplete e.w.group bar.val else s1

/-- The phase of a barrier. -/
def State.gatePhase (s : State) (g : Nat) (bar : Fin 16) : Nat :=
  (((s.group g).bind (fun x => x.bars[bar.val]?)).map (·.phase)).getD 0

/-- `gate.pass` (R273): it continues at once. -/
def execGatePass (g : Guard) (a : Opd) (bar : Fin 16) (s : State) : Out :=
  runOrdered (.gatePass g a bar) g [] [(a, 1)] true s (fun e => match s.gateCount e a bar with
    | .error b => .error b
    | .ok none => .ok s
    | .ok (some n) => .ok (s.gateArrive e bar n))

/-- `gate.wait` (R273): it waits until the phase in which it arrived completes. -/
def execGateWait (g : Guard) (a : Opd) (bar : Fin 16) (s : State) : Out :=
  runWaitOrdered (.gateWait g a bar) g [(a, 1)] s (fun e => match s.gateCount e a bar with
    | .error b => .error b
    | .ok none => .ok (s.next e (.gateWait g a bar))
    | .ok (some n) => .ok ((s.gateArrive e bar n).waitIn e (.gate bar.val (s.gatePhase e.w.group bar))))

/-! ## Barrier objects (R185, R186) -/

/-- The fields of a barrier object. -/
structure BObj where
  live : Bool
  phase : Bool
  init : Nat
  arrivals : Nat
  early : Nat
  pending : Nat
  deriving DecidableEq, Repr

/-- The object in its 128 bits, and its fields (R185). -/
def BObj.ofBits (v : BitVec 128) : BObj :=
  ⟨v.getLsbD 96, v.getLsbD 95, (v.extractLsb' 80 12).toNat, (v.extractLsb' 64 12).toNat, (v.extractLsb' 32 24).toNat,
    (v.extractLsb' 0 24).toNat⟩
def BObj.toBits (o : BObj) : BitVec 128 :=
  BitVec.ofNat 128 (o.pending % 2 ^ 24 + o.early % 2 ^ 24 * 2 ^ 32 + o.arrivals % 4096 * 2 ^ 64 + o.init % 4096 * 2 ^ 80
    + (if o.phase then 2 ^ 95 else 0) + (if o.live then 2 ^ 96 else 0))

/-- The phase test that follows every change (R186). -/
def BObj.test (o : BObj) : BObj :=
  if o.arrivals = 0 ∧ o.pending = 0 ∧ o.early = 0 then { o with phase := !o.phase, arrivals := o.init } else o

/-- Delivery of n bytes (R186): EARLY stops at its maximum (R448). -/
def BObj.deliver (o : BObj) (n : Nat) : BObj :=
  (if n ≤ o.pending then { o with pending := o.pending - n }
    else { o with early := min (o.early + (n - o.pending)) (2 ^ 24 - 1), pending := 0 }).test

/-- Whether a delivery would raise EARLY past its maximum (R448). -/
def BObj.overflows (o : BObj) (n : Nat) : Bool := decide (2 ^ 24 ≤ o.early + (n - o.pending))

/-- A post of n bytes (R186), before the phase test. -/
def BObj.post (o : BObj) (n : Nat) : BObj :=
  let t := min o.early n
  { o with early := o.early - t, pending := o.pending + (n - t) }

/-- An arrival (R186); what one arrival beyond the last leaves in ARRIVALS is a free value (log 24). -/
def BObj.arrive (o : BObj) (free : BitVec 12) : BObj :=
  { o with arrivals := if o.arrivals = 0 then free.toNat else o.arrivals - 1 }.test

/-- A barrier object of a group. -/
def State.bobj (s : State) (g a : Nat) : BObj := .ofBits (((s.group g).map (fun x => x.bobj a)).getD 0)

/-- The bits of an object that no field has: they stay as they are found, what a store has written there among them (R185, R447). -/
def BObj.others (v : BitVec 128) : BitVec 128 :=
  v &&& ~~~(BObj.toBits ⟨true, true, 4095, 4095, 2 ^ 24 - 1, 2 ^ 24 - 1⟩)

/-- Writing the fields of a barrier object: the waits on its phase are evaluated afresh (R447). -/
def State.putBobj (s : State) (g a : Nat) (o : BObj) : State :=
  s.spadWrite g a (leBytes (o.toBits ||| BObj.others (((s.group g).map (fun x => x.bobj a)).getD 0)).toNat 16)

/-- An arrival at a barrier object of a group. -/
def State.bobjArrive (s : State) (g a : Nat) : State :=
  let o := s.bobj g a
  let s1 := if o.arrivals = 0 then s.bumpFresh else s
  s1.putBobj g a (o.arrive (Config.arrivalsBelow s.sched.fresh))

/-- The bytes posted to, or delivered at, an object by some changes. -/
def postedAt (g a : Nat) (l : List Change) : Nat :=
  l.foldl (fun n c => match c with | .post h b k => if h = g ∧ b = a then n + k else n | _ => n) 0
def deliveredAt (g a : Nat) (l : List Change) : Nat :=
  l.foldl (fun n c => match c with | .deliver h b k _ => if h = g ∧ b = a then n + k else n | _ => n) 0

/-- An object with the posts and deliveries that have reached it in the clock that is being taken (R186). -/
def State.bobjNow (s : State) (g a : Nat) : BObj :=
  let l := s.sched.changes.getD []
  let o := (s.bobj g a).post (postedAt g a l)
  if deliveredAt g a l = 0 then o else o.deliver (deliveredAt g a l)

/-- Some copies have contributed to a delivery that raised EARLY past its maximum (R448). -/
def State.overrun (s : State) (ids : List Nat) : State :=
  { s with cores := s.cores.map (fun c => (c.1, { c.2 with copies := c.2.copies.map (fun x =>
      if ids.contains x.id then { x with excess := true } else x) })) }

/-- One delivery of n bytes to an object by some copies (R186, R448). -/
def State.bobjDeliver (s : State) (g a n : Nat) (ids : List Nat) : State :=
  let o := s.bobj g a
  (if o.overflows n then s.overrun ids else s).putBobj g a (o.deliver n)

/-- A change to an object, followed by the phase test (R186). -/
def State.changeNow (s : State) (c : Change) : State :=
  match c with
  | .post g a n => s.putBobj g a ((s.bobj g a).post n).test
  | .deliver g a n id => s.bobjDeliver g a n [id]
  | .arrive g a => s.bobjArrive g a
  | .take k g c _ u => s.modCore k (fun x => { x with takers := x.takers ++ [(g, c, u)] })

/-- A change reaches an object: performed at once, or with the others of the clock that is being taken. -/
def State.change (s : State) (c : Change) : State :=
  match s.sched.changes with
  | some l => { s with sched := { s.sched with changes := some (l ++ [c]) } }
  | none => s.changeNow c

/-- The objects that some changes name. -/
def objectsOf (l : List Change) : List (Nat × Nat) :=
  (l.filterMap (fun c => match c with
    | .post g a _ | .deliver g a _ _ | .arrive g a => some (g, a)
    | .take _ _ _ _ _ => none)).dedup

/-- The changes of one clock to one object in their fixed order (R186): the posts as one, the deliveries as one, the
arrivals one at a time. -/
def State.endObject (s : State) (l : List Change) (x : Nat × Nat) : State :=
  let s1 := if l.any (fun c => match c with | .post g a _ => g == x.1 && a == x.2 | _ => false) then
    s.changeNow (.post x.1 x.2 (postedAt x.1 x.2 l)) else s
  let ids := l.filterMap (fun c => match c with | .deliver g a _ id => if g = x.1 ∧ a = x.2 then some id else none | _ => none)
  let s2 := if ids.isEmpty then s1 else s1.bobjDeliver x.1 x.2 (deliveredAt x.1 x.2 l) ids
  (l.filter (fun c => match c with | .arrive g a => g == x.1 && a == x.2 | _ => false)).foldl State.changeNow s2

/-- Whether one `tok.take` goes before another of the same clock: lower crew number, then lower group position (R172). -/
def takeBefore (x y : Change) : Bool :=
  match x, y with
  | .take _ _ c p _, .take _ _ d q _ => decide (c < d) || (c == d && decide (p ≤ q))
  | _, _ => true

/-- The end of a clock in which several changes were made. -/
def State.endClock (s : State) : State :=
  let l := s.sched.changes.getD []
  let takes := l.filter (fun c => match c with | .take _ _ _ _ _ => true | _ => false)
  let s1 := (objectsOf l).foldl (fun s x => s.endObject l x) { s with sched := { s.sched with changes := none } }
  let s2 := (sortBy takeBefore takes).foldl State.changeNow s1
  takes.foldl (fun s c => match c with | .take k _ _ _ _ => s.tokServe k | _ => s) s2

/-- `bobj.open` (R275). -/
def execBobjOpen (g : Guard) (a b : Opd) (s : State) : Out :=
  runOrdered (.bobjOpen g a b) g [] [(a, 1), (b, 1)] true s (fun e => match e.leader with
    | none => .ok s
    | some l =>
      let x := (e.w.rd a l).toNat
      let n := (e.w.rd b l).toNat
      match bobjBad s e.w.group x l false with
      | some bad => .error bad
      | none =>
        if n = 0 ∨ 4095 < n then .error (illegalIn 0x0B 4 l)
        else .ok (s.spadWrite e.w.group x (leBytes (BObj.toBits ⟨true, false, n, n, 0, 0⟩).toNat 16)))

/-- `bobj.due` (R275). -/
def execBobjDue (g : Guard) (a b : Opd) (mark : Bool) (s : State) : Out :=
  runOrdered (.bobjDue g a b mark) g [] [(a, 1), (b, 1)] true s (fun e => match e.leader with
    | none => .ok s
    | some l =>
      let x := (e.w.rd a l).toNat
      match bobjBad s e.w.group x l true with
      | some bad => .error bad
      | none =>
        let n := (e.w.rd b l).toNat
        if 2 ^ 24 ≤ ((s.bobjNow e.w.group x).post n).pending then .error (illegalIn 0x0B 5 l)
        else
          let t := s.change (.post e.w.group x n)
          .ok (if mark then t.change (.arrive e.w.group x) else t))

/-- `bobj.mark` (R275). -/
def execBobjMark (g : Guard) (a : Opd) (s : State) : Out :=
  runOrdered (.bobjMark g a) g [] [(a, 1)] true s (fun e => match e.leader with
    | none => .ok s
    | some l =>
      let x := (e.w.rd a l).toNat
      match bobjBad s e.w.group x l true with
      | some bad => .error bad
      | none => .ok (s.change (.arrive e.w.group x)))

/-- `bobj.hold` (R275): it reads the object behind what its strand has accessed before (R138). -/
def execBobjHold (g : Guard) (a b : Opd) (s : State) : Out :=
  runWaitOrdered (.bobjHold g a b) g [(a, 1), (b, 1)] s (fun e => match e.leader with
    | none => .ok (s.next e (.bobjHold g a b))
    | some l =>
      let x := (e.w.rd a l).toNat
      match bobjBad s e.w.group x l true with
      | some bad => .error bad
      | none => .ok (s.waitIn e (.hold x ((e.w.rd b l).getLsbD 0))))

/-! ## EMBER slots (R77, R78) -/

/-- Changing the EMBER slots of a wave's running task. -/
def Wave.modEmber (w : Wave) (f : Nat → Ember → Ember) : Wave :=
  { w with task := { w.task with ember := modWhere (fun _ => true) f 0 w.task.ember } }

/-- `ember.arm` (R276): the address is translated now. -/
def execEmberArm (g : Guard) (a b : Opd) (k : Fin 4) (s : State) : Out :=
  runShort (.emberArm g a b k) g [] [(a, 2), (b, 1)] true s (fun e => match e.leader with
    | none => .ok s
    | some l =>
      let x := (e.w.rdq a l + (e.w.rd b l).signExtend 64).toNat
      if 2 ^ 56 ≤ x then .error (illegalIn 0x0A 1 l)
      else match s.translate e.ag x .read with
        | .error er => .error (memBad er false false l x)
        | .ok (p, _) =>
          .ok ((s.tlbFill e.ag x).modWave e.u (fun w => w.modEmber (fun i y =>
            if i = k.val then ⟨some (p.back (p.addr % 8)), false⟩ else y)))) Env.lead

/-- The lowest slot whose hit bit is set. -/
def Wave.emberHit (w : Wave) : Option Nat := (List.range 4).find? (fun i => ((w.task.ember[i]?).map (·.hit)).getD false)

/-- `ember.wait` takes slot k's hit and writes its result (R78). -/
def Wave.emberTake (w : Wave) (k : Nat) (d : Opd) (lanes : W32) : Wave :=
  (w.modEmber (fun i y => if i = k then { y with hit := false } else y)).wr d lanes (fun _ => BitVec.ofNat 32 k)

/-- `ember.wait` (R78, R277). A strand that sleeps executes it again when a hit bit is set. -/
def execEmberWait (g : Guard) (d a : Opd) (s : State) : Out :=
  let i : Instr := .emberWait g d a
  runWait i g [(d, 1)] [(a, 1)] s (fun e => match e.leader with
    | none => .ok (s.next e i)
    | some l =>
      let n := (e.w.rd a l).toNat
      match e.w.emberHit with
      | some k => .ok ((s.setWave e.u (e.w.emberTake k d e.part)).next e i)
      | none => match (e.w.slice ((bitsOf e.st).headD 0)).wait with
        | some (.ember _ _ _) => .ok s
        | _ =>
          let forever := n == 0xFFFFFFFF
          if n = 0 ∨ (forever ∧ e.w.task.ember.all (·.armed.isNone)) then
            .ok ((s.setWave e.u (e.w.wr d e.part (fun _ => 4))).next e i)
          else .ok (s.waitIn e (.ember (if forever then none else some (s.dev.tick + n)) d e.part)))

/-- `ember.disarm` (R278). -/
def execEmberDisarm (g : Guard) (mask : BitVec 4) (s : State) : Out :=
  runShort (.emberDisarm g mask) g [] [] true s (fun e =>
    .ok (if e.part = 0 then s
      else s.modWave e.u (fun w => w.modEmber (fun i y => if mask.getLsbD i then ⟨none, false⟩ else y))))

/-- The wave with an identifier on a core (R25). -/
def State.waveAt (s : State) (core wid : Nat) : Option (Nat × Wave) :=
  s.kiln.waves.find? (fun x => x.2.wid == wid && ((s.group x.2.group).bind (·.core)) == some core)

/-- EMBER_TIMEOUT (R78): a sleeping strand whose timeout has passed returns 4; one of a wave that is stopped does so
when it resumes (R436), one whose destination is that of an outstanding operation when that has completed (R43). -/
def execEmberTimeout (core wid strand : Nat) (s : State) : Out :=
  match s.waveAt core wid with
  | none => .next s
  | some (u, w) =>
    let st := w.strandSlices strand
    match (w.slice ((bitsOf st).headD 0)).wait with
    | some (.ember (some t) d lanes) =>
      if st ≠ 0 ∧ s.awake w ∧ t ≤ s.dev.tick ∧ w.emberHit.isNone ∧ !w.busy st [(d, 1)] then
        .next (s.modWave u (fun w => (w.wr d lanes (fun _ => 4)).resume st))
      else .next s
    | _ => .next s

end Sys2Proof.Machine
end

