-- ==== Sys2Proof/Machine/Task.lean ====
section
/-! DEFINITION. Group TASK with the Irwald units' own steps: `spawn`, `launch`, `await`, `lock.take`, `fut.set`,
`lock.give`, `qpush`, `qpop`, `park` (R279 to R287), adoption and its end (R91 to R101), dispatch (R88), monitors
(R99), and the linking of queue segments (R75, R434, R458). -/

namespace Sys2Proof.Machine

/-! ## Launch records (R57, R58, R113, R450) -/

/-- The fields of a launch record's 64 bytes. -/
def Record.ofBytes (bs : List Byte) : Record :=
  let shape := fieldAt bs 0x20 4
  let span := fieldAt bs 0x2C 4
  { entry := fieldAt bs 0 8, args := BitVec.ofNat 64 (fieldAt bs 8 8), completion := fieldAt bs 16 8
    tag := fieldAt bs 0x18 4, groups := fieldAt bs 0x1C 4 % 2 ^ 24, ctx := shape / 2 ^ 24 % 64
    regs := shape / 2 ^ 12 % 64, persist := shape / 2 ^ 11 % 2 == 1, prio := shape / 256 % 8
    gang := shape / 32 % 8 + 1, waves := shape % 32 + 1, pool := BitVec.ofNat 32 (fieldAt bs 0x24 4)
    spanKey := fieldAt bs 0x28 4, spanFirst := span % 128, spanMembers := span / 256 % 128 + 1
    spanDevices := span / 65536 % 16 + 1
    deps := ((List.range 4).map (fun i => fieldAt bs (0x30 + 4 * i) 4)).filter (· != 0) }

/-- Whether the reserved fields of a launch record are 0. -/
def recordClean (bs : List Byte) : Bool :=
  fieldAt bs 0x1C 4 / 2 ^ 24 == 0 && fieldAt bs 0x20 4 / 2 ^ 30 == 0 && fieldAt bs 0x20 4 / 2 ^ 18 % 64 == 0
    && fieldAt bs 0x24 4 / 2 ^ 23 == 0 && fieldAt bs 0x24 4 / 2 ^ 15 % 2 == 0 && fieldAt bs 0x24 4 / 128 % 2 == 0
    && (if fieldAt bs 0x28 4 = 0 then fieldAt bs 0x2C 4 == 0
        else fieldAt bs 0x2C 4 / 2 ^ 20 == 0 && fieldAt bs 0x2C 4 / 128 % 2 == 0 && fieldAt bs 0x2C 4 / 2 ^ 15 % 2 == 0)

/-- Whether a pool partition word suits the waves and registers of a record (R113). -/
def Record.poolOk (r : Record) : Bool :=
  let g := regUnits r.pool
  let a := accUnits r.pool
  let p := r.pool.toNat % 128
  decide (1 ≤ g) && decide (a ≤ 48) && decide (g + a + p ≤ 96) && decide (r.waves * regCount r.regs ≤ g * 128)

/-- The checks of R450 on a record for a context. -/
def State.recordOk (s : State) (ctx : Nat) (bs : List Byte) : Bool :=
  let r := Record.ofBytes bs
  recordClean bs && codeAddrOk r.entry && r.completion % 8 == 0 && r.tag != 0 && r.groups != 0 && r.groups % r.gang == 0
    && decide (10 ≤ r.regs) && r.ctx == ctx && r.poolOk && (s.launchTag ctx r.tag).isNone

/-! ## Segments (R75, R434) -/

/-- SEGMENT_LINK (R75, R458): KILN links a segment after a full tail that a push waits for, and makes the pushes it
holds. What a tail address of 0 means is not stated: the segment is linked as the first, head and tail. DESIGN CHOICE (log 109).
A tail whose entries have all been popped is then no longer the tail: the head moves past it. -/
def execSegmentLink (ctx queue seg : Nat) (s : State) : Out :=
  let ag := s.agentFor ctx
  let held (h : HeldPush) : Bool := h.ctx == ctx && h.queue.toNat == queue
  if !s.kilnUp || !(s.kiln.heldPushes.any held || s.pendingPushes.contains (ctx, queue)) then .next s
  else match s.ctx ctx, s.queue ag queue with
    | some c, .ok (s1, q) =>
      let tail := if q.tail = 0 then some 0 else match s1.segment ag q.tail with
        | .ok (_, _, first) => if q.per ≤ q.push - first then some first else none
        | .error _ => none
      match tail with
      | none => .next s
      | some first =>
        if seg = 0 ∨ seg % 64 ≠ 0 ∨ !c.arenaFree seg q.segSize
            ∨ 2 ^ 28 < (s.tenant c.tenant).quotaUsed + q.segSize then .next s
        else
          let spent := q.tail != 0 && q.head == q.tail && decide (q.per ≤ q.pop - first)
          let s2 := s1.setObj ag .ten seg (leBytes 0 8 ++ leBytes q.push 8)
          let s3 := if q.tail = 0 then s2 else s2.putNum ag q.tail 8 seg
          let s4 := s3.putNum ag (queue + 8) 8 seg
          let s5 := if q.tail = 0 ∨ spent then s4.putNum ag queue 8 seg else s4
          let s6 := (s5.modCtx ctx (fun c => { c with segments := c.segments ++ [(seg, q.segSize)]
                                                      arenaTaken := c.arenaTaken ++ [(seg, q.segSize)] })).modTenant c.tenant
            (fun t => { t with quotaUsed := t.quotaUsed + q.segSize })
          let s7 := if spent then s6.returnSegment ctx q.tail else s6
          let mine := s7.kiln.heldPushes.filter held
          let s8 := { s7 with kiln := { s7.kiln with heldPushes := s7.kiln.heldPushes.filter (fun h => !held h) } }
          .next (mine.foldl (fun s h => s.pushTask ag queue h.record) s8)
    | _, _ => .next s

/-! ## Issue of the long-latency instructions

What the records, headers and entries hold, their alignment, and the scope ceiling are checked where the operation is performed,
since the lowest lane of one CODE is reported (R392) and the ceiling comes after every check of class 2 (R407). -/

/-- Lanes with a 64-bit operand that fails a test: the lowest. -/
def Env.badLane (e : Env) (o : Opd) (p : Nat → Bool) : Option Nat := (bitsOf e.part).find? (fun l => p (e.w.rdq o l).toNat)

/-- `spawn` at issue (R280). -/
def execSpawn (g : Guard) (a b : Opd) (fs : FlagSel) (s : State) : Out :=
  issueLong (.spawn g a b fs) g fs [(a, 2), (b, 2)] [] s (fun _ => false) (fun _ => .ok s)

/-- `launch` at issue (R281). -/
def execLaunch (g : Guard) (a : Opd) (fs : FlagSel) (s : State) : Out :=
  issueLong (.launch g a fs) g fs [(a, 2)] [] s (fun _ => false) (fun _ => .ok s)

/-- `qpush` at issue (R285, R403). -/
def execQpush (g : Guard) (d a b : Opd) (form : QForm) (o : Order) (sc : Scope) (fs : FlagSel) (s : State) : Out :=
  issueLong (.qpush g d a b form o sc fs) g fs [(a, 2), (b, 2)] [(d, 2)] s (fun _ => false) (fun e =>
    match (if form = .rsv then none else e.badLane b (fun x => x % 16 != 0)) with
    | some l => .error (illegalIn 0x09 2 l)
    | none => .ok s)

/-- `qpop` at issue (R286, R403). -/
def execQpop (g : Guard) (d a b : Opd) (o : Order) (sc : Scope) (fs : FlagSel) (s : State) : Out :=
  issueLong (.qpop g d a b o sc fs) g fs [(a, 2), (b, 2)] [(d, 2)] s (fun _ => false) (fun e =>
    match e.badLane b (fun x => x % 16 != 0) with
    | some l => .error (illegalIn 0x09 2 l)
    | none => .ok s)

/-! ## Performance of the long-latency instructions -/

/-- Acting in lanes one after another: the state, the values for d, and the lanes left where one has to wait. -/
def actLanes (f : State → Nat → Except Bad (State × Option W64)) :
    List Nat → State → Except Bad (State × List (Nat × W64) × List Nat)
  | [], s => .ok (s, [], [])
  | l :: r, s => match f s l with
    | .error b => .error b
    | .ok (s1, none) => .ok (s1, [], l :: r)
    | .ok (s1, some v) => match actLanes f r s1 with
      | .error b => .error b
      | .ok (s2, vs, left) => .ok (s2, (l, v) :: vs, left)

/-- A lift of an object error into a cause. -/
def orBad {α : Type} (l : Nat) (x : Except ObjErr α) : Except Bad α :=
  match x with | .ok v => .ok v | .error e => .error (objBad e l)

/-- A write that must be possible. -/
def State.needWrite (s : State) (ag : Agent) (l a n : Nat) : Except Bad Unit :=
  match s.canWrite ag a n with | none => .ok () | some e => .error (objBad e l)

/-- What some lanes come to that stand behind one that waits: every check is made before the instruction has an effect in any lane
(R374). -/
def checkRest (f : State → Nat → Except Bad (State × Option W64)) : List Nat → State → Except Bad Unit
  | [], _ => .ok ()
  | l :: r, s => match f s l with
    | .error b => .error b
    | .ok (s1, _) => checkRest f r s1

/-- Acting in lanes for the first time: the lanes from one that has to wait on are checked all the same. -/
def actFirst (f : State → Nat → Except Bad (State × Option W64)) (ls : List Nat) (s : State) :
    Except Bad (State × List (Nat × W64) × List Nat) :=
  match actLanes f ls s with
  | .error b => .error b
  | .ok (s1, vs, left) => match checkRest f left s1 with
    | .error b => .error b
    | .ok () => .ok (s1, vs, left)

/-- A lane that goes on after others have acted raises no cause, since it would have to leave them without effect (R374): while the
queue cannot be reached, it waits as for a segment. DESIGN CHOICE (log 142). -/
def patient (f : State → Nat → Except Bad (State × Option W64)) (s : State) (l : Nat) : Except Bad (State × Option W64) :=
  match f s l with
  | .error _ => .ok (s, none)
  | .ok x => .ok x

/-- A queue header that an instruction reads (R393). What a header means that is not aligned to 64 bytes, whose entry size is no
multiple of 16 from 16 to 256, or whose entries per segment are no power of two from 16 to 65,536 (R74), is not stated, since R403
names no such cause for `qpush` and `qpop`: its values are taken as found. DESIGN CHOICE (log 143). -/
def State.headerOf (s : State) (ag : Agent) (l hdr : Nat) : Except Bad (State × Queue) :=
  match s.queue ag hdr with
  | .error e => .error (objBad e l)
  | .ok (s1, q) => if q.clean then .ok (s1, q) else .error (illegalIn 0x0F 2 l)

/-- A scope under the ceiling, where `qpush` and `qpop` are performed (R407). -/
def State.opCeil (s : State) (u : Nat) (ag : Agent) (sc : Scope) (detail : Nat) : Except Bad State :=
  match s.ctx ag.ctx with
  | some c => if sc = .sys ∧ c.cap then
      (if c.strict then .error ⟨7, 1, detail, 0xFF, none⟩ else .ok (s.modWave u (fun w => { w with note := true })))
    else .ok s
  | none => .ok s

/-- The scope of an instruction and those of its lanes' queues under the ceiling. -/
def State.ceilLanes (s : State) (u : Nat) (ag : Agent) (o : Op) (sc : Scope) (ls : List Nat) : Except Bad State := do
  let s0 ← s.opCeil u ag sc 0
  let (s1, _, _) ← actLanes (fun s l => do
    let (s1, q) ← s.headerOf ag l (o.val64 0 l).toNat
    let s2 ← s1.opCeil u ag q.scope 2
    .ok (s2, some 0)) ls s0
  .ok s1

/-- What an operation comes to under the ceiling, which is checked after everything of class 2 (R407). -/
def underCeil {α : Type} (ceil : Except Bad State) (act : State → Except Bad α) (s : State) : Except Bad α :=
  match act s with
  | .error b => if b.cls = 2 then .error b else (match ceil with | .error c => .error c | .ok _ => .error b)
  | .ok _ => match ceil with | .error c => .error c | .ok s1 => act s1

/-- The checks of one lane of `spawn` (R280, R403). -/
def State.spawnCheck (s : State) (ag : Agent) (o : Op) (l : Nat) : Except Bad (State × Option W64) := do
  let tr := (o.val64 0 l).toNat
  if tr % 64 ≠ 0 ∨ (bitsOf o.lanes).any (fun k => decide (k < l) && o.val64 0 k == o.val64 0 l) then .error (illegalIn 0x0F 1 l)
  else
    let (s1, r) ← orBad l (s.taskRec ag tr)
    s1.needWrite ag l (tr + 0x20) 32
    if r.state ≠ 0 ∨ !r.shapeOk then .error (illegalIn 0x0F 1 l)
    else
      let (s2, q) ← s1.headerOf ag l (o.val64 1 l).toNat
      if q.esize ≠ 16 then .error (illegalIn 0x0F 2 l) else .ok (s2, some 0)

/-- Writing what `spawn` writes in a record (R280, R87). -/
def State.spawnWrite (s : State) (ag : Agent) (grp : Nat) (o : Op) (l : Nat) : State :=
  let tr := (o.val64 0 l).toNat
  let num := ((s.group grp).map (·.number)).getD 0
  let tag := ((s.launchOf grp).map (·.record.tag)).getD 0
  (s.putNum ag (tr + 0x20) 4 (ag.ctx * 256)).setObj ag .ten (tr + 0x28)
    (leBytes 0 8 ++ leBytes (o.val64 1 l).toNat 8 ++ leBytes num 4 ++ leBytes tag 4)

/-- One lane's push of `spawn`, with the entry's address: none where a segment has to be linked first. -/
def State.spawnPush (s : State) (ag : Agent) (o : Op) (l : Nat) : Except Bad (State × Option W64) :=
  match s.reserve ag (o.val64 1 l).toNat with
  | .error e => .error (objBad e l)
  | .ok (s1, _, none) => .ok (s1, none)
  | .ok (s1, _, some a) => .ok (s1.putEntry ag a (o.val64 0 l).toNat 2 16, some (BitVec.ofNat 64 a))

/-- The reserved entry that a lane of `qpush.prod` names, by its ESIZE (R285, R393). -/
def State.reservedEntry (s : State) (ag : Agent) (l a : Nat) : Except Bad (State × Nat) := do
  let (s1, bs) ← orBad l (s.obj ag .ten a 16)
  let x : Waitable := ⟨fieldAt bs 0 8, fieldAt bs 8 4, fieldAt bs 12 4⟩
  let e := x.entry % 65536
  if x.state / 16 ≠ 0 ∨ x.entry / 65536 ≠ 0 then .error (illegalIn 0x0F 3 l)
  else if x.kind ≠ 2 ∨ x.st ≠ 1 ∨ e % 16 ≠ 0 ∨ e = 0 ∨ 256 < e then .error (illegalIn 0x0F 6 l)
  else .ok (s1, e)

/-- A lane's payload as an operation keeps it, 16 bytes to a value from field 2 on, and its first n bytes. -/
def payloadVals (l : Nat) (bs : List Byte) : List (Nat × W128) :=
  (List.range ((bs.length + 15) / 16)).map (fun i => (32 * (2 + i) + l, BitVec.ofNat 128 (leNat ((bs.drop (16 * i)).take 16))))
def Op.payload (o : Op) (l n : Nat) : List Byte :=
  ((List.range ((n + 15) / 16)).flatMap (fun i => leBytes (o.val (2 + i) l).toNat 16)).take n

/-- The payload of a lane of `qpush`: zeros for 120; read at the first attempt, and kept from then on where the lane waits. -/
def State.pushPayload (s : State) (ag : Agent) (o : Op) (bz : Bool) (l n : Nat) : Except Bad (State × List Byte) :=
  if bz then .ok (s, List.replicate n 0)
  else if o.checked then .ok (s, o.payload l n)
  else orBad l (s.obj ag .wave (o.val64 1 l).toNat n)

/-- One lane of `qpush` by R285. An entry address of `.prod` that is not aligned to 16 bytes, of which R285 and R403 name no cause,
is used as it stands. DESIGN CHOICE (log 144). -/
def State.qpushLane (s : State) (u : Nat) (ag : Agent) (o : Op) (form : QForm) (bz : Bool) (ord : Order) (sc : Scope)
    (l : Nat) : Except Bad (State × Option W64) := do
  let a := (o.val64 0 l).toNat
  let produce (s : State) (ent : Nat) (bs : List Byte) : State :=
    ((s.setObj ag .ten (ent + 16) bs).before ag ord (s.capScope ag.ctx sc)).putNum ag (ent + 8) 4 10
  if form = .prod then
    let (s1, e) ← s.reservedEntry ag l a
    s1.needWrite ag l a e
    let (s2, p) ← s1.pushPayload ag o bz l (e - 16)
    .ok (produce s2 a p, some (BitVec.ofNat 64 a))
  else
    let (s1, q) ← s.headerOf ag l a
    let (s3, p) ← if form = .rsv then .ok (s1, []) else s1.pushPayload ag o bz l (q.esize - 16)
    match s3.reserve ag a with
    | .error e => .error (objBad e l)
    | .ok (s4, _, none) => .ok (s4, none)
    | .ok (s4, _, some ent) =>
      let owner := ((s.wave u).map (fun w => w.task.record.toNat)).getD 0
      let s5 := s4.putEntry ag ent owner 1 q.esize
      .ok (if form = .rsv then s5 else produce s5 ent p, some (BitVec.ofNat 64 ent))

/-- One lane of `qpop` by R286. -/
def State.qpopLane (s : State) (ag : Agent) (o : Op) (bz : Bool) (ord : Order) (sc : Scope) (l : Nat) :
    Except Bad (State × Option W64) := do
  let hdr := (o.val64 0 l).toNat
  let dst := (o.val64 1 l).toNat
  let (s1, q) ← s.headerOf ag l hdr
  let (s3, _, h) ← orBad l (s1.headEntry ag hdr)
  match h with
  | none => .ok (s3, some 0)
  | some h =>
    let s4 := s3.after ag ord (s.capScope ag.ctx sc)
    if h.state / 16 ≠ 0 ∨ h.word / 65536 ≠ 0 then .error (illegalIn 0x0F 3 l)
    else if h.state % 4 ≠ 2 then .ok (s4, some 0)
    else
      let (s5, bs) ← (if bz then .ok (s4, []) else orBad l (s4.obj ag .ten (h.addr + 16) (q.esize - 16)))
      (if bz then .ok () else s5.needWrite ag l dst (q.esize - 16))
      s5.needWrite ag l (h.addr + 8) 4
      s5.needWrite ag l hdr 24
      let s6 := if bz then s5 else s5.setObj ag .wave dst bs
      .ok (s6.popEntry ag hdr h, some (BitVec.ofNat 64 h.owner))

/-- Performing a `spawn`, `qpush` or `qpop` for every lane still to do. The first time the checks of all of them are made, and a
cause leaves no effect (R374); lanes that wait for a segment stay to be done. -/
def State.queueOp (s : State) (u : Nat) (ag : Agent) (grp : Nat) (o : Op) : Except Bad (State × List (Nat × W64) × List Nat) :=
  let ls := bitsOf o.todo
  let hdrs := ls.filterMap (fun l => o.pushHdr l)
  let quota (s : State) : Except Bad Unit := if s.quotaOk ag hdrs then .ok () else .error ⟨6, 2, 0, 0xFF, none⟩
  match o.instr with
  | .spawn .. =>
    let push (s : State) (l : Nat) := s.spawnPush ag o l
    if o.checked then actLanes (patient push) ls s
    else do
      let (s1, _, _) ← actLanes (fun s l => s.spawnCheck ag o l) ls s
      quota s1
      actFirst push ls (ls.foldl (fun s l => s.spawnWrite ag grp o l) (s1.release ag .ten))
  | .qpush _ _ _ b form ord sc _ =>
    let push (s : State) (l : Nat) := s.qpushLane u ag o form (b == .zero) ord sc l
    if o.checked then actLanes (patient push) ls s
    else underCeil (if form = .prod then s.opCeil u ag sc 0 else s.ceilLanes u ag o sc ls) (fun s => do
      let (s1, _, _) ← (if form = .prod then .ok (s, [], []) else
        actLanes (fun s l => do let (s1, _) ← s.headerOf ag l (o.val64 0 l).toNat; .ok (s1, some 0)) ls s)
      quota s1
      actFirst push ls s1) s
  | .qpop _ _ _ b ord sc _ =>
    underCeil (s.ceilLanes u ag o sc ls) (actLanes (fun s l => s.qpopLane ag o (b == .zero) ord sc l) ls) s
  | _ => .ok (s, [], [])

/-- The values of an operation with the payloads of its lanes that wait for a segment. -/
def State.keptVals (s : State) (ag : Agent) (o : Op) (left : List Nat) : Store 128 :=
  match o.instr with
  | .qpush _ _ _ b .full _ _ _ =>
    if o.checked || b == .zero then o.vals
    else o.vals.setAll (left.flatMap (fun l => match s.headerOf ag l (o.val64 0 l).toNat with
      | .ok (s1, q) => (match s1.obj ag .wave (o.val64 1 l).toNat (q.esize - 16) with
        | .ok (_, bs) => payloadVals l bs
        | .error _ => [])
      | .error _ => []))
  | _ => o.vals

/-- A `spawn`, `qpush` or `qpop` lane by lane: each lane up to one that has to wait, with the state that it finds and the value that it
delivers, an entry's address or the Owner of the entry that a `qpop` took. -/
def State.queueLanes (s : State) (u : Nat) (ag : Agent) (grp : Nat) (o : Op) : List Nat → List (Nat × State × Option W64)
  | [] => []
  | l :: r => match s.queueOp u ag grp { o with todo := maskOf [l] } with
    | .ok (s1, [(_, v)], _) => (l, s, some v) :: State.queueLanes s1 u ag grp o r
    | .ok (s1, [], []) => (l, s, none) :: State.queueLanes s1 u ag grp o r
    | _ => [(l, s, none)]

/-- What such a lane reads: address, length and scope. A header, which says where the rest stands, comes first. -/
def State.queueReads (s : State) (ag : Agent) (o : Op) (l : Nat) : List (Nat × Nat × Scope) :=
  let a := (o.val64 0 l).toNat
  let b := (o.val64 1 l).toNat
  let header (h : Nat) (f : Queue → List (Nat × Nat × Scope)) : List (Nat × Nat × Scope) :=
    (h, 64, .ten) :: (match s.queue ag h with
      | .ok (_, q) => (h + 16, 16, s.idxScope ag q) :: f q
      | .error _ => [])
  let tail (q : Queue) : List (Nat × Nat × Scope) := if q.tail = 0 then [] else [(q.tail, 16, .ten)]
  let payload (bz : Bool) (n : Nat) : List (Nat × Nat × Scope) := if bz || o.checked then [] else [(b, n, .wave)]
  match o.instr with
  | .spawn .. => (a, 64, .ten) :: header b tail
  | .qpush _ _ _ b .prod _ _ _ => (a, 16, .ten) :: (match s.reservedEntry ag l a with
      | .ok (_, e) => payload (b == .zero) (e - 16)
      | .error _ => [])
  | .qpush _ _ _ b form _ _ _ => header a (fun q => payload (b == .zero || form == .rsv) (q.esize - 16) ++ tail q)
  | .qpop .. => header a (fun q => (if q.pop = q.push then [] else [(q.head, 16, .ten)])
      ++ (match s.headEntry ag a with
        | .ok (_, _, some h) => [(h.addr, q.esize, .ten)]
        | _ => []))
  | _ => [(a, 64, .ten)]

/-- What a lane writes that delivers a value: address, length and scope. -/
def State.queueWrites (s : State) (ag : Agent) (o : Op) (l : Nat) (v : W64) : List (Nat × Nat × Scope) :=
  let a := (o.val64 0 l).toNat
  let b := (o.val64 1 l).toNat
  let sized (h : Nat) (f : Queue → List (Nat × Nat × Scope)) : List (Nat × Nat × Scope) :=
    match s.queue ag h with
    | .ok (_, q) => f q
    | .error _ => []
  match o.instr with
  | .spawn .. => [(a + 0x20, 32, .ten), (v.toNat, 16, .ten)] ++ sized b (fun q => [(b + 0x18, 8, s.idxScope ag q)])
  | .qpush _ _ _ _ .prod _ _ _ => match s.reservedEntry ag l a with
    | .ok (_, e) => [(a, e, .ten)]
    | .error _ => []
  | .qpush .. => sized a (fun q => [(v.toNat, q.esize, .ten), (a + 0x18, 8, s.idxScope ag q)])
  | .qpop _ _ _ z _ _ _ => match s.headEntry ag a with
    | .ok (_, q, some h) => if v = 0 then []
      else (if z == .zero then [] else [(b, q.esize - 16, .wave)]) ++ [(h.addr + 8, 4, .ten), (a + 0x10, 8, s.idxScope ag q)]
    | _ => []
  | _ => []

/-- The first address of n bytes at which a request satisfies q, sector by sector. -/
def firstAt (q : Nat → Bool) (a n : Nat) : Option Nat :=
  (a :: (List.range (n / 128 + 1)).map (fun i => (a / 128 + i + 1) * 128)).find? (fun x => decide (x < a + n) && q x)

/-- Of the lanes of a queue's operation those one of whose writes satisfies q, given its point and place, with the address. -/
def State.queueHits (ag : Agent) (o : Op) (vs : List (Nat × State × Option W64)) (q : State → Point → Place → Bool) : List (Nat × Nat) :=
  vs.filterMap (fun x => x.2.2.bind (fun v => (x.2.1.queueWrites ag o x.1 v).findSome? (fun y =>
    (firstAt (fun a => match x.2.1.translate ag a .write with
      | .ok (p, at_) => q x.2.1 (writePoint (pointOf y.2.2 p) p at_) p
      | .error _ => false) y.1 y.2.1).map (fun a => (x.1, a)))))

/-- Whether a write is sent to its home on a route that is lost (R421). -/
def State.sentLost (s : State) (ag : Agent) (pt : Point) (p : Place) : Bool :=
  pt == .home && !s.viral ag.ctx && p.dest.any (fun d => (s.destErr d).any (fun e => e.detail == 2))

/-- The launch records of an operation's lanes, read by KILN (R281, R459). One that is not aligned has no bytes, and fails its
checks (R403). -/
def State.readRecords (s : State) (ag : Agent) (o : Op) : List Nat → Except Bad (State × List (Nat × List Byte))
  | [] => .ok (s, [])
  | l :: r => match (if (o.val64 0 l).toNat % 64 = 0 then s.obj ag .ten (o.val64 0 l).toNat 64 else .ok (s, [])) with
    | .error e => .error (objBad e l)
    | .ok (s1, bs) => match s1.readRecords ag o r with
      | .error b => .error b
      | .ok (s2, x) => .ok (s2, (l, bs) :: x)

/-- The lowest lane whose record fails (R281). -/
def State.badRecord (s : State) (ctx : Nat) (xs : List (Nat × List Byte)) : Option Nat :=
  (xs.find? (fun x => !s.recordOk ctx x.2 || xs.any (fun y => decide (y.1 < x.1)
    && (Record.ofBytes y.2).tag == (Record.ofBytes x.2).tag))).map (·.1)

/-! ## The await decision (R91, R92, R98) -/

/-- The lane whose operand `await`, `lock.take` and `park` use: the lowest live lane of the lowest live slice (R91). -/
def Wave.awaitLane (w : Wave) : Option Nat :=
  (List.range 32).find? (fun l => !(w.slice (l / 4)).exited.getLsbD (l % 4))

/-- The live lanes of a wave. -/
def Wave.liveLanes (w : Wave) : W32 := maskOf ((List.range 32).filter (fun l => !(w.slice (l / 4)).exited.getLsbD (l % 4)))

/-- Whether a record is that of a root task of a context's waves (R84). -/
def State.isRoot (s : State) (ctx : Nat) (tr : W64) : Bool :=
  s.kiln.waves.any (fun x => s.ctxNo x.2.group == ctx && ((x.2.task.root && x.2.task.record == tr)
    || x.2.chain.any (fun h => h.task.root && h.task.record == tr)
    || (match x.2.root with | some (t, _) => t.record == tr | none => false)))

/-- Whether a slot can take a task: it is Unstarted, or Parked with no push that names it still held (R458). -/
def State.takeable (s : State) (ctx tr : Nat) (r : TaskRec) : Bool :=
  r.st == 0 || (r.st == 4 && !s.kiln.heldPushes.any (fun h => h.ctx == ctx && h.record.toNat == tr)
    && s.kiln.parked.any (fun p => p.ctx == ctx && p.task.record.toNat == tr && p.waits.isNone))

/-- Nothing is kept of an earlier task with the record of one that has never run. -/
def State.dropStale (s : State) (ctx tr : Nat) (r : TaskRec) : State :=
  if r.st = 0 then
    { s with kiln := { s.kiln with parked := s.kiln.parked.filter (fun p => !(p.ctx == ctx && p.task.record.toNat == tr)) } }
  else s

/-- Whether a task fits the slot of a wave (R98). -/
def State.fits (s : State) (w : Wave) (tr : Nat) (r : TaskRec) : Bool :=
  r.ctx == s.ctxNo w.group && decide (regCount r.regs ≤ w.alloc) && !s.isRoot (s.ctxNo w.group) (BitVec.ofNat 64 tr)
    && (!r.gbind || (some r.ogroup == (s.group w.group).map (·.number)
      && some r.olaunch == (s.launchOf w.group).map (·.record.tag)))

/-- What a wait on a waitable comes to. -/
inductive Decision
  | ready (pd : Bool)
  | adopt (owner : Nat) (r : TaskRec)
  | wait
  deriving DecidableEq, Repr

/-- Taking a lock for a task (R90). -/
def State.takeLock (s : State) (ag : Agent) (a : Nat) (tr : W64) : State :=
  (s.putNum ag a 8 tr.toNat).putNum ag (a + 8) 4 5

/-- The decision on a waitable that is not ready (R92, R393, R430). -/
def State.decideOwner (s : State) (w : Wave) (ag : Agent) (l : Nat) (x : Waitable) : Except Bad (State × Decision) :=
  let chain := w.task.record.toNat :: w.chain.map (fun h => h.task.record.toNat)
  if x.owner = 0 ∨ x.owner % 64 ≠ 0 then .ok (s, .wait)
  else match chain.findIdx? (· == x.owner) with
    | some k => .error ⟨6, 1, k, 0xFF, none⟩
    | none => match s.taskRec ag x.owner with
      | .error e => .error (objBad e l)
      | .ok (s1, r) =>
        if 8 ≤ r.st then .ok (s1, .wait)
        else if r.state / 2 ^ 14 ≠ 0 ∨ r.shape / 1024 ≠ 0 then .error (illegalIn 0x0F 1 l)
        else if r.st = 6 then .error ⟨6, 6, x.kind, 0xFF, none⟩
        else if (r.st = 0 ∨ r.st = 4) ∧ s1.fits w x.owner r ∧ w.chain.length < 4 ∧ s1.takeable ag.ctx x.owner r then
          .ok (s1, .adopt x.owner r)
        else .ok (s1, .wait)

/-- Whether the 8 bytes of a future after its value, which are reserved, are 0 (R89, R393). -/
def State.futureClean (s : State) (ag : Agent) (l a : Nat) (x : Waitable) : Except Bad Unit :=
  if x.kind ≠ 0 then .ok ()
  else match s.obj ag .ten (a + 24) 8 with
    | .error e => .error (objBad e l)
    | .ok (_, bs) => if leNat bs = 0 then .ok () else .error (illegalIn 0x0F 3 l)

/-- Whether the records can be written that a decision changes (R459). -/
def State.canDecide (s : State) (w : Wave) (ag : Agent) (l : Nat) : Decision → Except Bad Unit
  | .ready _ => .ok ()
  | .wait => s.needWrite ag l (w.task.record.toNat + 0x20) 16
  | .adopt o _ => match s.needWrite ag l (o + 0x20) 16 with
    | .error b => .error b
    | .ok () => s.needWrite ag l (w.task.record.toNat + 0x20) 16

/-- The decision of `await` and `lock.take` with the waitable read (R90, R92, R282). -/
def State.decideWait (s : State) (w : Wave) (ag : Agent) (lock : Bool) (l a : Nat) : Except Bad (State × Decision) :=
  match s.waitable ag a with
  | .error e => .error (objBad e l)
  | .ok (s1, x) =>
    if !x.ok ∨ (lock ∧ x.kind ≠ 1) then .error (illegalIn 0x0F 3 l)
    else match s1.futureClean ag l a x with
      | .error b => .error b
      | .ok () =>
        if x.ready then
          if lock then match s1.canWrite ag a 16 with
            | some e => .error (objBad e l)
            | none => .ok (s1, .ready true)
          else .ok (s1, .ready (!(x.kind == 0 && x.st == 2)))
        else match s1.decideOwner w ag l x with
          | .error b => .error b
          | .ok (s2, d) => match s2.canDecide w ag l d with
            | .error b => .error b
            | .ok () => .ok (s2, d)

/-! ## Giving up and taking a slot -/

/-- The running task of a wave is kept in its park area, as it stands now. -/
def State.keepRunning (s : State) (u : Nat) (ag : Agent) (home : W64) (waits : Option W64) : State :=
  match s.wave u with
  | none => s
  | some w => s.keepTask ag w.task.still home waits

/-- The running task becomes Waiting on a waitable (R99); an adopted one thereby ends its adoption (R94). What its Helper field then
holds is not stated (R95 and R101 do so for a task that is parked or faulted): it becomes 0. DESIGN CHOICE (log 107). -/
def State.giveUp (s : State) (u : Nat) (lock : Bool) (pd : Fin 8) (a : W64) : State :=
  match s.wave u with
  | none => s
  | some w =>
    let ag := s.agentOf w.group
    let tr := w.task.record.toNat
    let s1 := (s.release ag .ten).putState ag tr 0 3
    if w.task.root then
      (s1.writeImage ag w.task.still []).modWave u (fun w =>
        { w with root := some (w.task.still, some (lock, pd, a)), rootReady := false, ended := some .waiting })
    else
      ((s1.putHelper ag tr 0).keepRunning u ag (BitVec.ofNat 64 (s1.homeOf ag tr)) (some a)).modWave u
        (fun w => { w with ended := some .waiting })

/-- The slices of a task that comes to a slot: their last issue counts anew, by the clock of the slot's partition
(R73). DEDUCED (log 71). -/
def State.arriving (s : State) (u : Nat) (t : TaskCtx) : TaskCtx :=
  match s.wave u with
  | none => t
  | some w =>
    let now := s.slotClock (s.coreOf w.group) (w.wid % 4)
    { t with slices := t.slices.map (fun x => { x with lastIssue := now, readySince := none }) }

/-- A task starts or goes on in a slot at a class, above a chain: fresh, or from its park area; one whose record or park area holds
a value out of range is killed (R88, R445). -/
def State.runTask (s : State) (u : Nat) (ag : Agent) (tr : Nat) (r : TaskRec) (cls : Nat) (chain : List Helper) : State :=
  let mine (p : ParkedTask) : Bool := p.ctx == ag.ctx && p.task.record.toNat == tr
  let kept : TaskCtx := match s.kiln.parked.find? mine with
    | some p => { p.task with cls := cls }
    | none => .fresh (BitVec.ofNat 64 tr) r.args r.entry r.regs cls false
  let (s1, t, recs) := if s.kiln.parked.any mine then s.readImage ag kept [] else (s, kept, [])
  let s2 : State := { s1 with kiln := { s1.kiln with parked := s1.kiln.parked.filter (fun p => !mine p) } }
  let below := (s2.chainOf ag chain (recs ++ chain.map (fun h => h.task.record.toNat)))
  let s3 := s2.modWave u (fun w =>
    { w with task := s2.arriving u t, chain := below.getD chain, adopting := none, ended := none })
  if !r.shapeOk ∨ !s2.imageOk ag kept t ∨ below.isNone then s3.taskFault u true else s3.wake u

/-- The first step of R93: a wave takes an owner for its wait, which no other unit can take from then on (R86). -/
def State.claim (s : State) (u : Nat) (ag : Agent) (lock : Bool) (pd : Fin 8) (a : W64) (owner : Nat) (r : TaskRec) : State :=
  match s.wave u with
  | none => s
  | some w =>
    ((((s.dropStale ag.ctx owner r).putState ag owner (w.chain.length + 1) 2).putHelper ag owner w.task.record.toNat)).modWave u
      (fun w => { w with adopting := some ⟨BitVec.ofNat 64 owner, lock, pd, a, none, false⟩ })

/-- The steps of R93 after the first, once nothing is outstanding for the wave. -/
def State.adopt (s : State) (u : Nat) (c : Claim) (r : TaskRec) : State :=
  match s.wave u with
  | none => s
  | some w =>
    let ag := s.agentOf w.group
    let s1 := ((s.release ag .ten).putState ag w.task.record.toNat w.chain.length 7).writeImage ag (w.task.helping c.lock c.pd c.addr)
      (w.chain.map (fun h => h.task.record.toNat))
    let w1 := (s1.wave u).getD w
    (s1.runTask u ag c.owner.toNat r (max r.prio (s.waveClass w))
      (⟨w1.task.still, c.lock, c.pd, c.addr, c.status, c.past⟩ :: w1.chain)).acquire ag .ten

/-- The awaiting strand of a wave: the guard and the lanes of the instruction at which it stands. -/
def Wave.waitLanes (w : Wave) : W32 :=
  let act := w.activeLanes w.liveSlices
  match (w.slice ((bitsOf w.liveSlices).headD 0)).clause with
  | some c => match decodeWords c.rest with
    | .ok (.await g _ _, _) | .ok (.lockTake g _ _, _) => w.participants g act
    | _ => act
  | none => act

/-- The precise stop of a wave that waits in `await` or `lock.take`: it leaves the wait, and stands at its instruction. -/
def State.stopAwait (s : State) (u : Nat) (w : Wave) (b : Bad) : State :=
  (s.modWave u (fun w => w.modSlices w.liveSlices (fun x => { x with wait := none }))).stopWave u
    (b.req none w.liveSlices (w.pcOf w.liveSlices) w.waitLanes)

/-! ## The end of an adoption (R94 to R97, R101) -/

/-- Whether the wait of a helper is over: its waitable is ready or has been (R94, R433), or the lock was taken for it. -/
def State.helperReady (s : State) (ag : Agent) (h : Helper) : Bool :=
  h.past || h.status == some true || s.waitReady ag h.addr.toNat

/-- The outermost helper of a wave whose wait is over. -/
def State.readyHelper (s : State) (w : Wave) : Option Nat :=
  (List.range w.chain.length).reverse.find? (fun k => match w.chain[k]? with
    | some h => s.helperReady (s.agentOf w.group) h
    | none => false)

/-- What the monitors of helpers, of tasks that are about to help, and of Waiting tasks see at a moment is kept (R94, R99, R433). -/
def State.notePast (s : State) : State :=
  let seen (ag : Agent) (h : Helper) : Helper := if h.past then h else { h with past := s.waitReady ag h.addr.toNat }
  { s with kiln := { s.kiln with
      waves := s.kiln.waves.map (fun x =>
        let ag := s.agentOf x.2.group
        (x.1, { x.2 with chain := x.2.chain.map (seen ag)
                         adopting := x.2.adopting.map (fun c => { c with past := c.past || s.waitReady ag c.addr.toNat })
                         rootReady := x.2.rootReady || (match x.2.root with
                           | some (_, some (_, _, a)) => s.waitReady ag a.toNat
                           | _ => false) }))
      parked := s.kiln.parked.map (fun p => { p with past := p.past || (match p.waits with
        | some a => s.waitReady (s.agentFor p.ctx) a.toNat
        | none => false) }) } }

/-- A task that completes its wait: every live lane's PD is written and it stands after the instruction. -/
def Wave.finishWait (w : Wave) (pd : Fin 8) (v : Bool) : Wave :=
  (w.setPreds w.liveLanes pd.val (fun _ => v)).resume w.liveSlices

/-- A helper's task as it is parked: one for which the lock was taken has completed its wait. -/
def Wave.helperTask (w : Wave) (h : Helper) : TaskCtx :=
  if h.status = some true then ({ w with task := h.task }.finishWait h.pd true).task else h.task

/-- Whether a running task may be parked: every strand stands at a clause boundary or in a wait (R52, R190). DEDUCED
(log 121). -/
def Wave.atRest (w : Wave) : Bool := w.strands.all (fun n => (w.slice n).clause.isNone || (w.slice n).wait.isSome)

/-- The running task leaves the waits that other waves see: its arrivals in latches, its place before the token. -/
def State.leaveWaits (s : State) (u : Nat) : State := (s.withdraw u).dropTakes u

/-- The helper whose adoption ends now: the innermost one where the running task has left, or the outermost whose wait is
over. While the wave is halted for the debugger the end is put off until it goes on (R389, R436). DESIGN CHOICE (log 141). -/
def State.endingHelper (s : State) (u : Nat) (w : Wave) : Option (Nat × Helper) :=
  let which := if w.ended.isSome then (if w.chain.isEmpty then none else some 0)
    else if w.atRest then s.readyHelper w else none
  if w.stop.isSome || w.halted || w.depth != 0 || w.adopting.isSome || !s.drained u then none
  else which.bind (fun k => (w.chain[k]?).map (fun h => (k, h)))

/-- A task of a wave is parked at the end of an adoption, as it stands now. -/
def State.parkFrom (s : State) (u : Nat) (ag : Agent) (f : Wave → Option TaskCtx) : State :=
  match (s.wave u).bind f with
  | none => s
  | some t => s.parkTask ag t

/-- A task that stood aside from a slot is restored there from its park area above the rest of a chain, at its wait; one whose
record or area holds a value out of range is killed (R96, R445). `bad` says that its record held a reserved STATE. -/
def State.resumeTask (s : State) (u : Nat) (ag : Agent) (kept : TaskCtx) (rest : List Helper) (bad : Bool) : State :=
  let (s1, t, recs) := s.readImage ag kept (rest.map (fun h => h.task.record.toNat))
  let below := s1.chainOf ag rest recs
  let s2 := s1.modWave u (fun w => { w with task := t.still, chain := below.getD rest, ended := none })
  if bad ∨ !s1.imageOk ag kept t ∨ below.isNone then s2.taskFault u true else s2.acquire ag .ten

/-- Deeper tasks are parked, the deepest first, and a helper is restored from its park area at its wait (R95, R96). -/
def State.resumeHelper (s : State) (u : Nat) (w : Wave) (k : Nat) (h : Helper) : State :=
  let ag := s.agentOf w.group
  let s0 := (s.leaveWaits u).release ag .ten
  let s1 := if w.ended.isSome then s0 else s0.parkFrom u ag (fun w => some w.task.still)
  let s2 := (List.range k).foldl (fun s j => s.parkFrom u ag (fun w => (w.chain[j]?).map w.helperTask)) s1
  let left := w.chain.length - (k + 1)
  let tr := h.task.record.toNat
  let s3 := s2.putState ag tr left (if left = 0 then 1 else 2)
  let now := ((s3.wave u).map (·.chain)).getD w.chain
  s3.resumeTask u ag ((now[k]?).getD h).task (now.drop (k + 1)) (s2.badState ag tr)

/-- A resumed helper completes its wait with a status, or decides again by R92 (R96). An error that pends is reported first, and a
cause raised, where the instruction is executed again (R383). -/
def State.helperGoesOn (s : State) (u : Nat) (h : Helper) : State :=
  match s.wave u with
  | none => s
  | some w =>
    let ag := s.agentOf w.group
    let a := h.addr.toNat
    let fin (s : State) (v : Bool) : State := s.modWave u (fun w => w.finishWait h.pd v)
    if w.ended.isSome then s
    else match h.status with
      | some v => fin s v
      | none => if !w.pending.isEmpty then s
        else match s.decideWait w ag h.lock (w.awaitLane.getD 0) a with
          | .error _ => s
          | .ok (s1, .ready v) => fin (if h.lock then s1.takeLock ag a w.task.record else s1) v
          | .ok (s1, .adopt o r) => (s1.claim u ag h.lock h.pd h.addr o r).modWave u (fun w =>
              w.modSlices w.liveSlices (fun x => { x with wait := some (.await h.lock h.pd h.addr) }))
          | .ok (s1, .wait) => s1.giveUp u h.lock h.pd h.addr

/-- The end of an adoption, with the ends that follow from it at once where a helper waits in its turn. -/
def State.endAdoption (u : Nat) : Nat → State → State
  | 0, s => s
  | fuel + 1, s => match s.wave u with
    | none => s
    | some w => match s.endingHelper u w with
      | none => s
      | some (k, h) => State.endAdoption u fuel ((s.resumeHelper u w k h).helperGoesOn u h)

/-- Every adoption that ends now. -/
def State.settleAdoption (s : State) (u : Nat) : State :=
  State.endAdoption u (((s.wave u).map (·.chain.length)).getD 0) s

/-- ADOPTION_END (R94 to R97): the running task has left, or a helper's waitable is ready. -/
def execAdoptionEnd (core wid : Nat) (s : State) : Out :=
  match s.waveAt core wid with
  | none => .next s
  | some (u, _) => .next (s.settleAdoption u)

/-! ## `await`, `lock.take` and `park` -/

/-- ADOPT: a wave that stands in `await` or `lock.take` with nothing outstanding starts the task that it has taken; or it
decides anew and takes one, gives up the slot, executes its wait again, or traps (R92, R93, R99). -/
def execAdopt (core wid : Nat) (s : State) : Out :=
  match s.waveAt core wid with
  | none => .next s
  | some (u, w) =>
    let live := w.liveSlices
    match (w.slice ((bitsOf live).headD 0)).wait, w.awaitLane with
    | some (.await lock pd a), some l =>
      if !s.awake w || !s.drained u then .next s
      else
        let ag := s.agentOf w.group
        let clear (s : State) : State := s.modWave u (fun w => w.modSlices live (fun x => { x with wait := none }))
        match w.adopting with
        | some c => match s.taskRec ag c.owner.toNat with
          | .error e => .next ((s.stopAwait u w (objBad e l)).unclaim u)
          | .ok (s1, r) => .next (s1.adopt u c r)
        | none => match s.decideWait w ag lock l a.toNat with
          | .error b => .next (s.stopAwait u w b)
          | .ok (s1, .ready _) => .next (clear s1)
          | .ok (s1, .wait) => .next ((s1.giveUp u lock pd a).settleAdoption u)
          | .ok (s1, .adopt o r) => .next ((s1.claim u ag lock pd a o r).adopt u ⟨BitVec.ofNat 64 o, lock, pd, a, none, false⟩ r)
    | _, _ => .next s

/-- The checks that `await`, `lock.take` and `park` share (R91, R402), and the lane whose operand they use. -/
def Env.awaitBad (e : Env) (a : Opd) : Except Bad (Option (Nat × Nat)) :=
  if e.w.task.wide.isSome then .error (illegal 0x06 3)
  else if !e.whole then .error (illegal 0x06 4)
  else if e.inHandler then .error (illegal 0x06 6)
  else match e.w.awaitLane with
    | none => .ok none
    | some l => match e.w.poisonLane [(a, 2)] (maskOf [l]) with
      | some k => .error (poisonBad k)
      | none => .ok (some (l, (e.w.rdq a l).toNat))

/-- `await` and `lock.take` (R91, R92, R282). -/
def runAwait (i : Instr) (g : Guard) (a : Opd) (pd : Fin 8) (lock : Bool) (s : State) : Out :=
  runWait i g [] [] s (fun e => match e.awaitBad a with
    | .error b => .error b
    | .ok none => .ok (s.next e i)
    | .ok (some (l, x)) =>
      if x % 16 ≠ 0 then .error (illegalIn 0x0F 3 l)
      else match s.decideWait e.w e.ag lock l x with
        | .error b => .error b
        | .ok (s1, .ready v) =>
          let s2 := if lock then s1.takeLock e.ag x e.w.task.record else s1
          .ok (((s2.modWave e.u (fun w => w.setPreds w.liveLanes pd.val (fun _ => v))).acquire e.ag .ten).next e i)
        | .ok (s1, .adopt o r) => .ok ((s1.claim e.u e.ag lock pd (BitVec.ofNat 64 x) o r).waitIn e (.await lock pd (BitVec.ofNat 64 x)))
        | .ok (s1, .wait) =>
          let s2 := s1.waitIn e (.await lock pd (BitVec.ofNat 64 x))
          .ok (if s.drained e.u then (s2.giveUp e.u lock pd (BitVec.ofNat 64 x)).settleAdoption e.u else s2))

/-- `await` (R282). -/
def execAwait (g : Guard) (a : Opd) (pd : Fin 8) (s : State) : Out := runAwait (.await g a pd) g a pd false s

/-- `lock.take` (R282). -/
def execLockTake (g : Guard) (a : Opd) (pd : Fin 8) (s : State) : Out := runAwait (.lockTake g a pd) g a pd true s

/-- `park` (R87, R91, R287): it stalls until everything outstanding has completed; the task then stands after it. -/
def execPark (g : Guard) (a : Opd) (s : State) : Out :=
  match s.env g with
  | none => .fault .noStrand
  | some e0 => if !guardNever g && !s.drained e0.u then .next s
    else runWait (.park g a) g [] [] s (fun e => match e.awaitBad a with
      | .error b => .error b
      | .ok none => .ok (s.next e (.park g a))
      | .ok (some (l, x)) => match s.headerOf e.ag l x with
        | .error b => .error b
        | .ok (s1, q) =>
          if q.esize ≠ 16 then .error (illegalIn 0x0F 2 l)
          else match s1.needWrite e.ag l (e.w.task.record.toNat + 0x20) 32 with
          | .error b => .error b
          | .ok () =>
            let tr := e.w.task.record.toNat
            let s2 := (s1.release e.ag .ten).next e (.park g a)
            let s3 := (s2.putState e.ag tr 0 4).putHome e.ag tr x
            let leave (w : Wave) : Wave := { w with queue := some (BitVec.ofNat 64 x), ended := some .parked }
            .ok (match s2.wave e.u with
              | none => s2
              | some w =>
                if w.task.root then
                  (s3.writeImage e.ag w.task.still []).modWave e.u (fun w => { leave w with root := some (w.task.still, none) })
                else
                  (((s3.putHelper e.ag tr 0).keepRunning e.u e.ag (BitVec.ofNat 64 x) none).pushTask
                    e.ag x w.task.record).modWave e.u leave))

/-! ## Futures and locks -/

/-- `fut.set` (R283). -/
def execFutSet (g : Guard) (a b : Opd) (s : State) : Out :=
  runOrdered (.futSet g a b) g [] [(a, 2), (b, 2)] true s (fun e => match e.leader with
    | none => .ok s
    | some l =>
      let x := (e.w.rdq a l).toNat
      if x % 32 ≠ 0 then .error (illegalIn 0x0F 3 l)
      else match s.obj e.ag .ten x 32 with
        | .error er => .error (objBad er l)
        | .ok (s1, bs) =>
          let f : Waitable := ⟨fieldAt bs 0 8, fieldAt bs 8 4, fieldAt bs 12 4⟩
          if f.reserved ∨ (f.kind = 0 ∧ fieldAt bs 24 8 ≠ 0) then .error (illegalIn 0x0F 3 l)
          else if f.kind ≠ 0 ∨ f.st ≠ 0 then .error (illegalIn 0x0F 4 l)
          else match s1.canWrite e.ag x 32 with
            | some er => .error (objBad er l)
            | none => .ok (((s1.release e.ag .ten).putNum e.ag (x + 16) 8 (e.w.rdq b l).toNat).putNum e.ag (x + 8) 4 1))

/-- The tasks that wait as helpers in `lock.take` on a lock of a context: wave, task, and position in its chain, none for one that has
taken the task it is to help and is about to become Helping (R93). -/
def State.lockHelpers (s : State) (ctx : Nat) (a : W64) : List (Nat × Option Nat × W64) :=
  s.kiln.waves.flatMap (fun x => if s.ctxNo x.2.group = ctx then
    (if x.2.adopting.any (fun c => c.status.isNone && c.lock && c.addr == a) then
      [(x.1, none, x.2.task.record)] else [])
    ++ (x.2.chain.zipIdx).filterMap (fun h => if h.1.lock && h.1.addr == a && h.1.status.isNone then
      some (x.1, some h.2, h.1.task.record) else none) else [])

/-- The lock has been taken for a helper. -/
def Wave.lockTaken (w : Wave) (k : Option Nat) : Wave :=
  match k with
  | some k => { w with chain := modAt w.chain k (fun h => { h with status := some true }) }
  | none => { w with adopting := w.adopting.map (fun c => { c with status := some true }) }

/-- Whether viral mode discards what is written at an address for a context (R416). -/
def State.discards (s : State) (ag : Agent) (a : Nat) : Bool :=
  s.viral ag.ctx && (match s.translate ag a .write with
    | .ok (p, _) => p.isHome
    | .error _ => false)

/-- `lock.give` (R284): the Irwald unit takes the lock at once for a helper that waits for it; among several, which
is a free value (log 23). -/
def execLockGive (g : Guard) (a : Opd) (s : State) : Out :=
  runOrdered (.lockGive g a) g [] [(a, 2)] true s (fun e => match e.leader with
    | none => .ok s
    | some l =>
      let x := (e.w.rdq a l).toNat
      if x % 16 ≠ 0 then .error (illegalIn 0x0F 3 l)
      else match s.waitable e.ag x with
        | .error er => .error (objBad er l)
        | .ok (s1, f) =>
          if f.reserved then .error (illegalIn 0x0F 3 l)
          else if f.kind ≠ 1 ∨ f.st ≠ 1 ∨ f.owner ≠ e.w.task.record.toNat then .error (illegalIn 0x0F 5 l)
          else match s1.canWrite e.ag x 16 with
            | some er => .error (objBad er l)
            | none =>
              let s2 := s1.release e.ag .ten
              let hs := s2.lockHelpers e.ag.ctx (BitVec.ofNat 64 x)
              -- viral mode discards the giving of a lock in fabric space, so that no wait ends through it (R416)
              if s2.discards e.ag x then .ok s2
              else match hs[Config.freeChoice s2.sched.fresh % hs.length]? with
              | none => .ok ((s2.putNum e.ag x 8 0).putNum e.ag (x + 8) 4 4)
              | some (v, k, tr) =>
                .ok ((s2.bumpFresh.takeLock e.ag x tr).modWave v (fun w => w.lockTaken k)))

/-! ## Dispatch and monitors (R88, R99) -/

/-- WAITABLE_READY (R99, R458): the monitor of a Waiting task sees its waitable ready, and the task becomes Parked on
its home queue. A root task leaves Waiting when its own slot takes it. -/
def execWaitableReady (ctx tr : Nat) (s : State) : Out :=
  let ag := s.agentFor ctx
  let mine (p : ParkedTask) : Bool := p.ctx == ctx && p.task.record.toNat == tr
  match s.kiln.parked.find? mine with
  | none => .next s
  | some p => match p.waits with
    | none => .next s
    | some a =>
      if !p.past && !s.waitReady ag a.toNat then .next s
      else
        let s1 := { s with kiln := { s.kiln with
          parked := s.kiln.parked.map (fun x => if mine x then { x with waits := none, past := false } else x) } }
        .next ((s1.putState ag tr 0 4).pushTask ag p.home.toNat p.task.record)

/-- Steps 3 to 6 of R88. A head entry whose Owner is not aligned or cannot be read, or whose record holds a state in which no
task can be taken, is discarded; the spec says so only of a task already taken. DESIGN CHOICE (log 108). -/
def State.dispatch (s : State) (u : Nat) (w : Wave) (ag : Agent) : State :=
  match w.queue with
  | none => s
  | some q => match s.headEntry ag q.toNat with
    | .error _ => s
    | .ok (_, _, none) => s
    | .ok (s1, _, some h) =>
      if h.state % 4 ≠ 2 then s
      else match (if h.owner % 64 = 0 then s1.taskRec ag h.owner else .error ⟨⟨1, 0⟩, 0, false⟩) with
        | .error _ => s1.popEntry ag q.toNat h
        | .ok (s2, r) =>
          if !s2.takeable ag.ctx h.owner r then (if r.st = 4 then s else s2.popEntry ag q.toNat h)
          else if !s2.fits w h.owner r then s
          else ((((s2.popEntry ag q.toNat h).dropStale ag.ctx h.owner r).putState ag h.owner 0 1).runTask u ag h.owner r r.prio
            []).acquire ag .ten

/-- A slot resumes its root task (R88). -/
def State.resumeRoot (s : State) (u : Nat) (ag : Agent) (kept : TaskCtx) : State :=
  let tr := kept.record.toNat
  let s1 := s.putState ag tr 0 1
  ((s1.resumeTask u ag ((((s1.wave u).bind (·.root)).map (·.1)).getD kept) [] (s.badState ag tr)).modWave u (fun w =>
    { w with root := none, rootReady := false }))

/-- SLOT_TAKE_TASK (R88): a slot whose task has ended or given it up resumes its root task or takes the head of its
queue. -/
def execSlotTakeTask (core wid : Nat) (s : State) : Out :=
  match s.waveAt core wid with
  | none => .next s
  | some (u, w) =>
    if w.ended.isNone || w.stop.isSome || !w.chain.isEmpty || w.exited || w.task.root && w.root.isNone || w.halted
        || !s.drained u then .next s
    else
      let ag := s.agentOf w.group
      let empty := match w.queue with
        | none => false
        | some q => match s.queue ag q.toNat with | .ok (_, x) => x.pop == x.push | .error _ => false
      match w.root with
      | some (t, some (_, _, a)) =>
        if w.rootReady || s.waitReady ag a.toNat then .next (s.resumeRoot u ag t) else .next (s.dispatch u w ag)
      | some (t, none) => if empty then .next (s.resumeRoot u ag t) else .next (s.dispatch u w ag)
      | none => .next (s.dispatch u w ag)

end Sys2Proof.Machine
end

