-- ==== Sys2Proof/Machine/Span.lean ====
section
/-! DEFINITION. The span instructions but the window accesses (R288 to R292), the span barrier (R290), and the exit of
waves, groups and gangs (R33, R65, R72, R84, R176, R296), with WAVE_EXIT. -/

namespace Sys2Proof.Machine

/-! ## The span barrier (R290) -/

/-- Whether a group has arrived for a phase: every wave of it that has not exited has. -/
def State.groupArrived (s : State) (k : Nat) (x : Group) (ph : Nat) : Bool :=
  groupOut x || (s.wavesOf k).all (fun w => w.2.exited || decide (ph < w.2.spanArrivals))

/-- Whether every member has arrived for a phase, and some member still takes part. -/
def State.spanComplete (s : State) (g ph : Nat) : Bool :=
  let ls := s.spanLocal g
  let rs := s.spanRemotes g
  ls.all (fun y => s.groupArrived y.1 y.2 ph) && rs.all (fun r => r.out || decide (ph < r.arrivals))
    && (ls.any (fun y => !groupOut y.2) || rs.any (fun r => !r.out))

/-- A phase completes: a new one begins and the waits of the old one end. -/
def State.spanNext (s : State) (g : Nat) : State :=
  let k := s.spanKeyOf g
  let s1 := if k = 0 then (match s.group g with
      | some x => s.modGang x.gang (fun y => { y with barrier := y.barrier + 1 })
      | none => s)
    else { s with kiln := { s.kiln with spans := Tab.modify s.kiln.spans k (fun p => { p with barrier := p.barrier + 1 }) } }
  (s1.spanLocal g).foldl (fun s y => s.wakeGroup y.1) s1

/-- Completing every phase for which all have arrived. -/
def State.spanSettle (s : State) (g : Nat) : Nat → State
  | 0 => s
  | fuel + 1 => if s.spanComplete g (s.spanPhase g) then State.spanSettle (s.spanNext g) g fuel else s

/-- Completing every phase for which all have arrived: there are no more of them than arrivals of one wave or member. -/
def State.settleSpan (s : State) (g : Nat) : State :=
  let ws := (s.spanLocal g).flatMap (fun y => (s.wavesOf y.1).map (fun w => w.2.spanArrivals))
  let n := (ws ++ (s.spanRemotes g).map (·.arrivals)).foldl max 0
  s.spanSettle g (n + 1)

/-- An arrival of the executing wave, a release at the barrier's scope (R144): counted once for a phase, further ones
towards the next. -/
def State.spanCount (s : State) (e : Env) : State :=
  let ph := s.spanPhase e.w.group
  (s.release e.ag (s.spanScope e.w.group)).modWave e.u (fun w => { w with spanArrivals := max w.spanArrivals ph + 1 })

/-- The phase for which the wave's last arrival counts. -/
def State.arrivalPhase (s : State) (u : Nat) : Nat := ((s.wave u).map (fun w => w.spanArrivals - 1)).getD 0

/-- `span.arrive` (R290). -/
def execSpanArrive (g : Guard) (s : State) : Out :=
  runOrdered (.spanArrive g) g [] [] true s (fun e =>
    if !e.whole then .error (illegal 0x06 4)
    else if e.part = 0 then .ok s
    else .ok ((s.spanCount e).settleSpan e.w.group))

/-- `span.sync` (R290): it waits until the phase for which it arrived completes. -/
def execSpanSync (g : Guard) (s : State) : Out :=
  runWaitOrdered (.spanSync g) g [] s (fun e =>
    if !e.whole then .error (illegal 0x06 4)
    else if e.part = 0 then .ok (s.next e (.spanSync g))
    else
      let s1 := s.spanCount e
      .ok ((s1.settleSpan e.w.group).waitIn e (.span (s1.arrivalPhase e.u))))

/-! ## Exit of groups and gangs (R65, R72) -/

/-- Whether every other member of a group's span has detached, exited or departed. -/
def State.othersOut (s : State) (k : Nat) : Bool :=
  s.spanKeyOf k == 0 || ((s.spanLocal k).all (fun y => y.1 == k || groupOut y.2) && (s.spanRemotes k).all (·.out))

/-- A group's exit completes: its units, its slots and its token are free (R52, R72, R176, R296). -/
def State.freeGroup (s : State) (g : Nat) : State :=
  match s.group g with
  | none => s
  | some x =>
    let s1 := s.modGroup g (fun x => { x with freed := true, core := none })
    match x.core with
    | none => s1
    | some k =>
      (s1.modCore k (fun c => { c with
        slots := c.slots.map (fun y => if y.owner = some g then { y with owner := none } else y)
        token := (match c.token with | some (h, r) => if h = g then none else some (h, r) | none => none)
        takers := c.takers.filter (fun t => t.1 != g) })).tokServe k

/-- A gang whose groups have all exited is Held, or Exited once their exits are complete: it leaves the tables, its
save areas are returned, and the launch is Completing after its last gang (R53, R63, R65). -/
def State.settleGangExit (s : State) (gn : Nat) : State :=
  match s.gang gn with
  | none => s
  | some x =>
    let gs := s.kiln.groups.filter (fun y => y.2.gang == gn)
    if gs.isEmpty || !gs.all (fun y => y.2.exited) then s
    else if !gs.all (fun y => y.2.freed) then s.modGang gn (fun x => { x with state := .held })
    else
      let ids := gs.map (·.1)
      let ctx := ((s.launch x.launch).map (·.record.ctx)).getD 0
      let s1 := { s with kiln := { s.kiln with
        gangs := Tab.drop s.kiln.gangs gn
        groups := s.kiln.groups.filter (fun y => y.2.gang != gn)
        waves := s.kiln.waves.filter (fun w => !ids.contains w.2.group) } }
      let s2 := s1.modCtx ctx (fun c => { c with reserveTaken := c.reserveTaken.filter (fun b => !x.saveAreas.contains b.1) })
      s2.modLaunch x.launch (fun l =>
        let n := l.ended + 1
        { l with ended := n, state := if n * l.record.gang = l.record.groups then .completing else l.state })

/-- Completing the exits that R72 held and that may now complete. -/
def State.settleHeld (s : State) (g : Nat) : State :=
  let ls := s.spanLocal g
  let s1 := ls.foldl (fun s y => match s.group y.1 with
    | some x => if x.exited && !x.freed && s.othersOut y.1 then s.freeGroup y.1 else s
    | none => s) s
  ((ls.map (fun y => y.2.gang)).dedup).foldl (fun s k => s.settleGangExit k) s1

/-- Bytes of the park area of a task (R83). -/
def parkSize (regs : Nat) : Nat := (regs + 1) * 1024 + 4096

/-- The root task of a wave (R84). -/
def Wave.rootTask (w : Wave) : TaskCtx :=
  if w.task.root then w.task
  else match w.chain.find? (fun h => h.task.root) with
    | some h => h.task
    | none => (w.root.map (·.1)).getD w.task

/-- The address of the block that holds the root record and park area of a wave. -/
def Wave.rootBlock (w : Wave) : Nat := w.rootTask.record.toNat - parkSize w.rootTask.regs

/-- The blocks of the waves of a group that have not gone back to the arena (R84). -/
def State.rootBlocks (s : State) (g : Nat) : List Nat :=
  let held := (((s.group g).bind (fun x => s.gang x.gang)).map (·.records)).getD []
  ((s.wavesOf g).map (fun w => w.2.rootBlock)).filter held.contains

/-- Such blocks go back to the arena. -/
def State.returnBlocks (s : State) (g : Nat) (bs : List Nat) : State :=
  let gn := ((s.group g).map (·.gang)).getD 0
  (s.modCtx (s.ctxNo g) (fun c => { c with arenaTaken := c.arenaTaken.filter (fun b => !bs.contains b.1) })).modGang gn
    (fun x => { x with records := x.records.filter (fun a => !bs.contains a) })

/-- A group whose waves have all exited exits, once each has given its block back. -/
def State.groupExit (s : State) (g : Nat) : State :=
  match s.group g with
  | none => s
  | some x =>
    if x.exited || !(s.wavesOf g).all (fun w => w.2.exited) || !(s.rootBlocks g).isEmpty then s
    else ((s.modGroup g (fun x => { x with exited := true })).settleSpan g).settleHeld g

/-- `span.detach` (R291): once for the group, after every earlier access of its lanes. -/
def execSpanDetach (g : Guard) (s : State) : Out :=
  match s.env g with
  | none => .fault .noStrand
  | some e =>
    if !guardNever g && e.part != 0 && (s.wavesOf e.w.group).any (fun x => x.2.behind 0xFF) then .next s
    else runShort (.spanDetach g) g [] [] true s (fun e =>
      if e.part = 0 ∨ ((s.group e.w.group).map (·.detached)).getD true then .ok s
      else .ok ((((s.release e.ag (s.spanScope e.w.group)).modGroup e.w.group (fun x => { x with detached := true })).settleSpan
        e.w.group).settleHeld e.w.group))

/-! ## `span.peer` -/

/-- What `span.peer` shows of a member (R292). A member that stands neither among the groups of this device nor among the
members on other devices is one of this device whose exit has completed (R72). -/
def State.peer (s : State) (g m : Nat) : Nat :=
  if !s.memberIndex g m then 4
  else
    let dep := s.memberDeparted g m
    match s.memberGroup g m with
    | some (k, y) =>
      let c := s.coreOf g
      let here := y.core == some c
      let clus := match y.core with | some x => x / 8 == c / 8 | none => false
      let st := if dep then 3 else if y.detached || y.freed then 2 else if y.exited then 1 else 0
      (if k = g then 64 else 0) + (if here then 32 else 0) + (if clus then 16 else 0) + 8 + st
    | none => match s.memberRemote g m with
      | some r =>
        if dep || r.departed then 3
        else if s.remoteGone g r then 2
        else if r.exited then 1 else 0
      | none => 8 + (if dep then 3 else 2)

/-- `span.peer` (R292). -/
def execSpanPeer (g : Guard) (d a : Opd) (s : State) : Out :=
  run32 (.spanPeer g d a) g d [(a, 1)] s (fun w l => BitVec.ofNat 32 (s.peer w.group (w.rd a l).toNat))

/-! ## WAVE_EXIT -/

/-- WAVE_EXIT (R33, R84, R250): a wave whose root task has ended exits once everything outstanding for it has
completed; its root record and park area are returned to the arena, and its group may exit. -/
def execWaveExit (core wid : Nat) (s : State) : Out :=
  match s.waveAt core wid with
  | none => .next s
  | some (u, w) =>
    if !w.task.root || !w.ops.isEmpty || w.stop.isSome || !(w.ended == some .done || w.ended == some .fault) then .next s
    else
      let s1 := (s.modWave u (fun w => { w with exited := true })).waveGone u w.group
      let s2 := s1.returnBlocks w.group ((s1.rootBlocks w.group).filter (· == w.rootBlock))
      .next ((s2.settleSpan w.group).groupExit w.group)

end Sys2Proof.Machine
end

