-- ==== Sys2Proof/Machine/Mat.lean ====
section
/-! DEFINITION. Group MAT: crews and the token (R169, R172, R295, R296), the rendezvous latch and joint operations
(R170, R171, R173, R297 to R299, R405), the matrix arithmetic (R164 to R168), the weight buffer (R176 to R179, R300,
R406, R437), the accumulator tiles (R180, R301, R302) and the matrix shadow (R388, R438). -/

namespace Sys2Proof.Machine

/-! ## Crews and the token -/

/-- The crew of the executing wave. -/
def State.crewOf (s : State) (w : Wave) : Option (Nat × Crew) := (s.group w.group).bind (fun g => g.crewOf w.idx)

/-- A crew of a group by number. -/
def State.crew (s : State) (g c : Nat) : Option Crew := (s.group g).bind (fun x => (x.crews[c]?).bind id)

/-- Whether a member of a crew waits in `tok.take`, one that has begun to in the clock that is being taken among them. -/
def State.crewTakes (s : State) (k g c : Nat) : Bool :=
  (s.core k).takers.any (fun t => t.1 == g && t.2.1 == c)
    || (s.sched.changes.getD []).any (fun x => match x with
      | .take _ h d _ _ => h == g && d == c
      | _ => false)

/-- Whether a `crew.set` is illegal (R295). -/
def State.crewBad (s : State) (g c : Nat) (mask : W32) : Bool :=
  let k := s.coreOf g
  let idx (i : Nat) : Bool := (s.wavesOf g).any (fun w => w.2.idx == i && !w.2.exited)
  let other (i : Nat) : Bool := match (s.group g).bind (fun x => x.crewOf i) with | some (d, _) => d != c | none => false
  decide (3 < c) || popCount mask == 1 || decide (6 < popCount mask)
    || (bitsOf mask).any (fun i => !idx i || other i)
    || (match s.crew g c with
      | some x => (s.core k).token == some (g, c) || s.crewTakes k g c || !x.latch.isEmpty || x.formed
      | none => false)

/-- `crew.set` (R169, R295). -/
def execCrewSet (g : Guard) (a b : Opd) (s : State) : Out :=
  runShort (.crewSet g a b) g [] [(a, 1), (b, 1)] true s (fun e => match e.leader with
    | none => .ok s
    | some l =>
      let c := (e.w.rd a l).toNat
      let mask := e.w.rd b l
      if s.crewBad e.w.group c mask then .error (illegalIn 0x0C 1 l)
      else .ok (s.modGroup e.w.group (fun x => { x with crews := modAt x.crews c (fun _ =>
        if mask = 0 then none else some ⟨mask, [], false⟩) }))) Env.lead

/-- `tok.take` (R172, R296). Where several are taken in one clock, the token goes to one of them at its end. -/
def execTokTake (g : Guard) (s : State) : Out :=
  runWait (.tokTake g) g [] [] s (fun e =>
    if e.part = 0 then .ok (s.next e (.tokTake g))
    else match s.crewOf e.w with
      | none => .error (illegal 0x0C 2)
      | some (c, _) =>
        let k := e.ag.core
        let me := (e.w.group, c)
        let take (s : State) : State := (s.acquire e.ag .core).next e (.tokTake g)
        if (s.core k).token = some me then .ok (take s)
        else if (s.core k).token = none ∧ (s.core k).takers = [] ∧ s.sched.changes = none then
          .ok (take (s.modCore k (fun x => { x with token := some me })))
        else .ok ((s.change (.take k e.w.group c (((s.group e.w.group).map (·.slot)).getD 0) e.u)).waitIn e .token))

/-- `tok.give` (R172, R296): the token is freed and serves the takers, or is passed to a crew of the same group. -/
def execTokGive (g : Guard) (a : Opd) (pass : Bool) (s : State) : Out :=
  runOrdered (.tokGive g a pass) g [] (if pass then [(a, 1)] else []) true s (fun e => match e.leader with
    | none => .ok s
    | some l => match s.crewOf e.w with
      | none => .error (illegal 0x0C 2)
      | some (c, _) =>
        let k := e.ag.core
        let n := (e.w.rd a l).toNat
        if (s.core k).token ≠ some (e.w.group, c) then .error (illegal 0x0C 3)
        else if pass then
          if n = c ∨ (s.crew e.w.group n).isNone then .error (illegal 0x0C 3)
          else .ok (((s.release e.ag .core).modCore k (fun x =>
            { x with token := some (e.w.group, n) })).wakeGroup e.w.group)
        else .ok (((s.release e.ag .core).modCore k (fun x => { x with token := none })).tokServe k))

/-! ## Formats and images (R165, R175, R177) -/

/-- The element format of a matrix format. -/
def mfmtFmt : MFmt → Fmt
  | .e2m1b => fE2m1
  | .e4m3 => fE4m3
  | .e5m2 => fE5m2
  | .f16 => fF16
  | .bf16 => fBf16

/-- K elements per row of an A format (R165, R175). -/
def kOf : MFmt → Nat
  | .e2m1b => 384
  | .e4m3 | .e5m2 => 192
  | .f16 | .bf16 => 96

/-- Whether a pair of formats, with the slot's K, is a row of R175. -/
def pairOk (a b : MFmt) (k : Nat) : Bool :=
  match a, b with
  | .e2m1b, .e2m1b => k == 384
  | .e4m3, .e2m1b | .e5m2, .e2m1b => k == 192
  | .e4m3, .e4m3 | .e4m3, .e5m2 | .e5m2, .e4m3 | .e5m2, .e5m2 => true
  | .f16, .f16 | .bf16, .bf16 => true
  | _, _ => false

/-- Stored elements per group (R177). -/
def storedOf : BForm → Nat
  | .dense => 32
  | .s16 => 16
  | .s8 => 8

/-- The K of a `wbload` (R300). -/
def wbK (m : WbMods) : Nat := if m.bfmt = .e2m1b ∧ m.k192 then 192 else kOf m.bfmt

/-- Columns of a slot or image. -/
def colsOf (n128 : Bool) : Nat := if n128 then 128 else 64

/-- The planes of an image (R177): bytes per column of the element, block-scale and mask planes, and the length. -/
structure Planes where
  elem : Nat
  scale : Nat
  mask : Nat
  band : Nat
  deriving DecidableEq, Repr

def planesOf (f : MFmt) (k : Nat) (form : BForm) : Planes :=
  ⟨k / 32 * storedOf form * (mfmtFmt f).width / 8, if f = .e2m1b then k / 8 else 0,
    if form = .dense then 0 else k / 32 * 4, if f = .e2m1b then 16 else 0⟩

/-- The bytes of an image of n columns (R177). -/
def Planes.size (p : Planes) (n : Nat) : Nat := n * (p.elem + p.scale + p.mask) + p.band

/-- The code of element i of packed elements (R118, R177). -/
def elemAt (m : Mem) (base width i : Nat) : Nat :=
  if width = 4 then (m.get (base + i / 2)).toNat / 16 ^ (i % 2) % 16 else leNat (m.bytes (base + i * (width / 8)) (width / 8))

/-- The position mask of a group of a column (R167). -/
def Slot.maskAt (x : Slot) (j g : Nat) : W32 :=
  let p := planesOf x.fmt x.k x.form
  let n := colsOf x.n128
  BitVec.ofNat 32 (leNat (x.img.bytes (n * (p.elem + p.scale) + j * p.mask + 4 * g) 4))

/-- The group index of the first mask whose set bits are not the form's number, columns and then K ascending (R406). -/
def Slot.badMask (x : Slot) : Option Nat :=
  if x.form = .dense then none
  else (List.range (colsOf x.n128)).findSome? (fun j =>
    (List.range (x.k / 32)).find? (fun g => popCount (x.maskAt j g) != storedOf x.form))

/-- The code of dense element i of column j, expanded through the mask (R167, R178). -/
def Slot.code (x : Slot) (j i : Nat) : Nat :=
  let p := planesOf x.fmt x.k x.form
  let w := (mfmtFmt x.fmt).width
  if x.form = .dense then elemAt x.img (j * p.elem) w i
  else
    let m := x.maskAt j (i / 32)
    if !m.getLsbD (i % 32) then 0
    else elemAt x.img (j * p.elem) w (i / 32 * storedOf x.form + ((bitsOf m).filter (· < i % 32)).length)

/-- The value of element i of column j of B (R160, R165). -/
def Slot.value (x : Slot) (j i : Nat) : Val :=
  let p := planesOf x.fmt x.k x.form
  if x.fmt = .e2m1b then
    blockValue (x.code j i) (x.img.get (colsOf x.n128 * p.elem + j * p.scale + i / 8)).toNat
  else (mfmtFmt x.fmt).val (x.code j i)

/-- bandB of a column (R166, R177). -/
def Slot.band (x : Slot) (j : Nat) : Val :=
  let p := planesOf x.fmt x.k x.form
  if x.fmt = .e2m1b then
    fBf16.val (leNat (x.img.bytes (colsOf x.n128 * (p.elem + p.scale + p.mask) + j / 64 * 2) 2))
  else .fin false 1 0

/-- The value of element i of a row of A at an address (R119, R171). -/
def rowValue (m : Mem) (f : MFmt) (row i : Nat) : Val :=
  if f = .e2m1b then blockValue (elemAt m row 4 i) (m.get (row + 192 + i / 8)).toNat
  else (mfmtFmt f).val (elemAt m row (mfmtFmt f).width i)

/-- bandA of a row. -/
def rowBand (m : Mem) (f : MFmt) (row : Nat) : Val :=
  if f = .e2m1b then fBf16.val (leNat (m.bytes (row + 240) 2)) else .fin false 1 0

/-! ## The arithmetic (R165, R166) -/

/-- prod(a, b): a zero annihilates whatever the other holds. -/
def prodOf (a b : Val) : Val := if a.isZero ∨ b.isZero then .fin false 0 0 else a.mul b

/-- A group sum: exact, rounded once. -/
def groupSum (ps : List Val) : W32 := rne32 (ps.foldl (Val.add false) (.fin false 0 0))

/-- The element's new accumulator value from its group sums (R166). -/
def accumulate (acc : W32) (gs : List W32) (both : Bool) (ba bb : Val) : W32 :=
  match gs with
  | [] => acc
  | g :: r =>
    let p := r.foldl (fun p x => rne32 ((f32 p).add false (f32 x))) g
    let c : Val := .fin false (if both then 2 else 1) 0
    let q := rne32 ((((f32 p).mul c).mul ba).mul bb)
    rne32 ((f32 acc).add false (f32 q))

/-- The operand values of a group: pairs of A and B. -/
def groupPairs (m : Mem) (f : MFmt) (row : Nat) (x : Slot) (j g : Nat) : List (Val × Val) :=
  (List.range 32).map (fun i => (rowValue m f row (32 * g + i), x.value j (32 * g + i)))

/-- An accumulator key. -/
def tileKey (t row col : Nat) : Nat := 4096 * t + 128 * row + col

/-- What one member adds to its tile: key and value pairs (R298). `flip` changes the bits of a group sum of a row and a
column. -/
def memberTile (x : Group) (a : Arrival) (b : Slot) (flip : Nat → Nat → Nat → W32) : List (Nat × W32) :=
  let n0 := if b.n128 then 0 else if a.mods.half then 64 else 0
  (List.range 32).flatMap (fun i => (List.range (colsOf b.n128)).map (fun j =>
    let row := a.addr + 256 * i
    let gs := (List.range (kOf a.mods.afmt / 32)).map (fun g =>
      groupSum ((groupPairs x.spad a.mods.afmt row b j g).map (fun p => prodOf p.1 p.2))
        ^^^ flip i j g)
    let key := tileKey a.mods.tile.val i (n0 + j)
    (key, accumulate (x.tiles.get key) gs (a.mods.rota && a.mods.rotb) (rowBand x.spad a.mods.afmt row) (b.band j))))

/-! ## The matrix shadow (R388, R438) -/

/-- An operand value truncated to its top 4 stored mantissa bits; formats with fewer keep all. -/
def truncA (m : Mem) (f : MFmt) (row i : Nat) : Val :=
  match f with
  | .f16 | .bf16 => (mfmtFmt f).trunc4 (elemAt m row 16 i)
  | _ => rowValue m f row i
def Slot.trunc (x : Slot) (j i : Nat) : Val :=
  match x.fmt with
  | .f16 | .bf16 => (mfmtFmt x.fmt).trunc4 (x.code j i)
  | _ => x.value j i

/-- The check of group sum g of column j of a row: true where it passes. -/
def shadowOk (m : Mem) (f : MFmt) (row : Nat) (x : Slot) (j g : Nat) (gs : W32) : Bool :=
  let ps := (groupPairs m f row x j g).map (fun p => prodOf p.1 p.2)
  if ps.any (fun v => !v.isFinite) || !(f32 gs).isFinite then true
  else
    let ts := (List.range 32).map (fun i => prodOf (truncA m f row (32 * g + i)) (x.trunc j (32 * g + i)))
    let q := ts.foldl (Val.add false) (.fin false 0 0)
    let mag := ts.foldl (fun (s : Val) v => s.add false v.mag) (.fin false 0 0)
    let d := ((f32 gs).add false q.neg).mag
    !((mag.mul (.fin false 1 (-2))).add false (.fin false 1 (-149))).lt d

/-! ## Arrival, formation and entry (R297, R299, R405) -/

/-- The fields in which members must agree (R297). -/
def sameB (a : Arrival) (m : MmaMods) (sparse : Bool) : Bool :=
  a.mods.slot == m.slot && a.mods.afmt == m.afmt && a.mods.rotb == m.rotb && a.sparse == sparse

/-- The checks of a member at issue, lowest code first (R402, R403, R405). -/
def State.mmaBad (s : State) (e : Env) (g : Guard) (a : Opd) (m : MmaMods) (sparse : Bool) : Option Bad :=
  if guardOther g then some (illegal 0x06 1)
  else if e.w.task.wide.isNone then some (illegal 0x06 7)
  else match s.crewOf e.w, e.leader with
    | none, _ => some (illegal 0x0C 2)
    | some _, none => none
    | some (_, c), some l =>
      let x := (e.w.rd a l).toNat
      if c.latch.any (fun y => !sameB y m sparse) then some (illegal 0x0C 4)
      else if accUnits (s.poolOf e.w.group) ≤ m.tile.val then some (illegal 0x0D 4)
      else if x % 256 ≠ 0 ∨ s.spadSize e.w.group < x + 8192 then some (illegalIn 0x0D 7 l)
      else none

/-- The first arrival of each member in a latch. A member whose handler arrives anew has two, and the second is one for the next joint
operation. DEDUCED (log 61). -/
def firsts : List Arrival → List Arrival
  | [] => []
  | a :: r => a :: (firsts r).filter (fun b => b.wave != a.wave)

/-- Changing a crew of a group. -/
def State.putCrew (s : State) (grp c : Nat) (y : Crew) : State :=
  s.modGroup grp (fun g => { g with crews := modAt g.crews c (fun _ => some y) })

/-- What stands in a latch forms the joint operation once every member has arrived, or traps in every member where two name one
tile (R170, R405). -/
def State.form (s : State) (grp c : Nat) : State :=
  match s.crew grp c with
  | none => s
  | some x =>
    let l := firsts x.latch
    if x.formed || decide (l.length < popCount x.mask) then s
    else if l.any (fun y => l.any (fun z => y.wave != z.wave && y.mods.tile == z.mods.tile)) then
      x.latch.foldl (fun s y => s.unlatch y (illegal 0x0D 6)) (s.putCrew grp c { x with latch := [] })
    else s.putCrew grp c { x with formed := true }

/-- An arrival in the latch. -/
def State.arrive (s : State) (grp c : Nat) (a : Arrival) : State :=
  match s.crew grp c with
  | none => s
  | some x => (s.putCrew grp c { x with latch := x.latch ++ [a] }).form grp c

/-- `mma` and `mmas` (R297): the strand waits in the latch at its instruction. -/
def runMma (i : Instr) (g : Guard) (a : Opd) (m : MmaMods) (sparse : Bool) (s : State) : Out :=
  match s.env g with
  | none => .fault .noStrand
  | some e =>
    if guardNever g then .next (s.next e i)
    else if e.w.flagFull e.sl (e.flag m.fs) then .next s
    else match s.mmaBad e g a m sparse with
      | some b => .next (s.stopAt e (e.flag m.fs) b)
      | none => match e.w.poisonLane [(a, 1)] (maskOf ((e.leader).toList)) with
        | some l => .next (s.stopAt e (e.flag m.fs) (poisonBad l))
        | none => match s.crewOf e.w, e.leader with
          | some (c, x), some l =>
            let (id, s1) := s.takeUid
            let k := ((bitsOf x.mask).filter (· < e.w.idx)).length
            let s2 := s1.modWave e.u (fun w =>
              let w1 := { w.raise e.sl (e.flag m.fs) with ops := w.ops ++ [e.op i id (e.flag m.fs) [(a, 1)] []] }
              w1.modSlices e.st (fun y =>
                { y with wait := some .latch, clause := y.clause.map (fun c => { c with young := false }) }))
            .next (s2.arrive e.w.group c ⟨e.u, id, k, m, sparse, (e.w.rd a l).toNat⟩)
          | _, _ => .next (s.next e i)

/-- `mma` (R297, R298). -/
def execMma (g : Guard) (a : Opd) (m : MmaMods) (s : State) : Out := runMma (.mma g a m) g a m false s
/-- `mmas` (R297, R298). -/
def execMmas (g : Guard) (a : Opd) (m : MmaMods) (s : State) : Out := runMma (.mmas g a m) g a m true s

/-- A weight slot of a core. -/
def Core.slot (c : Core) (n : Nat) : Slot := c.slots.getD n .empty

/-- A weight slot as the last load of it that is in the array will leave it (R179). -/
def Core.slotDue (c : Core) (n : Nat) : Slot :=
  c.array.foldl (fun x y => match y with
    | .load _ _ m => if m.slot.val = n then { x with loaded := true, fmt := m.bfmt, n128 := m.n128, k := wbK m, form := m.form } else x
    | _ => x) (c.slot n)

/-- The checks of a joint operation at entry, by the items of R299 (R405). -/
def entryBad (x : Slot) (grp : Nat) (l : List Arrival) : Option Nat :=
  match l with
  | [] => none
  | a :: _ =>
    if x.owner ≠ some grp ∨ !x.loaded then some 1
    else if a.sparse ∧ x.form = .dense then some 2
    else if !pairOk a.mods.afmt x.fmt x.k then some 3
    else if x.n128 ∧ l.any (fun y => y.mods.half) then some 5
    else none

/-- Granules of the tile columns that a member writes: 64-byte granules of the accumulator units (R180, R413). -/
def tileGranules (t j0 n : Nat) : List Nat :=
  (List.range 32).flatMap (fun r => (List.range (n / 16)).map (fun k => 256 * t + 8 * r + j0 / 16 + k))

/-- Members of a joint operation whose tile is poisoned (R414). -/
def poisonedMembers (g : Group) (x : Slot) (l : List Arrival) : List Arrival :=
  l.filter (fun a => (tileGranules a.mods.tile.val (if x.n128 then 0 else if a.mods.half then 64 else 0)
    (colsOf x.n128)).any (fun k => g.tilePoison.contains k))

/-- A member leaves the latch as its operation enters: its strand stands after the `mma` (R297, R374, R381). -/
def State.unlatchEntered (s : State) (a : Arrival) : State :=
  s.modWave a.wave (fun w => match w.ops.find? (fun o => o.id == a.op) with
    | none => w
    | some o =>
      if o.depth < w.depth then
        { w with saves := modAt w.saves (w.depth - 1 - o.depth) (fun v =>
            { v with waits := v.waits.map (fun x => if x = some .latch then some .entered else x) }) }
      else w.resume (maskOf ((bitsOf w.liveSlices).filter (fun i => (w.slice i).wait == some .latch))))

/-- MATRIX_ENTRY (R173, R405): a formed operation whose crew holds the token enters, or its members trap. A load of its slot
that is in the array delays the reading of the slot (R179) and not the entry. -/
def execMatrixEntry (core grp c : Nat) (s : State) : Out :=
  match s.group grp, s.crew grp c with
  | some g, some x =>
    let k := s.core core
    let joint (y : Entry) : Bool := match y with | .joint .. => true | _ => false
    let l := firsts x.latch
    match l with
    | [] => .next s
    | a :: _ =>
      if g.core ≠ some core ∨ !x.formed ∨ k.token ≠ some (grp, c) ∨ 4 ≤ (k.array.filter joint).length then .next s
      else
        let slot := k.slotDue a.mods.slot.val
        match entryBad slot grp l, poisonedMembers g slot l with
        | some d, _ => .next (x.latch.foldl (fun s y => s.unlatch y (illegal 0x0D d))
            (s.putCrew grp c { x with latch := [], formed := false }))
        | none, p :: ps =>
          let bad := p :: ps
          .next (bad.foldl (fun s y => s.unlatch y ⟨3, 4, 1, 0xFF, some 0⟩)
            (s.putCrew grp c { x with latch := x.latch.filter (fun y => !bad.contains y), formed := false }))
        | none, [] =>
          let s1 := (s.putCrew grp c { x with latch := x.latch.filter (fun y => !l.contains y), formed := false }).modCore core
            (fun k => { k with array := k.array ++ [.joint grp c a.sparse l] })
          .next ((l.foldl (fun s y => s.unlatchEntered y) s1).form grp c)
  | _, _ => .next s

/-! ## The end of a joint operation (R298, R406, R437, R438) -/

/-- Whether an earlier operation of a wave, engine commands apart, is outstanding before operation `id` (R145). -/
def Wave.olderThan (w : Wave) (id : Nat) : Bool := w.ops.any (fun o => decide (o.id < id) && !isEngine o.instr)

/-- A member's operation completes, with an asynchronous error or without. A `trapret` that stalls for its flag is evaluated afresh
(R41). -/
def State.memberDone (s : State) (a : Arrival) (err : Option (Nat × Nat)) : State :=
  match s.wave a.wave with
  | none => s
  | some w => match w.ops.find? (fun o => o.id == a.op) with
    | none => s
    | some o =>
      let s1 := (s.modWave a.wave (fun w => w.opDone o o.undone)).settleGang a.wave
      match err with
      | some (code, detail) => s1.addAsync a.wave (o.err code detail 0 0xFF o.lanes)
      | none => s1

/-- The rows of a member whose A bytes are poisoned: what they are added into is poisoned (R413). -/
def rowPoison (g : Group) (a : Arrival) (b : Slot) : List Nat :=
  (List.range 32).flatMap (fun i =>
    let row := a.addr + 256 * i
    if g.spadPoison.any (fun p => decide (row ≤ 64 * p) && decide (64 * p < row + (if a.mods.afmt = .e2m1b then 256 else 192))) then
      (List.range (colsOf b.n128 / 16)).map (fun k =>
        256 * a.mods.tile.val + 8 * i + (if b.n128 then 0 else if a.mods.half then 4 else 0) + k)
    else [])

/-- The group sums of a member that soft errors strike: rows, columns of the slot and sums, in the order of the report. -/
def struck (l : List Glitch) (u cols sums : Nat) : List (Nat × Nat × Nat) :=
  sortBy (fun x y => decide (x.1 < y.1) || (x.1 == y.1 && (decide (x.2.1 < y.2.1) || (x.2.1 == y.2.1 && decide (x.2.2 ≤ y.2.2)))))
    ((l.filter (fun x => x.wave == u && decide (x.lane < 32) && decide (x.col < cols) && decide (x.sum < sums))).map
      (fun x => (x.lane, x.col, x.sum)))

/-- A member's tile writes, with the shadow's verdict: the lowest row, then column, then group sum that fails, DETAIL[7:4]
naming the sum (R438). A sum that nothing strikes passes, as R438 says of a correct array. -/
def State.memberCompute (s : State) (grp : Nat) (a : Arrival) (b : Slot) : State :=
  match s.group grp with
  | none => s
  | some g =>
    let flip (i j k : Nat) : W32 := ((s.sched.glitch.find? (fun x =>
      x.wave == a.wave && x.lane == i && x.col == j && x.sum == k)).map (·.flips)).getD 0
    let bad := (struck s.sched.glitch a.wave (colsOf b.n128) (kOf a.mods.afmt / 32)).find? (fun x =>
      !shadowOk g.spad a.mods.afmt (a.addr + 256 * x.1) b x.2.1 x.2.2
        (groupSum ((groupPairs g.spad a.mods.afmt (a.addr + 256 * x.1) b x.2.1 x.2.2).map (fun p => prodOf p.1 p.2))
          ^^^ flip x.1 x.2.1 x.2.2))
    let s1 := s.modGroup grp (fun x =>
      { x with tiles := x.tiles.setAll (memberTile g a b flip), tilePoison := (x.tilePoison ++ rowPoison g a b).dedup })
    let s2 := { s1 with sched := { s1.sched with glitch := s1.sched.glitch.filter (fun x => x.wave != a.wave) } }
    s2.memberDone a (bad.map (fun x => (2, 16 * x.2.2)))

/-- MATRIX_OP_FINISH (R173, R179, R180, R298): the array's first joint operation runs to its end once everything that
entered before it on its slot and its tiles has. On a slot marked bad or poisoned it writes no tile. It computes with the slot as
it stands, also behind a `wbload` that has stopped on poison. DESIGN CHOICE (log 146). -/
def execMatrixOpFinish (core : Nat) (s : State) : Out :=
  let k := s.core core
  let isJoint (y : Entry) : Bool := match y with | .joint .. => true | _ => false
  let before := k.array.takeWhile (fun y => !isJoint y)
  match k.array.find? isJoint with
  | some (.joint grp c sp l) => match l with
    | [] => .next s
    | a :: _ =>
      let blocks (y : Entry) : Bool := match y with
        | .tile u _ t => l.any (fun z => z.mods.tile.val == t) && ((s.wave u).map (·.group)) == some grp
        | .load _ _ m => m.slot == a.mods.slot
        | .joint .. => false
      if before.any blocks || l.any (fun z => ((s.wave z.wave).map (fun w => w.olderThan z.op)).getD false) then .next s
      else
        let b := k.slot a.mods.slot.val
        let s1 := s.modCore core (fun k => { k with array := k.array.filter (fun y => y != .joint grp c sp l) })
        .next (match b.bad with
          | some g => l.foldl (fun s z => s.memberDone z (some (1, 8 * g + a.mods.slot.val))) s1
          | none =>
            if !b.poison.isEmpty then l.foldl (fun s z => s.memberDone z (some (10, a.mods.slot.val))) s1
            else l.foldl (fun s z => s.memberCompute grp z b) s1)
  | _ => .next s

/-! ## `wbload` (R300) -/

/-- A group takes a slot: of an image that another group had loaded there nothing is left. -/
def Slot.own (grp : Nat) (x : Slot) : Slot := if x.owner = some grp then x else { Slot.empty with owner := some grp }

/-- Whether a `wbload` is illegal (R300, R403). -/
def State.wbBad (s : State) (e : Env) (a : Opd) (m : WbMods) (l : Nat) : Bool :=
  let x := (e.w.rd a l).toNat
  let y := (s.core e.ag.core).slot m.slot.val
  x % 16 != 0 || decide (s.spadSize e.w.group < x + (planesOf m.bfmt (wbK m) m.form).size (colsOf m.n128))
    || (match y.owner with | some g => g != e.w.group | none => false)
    || (m.k192 && m.bfmt != .e2m1b) || (!m.acq && !m.rel && m.fscope != .wave)

/-- `wbload` at issue: it enters the array and its group owns the slot, of which it has then loaded nothing where it was
another's (R176). -/
def execWbload (g : Guard) (a : Opd) (m : WbMods) (s : State) : Out :=
  issueWith (.wbload g a m) g m.fs [(a, 1)] [] s (fun _ => false)
    (fun e => match e.leader with
      | none => .ok s
      | some l => if s.wbBad e a m l then .error (illegalIn 0x0D 8 l)
        else if m.acq ∨ m.rel then s.ceiling e m.fscope 1 else .ok s)
    (fun e id t => t.modCore e.ag.core (fun k =>
      { k with array := k.array ++ [.load e.u id m]
               slots := modAt k.slots m.slot.val (Slot.own e.w.group) })) Env.lead

/-! ## Accumulator tiles (R301, R302) -/

/-- The first named column and their number. -/
def Cols.first : Cols → Nat
  | .hi => 64
  | _ => 0
def Cols.count : Cols → Nat
  | .all => 128
  | _ => 64

/-- The format of an ATYPE. -/
def accFmt : AccTy → Fmt
  | .f32 => fF32
  | .f16 => fF16
  | .bf16 => fBf16
  | .e4m3 => fE4m3
  | .e5m2 => fE5m2

/-- The pitch of an access: u(b), or the packed pitch for 0. -/
def accPitch (m : AccMods) (b : Nat) : Nat := if b = 0 then Cols.count m.cols * ((accFmt m.aty).width / 8) else b

/-- Whether an `accld` or `accst` is illegal (R302). -/
def State.accOpBad (s : State) (e : Env) (m : AccMods) (a b : Nat) : Bool :=
  let packed := Cols.count m.cols * ((accFmt m.aty).width / 8)
  decide (accUnits (s.poolOf e.w.group) ≤ m.tile.val) || a % 16 != 0 || b % 16 != 0 || (b != 0 && decide (b < packed))
    || decide (s.spadSize e.w.group < a + 31 * accPitch m b + packed)

/-- Entering the array on a tile. -/
def enterTile (m : AccMods) (e : Env) (id : Nat) (t : State) : State :=
  t.modCore e.ag.core (fun k => { k with array := k.array ++ [.tile e.u id m.tile.val] })

/-- `accz` at issue (R301). -/
def execAccz (g : Guard) (m : AccMods) (s : State) : Out :=
  issueWith (.accz g m) g m.fs [] [] s (fun _ => false)
    (fun e => match e.leader with
      | none => .ok s
      | some _ => if accUnits (s.poolOf e.w.group) ≤ m.tile.val then .error (illegal 0x0D 9) else .ok s)
    (enterTile m) Env.lead

/-- `accld` at issue (R301). -/
def execAccld (g : Guard) (a b : Opd) (m : AccMods) (s : State) : Out :=
  issueWith (.accld g a b m) g m.fs [(a, 1), (b, 1)] [] s (fun _ => false)
    (fun e => match e.leader with
      | none => .ok s
      | some l => if s.accOpBad e m (e.w.rd a l).toNat (e.w.rd b l).toNat then .error (illegalIn 0x0D 9 l) else .ok s)
    (enterTile m) Env.lead

/-- `accst` at issue (R301). -/
def execAccst (g : Guard) (a b : Opd) (m : AccMods) (s : State) : Out :=
  issueWith (.accst g a b m) g m.fs [(a, 1), (b, 1)] [] s (fun _ => false)
    (fun e => match e.leader with
      | none => .ok s
      | some l => if s.accOpBad e m (e.w.rd a l).toNat (e.w.rd b l).toNat then .error (illegalIn 0x0D 9 l) else .ok s)
    (enterTile m) Env.lead

/-- The elements that COLS names: row, column, and the scratchpad address of each. -/
def accElems (m : AccMods) (a b : Nat) : List (Nat × Nat × Nat) :=
  (List.range 32).flatMap (fun r => (List.range (Cols.count m.cols)).map (fun j =>
    (r, Cols.first m.cols + j, a + r * accPitch m b + j * ((accFmt m.aty).width / 8))))

/-- `accz` performed: +0 everywhere, and whole granules are clean. -/
def State.doAccz (s : State) (grp : Nat) (m : AccMods) : State :=
  let gs := tileGranules m.tile.val (Cols.first m.cols) (Cols.count m.cols)
  s.modGroup grp (fun x => { x with
    tiles := x.tiles.setAll ((accElems m 0 0).map (fun e => (tileKey m.tile.val e.1 e.2.1, 0)))
    tilePoison := x.tilePoison.filter (fun k => !gs.contains k) })

/-- `accld` performed: poison of the scratchpad goes with the values (R413). -/
def State.doAccld (s : State) (grp : Nat) (m : AccMods) (a b : Nat) : State :=
  s.modGroup grp (fun x =>
    let w := (accFmt m.aty).width / 8
    let es := accElems m a b
    let gs := tileGranules m.tile.val (Cols.first m.cols) (Cols.count m.cols)
    let hit := (es.filter (fun e => x.spadPoison.any (fun p => decide (64 * p < e.2.2 + w) && decide (e.2.2 < 64 * p + 64)))).map
      (fun e => 256 * m.tile.val + 8 * e.1 + e.2.1 / 16)
    { x with
      tiles := x.tiles.setAll (es.map (fun e =>
        (tileKey m.tile.val e.1 e.2.1, rne32 ((accFmt m.aty).val (leNat (x.spad.bytes e.2.2 w))))))
      tilePoison := (x.tilePoison.filter (fun k => !gs.contains k) ++ hit).dedup })

/-- Whether pieces of n bytes from some addresses together cover a 64-byte granule. -/
def coverGranule (addrs : List Nat) (n g : Nat) : Bool :=
  (List.range 64).all (fun i => addrs.any (fun a => decide (a ≤ 64 * g + i) && decide (64 * g + i < a + n)))

/-- `accst` performed: a granule that its elements together cover loses its poison (R413). -/
def State.doAccst (s : State) (grp : Nat) (m : AccMods) (a b : Nat) : State :=
  match s.group grp with
  | none => s
  | some x =>
    let f := accFmt m.aty
    let es := accElems m a b
    let s1 := es.foldl (fun s e => s.spadWrite grp e.2.2
      (leBytes (f.conv m.rnd m.sat (f32 (x.tiles.get (tileKey m.tile.val e.1 e.2.1)))) (f.width / 8))) s
    s1.modGroup grp (fun y => { y with
      spadPoison := y.spadPoison.filter (fun g => !coverGranule (es.map (·.2.2)) (f.width / 8) g) })

/-- Whether the named columns of a tile hold a poisoned granule (R414). -/
def State.tilePoisoned (s : State) (grp : Nat) (m : AccMods) : Bool :=
  match s.group grp with
  | none => false
  | some x => (tileGranules m.tile.val (Cols.first m.cols) (Cols.count m.cols)).any (fun k => x.tilePoison.contains k)

end Sys2Proof.Machine
end

