-- ==== Sys2Proof/Machine/Copy.lean ====
section
/-! DEFINITION. Group COPY: the tensor layout record and boxes (R181, R182), issue and its checks (R183, R184, R303,
R304), and COPY_DELIVERY: the movement of a box, its counts, its stamp and its errors (R305, R306, R385, R410, R414,
R447, R448). -/

namespace Sys2Proof.Machine

/-! ## Boxes -/

/-- The box of a copy, from the layout record's 64 bytes and the coordinates (R181, R182). -/
def Box.ofRecord (bs : List Byte) (coords : List Nat) : Box :=
  let bx := fieldAt bs 0x3C 4
  { base := fieldAt bs 0 8
    dims := (List.range 4).map (fun i => fieldAt bs (8 + 4 * i) 4)
    strides := (List.range 3).map (fun i => fieldAt bs (0x18 + 8 * i) 8)
    boxes := [(bx % 256 + 1) * 16, bx / 256 % 256 + 1, bx / 65536 % 256 + 1, bx / 2 ^ 24 % 256 + 1]
    coords := coords }

def Box.dim (b : Box) (i : Nat) : Nat := b.dims.getD i 0
def Box.stride (b : Box) (i : Nat) : Nat := b.strides.getD (i - 1) 0
def Box.box (b : Box) (i : Nat) : Nat := b.boxes.getD i 1
def Box.coord (b : Box) (i : Nat) : Nat := b.coords.getD i 0

/-- Box rows, and bytes of the whole box. -/
def Box.rows (b : Box) : Nat := b.box 1 * b.box 2 * b.box 3
def Box.bytes (b : Box) : Nat := b.box 0 * b.rows

/-- Whether a layout record obeys R181, with the limit of R182 and c0 of R304. -/
def recordObeys (bs : List Byte) (b : Box) : Bool :=
  let ctl := fieldAt bs 0x38 4
  b.base % 16 == 0 && decide (b.base < 2 ^ 56) && b.strides.all (· % 16 == 0) && ctl / 4 == 0
    && [1, 2, 3].all (fun i => decide (1 ≤ b.dim i) && (decide (i ≤ ctl) || b.dim i == 1))
    && decide (b.bytes ≤ 2 ^ 20) && b.coord 0 % 16 == 0

/-- The global address of box row n and the bytes of it that lie inside the tensor. The spec gives the address as a sum, without a
modulus: it is taken modulo 2^64. DESIGN CHOICE (log 135). -/
def Box.row (b : Box) (n : Nat) : Nat × Nat :=
  let i1 := n % b.box 1
  let i2 := n / b.box 1 % b.box 2
  let i3 := n / b.box 1 / b.box 2
  let inside := decide (b.coord 1 + i1 < b.dim 1) && decide (b.coord 2 + i2 < b.dim 2) && decide (b.coord 3 + i3 < b.dim 3)
  ((b.base + b.coord 0 + (b.coord 1 + i1) * b.stride 1 + (b.coord 2 + i2) * b.stride 2 + (b.coord 3 + i3) * b.stride 3)
    % 2 ^ 64, if inside then min (b.box 0) (b.dim 0 - b.coord 0) else 0)

/-- The same for a gathered row of dimension-1 index v (R305). DESIGN CHOICE (log 135). -/
def Box.gatherRow (b : Box) (v : Nat) : Nat × Nat :=
  ((b.base + b.coord 0 + v * b.stride 1 + b.coord 2 * b.stride 2 + b.coord 3 * b.stride 3) % 2 ^ 64,
    if v < b.dim 1 then min (b.box 0) (b.dim 0 - b.coord 0) else 0)

/-- A copy's box row n. -/
def Copy.row (c : Copy) (n : Nat) : Nat × Nat :=
  match c.instr with
  | .cpGather .. => c.box.gatherRow (c.rows.getD n 0)
  | _ => c.box.row n

/-- Lines of a box row at a global address (R385): the parts in 256-byte blocks. -/
def lineCount (a n : Nat) : Nat := (a % 256 + n + 255) / 256

/-- Offset and length of line k of a row of n bytes at an address. -/
def lineAt (a n k : Nat) : Nat × Nat :=
  let lo := if k = 0 then 0 else 256 * k - a % 256
  (lo, min n (256 * (k + 1) - a % 256) - lo)

/-- The box row and the line within it that is next, walking the rows from `row`; none where all are done. -/
def Copy.posFrom (c : Copy) : Nat → Nat → Nat → Option (Nat × Nat)
  | 0, _, _ => none
  | fuel + 1, row, left =>
    let k := lineCount (c.row row).1 (c.box.box 0)
    if left < k then some (row, left) else c.posFrom fuel (row + 1) (left - k)

def Copy.pos (c : Copy) : Option (Nat × Nat) := c.posFrom c.box.rows 0 c.done

/-! ## Issue -/

/-- The groups that receive a copy: its own, or for `cp.mcast` those of the gang on the cores of the mask (R184). -/
def State.receivers (s : State) (grp : Nat) (i : Instr) : List Nat :=
  match i, s.group grp with
  | .cpMcast _ _ _ _ _ _ mask, some g =>
    let cl := s.coreOf grp / 8
    (bitsOf mask).filterMap (fun p =>
      (s.kiln.groups.find? (fun y => y.2.gang == g.gang && y.2.core == some (8 * cl + p))).map (·.1))
  | _, _ => [grp]

/-- The coordinates of a copy of a lane: four 32-bit values. -/
def Op.coords (o : Op) (l : Nat) : List Nat := (List.range 4).map (fun i => (wordOf (o.val 2 l) i).toNat)

/-- The modifiers of a copy. -/
def cpMods : Instr → CpMods
  | .cpTile _ _ _ _ _ m | .cpMcast _ _ _ _ _ m _ | .cpOut _ _ _ _ _ m | .cpGather _ _ _ _ _ m => m
  | _ => ⟨⟨false, false⟩, false, false, false, .wave⟩

/-- A misuse of the object of a copy, in one of its receivers (R304). -/
def State.copyObjBad (s : State) (rs : List Nat) (a l : Nat) : Bool := rs.any (fun k => (bobjBad s k a l true).isSome)

/-- The items of R304 that a lane's copy breaks whatever its record holds, by their numbers. -/
def State.copyItems (s : State) (grp : Nat) (o : Op) (l : Nat) : List Nat :=
  let i := o.instr
  let m := cpMods i
  let rs := s.receivers grp i
  let isOut : Bool := match i with | .cpOut .. => true | _ => false
  let isGather : Bool := match i with | .cpGather .. => true | _ => false
  let maskBad : Bool := match i with
    | .cpMcast _ _ _ _ _ _ mask => mask == 0 || rs.length != popCount mask
    | _ => false
  (if (o.val32 3 l).toNat % 16 ≠ 0 then [3] else [])
    ++ (if !isOut && s.copyObjBad rs (o.val32 0 l).toNat l then [4] else [])
    ++ (if isOut && (o.val64 0 l).toNat % 8 != 0 then [5] else [])
    ++ (if isGather && ((o.coords l).getD 1 0) % 4 != 0 then [6] else [])
    ++ (if maskBad then [7] else [])
    ++ (if !m.acq && !m.rel && m.fscope != .wave then [8] else [])

/-- The items that it breaks with the box of its record. -/
def State.boxItems (s : State) (grp : Nat) (o : Op) (l : Nat) (bs : List Byte) (b : Box) : List Nat :=
  let isGather : Bool := match o.instr with | .cpGather .. => true | _ => false
  (if !recordObeys bs b then [2] else [])
    ++ (if (s.receivers grp o.instr).any (fun k => decide (s.spadSize k < (o.val32 3 l).toNat + b.bytes)) then [3] else [])
    ++ (if isGather && (b.box 2 != 1 || b.box 3 != 1 || decide (s.spadSize grp < b.coord 1 + 4 * b.box 1)) then [6] else [])

/-- The checks of one lane's copy by the items of R304, and its box. The lowest item is named; a fault in reading the
record comes after every item that does not rest on it (log 97). -/
def State.copyBox (s : State) (grp : Nat) (ag : Agent) (o : Op) (l : Nat) : Except Bad (State × Box) :=
  let rec_ := (o.val64 1 l).toNat
  let own := s.copyItems grp o l
  if rec_ % 64 ≠ 0 ∨ 2 ^ 56 ≤ rec_ then .error (illegalIn 0x0E 1 l)
  else match s.obj ag .clus rec_ 64 with
    | .error e => match own with
      | k :: _ => .error (illegalIn 0x0E k l)
      | [] => .error (objBad e l)
    | .ok (s1, bs) =>
      let b := Box.ofRecord bs (o.coords l)
      match (own ++ s.boxItems grp o l bs b).min? with
      | some k => .error (illegalIn 0x0E k l)
      | none => .ok (s1, b)

/-- Checking every lane that makes a copy: illegal uses first, then faults in reading a record (R392). -/
def State.copyCheck (s : State) (grp : Nat) (ag : Agent) (o : Op) (ls : List Nat) : Except Bad State :=
  let rs := ls.map (fun l => s.copyBox grp ag o l)
  let bads := rs.filterMap (fun r => match r with | .error b => some b | .ok _ => none)
  match bads.find? (fun b => b.cls == 2), bads with
  | some b, _ => .error b
  | none, b :: _ => .error b
  | none, [] => .ok (ls.foldl (fun s l => match s.copyBox grp ag o l with | .ok (s1, _) => s1 | .error _ => s) s)

/-- The lanes that make a copy: the leader with `.one` (R183). -/
def Env.copyLanes (e : Env) (m : CpMods) : W32 := if m.one then e.lead else e.part

/-- The copy of a lane. -/
def mkCopy (id u op l : Nat) (o : Op) (b : Box) : Copy :=
  { id := id, wave := u, op := op, lane := l, instr := o.instr, box := b, rows := [], spad := (o.val32 3 l).toNat
    obj := (o.val32 0 l).toNat, stamp := (o.val64 0 l).toNat, value := (o.val 0 l >>> 64).setWidth 64, done := 0
    excess := false }

/-- The unfinished copies that a port holds. -/
def portSize : Nat := 64

/-- The port accepts the copies that wait for it, in order of issue, as far as it has room (R183). -/
def Core.accept (k : Core) : Core :=
  let n := portSize - k.copies.length
  { k with copies := k.copies ++ k.pend.take n, pend := k.pend.drop n }

/-- Issue of a copy instruction (R183, R304): it stalls while earlier accesses of its slices are outstanding, since the layout
record is read now (R145), and while the port is full. An acquire flag acts before the record is read (R146). The port
accepts the copies in lane order; those that it has no room for wait. -/
def issueCopy (i : Instr) (g : Guard) (m : CpMods) (caps : List (Opd × Nat)) (s : State) : Out :=
  issueWith i g m.fs caps [] s
    (fun e => e.part != 0 && (e.w.behind e.sl || decide (portSize ≤ (s.core e.ag.core).copies.length)))
    (fun e =>
      let o := e.op i 0 none caps []
      let s0 := if m.acq && e.part != 0 then s.acquire e.ag (s.capScope e.ag.ctx m.fscope) else s
      match s0.copyCheck e.w.group e.ag o (bitsOf (e.copyLanes m)) with
      | .error b => .error b
      | .ok t => if m.acq ∨ m.rel then t.ceiling e m.fscope 1 else .ok t)
    (fun e id t =>
      let o := e.op i id none caps []
      ((bitsOf (e.copyLanes m)).foldl (fun t l => match t.copyBox e.w.group e.ag o l with
        | .error _ => t
        | .ok (_, b) =>
          let (cid, t1) := t.takeUid
          t1.modCore e.ag.core (fun k => { k with pend := k.pend ++ [mkCopy cid e.u id l o b] })) t).modCore e.ag.core Core.accept)
    (fun e => e.copyLanes m)

/-- `cp.tile` (R303). -/
def execCpTile (g : Guard) (d a b c : Opd) (m : CpMods) (s : State) : Out :=
  issueCopy (.cpTile g d a b c m) g m [(d, 1), (a, 2), (b, 4), (c, 1)] s
/-- `cp.mcast` (R303). -/
def execCpMcast (g : Guard) (d a b c : Opd) (m : CpMods) (mask : Byte) (s : State) : Out :=
  issueCopy (.cpMcast g d a b c m mask) g m [(d, 1), (a, 2), (b, 4), (c, 1)] s
/-- `cp.out` (R303). -/
def execCpOut (g : Guard) (d a b c : Opd) (m : CpMods) (s : State) : Out :=
  issueCopy (.cpOut g d a b c m) g m [(d, 4), (a, 2), (b, 4), (c, 1)] s
/-- `cp.gather` (R303). -/
def execCpGather (g : Guard) (d a b c : Opd) (m : CpMods) (s : State) : Out :=
  issueCopy (.cpGather g d a b c m) g m [(d, 1), (a, 2), (b, 4), (c, 1)] s

/-! ## Movement -/

/-- A copy with n more lines done. -/
def Copy.step (c : Copy) (n : Nat) : Copy := { c with done := c.done + n }

/-- Whether a receiver of a multicast has gone since it was issued (R382): 3 where a member has departed, 2 where its exit has
completed (R72). -/
def State.receiverGone (s : State) (grp : Nat) (i : Instr) : Option Nat :=
  match i with
  | .cpMcast _ _ _ _ _ _ mask =>
    if (s.receivers grp i).length = popCount mask then none
    else some (if (Tab.find s.kiln.spans (s.spanKeyOf grp)).any (fun p => !p.departed.isEmpty) then 3 else 2)
  | _ => none

/-- Moving one line of a copy in: the bytes into each receiver, then their count on its object (R145, R305). In which order the
receivers of a `cp.mcast` are served is not stated: each line goes to all of them, by ascending position. DESIGN CHOICE
(log 126). -/
def State.lineIn (s : State) (grp : Nat) (ag : Agent) (c : Copy) (n k : Nat) : Except ObjErr State :=
  let (a, inside) := c.row n
  let (lo, len) := lineAt a (c.box.box 0) k
  let got := min len (inside - lo)
  match s.receiverGone grp c.instr with
  | some d => .error ⟨⟨6, d⟩, a + lo, true⟩
  | none => match (if got = 0 then .ok (s, []) else s.obj ag .clus (a + lo) got) with
    | .error e => .error e
    | .ok (s1, bs) =>
      let data := bs ++ List.replicate (len - got) 0
      .ok ((s1.receivers grp c.instr).foldl (fun s r =>
        (s.spadWrite r (c.spad + n * c.box.box 0 + lo) data).change (.deliver r c.obj len c.id)) s1)

/-- Why the write of a copy to a page of fabric space that caches nothing is not performed: the route to its home is lost
(R421). -/
def State.sendErr (s : State) (ag : Agent) (sc : Scope) (va : Nat) : Option MemErr :=
  match s.translate ag va .write with
  | .ok (p, at_) =>
    if p.isHome && !s.viral ag.ctx && writePoint (pointOf sc p) p at_ == .home then (p.dest.bind s.destErr).filter (fun e => e.detail == 2)
    else none
  | .error _ => none

/-- Moving one line of a copy out. -/
def State.lineOut (s : State) (grp : Nat) (ag : Agent) (c : Copy) (n k : Nat) : Except ObjErr State :=
  let (a, inside) := c.row n
  let (lo, len) := lineAt a (c.box.box 0) k
  let put := min len (inside - lo)
  let src := c.spad + n * c.box.box 0 + lo
  if put = 0 then .ok s
  else if (s.spadRead grp src put).2 then .error ⟨⟨4, 1⟩, a + lo, false⟩
  else match s.canWrite ag (a + lo) put with
    | some e => .error e
    | none => match s.sendErr ag .clus (a + lo) with
      | some e => .error ⟨e, a + lo, true⟩
      | none => match s.group grp with
        | none => .ok s
        | some x => .ok (s.setObj ag .clus (a + lo) (x.spad.bytes src put))

/-- One line of a copy. -/
def State.copyLine (s : State) (grp : Nat) (ag : Agent) (c : Copy) (n k : Nat) : Except ObjErr State :=
  match c.instr with
  | .cpOut .. => s.lineOut grp ag c n k
  | _ => s.lineIn grp ag c n k

/-- What moving lines came to: more to do, all done, or an error at the next line. -/
inductive CopyEnd
  | more
  | all
  | err (e : ObjErr) (row line addr : Nat)
  deriving DecidableEq, Repr

/-- Moving up to n lines, `fuel` being more than n. Delivered counts come in pieces of any size (R305); the smallest here is one line
of a box row, and they come in the order of the rows. DESIGN CHOICE (log 126). -/
def State.moveLines (s : State) (grp : Nat) (ag : Agent) (c : Copy) : Nat → Nat → State × Copy × CopyEnd
  | 0, _ => (s, c, .more)
  | fuel + 1, n =>
    match c.pos with
    | none => (s, c, .all)
    | some (row, k) =>
      if n = 0 then (s, c, .more)
      else match s.copyLine grp ag c row k with
        | .error e =>
          let (a, _) := c.row row
          (s, c, .err e row k (a + (lineAt a (c.box.box 0) k).1))
        | .ok s1 => State.moveLines s1 grp ag (c.step 1) fuel (n - 1)

/-- The most lines that a copy has: 17 for each of 2^16 box rows. -/
def maxLines : Nat := 17 * 2 ^ 16

/-- A copy leaves the port, which accepts the next. -/
def State.dropCopy (s : State) (core id : Nat) : State :=
  s.modCore core (fun k => { k with copies := k.copies.filter (fun x => x.id != id) : Core }.accept)

/-- A copy as the port holds it. -/
def State.copyNow (s : State) (core : Nat) (c : Copy) : Copy := ((s.core core).copies.find? (fun x => x.id == c.id)).getD c

/-- An error of a copy joins the pending errors of its wave (R382, R385): for codes 7 and 8 FLANES has the lane concerned, the
copy's own (R410); poison begins viral mode (R415). -/
def State.copyErr (s : State) (ctx : Nat) (c : Copy) (o : Op) (code detail addr row line : Nat) (poison : Bool) : State :=
  let lanes : W32 := if code = 7 ∨ code = 8 then maskOf [c.lane] else o.lanes
  let s1 := s.addAsync c.wave { o.err code detail addr c.lane lanes with rows := row, lines := line }
  if poison then s1.goViral ctx else s1

/-- A copy ends for an access that is not performed: class 5 code 7 for a write that a lost route does not take (R421), else
code 4 (R410). -/
def State.copyFail (s : State) (ctx : Nat) (c : Copy) (o : Op) (e : ObjErr) (addr row line : Nat) : State :=
  if e.write ∧ e.err = ⟨7, 2⟩ then s.copyErr ctx c o 7 0 addr row line false
  else s.copyErr ctx c o 4 (e.err.code * 16 + e.err.detail) addr row line (e.err.code == 4)

/-- A copy that has contributed to a delivery past EARLY's maximum completes with its error (R448). -/
def State.copyExcess (s : State) (ctx : Nat) (c : Copy) (o : Op) (row line : Nat) : State :=
  if c.excess then s.copyErr ctx c o 11 0 c.obj row line false else s

/-- Whether counts of a copy are among the changes of the clock that is being taken: it does not end before they are performed. -/
def State.counting (s : State) (id : Nat) : Bool :=
  (s.sched.changes.getD []).any (fun x => match x with | .deliver _ _ _ i => i == id | _ => false)

/-- The last of a copy: for `cp.out` the stamp, with the release of R146. -/
def State.copyLast (s : State) (ag : Agent) (c : Copy) (o : Op) (m : CpMods) (sc : Scope) : State :=
  match c.instr with
  | .cpOut .. =>
    let at_ : Scope := if m.rel then sc else .clus
    match (match s.canWrite ag c.stamp 8 with
      | some e => some e
      | none => (s.sendErr ag at_ c.stamp).map (fun e => (⟨e, c.stamp, true⟩ : ObjErr))) with
    | some e => s.copyFail ag.ctx c o e c.stamp c.box.rows 0
    | none => (if m.rel then s.release ag sc else s).setObj ag at_ c.stamp (leBytes c.value.toNat 8)
  | _ => (if m.rel then s.release ag sc else s).copyExcess ag.ctx c o c.box.rows 0

/-- COPY_DELIVERY: a gather's list is read when it starts (R305), and poison in it ends the copy (R414); the next lines of a copy
are moved and counted; after the last come the release of R146 and, for `cp.out`, the stamp. -/
def execCopyDelivery (core id lines : Nat) (s : State) : Out :=
  match (s.core core).copies.find? (fun c => c.id == id) with
  | none => .next s
  | some c => match s.wave c.wave with
    | none => .next (s.dropCopy core id)
    | some w => match w.ops.find? (fun o => o.id == c.op) with
      | none => .next (s.dropCopy core id)
      | some o =>
        let grp := w.group
        let ag := s.agentOf grp
        let m := cpMods c.instr
        let sc := s.capScope ag.ctx m.fscope
        if w.olderThan c.op then .next s
        else
          let s0 := if c.done = 0 ∧ m.acq then s.acquire ag sc else s
          let c0 := match c.instr with
            | .cpGather .. => if c.rows.isEmpty then { c with rows := (List.range (c.box.box 1)).map (fun i =>
                (s0.spadRead grp (c.box.coord 1 + 4 * i) 4).1) } else c
            | _ => c
          let badList : Bool := match c.instr with
            | .cpGather .. => c.done == 0 && (s0.spadRead grp (c.box.coord 1) (4 * c.box.box 1)).2
            | _ => false
          if badList then .next ((s0.dropCopy core id).copyErr ag.ctx c o 4 (4 * 16 + 1) (c0.row 0).1 0 0 true)
          else
            let (s1, c1, fin) := s0.moveLines grp ag c0 (maxLines + 1) lines
            let s2 := s1.modCore core (fun k => { k with copies := k.copies.map (fun x =>
              if x.id = id then { c1 with excess := x.excess } else x) })
            let c2 := s2.copyNow core c1
            .next (if s2.counting id then s2
              else match fin with
                | .more => s2
                | .err e row k a => ((s2.dropCopy core id).copyFail ag.ctx c2 o e a row k).copyExcess ag.ctx c2 o row k
                | .all => (s2.dropCopy core id).copyLast ag c2 o m sc)

/-! ## The performance of `wbload` (R300, R406, R414, R437) -/

/-- The first 256-byte line of an image that holds a poisoned granule. -/
def poisonedLine (g : Group) (a n : Nat) : Option Nat :=
  (List.range ((n + 255) / 256)).find? (fun k =>
    g.spadPoison.any (fun p => decide (64 * p < a + min n (256 * (k + 1))) && decide (a + 256 * k < 64 * p + 64)))

/-- The slot that a `wbload` leaves, marked bad where a mask has a wrong number of bits. -/
def Slot.load (m : WbMods) (grp : Nat) (spad : Mem) (a : Nat) : Slot :=
  let n := (planesOf m.bfmt (wbK m) m.form).size (colsOf m.n128)
  let x : Slot := ⟨some grp, true, m.bfmt, m.n128, wbK m, m.form, Store.setBytes [] 0 (spad.bytes a n), none, []⟩
  { x with bad := x.badMask }

/-- A slot into which a `wbload` that has stopped on poison has delivered the first n bytes of its image (R385, R414): the slot has
recorded the image's format (R299), every later byte is as before, and it counts as loaded if it did. DESIGN CHOICE (log 146). -/
def Slot.fill (m : WbMods) (spad : Mem) (a n : Nat) (x : Slot) : Slot :=
  let y : Slot := { x with fmt := m.bfmt, n128 := m.n128, k := wbK m, form := m.form
                           img := Store.setBytes x.img 0 (spad.bytes a n)
                           poison := x.poison.filter (fun g => decide (n < 64 * g + 64)) }
  { y with bad := y.badMask }

/-- `wbload` performed. It stops at the line of its image that holds a poisoned granule, and reports the lines before it (R414). -/
def State.doWbload (s : State) (u core grp : Nat) (ag : Agent) (o : Op) (m : WbMods) : State :=
  match s.group grp with
  | none => s
  | some g =>
    let a := (o.val32 0 o.leader).toNat
    let sc := s.capScope ag.ctx m.fscope
    let s0 := if m.acq then s.acquire ag sc else s
    let s1 := s0.modCore core (fun k => { k with array := k.array.filter (fun y => y != .load u o.id m) })
    match poisonedLine g a ((planesOf m.bfmt (wbK m) m.form).size (colsOf m.n128)) with
    | some k =>
      let s2 := s1.modCore core (fun c => { c with slots := modAt c.slots m.slot.val (Slot.fill m g.spad a (256 * k)) })
      (s2.addAsync u { o.err 4 (4 * 16 + 1) (a + 256 * k) o.leader o.lanes with rows := 0, lines := k }).goViral ag.ctx
    | none =>
      let s2 := s1.modCore core (fun k => { k with slots := modAt k.slots m.slot.val (fun _ => Slot.load m grp g.spad a) })
      if m.rel then s2.release ag sc else s2

end Sys2Proof.Machine
end

