-- ==== Sys2Proof/Machine/Sys.lean ====
section
/-! DEFINITION. Group SYS (R307 to R315): special registers, cache and translation maintenance, `probe`, in-field scans
and `halt`. -/

namespace Sys2Proof.Machine

/-! ## Special registers (R308 to R310) -/

/-- `%dbgctl` of a wave (R310). -/
def Wave.dbgctl (w : Wave) (att : Bool) : Nat :=
  (if att then 8 else 0) + (if w.halted then 4 else 0) + (if w.clstep then 2 else 0) + (if w.brkstop then 1 else 0)

/-- `%crew` of a wave (R169). -/
def State.crewReg (s : State) (w : Wave) : Nat :=
  match s.crewOf w with
  | some (c, x) => c + 4 * ((bitsOf x.mask).filter (· < w.idx)).length
  | none => 0x1F

/-- The value of a special register for a lane; none for a code that is not in R309. -/
def State.special (s : State) (w : Wave) (code lane : Nat) : Option Nat :=
  let g := s.group w.group
  let l := s.launchOf w.group
  let c := s.coreOf w.group
  let gang := (l.map (·.record.gang)).getD 1
  let number := (g.map (·.number)).getD 0
  let ctx := s.ctxOfGroup w.group
  match code with
  | 0x00 => some lane
  | 0x01 => some (sliceOf lane)
  | 0x02 => some w.wid
  | 0x03 => some number
  | 0x04 => some (number / gang)
  | 0x05 => some ((l.map (·.record.spanKey)).getD 0)
  | 0x06 => some (match l with
      | some l => if l.record.spanKey = 0 then number % gang else l.record.spanFirst + number
      | none => 0)
  | 0x07 => some c
  | 0x08 => some (c / 8)
  | 0x09 => some s.dev.devid
  | 0x0A => some (s.ctxNo w.group)
  | 0x0B => some (s.tenantNo w.group)
  | 0x10 => some (s.crewReg w)
  | 0x11 => some (w.slice (sliceOf lane)).window
  | 0x12 => some (s.poolOf w.group).toNat
  | 0x13 => some w.task.record.toNat
  | 0x14 => some w.chain.length
  | 0x18 => some (s.clockOf c)
  | 0x19 => some s.dev.tick
  | 0x20 => some w.trapbase
  | 0x21 => some w.cause.toNat
  | 0x22 => some w.taddr.toNat
  | 0x23 => some w.tinfo.toNat
  | 0x28 => some (match ctx with
      | some x => (if x.strict then 2 else 0) + (if x.cap then 1 else 0)
      | none => 0)
  | 0x29 => some (if w.note then 1 else 0)
  | 0x30 => some (w.dbgctl ((ctx.map (·.att)).getD false))
  | _ => none

/-- `sget` (R308): a code that is not in R309 is illegal. -/
def execSget (g : Guard) (d : Opd) (sreg : Byte) (s : State) : Out :=
  runShort (.sget g d sreg) g [(d, if sregIs64 sreg.toNat then 2 else 1)] [] true s (fun e =>
    if e.part ≠ 0 ∧ (s.special e.w sreg.toNat 0).isNone then .error (illegal 0x10 1)
    else
      let v (l : Nat) : Nat := (s.special e.w sreg.toNat l).getD 0
      .ok (s.setWave e.u (if sregIs64 sreg.toNat then e.w.wrq d e.part (fun l => BitVec.ofNat 64 (v l))
        else e.w.wr d e.part (fun l => BitVec.ofNat 32 (v l)))))

/-- Setting NARM in the frame of depth 1 (R380). -/
def State.setNarm (s : State) (u : Nat) (ag : Agent) : State :=
  match s.frameAddr u 1 with
  | .error _ => s
  | .ok a => match s.obj ag .wave (a + 0x1C) 4 with
    | .error _ => s
    | .ok (s1, bs) => s1.setObj ag .wave (a + 0x1C) (leBytes (leNat bs ||| 4) 4)

/-- The write of `sset` to a register of type RW (R308, R309, R310, R380); none for a value not permitted. -/
def State.ssetWrite (s : State) (e : Env) (code v : Nat) : Option State :=
  let att := ((s.ctx e.ag.ctx).map (·.att)).getD false
  match code with
  | 0x20 =>
    if codeAddrOk v then
      if e.w.depth = 1 then some ((s.modWave e.u (fun w => { w with trapbase := v, narm := true })).setNarm e.u e.ag)
      else some (s.modWave e.u (fun w => { w with trapbase := v }))
    else none
  | 0x29 => some (s.modWave e.u (fun w => { w with note := w.note && v % 2 == 1 }))
  | _ => some (s.modWave e.u (fun w =>
      { w with clstep := att && v / 2 % 2 == 1, brkstop := att && v % 2 == 1 }))

/-- `sset` (R308). -/
def execSset (g : Guard) (a : Opd) (sreg : Byte) (s : State) : Out :=
  runShort (.sset g a sreg) g [] [(a, if sregIs64 sreg.toNat then 2 else 1)] true s (fun e => match e.leader with
    | none => .ok s
    | some l =>
      let code := sreg.toNat
      let v := if sregIs64 code then (e.w.rdq a l).toNat else (e.w.rd a l).toNat
      if (s.special e.w code 0).isNone then .error (illegal 0x10 1)
      else if code ≠ 0x20 ∧ code ≠ 0x29 ∧ code ≠ 0x30 then .error (illegal 0x10 3)
      else match s.ssetWrite e code v with
        | none => .error (illegalIn 0x10 4 l)
        | some t => .ok t) Env.lead

/-! ## Caches and translations (R311, R312) -/

/-- `cctl` at issue (R311): a range address with bits [63:56] set is illegal. -/
def execCctl (g : Guard) (a b : Opd) (op : CctlOp) (fs : FlagSel) (s : State) : Out :=
  issueLong (.cctl g a b op fs) g fs [(a, 2), (b, 1)] [] s (fun _ => false) (fun e => match e.leader with
    | none => .ok s
    | some l => if 2 ^ 56 ≤ (e.w.rdq a l).toNat then .error (illegalIn 0x0A 1 l) else .ok s) Env.lead

/-- `tlbinv` at issue (R312). -/
def execTlbinv (g : Guard) (a b : Opd) (fs : FlagSel) (s : State) : Out :=
  issueLong (.tlbinv g a b fs) g fs [(a, 2), (b, 1)] [] s (fun _ => false) (fun e => match e.leader with
    | none => .ok s
    | some l => if 2 ^ 56 ≤ (e.w.rdq a l).toNat then .error (illegalIn 0x0A 1 l) else .ok s) Env.lead

/-- The sectors, by place, that the bytes [va, va + n) of a context translate to, page by page of 4 KiB. -/
def State.rangeMeets (s : State) (ag : Agent) (va n : Nat) (p : Place) : Bool :=
  (List.range (n / 4096 + 2)).any (fun i =>
    let x := va / 4096 * 4096 + 4096 * i
    let lo := max va x
    let hi := min (va + n) (x + 4096)
    decide (lo < hi) && (match s.translate ag lo .read with
      | .ok (q, _) =>
        let a := q.addr
        q.space == p.space && decide (a < p.addr + 128) && decide (p.addr < a + (hi - lo))
      | .error _ => false))

/-- `cctl` performed (R311): an invalidation drops whole lines, of which nothing dirty is lost. -/
def State.doCctl (s : State) (ag : Agent) (op : CctlOp) (va n : Nat) : State :=
  let asid := s.asidOf ag.ctx
  match op with
  | .cinv => s.modCore ag.core (fun c => { c with cc := c.cc.filter (fun x => x.asid != asid) })
  | _ =>
    let ps := s.l2Places ag.cluster (fun x => x.tenant == ag.tenant && s.rangeMeets ag va n x.place)
    let s1 := ps.foldl (fun s p =>
      let t := s.l2WriteBack ag.cluster p
      if p.isHome then t.mscFlush (some ag.cluster) p else t) s
    if op = .wb then s1
    else
      let s2 := (ps.flatMap Place.sectors).foldl (fun s p => s.l2Flush ag.cluster p) s1
      s2.modCore ag.core (fun c => { c with l1 := c.l1.filter (fun x => !(x.asid == asid && lineMeets 256 x.va va n)) })

/-- `tlbinv` performed (R108, R312). -/
def State.doTlbinv (s : State) (asid va n : Nat) : State :=
  if n = 0 then s
  else { s with
    clusters := s.clusters.map (fun c => (c.1, { c.2 with tlb := c.2.tlb.filter (fun t =>
      !(t.asid == asid && decide (t.va < va + n) && decide (va < t.va + t.size))) }))
    cores := s.cores.map (fun c => (c.1, { c.2 with l1 := c.2.l1.filter (fun x =>
      !(x.asid == asid && lineMeets 256 x.va va n)) })) }

/-! ## `probe` (R313) -/

/-- `probe` at issue: it never traps, whatever its address holds. -/
def execProbe (g : Guard) (d a : Opd) (fs : FlagSel) (s : State) : Out :=
  issueLong (.probe g d a fs) g fs [(a, 2)] [(d, 1)] s (fun _ => false) (fun _ => .ok s) (fun _ => 0)

/-- ATOM, CAS128 and AOP of a physical address (R313, R324). -/
def State.paCaps (s : State) (t pa : Nat) : Bool × Bool × Bool :=
  match pa / 2 ^ 44 % 4 with
  | 0 => (true, true, false)
  | 1 => (true, false, false)
  | 2 => match windowOf (s.tenant t).windows (pa % 2 ^ 44) with
    | some w => (w.control.getLsbD 5, w.control.getLsbD 4, w.control.getLsbD 3)
    | none => (false, false, false)
  | _ => (false, false, false)

/-- The result word of `probe` for an address. -/
def State.probeWord (s : State) (ag : Agent) (va : Nat) : Nat :=
  match (if va < 2 ^ 56 then s.lookup ag va else .error ⟨1, 3⟩) with
  | .error _ => 0
  | .ok (ph, size, at_) =>
    let pa := match ph with | .pa b => b + va % size | .reg _ => 0
    let (atom, cas, aop) := s.paCaps ag.tenant pa
    let b (x : Bool) (i : Nat) : Nat := if x then 2 ^ i else 0
    at_.psize * 4096 + b (aop && cas) 11 + b aop 10 + b cas 9 + b atom 8 + b (s.cohOf ag.tenant pa at_) 7
      + at_.pol * 32 + at_.region * 8 + b at_.x 2 + b at_.w 1 + 1

/-! ## In-field scans (R314) -/

/-- The checks of `scan.start` and `scan.poll`. -/
def State.scanBad (s : State) (e : Env) (core : Option Nat) : Option Bad :=
  match e.leader with
  | none => none
  | some l =>
    if (match core with | some n => decide (191 < n) && n != 0xFFFFFFFF | none => false) then some (illegalIn 0x10 4 l)
    else if !(((s.ctx e.ag.ctx).map (·.mgmt)).getD false) then some (illegal 0x11 1) else none

/-- `scan.start` at issue. -/
def execScanStart (g : Guard) (d a : Opd) (fs : FlagSel) (s : State) : Out :=
  issueLong (.scanStart g d a fs) g fs [(a, 1)] [(d, 1)] s (fun _ => false) (fun e =>
    match s.scanBad e (e.leader.map (fun l => (e.w.rd a l).toNat)) with
    | some b => .error b
    | none => .ok s) Env.lead

/-- `scan.poll` at issue. -/
def execScanPoll (g : Guard) (d a : Opd) (fs : FlagSel) (s : State) : Out :=
  issueLong (.scanPoll g d a fs) g fs [(a, 1)] [(d, 1)] s (fun _ => false) (fun e =>
    match s.scanBad e none with
    | some b => .error b
    | none => .ok s) Env.lead

/-- The handle of a new scan: the free value, or the next number that is neither 0 nor a valid handle (log 21). -/
def State.newHandle (s : State) : Nat :=
  let h := (Config.scanHandle s.sched.fresh).toNat
  ((List.range (s.kiln.scans.length + 2)).map (fun k => (h + k) % 2 ^ 32)).find?
    (fun x => x != 0 && (Tab.find s.kiln.scans x).isNone) |>.getD 1

/-- `scan.start` performed: KILN has accepted the request, which is queued. -/
def State.doScanStart (s : State) (core : Nat) : State × Nat :=
  let h := s.newHandle
  ({ s.bumpFresh with kiln := { s.kiln with
      scans := Tab.put s.kiln.scans h ⟨if core = 0xFFFFFFFF then none else some core, 0⟩ } }, h)

/-- `scan.poll` performed: a handle read as 2 or 3 is no longer valid. -/
def State.doScanPoll (s : State) (h : Nat) : State × Nat :=
  match Tab.find s.kiln.scans h with
  | none => (s, 5)
  | some x => (if x.status = 2 ∨ x.status = 3 then { s with kiln := { s.kiln with scans := Tab.drop s.kiln.scans h } } else s,
      x.status)

/-! ## `halt` (R315) -/

/-- `halt`: it stops the wave for the debugger, standing after it. It is not among the reporting points of R383. -/
def execHalt (g : Guard) (s : State) : Out :=
  runShort (.halt g) g [] [] false s (fun e =>
    if e.part = 0 then .ok (s.next e (.halt g))
    else if !(((s.ctx e.ag.ctx).map (·.att)).getD false) then .error (illegal 0x11 2)
    else .ok ((s.next e (.halt g)).modWave e.u (fun w => { w with halted := true })))

end Sys2Proof.Machine
end

