-- ==== Sys2Proof/Machine/LongOps.lean ====
section
/-! DEFINITION. LONG_OP_COMPLETE (R40, R259): which operation of a wave may be performed when, and what completing it for
a slice does. `mma` and `mmas` complete with MATRIX_OP_FINISH. -/

namespace Sys2Proof.Machine

/-! ## Order between the operations of a slice (R136 to R138, R145) -/

/-- The group TASK instructions that an Irwald unit or KILN performs. -/
def isTaskOp (i : Instr) : Bool :=
  match i with
  | .spawn .. | .launch .. | .qpush .. | .qpop .. => true
  | _ => false

/-- Whether an instruction makes accesses of the lane itself. -/
def isAccess (i : Instr) : Bool :=
  isTaskOp i || (accOf i).isSome || (match i with | .cvtHad .. => true | _ => false)

/-- The bytes that a lane's access touches, as far as two accesses of a lane have to be ordered: a scratchpad or not,
an offset, a length. Global addresses are compared within a page, since two of them may lead to one place. -/
def Op.range (o : Op) (l : Nat) : Option (Bool × Nat × Nat) :=
  match o.instr with
  | .cvtHad .. => if l = o.leader then some (false, ((o.val64 2 l).toNat + 0x30) % 4096, 8) else none
  | i => match accOf i with
    | none => none
    | some a => match a.space with
      | .const => none
      | .glob => some (false, o.addr l % 4096, a.n)
      | .spad => some (true, o.addr l % 2 ^ 21, a.n)
      | .win => some (true, o.addr l % 2 ^ 21, a.n)

/-- Whether two such ranges have a common byte. -/
def rangesMeet (x y : Option (Bool × Nat × Nat)) : Bool :=
  match x, y with
  | some (k, a, n), some (k', a', n') => k == k' && decide (a < a' + n') && decide (a' < a + n)
  | _, _ => false

/-- Whether two operations touch a common byte in a lane of a slice. -/
def Op.meets (o p : Op) (slice : Nat) : Bool :=
  (bitsOf (o.lanes &&& p.lanes &&& lanesOf (maskOf [slice]))).any (fun l => rangesMeet (o.range l) (p.range l))

/-- Whether the lanes of lower slices that write or act on a byte of this slice's lanes have been performed: writes and
atomics of one instruction on the same bytes go in ascending lane order (R260). -/
def Op.ascends (o : Op) (slice : Nat) : Bool :=
  match accOf o.instr with
  | none => true
  | some a => a.kind == .load || (bitsOf (o.todo &&& lanesOf (maskOf [slice]))).all (fun l =>
      (bitsOf (o.todo &&& lanesOf (o.undone &&& maskOf (List.range slice)))).all (fun k => !rangesMeet (o.range k) (o.range l)))

/-- Whether an earlier operation has to be performed before a later one of the same slice. -/
def Op.before (o p : Op) (slice : Nat) : Bool :=
  if !isAccess o.instr then false
  else match p.instr with
    | .cctl .. => true
    | _ => isAccess p.instr && (isTaskOp o.instr || isTaskOp p.instr
        || ((accOf o.instr).map Acc.acquires).getD false || ((accOf p.instr).map Acc.releases).getD false
        || o.meets p slice)

/-- The slices whose lanes are acted for when a slice completes: of one load all, which read together, DEDUCED (log 99); of an
instruction that an Irwald unit or KILN performs all; of one that acts from its leader's operands the leader's (R144, R240,
R311). -/
def Op.together (o : Op) (slice : Nat) : BitVec 8 :=
  match accOf o.instr with
  | some a => if a.kind = .load then o.undone else maskOf [slice]
  | none => match o.instr with
    | .cctl .. | .cvtHad .. => if o.todo = 0 then maskOf [slice] else maskOf [sliceOf o.leader]
    | i => if isTaskOp i && o.todo != 0 then o.undone else maskOf [slice]

/-- Whether an operation may be performed for a slice now. -/
def Wave.mayPerform (w : Wave) (o : Op) (slice : Nat) : Bool :=
  if isEngine o.instr then !w.olderThan o.id
  else o.ascends slice && (bitsOf (o.together slice)).all (fun j =>
    w.ops.all (fun p => !(decide (p.id < o.id) && p.undone.getLsbD j && p.before o j)))

/-! ## Performing -/

/-- Writing back an operation's record. -/
def State.setOp (s : State) (u : Nat) (o : Op) : State :=
  s.modWave u (fun w => { w with ops := w.ops.map (fun x => if x.id = o.id then o else x) })

/-- The operation has completed for a slice. -/
def State.sliceDone (s : State) (u : Nat) (o : Op) (slice : Nat) : State :=
  s.modWave u (fun w => w.opDone o (maskOf [slice]))

/-- An action that is taken once for the whole operation, when its first slice completes. -/
def State.actOnce (s : State) (u : Nat) (o : Op) (slice : Nat) (f : State → State) : State :=
  if o.todo = 0 then s.sliceDone u o slice
  else
    let o1 := { o with todo := 0, checked := true }
    ((f s).setOp u o1).sliceDone u o1 slice

/-- Writing an operation's destination in all its lanes. -/
def State.writeDst (s : State) (u : Nat) (o : Op) (lanes : W32) (f : Nat → W128) : State :=
  s.modWave u (fun w => match o.dst with
    | (d, k) :: _ => w.wrOp o k d lanes f
    | [] => w)

/-- Lanes of an operation that are not performed: the asynchronous error that its completion leaves (R410), with viral
mode for consumed poison (R415). -/
def State.refuseLanes (s : State) (u : Nat) (ag : Agent) (o : Op) (lanes : W32) (code detail : Nat) : State :=
  let l := (bitsOf lanes).headD 0
  let s1 := s.addAsync u (o.err code detail (o.addr l) l lanes)
  if code = 5 then s1.goViral ag.ctx else s1

/-- A memory access: its checks once over all its lanes (R411), its refused lanes (R410, R414, R426), then the lanes of
the slice in ascending order, at most `count` of them now, so that other agents' writes may fall between (R260); for a load
all lanes. -/
def State.completeMem (s : State) (u : Nat) (ag : Agent) (grp : Nat) (o : Op) (a : Acc) (slice count : Nat) : State :=
  let perform (s : State) (o : Op) : State :=
    let all := o.todo &&& lanesOf (o.together slice)
    let ls : W32 := if a.kind = .load then all else maskOf ((bitsOf all).take count)
    let o1 := { o with todo := o.todo &&& ~~~ls }
    let s1 := (if ls = 0 then s else s.performMem u ag grp o a ls).setOp u o1
    if ls = all then s1.sliceDone u o1 slice else s1
  if o.checked then perform s o
  else match s.memCheck ag grp o a with
    | some b => s.holdOp u o b
    | none =>
      let bads := (s.lanesRefused ag grp o a).filter (fun x => x.1 != 0)
      let o1 := { o with checked := true, todo := o.todo &&& ~~~(bads.foldl (fun m x => m ||| x.1) 0) }
      bads.foldl (fun s x => s.refuseLanes u ag o x.1 x.2.1 x.2.2) (perform s o1)

/-- `cvt.had`: SEED is read once by the leader, and every lane's result written. -/
def State.completeHad (s : State) (u : Nat) (ag : Agent) (o : Op) (slice : Nat) (dty : Ty) (rnd : Rnd) (sat inv : Bool) :
    State :=
  if o.todo = 0 then s.sliceDone u o slice
  else
    let l := o.leader
    let x := ((o.val64 2 l).toNat + 0x30) % 2 ^ 64
    match s.loadErr ag .wave x 8 with
    | some e => s.holdOp u o (memBad e false false l x)
    | none =>
      let (s1, seed, _) := s.loadVa ag x 8 .wave (.plain false)
      s1.actOnce u o slice (fun s => s.writeDst u o o.lanes (fun j =>
        (hadResult o dty rnd sat inv (BitVec.ofNat 64 seed) j).setWidth 128))

/-- Whether every lane of an operation in a slice has been acted for (R259). -/
def Op.laneless (o : Op) (slice : Nat) : Bool := o.todo &&& lanesOf (maskOf [slice]) == 0

/-- What a `spawn`, `qpush` or `qpop` leaves that has acted for some lanes: their values in d, the lanes that still wait, and the
asynchronous error of `code` for lanes with a write that has not been performed or whose outcome is unknown (R410). -/
def State.queueDone (s : State) (u : Nat) (ag : Agent) (o : Op) (vs : List (Nat × W64)) (left : List Nat)
    (hits : List (Nat × Nat)) (code : Nat) : State :=
  let o1 := { o with todo := maskOf left, checked := true, vals := s.keptVals ag o left }
  let s2 := (s.writeDst u o (maskOf (vs.map (fun x : Nat × W64 => x.1))) (fun l =>
    (((vs.find? (fun x : Nat × W64 => x.1 == l)).map (fun x : Nat × W64 => x.2)).getD 0).setWidth 128)).setOp u o1
  match hits with
  | [] => s2
  | (l, a) :: _ => s2.addAsync u (o.err code 0 a l (maskOf (hits.map (·.1))))

/-- `spawn`, `qpush` and `qpop`: a cause leaves no effect; lanes that wait for a segment stay to be done. A write that is sent on a
lost route leaves class 5 code 7 (R421). -/
def State.completeQueue (s : State) (u : Nat) (ag : Agent) (grp : Nat) (o : Op) (slice : Nat) : State :=
  if o.checked ∧ o.laneless slice then s.sliceDone u o slice
  else match s.queueOp u ag grp o with
    | .error b => s.holdOp u o b
    | .ok (s1, vs, left) =>
      let s2 := s1.queueDone u ag o vs left (State.queueHits ag o (s.queueLanes u ag grp o (bitsOf o.todo)) (fun s => s.sentLost ag)) 7
      let o1 := { o with todo := maskOf left, checked := true }
      if o1.laneless slice then s2.sliceDone u o1 slice else s2

/-- `launch`: its records are read and submitted with a release at tenant scope; it completes for a slice once KILN has accepted
those of its lanes (R144, R259, R281). -/
def State.completeLaunch (s : State) (u : Nat) (ag : Agent) (o : Op) (slice : Nat) : State :=
  if o.checked then (if o.laneless slice then s.sliceDone u o slice else s)
  else match s.readRecords ag o (bitsOf o.todo) with
    | .error b => s.holdOp u o b
    | .ok (s1, recs) =>
      let s2 := (s1.release ag .ten).setOp u { o with checked := true }
      { s2 with kiln := { s2.kiln with submits := s2.kiln.submits ++ [⟨u, o.id, recs⟩] } }

/-- Whether no unfinished copy of an operation remains for the lanes of a slice (R183). -/
def State.copiesDone (s : State) (core : Nat) (o : Op) (slice : Nat) : Bool :=
  ((s.core core).copies ++ (s.core core).pend).all (fun c =>
    c.op != o.id || (!(cpMods o.instr).one && sliceOf c.lane != slice))

/-- The entries that stand before an operation's own in a core's array. -/
def Core.entriesBefore (k : Core) (id : Nat) : List Entry :=
  k.array.takeWhile (fun y => match y with
    | .tile _ o _ => o != id
    | .load _ o _ => o != id
    | .joint .. => true)

/-- Whether earlier entries on a tile of a group are unfinished (R180). -/
def State.tileBusy (s : State) (core grp id tile : Nat) : Bool :=
  ((s.core core).entriesBefore id).any (fun y => match y with
    | .tile v _ t => t == tile && ((s.wave v).map (·.group)) == some grp
    | .joint g _ _ l => g == grp && l.any (fun z => z.mods.tile.val == tile)
    | .load .. => false)

/-- Whether earlier entries on a weight slot are unfinished (R179). -/
def State.slotBusy (s : State) (core id : Nat) (slot : Fin 8) : Bool :=
  ((s.core core).entriesBefore id).any (fun y => match y with
    | .tile .. => false
    | .joint _ _ _ l => l.any (fun z => z.mods.slot == slot)
    | .load _ _ m => m.slot == slot)

/-- Taking a tile operation out of the array. -/
def State.leaveArray (s : State) (core id : Nat) : State :=
  s.modCore core (fun k => { k with array := k.array.filter (fun y => match y with
    | .tile _ o _ => o != id
    | _ => true) })

/-- A tile operation, once everything that entered before it on its tile has finished. -/
def State.completeTile (s : State) (u core grp : Nat) (o : Op) (slice tile : Nat) (f : State → State) : State :=
  if o.todo ≠ 0 ∧ s.tileBusy core grp o.id tile then s
  else s.actOnce u o slice (fun s => f (s.leaveArray core o.id))

/-- Completing an operation for a slice. -/
def State.completeOp (s : State) (u core grp : Nat) (ag : Agent) (o : Op) (slice count : Nat) : State :=
  let l := o.leader
  match o.instr with
  | .cvtHad _ _ _ _ _ dty rnd sat inv _ => s.completeHad u ag o slice dty rnd sat inv
  | .spawn .. | .qpush .. | .qpop .. => s.completeQueue u ag grp o slice
  | .launch .. => s.completeLaunch u ag o slice
  | .icinv .. => s.actOnce u o slice (fun s => s.dropIcache (s.asidOf ag.ctx) (o.val64 0 l).toNat (o.val32 1 l).toNat)
  | .cctl _ _ _ op _ => s.actOnce u o slice (fun s => s.doCctl ag op (o.val64 0 l).toNat (o.val32 1 l).toNat)
  | .tlbinv .. => s.actOnce u o slice (fun s => s.doTlbinv (s.asidOf ag.ctx) (o.val64 0 l).toNat (o.val32 1 l).toNat)
  | .probe .. =>
    let ls := o.todo &&& lanesOf (maskOf [slice])
    let o1 := { o with todo := o.todo &&& ~~~ls }
    ((s.writeDst u o ls (fun j => BitVec.ofNat 128 (s.probeWord ag (o.val64 0 j).toNat))).setOp u o1).sliceDone u o1 slice
  | .scanStart .. =>
    if o.todo ≠ 0 ∧ !s.kilnUp then s
    else s.actOnce u o slice (fun s =>
      let (s1, h) := s.doScanStart (o.val32 0 l).toNat
      s1.writeDst u o o.lanes (fun _ => BitVec.ofNat 128 h))
  | .scanPoll .. =>
    s.actOnce u o slice (fun s =>
      let (s1, x) := s.doScanPoll (o.val32 0 l).toNat
      s1.writeDst u o o.lanes (fun _ => BitVec.ofNat 128 x))
  | .wbload _ _ m =>
    if o.todo ≠ 0 ∧ s.slotBusy core o.id m.slot then s
    else s.actOnce u o slice (fun s => s.doWbload u core grp ag o m)
  | .accz _ m => s.completeTile u core grp o slice m.tile.val (fun s => s.doAccz grp m)
  | .accld _ _ _ m =>
    s.completeTile u core grp o slice m.tile.val (fun s => s.doAccld grp m (o.val32 0 l).toNat (o.val32 1 l).toNat)
  | .accst _ _ _ m =>
    if o.todo ≠ 0 ∧ !s.tileBusy core grp o.id m.tile.val ∧ s.tilePoisoned grp m then
      (s.leaveArray core o.id).holdOp u o (poisonBad 0xFF)
    else s.completeTile u core grp o slice m.tile.val (fun s => s.doAccst grp m (o.val32 0 l).toNat (o.val32 1 l).toNat)
  | .cpTile .. | .cpMcast .. | .cpOut .. | .cpGather .. => if s.copiesDone core o slice then s.sliceDone u o slice else s
  | .mma .. | .mmas .. => s
  | i => match accOf i with
    | some a => s.completeMem u ag grp o a slice count
    | none => s.sliceDone u o slice

/-- LONG_OP_COMPLETE (R40): operation `id` of a wave completes for a slice, where its order allows it; of a write or atomic
the first `count` lanes are performed. A `trapret` that stalls for a flag is evaluated afresh (R41). -/
def execLongOpComplete (core wid id : Nat) (share : OpShare) (s : State) : Out :=
  match s.waveAt core wid with
  | none => .next s
  | some (u, w) => match w.ops.find? (fun o => o.id == id) with
    | none => .next s
    | some o =>
      if !o.undone.getLsbD share.slice || !w.mayPerform o share.slice then .next s
      else .next ((s.completeOp u core w.group (s.agentOf w.group) o share.slice share.count).settleGang u)

end Sys2Proof.Machine
end

