-- ==== Sys2Proof/Machine/WaveEvents.lean ====
section
/-! DEFINITION. The start of a clause with its fetch (R32, R42, R112, R150, R187, R188, R383, R398, R411), reserved
encodings (R391, R394, R395), the entry into a trap (R374), and the detection of stalls (R435). -/

namespace Sys2Proof.Machine

/-! ## Fetching -/

/-- A word from the core's instruction cache. A fetch that misses it reads what has reached the MSC: a clean copy in the
cluster's L2 is read anew, so that steps 1 to 3 of R150 suffice (R112, R150). -/
def State.icWord (s : State) (ag : Agent) (va : Nat) : Except MemErr (State × W32) :=
  let asid := s.asidOf ag.ctx
  match vFind (s.core ag.core).ic asid va with
  | some x =>
    if poisonAt x.poison (va % 128) ≠ 0 then .error ⟨4, poisonDetail (poisonAt x.poison (va % 128))⟩
    else .ok (s, BitVec.ofNat 32 (secGet x.data (va % 128) 4))
  | none => match s.translate ag va .exec with
    | .error e => .error e
    | .ok (p, at_) => match s.lostRead ag .wave p with
      | some e => .error e
      | none =>
        let (s1, v, pz) := ((s.tlbFill ag va).l2Stale ag.cluster p.sector).readAt ag .l2 p 4 at_
        if pz ≠ 0 then .error ⟨4, poisonDetail pz⟩ else .ok (s1.icFill ag va p at_, BitVec.ofNat 32 v)

/-- A word as a wave fetches it: from its loop buffer, or the instruction cache. -/
def State.fetchWord (s : State) (u : Nat) (ag : Agent) (va : Nat) : Except MemErr (State × W32) :=
  match (s.wave u).bind (fun w => w.loop.find? (fun x => x.1 == va)) with
  | some x => .ok (s, x.2)
  | none => s.icWord ag va

/-- Several words from an address; an error comes with the address of the first word that cannot be fetched. -/
def State.fetchWords (s : State) (u : Nat) (ag : Agent) (va : Nat) : Nat → Except (MemErr × Nat) (State × List W32)
  | 0 => .ok (s, [])
  | n + 1 => match s.fetchWord u ag va with
    | .error e => .error (e, va)
    | .ok (s1, x) => match s1.fetchWords u ag ((va + 4) % 2 ^ 56) n with
      | .error e => .error e
      | .ok (s2, xs) => .ok (s2, x :: xs)

/-- The loop buffer keeps the last 64 words that were fetched into it. -/
def Wave.loopKeep (w : Wave) (va : Nat) (xs : List W32) : Wave :=
  let new := ((xs.zipIdx).map (fun x => ((va + 4 * x.2) % 2 ^ 56, x.1))).filter (fun x => !w.loop.any (fun y => y.1 == x.1))
  let all := w.loop ++ new
  { w with loop := all.drop (all.length - 64) }

/-! ## CLAUSE_START -/

/-- Fields of a clause header (R188). -/
def hdrWait (h : W32) : Nat := h.toNat / 2 ^ 20
def hdrSeta (h : W32) : Nat := h.toNat / 2 ^ 16 % 16
def hdrSetb (h : W32) : Nat := h.toNat / 2 ^ 12 % 16
def hdrLen (h : W32) : Nat := h.toNat / 256 % 16 + 1
def hdrYield (h : W32) : Bool := h.getLsbD 7
def hdrToken (h : W32) : Bool := h.getLsbD 6

/-- Whether a header is well formed (R398). -/
def hdrOk (h : W32) : Bool :=
  h.toNat % 64 == 0 && !(decide (12 ≤ hdrSeta h) && decide (hdrSeta h ≤ 14))
    && !(decide (12 ≤ hdrSetb h) && decide (hdrSetb h ≤ 14))

/-- The selection at a token (R32): the lowest pending program counter, merged. -/
def SliceSt.select (x : SliceSt) : SliceSt :=
  if x.stack.isEmpty then x
  else
    let all := x.stack ++ [⟨x.pc, x.mask⟩]
    match least (all.map (·.pc)) with
    | none => x
    | some low => { x with pc := low, mask := (all.filter (·.pc == low)).foldl (fun m p => m ||| p.mask) 0
                           stack := all.filter (·.pc != low) }

/-- A trap at the start of a clause: the header is the saved program counter. -/
def State.stopStart (s : State) (e : Env) (b : Bad) : State := s.stopWave e.u (b.req none e.sl e.pc e.act)

/-- Whether an error is raised at the start of a clause with a wait mask, for a strand (R383). -/
def AsyncErr.atClause (x : AsyncErr) (st : BitVec 8) (wait : Nat) : Bool :=
  x.names st && decide (x.flag < 12) && wait / 2 ^ x.flag % 2 == 1

/-- CLAUSE_START: the executing strand starts the clause at its program counter once the clause's wait mask is clear. -/
def execClauseStart (s : State) : Out :=
  match s.env ⟨false, 0⟩ with
  | none => .fault .noStrand
  | some e =>
    let x := e.w.slice ((bitsOf e.st).headD 0)
    if x.clause.isSome || x.wait.isSome || e.act == 0 || !s.awake e.w then .next s
    else match s.fetchWord e.u e.ag e.pc with
      | .error er => .next (s.stopStart e (memBad er false true 0xFF e.pc))
      | .ok (s1, h) =>
        if !e.w.waitClear e.sl (hdrWait h) then .next s1
        else match s1.reportAt e.u (fun x => x.atClause e.st (hdrWait h)) with
          | some t => .next t
          | none =>
            if !hdrOk h then .next (s1.stopStart e (illegal 0x03 1))
            else
              let s2 := if hdrToken h then s1.modWave e.u (fun w => (w.modSlices e.st SliceSt.select).reStrand) else s1
              let moved : Bool := match s2.wave e.u with
                | some w => (bitsOf e.st).any (fun i => (w.slice i).pc != e.pc)
                | none => true
              if moved then .next s2
              else match s2.fetchWords e.u e.ag ((e.pc + 4) % 2 ^ 56) (hdrLen h) with
                | .error (er, a) => .next (s2.stopStart e (memBad er false true 0xFF a))
                | .ok (s3, ws) =>
                  .next (s3.modWave e.u (fun w =>
                    (w.modSlices e.st (fun y =>
                      { y with pc := e.pc + 4, clause := some ⟨ws, hdrSeta h, hdrSetb h, hdrYield h⟩ })).loopKeep e.pc (h :: ws)))

/-! ## Reserved encodings -/

/-- The precise stop for an encoding that is refused at decode (R390 to R392): its guard gives the lanes, and a long-latency
instruction the flag that it would have counted. -/
def State.rejectAt (s : State) (g : Guard) (r : Reject) : Out :=
  match s.env g with
  | none => .fault .noStrand
  | some e => .next (s.stopAt e ((rejectFlag e.clause.rest).bind (flagOf e.clause)) ⟨2, r.causeCode, r.detail, 0xFF, none⟩)

/-- The guard of the word at which the executing strand stands. -/
def State.guardHere (s : State) : Guard :=
  match s.sched.cur.bind (fun c => (s.wave c.wave).map (fun w => w.slice c.strand)) with
  | some x => match x.clause with
    | some c => Guard.ofCode (bits (c.rest.headD 0).toNat 21 4)
    | none => ⟨false, 0⟩
  | none => ⟨false, 0⟩

/-- UNASSIGNED_ENCODING (R394, R395): the executing strand issues a reserved major opcode, or a reserved sub-opcode. -/
def execUnassignedEncoding (major : BitVec 7) (sub : Option Byte) (s : State) : Out :=
  s.rejectAt s.guardHere (match sub with
    | none => .major major.toNat
    | some x => .sub major.toNat x.toNat)

/-! ## TRAP_ENTRY -/

/-- TRAP_ENTRY (R374, R376 to R380): a wave that is stopping and has drained takes its trap, or is killed. -/
def execTrapEntry (core wid : Nat) (s : State) : Out :=
  match s.waveAt core wid with
  | none => .next s
  | some (u, w) =>
    if w.stop.isNone || !s.drained u then .next s else .next ((s.takeTrap u).ifGone u w.group)

/-! ## STALL_DETECT (R435) -/

/-- The strands of a wave that wait. -/
def Wave.waiting (w : Wave) : List Nat := w.strands.filter (fun n => (w.slice n).wait.isSome)

/-- Whether a wave waits for a time. -/
def Wave.timed (w : Wave) : Bool :=
  w.strands.any (fun n => match (w.slice n).wait with | some (.ember (some _) _ _) => true | _ => false)

/-- Whether a wave's root task waits by R99 and nothing else has the slot. -/
def Wave.rootWaits (w : Wave) : Option (TaskCtx × Bool × Fin 8 × W64) :=
  if w.ended.isNone || !w.chain.isEmpty || w.exited then none
  else match w.root with
    | some (t, some x) => some (t, x)
    | _ => none

/-- Whether a group stands as R435 describes a stall, apart from the time. -/
def State.stalled (s : State) (g : Nat) : Bool :=
  let ws := s.wavesOf g
  ((s.group g).bind (·.core)).isSome && !(((s.ctxOfGroup g).map (·.att)).getD true)
    && ws.all (fun x => s.drained x.1 && !x.2.timed) && ws.any (fun x => (x.2.ended.isNone && !x.2.waiting.isEmpty) || x.2.rootWaits.isSome)

/-- The ticks after which a stall is found. -/
def stallTicks : Nat := 2 ^ 28

/-- A waiting wave of a stalled group traps in its waits. A root task that waits by R99 is restored to its slot for that, at its
`await` or `lock.take`, to which `trapret` returns it. DEDUCED (log 130). -/
def State.stallWave (s : State) (u : Nat) (w : Wave) : State :=
  let stop (s : State) (w : Wave) : State :=
    match w.waiting with
    | [] => s
    | n :: r =>
      let sl := (n :: r).foldl (fun m k => m ||| w.strandSlices k) (0 : BitVec 8)
      s.stopWave u ((⟨6, 5, 0, 0xFF, none⟩ : Bad).req none sl (w.slice n).pc (w.activeLanes sl))
  if w.trapbase = 0 then s
  else match w.rootWaits with
    | some (t, lock, pd, a) =>
      let s1 := (s.resumeRoot u (s.agentOf w.group) t).modWave u (fun w => if w.ended.isSome then w
        else w.modSlices w.liveSlices (fun x => { x with wait := some (.await lock pd a) }))
      stop s1 ((s1.wave u).getD w)
    | none => if w.ended.isSome then s else stop s w

/-- STALL_DETECT: a group has stood so for 2^28 ticks, counted in `lastIssue`. -/
def execStallDetect (g : Nat) (s : State) : Out :=
  match s.group g with
  | none => .next s
  | some x =>
    if !s.stalled g ∨ s.dev.tick < x.lastIssue + stallTicks then .next s
    else
      let s1 := (s.modGroup g (fun y => { y with lastIssue := s.dev.tick })).modLaunch x.launch (fun l => { l with stall := true })
      .next ((s.wavesOf g).foldl (fun s y => s.stallWave y.1 y.2) s1)

end Sys2Proof.Machine
end

