-- ==== Sys2Proof/Machine/Sched.lean ====
section
/-! DEFINITION. Which strand an issue partition chooses (R13, R48, R73, R191), time (R21, R371), the caches' own drops
(R107, R110), and the instruction at which a strand stands. -/

namespace Sys2Proof.Machine

/-! ## The choice of a partition -/

/-- Whether an operation of a strand has stalled it: a push waits for a segment (R75), or a copy for room in the port (R183). -/
def State.opStalls (s : State) (u : Nat) (w : Wave) (st : BitVec 8) : Bool :=
  w.ops.any (fun o => o.slices &&& st != 0 && ((o.checked && (bitsOf o.todo).any (fun l => (o.pushHdr l).isSome))
    || (s.core (s.coreOf w.group)).pend.any (fun c => c.wave == u && c.op == o.id)))

/-- Whether a strand of a wave is ready (R48): at a clause boundary its wait mask is clear, its gang is not being pre-empted, and
no wait of a helper of its chain is over (R94, R190); a sleeping `ember.wait` is ready when a hit bit is set (R78). -/
def State.ready (s : State) (u : Nat) (w : Wave) (n : Nat) : Bool :=
  let st := w.strandSlices n
  let x := w.slice n
  let e := w.env u (s.agentOf w.group) st ⟨false, 0⟩
  s.awake w && e.act != 0 && !s.opStalls u w st && (match x.wait with
    | none => true
    | some (.ember _ _ _) => w.emberHit.isSome
    | some _ => false)
    && (match x.clause with
      | some _ => true
      | none => !s.preempting w.group && (w.depth != 0 || (s.readyHelper w).isNone) && (match s.fetchWord u e.ag e.pc with
        | .ok (_, h) => w.waitClear e.sl (hdrWait h)
        | .error _ => true))

/-- A ready strand as the choice sees it. -/
structure Cand where
  cur : Cur
  cls : Nat
  born : Nat
  idx : Nat
  wid : Nat
  /-- the clock of its last issue, and the clock from which it has been ready without an issue -/
  last : Nat
  since : Nat
  young : Bool
  deriving DecidableEq, Repr

/-- Whether a wave belongs to a partition of a core (R13). -/
def State.servedBy (s : State) (w : Wave) (core part : Nat) : Bool :=
  w.wid % 4 == part && ((s.group w.group).bind (·.core)) == some core

/-- The ready strands of a partition. -/
def State.cands (s : State) (core part : Nat) : List Cand :=
  s.kiln.waves.flatMap (fun x =>
    if s.servedBy x.2 core part then
      (x.2.strands.filter (fun n => s.ready x.1 x.2 n)).map (fun n =>
        { cur := ⟨x.1, n⟩, cls := s.waveClass x.2, born := x.2.born, idx := x.2.idx, wid := x.2.wid
          last := (x.2.slice n).lastIssue
          since := max (x.2.slice n).lastIssue ((x.2.slice n).readySince.getD (s.slotClock core part))
          young := match (x.2.slice n).clause with | some c => c.young | none => false })
    else [])

/-- The order 'older than' of R73. -/
def Cand.older (a b : Cand) : Bool :=
  if a.born ≠ b.born then decide (a.born < b.born)
  else if a.idx ≠ b.idx then decide (a.idx < b.idx)
  else if a.wid ≠ b.wid then decide (a.wid < b.wid)
  else decide (a.cur.strand < b.cur.strand)

/-- The best of some candidates by an order. -/
def bestOf (lt : Cand → Cand → Bool) : List Cand → Option Cand
  | [] => none
  | a :: r => match bestOf lt r with
    | none => some a
    | some b => some (if lt b a then b else a)

/-- The choice of R73 among ready strands at a clock; a YIELD hint makes a strand the youngest (R191). -/
def choose (now : Nat) (cs : List Cand) : Option Cand :=
  let top := cs.foldl (fun m c => max m c.cls) 0
  let tops := cs.filter (fun c => c.cls == top)
  match bestOf (fun a b => if a.last ≠ b.last then decide (a.last < b.last) else a.older b)
      (tops.filter (fun c => decide (c.since + 128 ≤ now))) with
  | some c => some c
  | none => bestOf (fun a b => if a.young ≠ b.young then b.young else a.older b) tops

/-- The strand that a partition issues next. -/
def State.pick (s : State) (core part : Nat) : Option Cur := (choose (s.slotClock core part) (s.cands core part)).map (·.cur)

/-- From when the strands of a wave are ready is noted. -/
def State.noteReady (s : State) (u : Nat) (w : Wave) : Wave :=
  let now := s.slotClock (s.coreOf w.group) (w.wid % 4)
  w.modSlices 0xFF (fun y => { y with readySince := if y.live && s.ready u w y.strand then some (y.readySince.getD now) else none })

/-- A partition looks at its strands. -/
def State.noteSlots (s : State) (core part : Nat) : State :=
  { s with kiln := { s.kiln with waves := s.kiln.waves.map (fun x =>
      (x.1, if s.servedBy x.2 core part then s.noteReady x.1 x.2 else x.2)) } }

/-- An issue cycle of a partition is over (R48). -/
def State.endSlot (s : State) (core part : Nat) : State :=
  s.modCore core (fun c => { c with cycles := modAt c.cycles part (· + 1) })

/-- The issue is noted for the choice and for the detection of stalls. -/
def State.markIssue (s : State) (c : Cur) : State :=
  match s.wave c.wave with
  | none => s
  | some w =>
    (s.modWave c.wave (fun w => w.modSlices (w.strandSlices c.strand) (fun x =>
      { x with lastIssue := s.slotClock (s.coreOf w.group) (w.wid % 4) }))).modGroup w.group (fun g => { g with lastIssue := s.dev.tick })

/-- A strand issues next. -/
def State.withCur (s : State) (c : Cur) : State := { s with sched := { s.sched with cur := some c } }

/-- The words of its clause that a strand has still to issue; none at a clause boundary. -/
def State.wordsOf (s : State) (c : Cur) : Option (List W32) :=
  (s.wave c.wave).bind (fun w => (w.slice c.strand).clause.map (·.rest))

/-! ## Time -/

/-- Time passing: `%tick` counts, and the arithmetic clock at its frequency (R21). Strands that are not ready and groups
that do not stand still have their intervals begin anew (R73, R435). Errors that pend are raised in strands that stand
in a waiting instruction (R383). -/
def State.elapse (s : State) (n : Nat) : State :=
  let tick := s.dev.tick + n
  let waves := s.kiln.waves.map (fun x => (x.1, s.noteReady x.1 x.2))
  let s1 := { s with dev := { s.dev with tick := tick, milli := s.dev.milli + n * s.dev.mhz } }
  let groups := s1.kiln.groups.map (fun x => (x.1, if s.stalled x.1 then x.2 else { x.2 with lastIssue := tick }))
  let s2 := { s1 with kiln := { s1.kiln with groups := groups, waves := waves } }
  (Tab.keys s2.kiln.waves).foldl (fun s u => s.pollAsync u) s2

/-! ## What the caches drop of their own accord -/

/-- The list without the line of its i-th sector, if that line is clean. -/
def dropLine (l : List PSector) (i : Nat) : List PSector :=
  match l[i]? with
  | none => l
  | some x =>
    if l.any (fun y => y.place.line == x.place.line && y.dirty != 0) then l
    else l.filter (fun y => y.place.line != x.place.line)

/-- A cache drops the line of its i-th entry; a dirty line is not dropped so, but written back by its own event. -/
def State.dropClean (s : State) (t : Turn) : State :=
  match t with
  | .dropL1 c i => s.modCore c (fun k => match k.l1[i]? with
    | some x => { k with l1 := k.l1.filter (fun y => !(y.asid == x.asid && y.va / 256 == x.va / 256)) }
    | none => k)
  | .dropIc c i => s.modCore c (fun k => { k with ic := k.ic.eraseIdx i, cc := k.cc.eraseIdx i })
  | .dropTlb c i => s.modCluster c (fun k => { k with tlb := k.tlb.eraseIdx i })
  | .dropL2 c i => s.modCluster c (fun k => { k with l2 := dropLine k.l2 i })
  | .dropMsc i => { s with mem := if i < s.mem.msc.length then { s.mem with msc := dropLine s.mem.msc i }
      else match s.mem.lines[i - s.mem.msc.length]? with
        | some n => s.mem.unhold n
        | none => s.mem }
  | .dropSnoop i => { s with mem := { s.mem with snoop := s.mem.snoop.eraseIdx i } }
  | _ => s

end Sys2Proof.Machine
end

