-- ==== Sys2Proof/Machine/Save.lean ====
section
/-! DEFINITION. The save areas of groups (R52, R53, R445): what a save writes there and what a restore reads back. The area
holds the pool, the slots, the state of the waves and of the group in the order of R53; its layout is the device's. Beside it
the device keeps what ties the group to its context and to its next place, and what the table of R52 does not name. DESIGN
CHOICE (log 44). -/

namespace Sys2Proof.Machine

/-- Where the parts of a save area begin (R53): registers, accumulators and scratchpad of the pool, slots, waves, the group. -/
structure SaveArea where
  base : Nat
  accs : Nat
  spad : Nat
  slots : Nat
  waves : Nat
  group : Nat
  deriving DecidableEq, Repr

/-- Pool units of a partition word (R113). -/
def poolUnits (p : W32) : Nat := regUnits p + accUnits p + p.toNat % 128

/-- The save area of a group of a launch at an address. -/
def saveAreaAt (r : Record) (a : Nat) : SaveArea :=
  let accs := a + 16384 * regUnits r.pool
  let slots := a + 16384 * poolUnits r.pool
  let waves := slots + 8 * 32768
  ⟨a, accs, accs + 16384 * accUnits r.pool, slots, waves, waves + 4096 * r.waves⟩

/-- The size of a group's save area (R53). -/
def saveSize (r : Record) : Nat := 16384 * poolUnits r.pool + 8 * 32768 + 4096 * r.waves + 4096

/-- The save area of a group. -/
def State.saveArea (s : State) (g : Nat) : Option SaveArea :=
  match s.group g with
  | none => none
  | some x => match s.launch x.launch, s.gang x.gang with
    | some l, some y => (y.saveAreas[x.pos]?).map (saveAreaAt l.record)
    | _, _ => none

/-- The registers of a wave in a save area. -/
def SaveArea.regs (a : SaveArea) (w : Wave) : Nat := a.base + 128 * w.alloc * w.idx

/-! ## Writing -/

/-- Bytes to be written: those that are not zero. -/
def cellsOf (a : Nat) (bs : List Byte) : List (Nat × Byte) :=
  ((bs.zipIdx).filter (fun x => x.1 != 0)).map (fun x => (a + x.2, x.1))

/-- The parts of n bytes from a that stand in one page of 4 KiB each. Ranges and stacks hold whole pages (R17, R320). -/
def pageParts (a n : Nat) : List (Nat × Nat) :=
  (List.range ((a + n + 4095) / 4096 - a / 4096)).map (fun i =>
    let lo := max a ((a / 4096 + i) * 4096)
    (lo, min (a + n) ((a / 4096 + i + 1) * 4096) - lo))

/-- Those of them that no access of the tenant reaches: outside its ranges, or in a stack that is not ready (R320, R362). -/
def State.shutParts (s : State) (tn : Tenant) (a n : Nat) : List (Nat × Nat) :=
  (pageParts a n).filter (fun p => (s.locErr tn p.1).isSome)

/-- A core writes n bytes of its tenant's local memory, zero but for some, of which some granules are poisoned. What the tenant
does not reach stays as it is. DESIGN CHOICE (log 44). -/
def State.dump (s : State) (tn : Tenant) (a n : Nat) (cells : List (Nat × Byte)) (poison : List Nat) : State :=
  let shut := s.shutParts tn a n
  let inside (x : Nat) : Bool := decide (a ≤ x) && decide (x < a + n) && !inBlocks shut x 1
  let out (l : List Nat) : List Nat := l.filter (fun g => !inside (64 * g))
  let open_ := (pageParts a n).filter (fun p => !shut.contains p)
  let m : MemSys := { s.mem with
    loc := (open_.foldl (fun m p => m.clear p.1 (p.1 + p.2)) s.mem.loc).setAll (cells.filter (fun c => inside c.1))
    snoop := s.mem.snoop.filter (fun l => !inside (256 * l))
    poison := out s.mem.poison, bad := out s.mem.bad, sram := out s.mem.sram, wire := out s.mem.wire }
  let m1 := m.soil (m.lines.filter (fun l => inside (256 * l)))
  open_.foldl (fun s p => s.emberHit (.loc p.1) p.2)
    { s with mem := (poison.filter (fun g => inside (64 * g))).foldl (fun m g => m.poisonWrite (g, true, 2)) m1 }

/-- The barriers, the crews with the members whose arrivals stand in their latches, and the token, in 4,096 bytes. -/
def State.groupBytes (s : State) (x : Group) (tok : Option Nat) : List Byte :=
  let latch (c : Crew) : W32 := maskOf (c.latch.filterMap (fun a => (s.wave a.wave).map (·.idx)))
  x.bars.flatMap (fun b => leBytes b.expected 4 ++ leBytes b.count 4 ++ leBytes b.phase 8)
    ++ x.crews.flatMap (fun c => match c with
      | none => List.replicate 16 0
      | some c => leBytes c.mask.toNat 4 ++ leBytes (latch c).toNat 4 ++ leBytes (if c.formed then 3 else 1) 4 ++ leBytes 0 4)
    ++ leBytes ((tok.map (· + 1)).getD 0) 4

/-- The tenant of a group. -/
def State.tenantOf (s : State) (g : Nat) : Tenant := s.tenant (s.tenantNo g)

/-- Whether a save or a restore of a group waits: the controller of a stack that its area stands in is being replaced (R367). -/
def State.areaWaits (s : State) (g : Nat) : Bool :=
  (s.saveArea g).any (fun a => s.rangeWaits a.base (a.group + 4096 - a.base))

/-- The save of R52: 32 KiB for each saved slot, and the rest of the area whole. What stands in it, the group, its slots and its
waves hold no longer. -/
def State.saveOut (s : State) (g : Nat) (a : SaveArea) : State :=
  match s.group g with
  | none => s
  | some x =>
    let ws := (s.wavesOf g).filter (fun w => !w.2.exited)
    let regs := ws.flatMap (fun w => w.2.task.vregs.wordBytes (a.regs w.2))
    let pool := regs ++ x.tiles.wordBytes a.accs ++ x.spad.map (fun y => (a.spad + y.1, y.2))
    let bad := ws.flatMap (fun w => w.2.task.poison.map (fun i => a.regs w.2 / 64 + i))
      ++ x.tilePoison.map (fun i => a.accs / 64 + i) ++ x.spadPoison.map (fun i => a.spad / 64 + i)
    let state := ws.flatMap (fun w => cellsOf (a.waves + 4096 * w.2.idx)
        (w.2.task.waveBytes (w.2.chain.map (fun h => h.task.record.toNat))))
      ++ cellsOf a.group (s.groupBytes x x.savedToken)
    let tn := s.tenantOf g
    let s1 := s.dump tn a.base (a.slots - a.base) pool bad
    let s2 := x.savedSlots.foldl (fun s y => s.dump tn (a.slots + 32768 * y.1) 32768
      (y.2.img.map (fun z => (a.slots + 32768 * y.1 + z.1, z.2))) (y.2.poison.map (fun i => (a.slots + 32768 * y.1) / 64 + i))) s1
    let s3 := s2.dump tn a.waves (a.group + 4096 - a.waves) state []
    let s4 := s3.modGroup g (fun x => { x with
      spad := [], tiles := [], spadPoison := [], tilePoison := []
      savedSlots := x.savedSlots.map (fun y => (y.1, { y.2 with img := [], poison := [] })) })
    ws.foldl (fun s w => s.modWave w.1 (fun w => { w with task := { w.task with vregs := [], poison := [] } })) s4

/-! ## Reading back -/

/-- n bytes of local memory as a restore reads them for a tenant, numbered from 0: what it does not reach reads 0. DESIGN CHOICE
(log 44). -/
def State.savedPart (s : State) (tn : Tenant) (a n : Nat) : Mem :=
  (s.shutParts tn a n).foldl (fun m p => m.clear (p.1 - a) (p.1 - a + p.2)) (s.mem.loc.part a n)

/-- The poisoned granules among them, numbered from 0; those that the tenant does not reach are poisoned too. DESIGN CHOICE
(log 44). -/
def State.poisonPart (s : State) (tn : Tenant) (a n : Nat) : List Nat :=
  let shut := (s.shutParts tn a n).flatMap (fun p => (List.range (p.2 / 64)).map (fun i => p.1 / 64 + i - a / 64))
  shut ++ ((s.mem.poison.filter (fun g => decide (a ≤ 64 * g) && decide (64 * g < a + n))).map (fun g => g - a / 64)).filter
    (fun g => !shut.contains g)

/-- A wave as its save area has it. One whose area holds a value outside its range, or whose state cannot be read, is killed before
any strand issues (R445; log 44). -/
def State.loadWave (s : State) (a : SaveArea) (u : Nat) : State :=
  match s.wave u with
  | none => s
  | some w =>
    if w.exited then s
    else
      let ag := s.agentOf w.group
      let tn := s.tenantOf w.group
      let n := 128 * w.alloc
      let wb := (s.savedPart tn (a.waves + 4096 * w.idx) 4096).bytes 0 4096
      let shut := !(s.shutParts tn (a.waves + 4096 * w.idx) 4096).isEmpty
      let t := { w.task.ofWave wb with vregs := (s.savedPart tn (a.regs w) n).words, poison := s.poisonPart tn (a.regs w) n }
      let below := s.chainOf ag w.chain (chainAt wb)
      let s1 := s.modWave u (fun w => { w with task := t, chain := below.getD w.chain })
      if w.ended.isNone && (shut || !s.imageOk ag w.task t || below.isNone) then s1.taskFault u true else s1

/-- A crew as an area has it: an arrival stays in the latch if its member is named there. -/
def State.crewAt (s : State) (gb : List Byte) (nwaves i : Nat) (old : Option Crew) : Option Crew :=
  let off := 256 + 16 * i
  let latch : W32 := BitVec.ofNat 32 (fieldAt gb (off + 4) 4)
  let st := fieldAt gb (off + 8) 4
  let named (a : Arrival) : Bool := (s.wave a.wave).any (fun w => latch.getLsbD w.idx)
  if st % 2 = 0 then none
  else some ⟨BitVec.ofNat 32 (fieldAt gb off 4 % 2 ^ nwaves), ((old.map (·.latch)).getD []).filter named, st / 2 % 2 == 1⟩

/-- The arrivals that stand in the latches of a group. -/
def Group.arrivals (x : Group) : List Arrival := x.crews.flatMap (fun c => (c.map (·.latch)).getD [])

/-- A group as its save area has it, then its waves. -/
def State.loadBack (s : State) (g : Nat) (a : SaveArea) : State :=
  match s.group g with
  | none => s
  | some x =>
    let tn := s.tenantOf g
    let gb := (s.savedPart tn a.group 4096).bytes 0 324
    let y : Group := { x with
      tiles := (s.savedPart tn a.accs (a.spad - a.accs)).words, tilePoison := s.poisonPart tn a.accs (a.spad - a.accs)
      spad := s.savedPart tn a.spad (a.slots - a.spad), spadPoison := s.poisonPart tn a.spad (a.slots - a.spad)
      bars := (List.range 16).map (fun i => ⟨fieldAt gb (16 * i) 4, fieldAt gb (16 * i + 4) 4, fieldAt gb (16 * i + 8) 8⟩)
      crews := (x.crews.zipIdx).map (fun c => s.crewAt gb x.nwaves c.2 c.1)
      savedSlots := x.savedSlots.map (fun z => (z.1, { z.2 with
        img := s.savedPart tn (a.slots + 32768 * z.1) 32768, poison := s.poisonPart tn (a.slots + 32768 * z.1) 32768 })) }
    let s1 := s.modGroup g (fun _ => y)
    let s2 := (x.arrivals.filter (fun b => !y.arrivals.contains b)).foldl (fun s b =>
      s.modWave b.wave (fun w => { w with ops := w.ops.filter (fun o => o.id != b.op) })) s1
    (s2.wavesOf g).foldl (fun s w => s.loadWave a w.1) s2

end Sys2Proof.Machine
end

