-- ==== Sys2Proof/Machine/Kiln.lean ====
section
/-! DEFINITION. KILN's launches (R57 to R66, R417, R432, R450), host command queues (R61, R366, R444), placement (R67,
R84, R114, R319), pre-emption and restore (R52 to R56, R69, R70, R174, R176, R433), and scans given up for a gang
(R439). -/

namespace Sys2Proof.Machine

/-! ## KILN's own writes -/

/-- A write by KILN for a context, which viral mode does not discard (R416). -/
def State.kilnWrite (s : State) (ctx : Nat) (sc : Scope) (a : Nat) (bs : List Byte) : State :=
  let v := s.viral ctx
  let s1 := (s.modCtx ctx (fun c => { c with viral := false })).setObj (s.agentFor ctx) sc a bs
  s1.modCtx ctx (fun c => { c with viral := v })

/-- Whether a controller's firmware is being replaced, between its safe point and CONE (R367). -/
def State.replacing (s : State) (c : Nat) : Bool := s.dev.activation.any (fun a => a.controller == c && a.deadline.isSome)

/-- Every store of a context is performed at system scope: each cluster's dirty sectors of the tenant go down. -/
def State.releaseAll (s : State) (ctx : Nat) : State :=
  let t := ((s.ctx ctx).map (·.tenant)).getD 0
  (Tab.keys s.clusters).foldl (fun s c => s.release ⟨8 * c, ctx, t⟩ .sys) s

/-! ## Acceptance (R60, R62, R63, R450) -/

/-- The most live launches. -/
def maxLive : Nat := 4096

/-- Accepting a record: its dependences are bound, and it is Blocked or Ready. -/
def State.accept (s : State) (src : Source) (r : Record) : State :=
  let (l, s1) := s.takeUid
  let deps := (r.deps.filterMap (fun t => s.launchTag r.ctx t)).dedup
  let x : Launch := { record := r, source := src, age := l, state := if deps.isEmpty then .ready else .blocked, deps := deps
                      placed := 0, ended := 0, viral := s.viral r.ctx, fault := false, nest := false, stall := false }
  { s1 with kiln := { s1.kiln with launches := Tab.put s1.kiln.launches l x } }

/-- A completion word is written if the Completion field names a place for it. -/
def State.writeCompletion (s : State) (ctx a word : Nat) (sc : Scope) : State :=
  if a = 0 ∨ a % 8 ≠ 0 ∨ (s.canWrite (s.agentFor ctx) a 8).isSome then s
  else (s.release (s.agentFor ctx) sc).kilnWrite ctx sc a (leBytes word 8)

/-- A record that fails its checks: a completion word with DONE, REJECT and the tag (R450). -/
def State.rejectRecord (s : State) (ctx : Nat) (r : Record) : State :=
  s.writeCompletion ctx r.completion (r.tag + 2 ^ 32 + 2 ^ 37) .sys

/-- Setting OVER of a queue status word (R61, R444). -/
def State.setOver (s : State) (ctx header : Nat) : State :=
  match s.obj (s.agentFor ctx) .sys (header + 0x1C) 4 with
  | .error _ => s
  | .ok (s1, bs) => s1.kilnWrite ctx .sys (header + 0x1C) (leBytes (leNat bs ||| 1) 4)

/-- Whether a write index is more than the slot count ahead of what KILN has read of a queue (R444). -/
def HostQueue.tooFar (q : HostQueue) (wr : Nat) : Bool := decide (2 ^ q.log2 < (wr + 2 ^ 64 - q.read) % 2 ^ 64)

/-- KILN stops reading a host command queue (R444). -/
def State.overrunQueue (s : State) (ctx queue header : Nat) : State :=
  (s.modCtx ctx (fun c => { c with queues := Tab.modify c.queues queue (fun q => { q with overrun := true }) })).setOver ctx header

/-- DOORBELL (R366): KILN reads the write index of the queue that the value names, with an acquire at system scope; a
doorbell for another tenant's context or an unregistered queue is ignored. One too far ahead stops the reading of the queue
(R444). -/
def State.readWriteIndex (s : State) (ctx queue : Nat) : State :=
  match (s.ctx ctx).bind (fun c => Tab.find c.queues queue) with
  | none => s
  | some q =>
    let ag := s.agentFor ctx
    match s.obj ag .sys (q.header + 8) 8 with
    | .error _ => s.modCtx ctx (fun c => { c with queues := Tab.modify c.queues queue (fun q => { q with rung := false }) })
    | .ok (s1, bs) =>
      let wr := leNat bs
      let s2 := (s1.acquire ag .sys).modCtx ctx (fun c =>
        { c with queues := Tab.modify c.queues queue (fun q => { q with write := wr, rung := false }) })
      if q.tooFar wr then s2.overrunQueue ctx queue q.header else s2

/-- DOORBELL (R363, R366). While KILN is being replaced the doorbell waits (R367). -/
def execDoorbell (fn : Nat) (value : W32) (s : State) : Out :=
  let ctx := value.toNat / 8 % 64
  let queue := value.toNat % 8
  match s.ctx ctx with
  | none => .next s
  | some c => match Tab.find c.queues queue with
    | none => .next s
    | some q =>
      if c.tenant ≠ fn ∨ q.overrun then .next s
      else
        let s1 := s.modCtx ctx (fun c => { c with queues := Tab.modify c.queues queue (fun q => { q with rung := true }) })
        .next (if s.kilnUp then s1.readWriteIndex ctx queue else s1)

/-- HOST_QUEUE_RECORD_READ (R61, R62, R444, R450): KILN reads the next record of a queue, accepts or rejects it, and
advances the read index. -/
def execHostQueueRecordRead (ctx queue : Nat) (s0 : State) : Out :=
  let ring (c : Ctx) : Bool := ((Tab.find c.queues queue).map (·.rung)).getD false
  let s := if s0.kilnUp && ((s0.ctx ctx).map ring).getD false then s0.readWriteIndex ctx queue else s0
  match (s.ctx ctx).bind (fun c => Tab.find c.queues queue) with
  | none => .next s
  | some q =>
    if !s.kilnUp || q.overrun || q.read == q.write then .next s
    else if q.tooFar q.write then .next (s.overrunQueue ctx queue q.header)
    else if maxLive ≤ s.kiln.launches.length then .next s
    else
      let s2 := match s.obj (s.agentFor ctx) .sys (q.ring + 64 * (q.read % 2 ^ q.log2)) 64 with
        | .error _ => s
        | .ok (s1, bs) =>
          let r := Record.ofBytes bs
          if s1.recordOk ctx bs then s1.accept .host r else s1.rejectRecord ctx r
      .next ((s2.modCtx ctx (fun c => { c with queues := Tab.modify c.queues queue (fun q => { q with read := q.read + 1 }) })).kilnWrite
        ctx .sys (q.header + 0x10) (leBytes (q.read + 1) 8))

/-- LAUNCH_ACCEPT (R60, R62, R281): KILN checks every record that a `launch` has submitted before it accepts any, and accepts
them in lane order as far as the live launches allow. A record that was checked and had to wait, and whose tag another record
has taken meanwhile, waits until that launch is no longer live, and those behind it too. DESIGN CHOICE (log 136). -/
def execLaunchAccept (index : Nat) (s : State) : Out :=
  match s.kiln.submits[index]? with
  | none => .next s
  | some x => match s.wave x.wave with
    | none => .next s
    | some w => match w.ops.find? (fun o => o.id == x.op) with
      | none => .next s
      | some o =>
        let earlier := (s.kiln.submits.take index).any (fun y => y.wave == x.wave)
        let room := maxLive - s.kiln.launches.length
        if !s.kilnUp || earlier || room == 0 then .next s
        else
          let begun := decide (x.recs.length < popCount o.lanes)
          match (if begun then none else s.badRecord (s.ctxNo w.group) x.recs) with
          | some l =>
            .next (({ s with kiln := { s.kiln with submits := s.kiln.submits.eraseIdx index } } : State).holdOp x.wave
              { o with todo := o.lanes } (illegalIn 0x0F 7 l))
          | none =>
            let go := (x.recs.take room).takeWhile (fun r => (s.launchTag (s.ctxNo w.group) (Record.ofBytes r.2).tag).isNone)
            let left := x.recs.drop go.length
            let subs := if left.isEmpty then s.kiln.submits.eraseIdx index
              else modAt s.kiln.submits index (fun y => { y with recs := left })
            let s1 := go.foldl (fun s r => s.accept .kernel (Record.ofBytes r.2))
              { s with kiln := { s.kiln with submits := subs } }
            .next (s1.setOp x.wave { o with todo := maskOf (left.map (·.1)) })

/-! ## States of a launch (R63), completion (R64, R417, R432) -/

/-- Ready or Running, by the states of a launch's gangs. -/
def State.settleLaunch (s : State) (l : Nat) : State :=
  s.modLaunch l (fun x =>
    if x.state = .blocked ∨ x.state = .completing then x
    else
      let here := (s.kiln.gangs.filter (fun g => g.2.launch == l && g.2.state != .saved)).length
      { x with state := if (here + x.ended) * x.record.gang = x.record.groups then .running else .ready })

/-- The completion word of a launch (R64, R432). -/
def Launch.word (x : Launch) : Nat :=
  x.record.tag + 2 ^ 32 + (if x.viral then 2 ^ 33 else 0) + (if x.fault then 2 ^ 34 else 0) + (if x.nest then 2 ^ 35 else 0)
    + (if x.stall then 2 ^ 36 else 0)

/-- The scope of a launch's completion (R64). -/
def Source.scope : Source → Scope
  | .host => .sys
  | _ => .ten

/-- A complete launch leaves the table: dependants are freed, its argument block returns, a context without live
launches leaves viral mode, and a span without live launches is forgotten. -/
def State.dropLaunch (s : State) (l : Nat) (x : Launch) : State :=
  let ctx := x.record.ctx
  let ls := (Tab.drop s.kiln.launches l).map (fun y =>
    let deps := y.2.deps.filter (· != l)
    (y.1, { y.2 with deps := deps, state := if y.2.state = .blocked ∧ deps.isEmpty then .ready else y.2.state }))
  let spans := if ls.any (fun y => y.2.record.spanId == x.record.spanId) then s.kiln.spans else Tab.drop s.kiln.spans x.record.spanId
  let s1 := { s with kiln := { s.kiln with launches := ls, spans := spans } }
  let s2 := match x.source with
    | .packet a _ => s1.modCtx ctx (fun c => { c with arenaTaken := c.arenaTaken.filter (·.1 != a) })
    | _ => s1
  if ls.any (fun y => y.2.record.ctx == ctx) then s2 else s2.modCtx ctx (fun c => { c with viral := false })

/-- LAUNCH_COMPLETE: the launch's stores are performed at system scope, and KILN writes its completion word. -/
def execLaunchComplete (l : Nat) (s : State) : Out :=
  match s.launch l with
  | none => .next s
  | some x =>
    if !s.kilnUp ∨ x.state ≠ .completing then .next s
    else
      let s1 := s.releaseAll x.record.ctx
      let y := (s1.launch l).getD x
      .next ((s1.writeCompletion x.record.ctx x.record.completion y.word (Source.scope x.source)).dropLaunch l y)

/-! ## What a core has free (R67) -/

/-- Pool units that a group holds: those of the registers of waves that have exited are free (R33). -/
def State.heldUnits (s : State) (g : Nat) : Nat :=
  let p := s.poolOf g
  let ws := s.wavesOf g
  let live := ws.filter (fun w => !w.2.exited)
  let regs := if live.length = ws.length then regUnits p
    else min (regUnits p) ((live.foldl (fun n w => n + w.2.alloc) 0 + 127) / 128)
  regs + accUnits p + p.toNat % 128

/-- What stands on a core or is reserved there: first wave id, waves and pool units of each group. -/
def State.coreUse (s : State) (k : Nat) : List (Nat × Nat × Nat) :=
  (s.groupsOn k).map (fun x => (x.2.base, x.2.nwaves, s.heldUnits x.1))
    ++ s.kiln.spans.flatMap (fun p => p.2.reserved.flatMap (fun q => match s.launch q.launch with
      | some l => (q.spots.filter (·.1 == k)).map (fun y => (y.2, l.record.waves, poolUnits l.record.pool))
      | none => []))

/-- Whether a core can be given work: its cluster is ready, and it is not out of service (R362). -/
def State.coreReady (s : State) (k : Nat) : Bool := s.dev.clus.getLsbD (k / 8) && !s.dev.outOfService.contains k

/-- The first wave id that a group of a launch would take on a core; none where the core has no room. Cores that scan
count as free where `scan` is set (R439). Which free run of wave ids KILN takes is not stated (R25, R67): the lowest. DESIGN
CHOICE (log 110). -/
def State.coreFit (s : State) (k : Nat) (r : Record) (scan : Bool) : Option Nat :=
  let use := s.coreUse k
  if !s.coreReady k || ((s.core k).scanning.isSome && !scan)
      || decide (8 ≤ use.length) || decide (96 < use.foldl (fun n x => n + x.2.2) 0 + poolUnits r.pool) then none
  else ((List.range 8).map (4 * ·)).find? (fun b => decide (b + r.waves ≤ 32)
    && use.all (fun x => decide (x.1 + x.2.1 ≤ b) || decide (b + r.waves ≤ x.1)))

/-- The groups of a gang that hold units, in order of position: those that have not departed (R425) and whose exit is not
complete. One that has exited and is held for its span keeps its scratchpad (R72). -/
def State.gangGroups (s : State) (gn : Nat) : List (Nat × Group) :=
  sortBy (fun a b => decide (a.2.pos ≤ b.2.pos)) (s.kiln.groups.filter (fun x => x.2.gang == gn && !x.2.freed))

/-- The saved groups for which a place on a core is reserved (R71). -/
def State.reservedOn (s : State) (k : Nat) : List Group :=
  s.kiln.spans.flatMap (fun p => p.2.reserved.flatMap (fun q => match q.gang with
    | none => []
    | some g => (((s.gangGroups g).zip q.spots).filter (fun x => x.2.1 == k)).map (fun x => x.1.2)))

/-- Whether a core suits a group that is restored: its token is free if the group held one, and none of the group's
slots is owned there (R174, R176), nor kept for a group that is to be restored there. -/
def State.coreSuits (s : State) (k : Nat) (g : Group) : Bool :=
  (g.savedToken.isNone || ((s.core k).token.isNone && (s.reservedOn k).all (fun y => y.savedToken.isNone)))
    && g.savedSlots.all (fun x => ((s.core k).slot x.1).owner.isNone
      && (s.reservedOn k).all (fun y => (Tab.find y.savedSlots x.1).isNone))

/-- A gang that is to be placed or restored. -/
structure Want where
  launch : Nat
  number : Nat
  gang : Option Nat
  deriving DecidableEq, Repr

/-- What is to be placed of a gang, by position: its groups where it was saved, and otherwise as many as it has. -/
def State.wantGroups (s : State) (w : Want) (r : Record) : List (Nat × Option Group) :=
  match w.gang with
  | some g => (s.gangGroups g).map (fun x => (x.2.pos, some x.2))
  | none => (List.range r.gang).map (fun i => (i, none))

/-- The cores of a cluster from a position that take a gang whole: as many in a row as it has groups, the group at position i on
the i-th. A saved gang keeps the position of a group that has departed or whose exit is complete; that group needs nothing
of its core but that it is ready. DESIGN CHOICE (log 138). -/
def State.fitAt (s : State) (w : Want) (r : Record) (scan : Bool) (first : Nat) : Option (List (Nat × Nat)) :=
  let spots := (s.wantGroups w r).map (fun x =>
    match s.coreFit (first + x.1) r scan with
    | none => none
    | some b => if x.2.all (fun y => s.coreSuits (first + x.1) y) then some (first + x.1, b) else none)
  if spots.all Option.isSome && (List.range r.gang).all (fun i => s.coreReady (first + i)) then some (spots.filterMap id) else none

/-- The placement of R67: the lowest logical cluster, then the lowest first position. -/
def State.fitCores (s : State) (w : Want) (scan : Bool) : Option (List (Nat × Nat)) :=
  match s.launch w.launch with
  | none => none
  | some l =>
    (List.range 24).findSome? (fun c => (List.range (9 - l.record.gang)).findSome? (fun p =>
      s.fitAt w l.record scan (8 * c + p)))

/-- The size of a root task's record with its park area (R83, R84). -/
def rootSize (r : Record) : Nat := parkSize r.regs + 64

/-- Whether the memory that a first placement takes can be had (R67, R319). -/
def State.memoryFits (s : State) (w : Want) : Bool :=
  match w.gang, s.launch w.launch with
  | some _, _ => true
  | none, none => false
  | none, some l => match s.ctx l.record.ctx with
    | none => false
    | some c => fitAll 64 c.reserve.1 (c.reserve.1 + c.reserve.2) c.reserveTaken (List.replicate l.record.gang (saveSize l.record))
        && fitAll 256 c.arena.1 (c.arena.1 + c.arena.2) c.arenaTaken
          (List.replicate (l.record.gang * l.record.waves) (rootSize l.record))

/-- Where a gang can be placed now. -/
def State.canPlace (s : State) (w : Want) (scan : Bool) : Option (List (Nat × Nat)) :=
  if s.memoryFits w then s.fitCores w scan else none

/-! ## The order of gangs (R68) -/

/-- The rank of a gang: lower comes first. -/
def State.before68 (s : State) (l n l' n' : Nat) : Bool :=
  let p := s.effPrio l
  let p' := s.effPrio l'
  if p ≠ p' then decide (p' < p) else if l ≠ l' then decide (l < l') else decide (n ≤ n')

/-- The number of a launch's span. -/
def State.spanOf (s : State) (l : Nat) : Nat := ((s.launch l).map (·.record.spanId)).getD 0

/-- The placements that KILN has reserved (R71). -/
def State.plans (s : State) : List Plan := s.kiln.spans.flatMap (fun p => p.2.reserved)

/-- The gangs that are to be placed or restored, in order: of each Ready launch its next Unplaced gang, and its Saved
gangs. A gang for which a placement is reserved is left out. -/
def State.wants (s : State) : List Want :=
  let ps := s.plans
  let new := s.kiln.launches.filterMap (fun x =>
    let n := x.2.placed + (ps.filter (fun p => p.launch == x.1 && p.gang.isNone)).length
    if x.2.state = .ready ∧ n * x.2.record.gang < x.2.record.groups then some (⟨x.1, n, none⟩ : Want) else none)
  let old := s.kiln.gangs.filterMap (fun x =>
    if x.2.state = .saved ∧ !ps.any (fun p => p.gang == some x.1) then some (⟨x.2.launch, x.2.number, some x.1⟩ : Want) else none)
  sortBy (fun a b => s.before68 a.launch a.number b.launch b.number) (new ++ old)

/-- Where a gang can be placed: the first in order may take cores from scans where no others do (R439). -/
def State.placeOf (s : State) (w : Want) : Option (List (Nat × Nat)) :=
  match s.canPlace w false with
  | some spots => some spots
  | none => if s.wants.head? = some w then s.canPlace w true else none

/-- The first gang outside a span that can be placed, with its cores. When KILN begins to reserve for a span is not stated (R68,
R71): it is the agenda's choice, and gangs of lower rank may be placed before. DESIGN CHOICE (log 111). -/
def State.firstFitting (s : State) : Option (Want × List (Nat × Nat)) :=
  (s.wants.filter (fun w => s.spanOf w.launch == 0)).findSome? (fun w => (s.placeOf w).map (fun spots => (w, spots)))

/-! ## Taking cores -/

/-- A scan of a core is given up: its request waits again (R314, R439). -/
def State.abortScan (s : State) (k : Nat) : State :=
  match (s.core k).scanning with
  | none => s
  | some h =>
    { (s.modCore k (fun c => { c with scanning := none })) with
      kiln := { s.kiln with scans := Tab.modify s.kiln.scans h (fun x => { x with status := 4 }) } }

/-- A group comes to a core: the core's L1 and constant cache lose the context's lines (R54, R112). -/
def State.arriveAt (s : State) (k ctx : Nat) : State :=
  let asid := s.asidOf ctx
  (s.abortScan k).modCore k (fun c => { c with l1 := c.l1.filter (fun x => x.asid != asid)
                                               cc := c.cc.filter (fun x => x.asid != asid) })

/-- The lowest group position that is free on a core. -/
def State.freeSlot (s : State) (k : Nat) : Nat :=
  ((List.range 8).find? (fun i => !(s.groupsOn k).any (fun x => x.2.slot == i))).getD 0

/-- CAP and STRICT take effect (R318). -/
def State.takePolicy (s : State) (ctx : Nat) : State :=
  s.modCtx ctx (fun c => { c with cap := (s.tenant c.tenant).policy.getLsbD 0, strict := (s.tenant c.tenant).policy.getLsbD 1 })

/-- The record of a root task as its Irwald unit writes it (R81, R84). -/
def rootRecord (r : Record) (park number : Nat) : List Byte :=
  leBytes r.entry 8 ++ leBytes r.args.toNat 8 ++ leBytes 0 8 ++ leBytes park 8 ++ leBytes (r.ctx * 256 + 1) 4
    ++ leBytes r.regs 4 ++ leBytes 0 8 ++ leBytes 0 8 ++ leBytes number 4 ++ leBytes r.tag 4

/-- A wave at its first placement, running its root task (R84, R88). -/
def freshWave (s : State) (g idx base born park : Nat) (r : Record) : Wave :=
  { group := g, idx := idx, wid := base + idx, alloc := regCount r.regs, born := born
    task := .fresh (BitVec.ofNat 64 (park + parkSize r.regs)) r.args r.entry r.regs r.prio true
    ended := none, chain := [], adopting := none, root := none, rootReady := false, queue := none, exited := false, ops := [], depth := 0, narm := false, saves := []
    stop := none, held := [], trapbase := ((s.ctx r.ctx).map (·.trapbase)).getD 0, cause := 0, tinfo := 0, taddr := 0
    pending := [], lost := false, note := false, clstep := false, brkstop := false, halted := false
    spanArrivals := 0, loop := [] }

/-- A group at its first placement: its pool reads 0 (R114). -/
def freshGroup (s : State) (l gn number pos k base : Nat) (r : Record) : Group :=
  { launch := l, gang := gn, number := number, pos := pos, nwaves := r.waves, core := some k, slot := s.freeSlot k, base := base
    spad := [], tiles := [], spadPoison := [], tilePoison := [], bars := List.replicate 16 ⟨0, 0, 0⟩
    crews := List.replicate 4 none, detached := false, exited := false, freed := false, savedSlots := [], savedToken := none
    savedTakers := [], lastIssue := s.dev.tick }

/-- Placing one wave. -/
def State.placeWave (s : State) (g idx base born park number : Nat) (r : Record) : State :=
  let (u, s1) := s.takeUid
  (s1.setWave u (freshWave s g idx base born park r)).kilnWrite r.ctx .ten (park + parkSize r.regs)
    (rootRecord r park number)

/-- Placing one group with its waves; `parks` are the waves' park areas. -/
def State.placeGroup (s : State) (l gn number pos : Nat) (spot : Nat × Nat) (parks : List Nat) (r : Record) : State :=
  let s0 := s.arriveAt spot.1 r.ctx
  let (g, s1) := s0.takeUid
  let s2 := s1.setGroup g (freshGroup s1 l gn number pos spot.1 spot.2 r)
  (parks.zipIdx).foldl (fun s x => s.placeWave g x.2 spot.2 g x.1 number r) s2

/-- Taking blocks of one size, aligned, one after another; none where one is not free. -/
def takeBlocks (al lo hi size : Nat) : List (Nat × Nat) → List Nat → Option (List (Nat × Nat))
  | taken, [] => some taken
  | taken, a :: r =>
    if a % al ≠ 0 ∨ a < lo ∨ hi < a + size ∨ taken.any (fun b => decide (b.1 < a + size) && decide (a < b.1 + b.2)) then none
    else takeBlocks al lo hi size ((a, size) :: taken) r

/-- Taking the memory of a first placement at some addresses (R67, R319): a root task's park area, with which its block begins, is
aligned to 256 bytes (R81). -/
def State.takeMemory (s : State) (r : Record) (arena save : List Nat) : Option State :=
  match s.ctx r.ctx with
  | none => none
  | some c =>
    if arena.length ≠ r.gang * r.waves ∨ save.length ≠ r.gang then none
    else match takeBlocks 64 c.reserve.1 (c.reserve.1 + c.reserve.2) (saveSize r) c.reserveTaken save,
        takeBlocks 256 c.arena.1 (c.arena.1 + c.arena.2) (rootSize r) c.arenaTaken arena with
      | some x, some y => some (s.modCtx r.ctx (fun c => { c with reserveTaken := x, arenaTaken := y }))
      | _, _ => none

/-- The acquire with which the waves of a gang start (R64, R144). -/
def State.startAcquire (s : State) (l : Launch) (spots : List (Nat × Nat)) : State :=
  spots.foldl (fun s x => s.acquire ⟨x.1, l.record.ctx, ((s.ctx l.record.ctx).map (·.tenant)).getD 0⟩ (Source.scope l.source)) s

/-- An Unplaced gang becomes Resident, its memory having been taken. -/
def State.placeGang (s : State) (l : Nat) (x : Launch) (number : Nat) (spots : List (Nat × Nat)) (arena save : List Nat) : State :=
  let r := x.record
  let (gn, s1) := s.takeUid
  let gang : Gang := { launch := l, number := number, state := .resident, groups := [], cores := spots.map (·.1)
                       since := s.dev.tick, expired := false, marked := false, saveAreas := save, records := arena, barrier := 0 }
  let s2 := (spots.zipIdx).foldl (fun s y =>
    s.placeGroup l gn (number * r.gang + y.2) y.2 y.1 ((arena.drop (y.2 * r.waves)).take r.waves) r)
    ({ s1 with kiln := { s1.kiln with gangs := Tab.put s1.kiln.gangs gn gang } }.takePolicy r.ctx)
  (s2.startAcquire x spots |>.modLaunch l (fun y => { y with placed := y.placed + 1 })).settleLaunch l

/-- GANG_PLACE (R67, R68): KILN places the first gang in order that fits; the addresses that it takes from the arena,
one for each wave's root record and park area, and from the save reserve, one for each group, are its choice. -/
def execGangPlace (arena save : List Nat) (s : State) : Out :=
  if !s.kilnUp then .next s
  else match s.firstFitting with
    | some (⟨l, n, none⟩, spots) => match s.launch l with
      | none => .next s
      | some x => match s.takeMemory x.record arena save with
        | none => .next s
        | some s1 => .next (s1.placeGang l x n spots arena save)
    | _ => .next s

/-! ## Time slices and pre-emption (R52, R69, R70) -/

/-- 2 ms of `%tick`. -/
def sliceTicks : Nat := 2000000

/-- TIME_SLICE_EXPIRY (R70). -/
def execTimeSliceExpiry (gn : Nat) (s : State) : Out :=
  match s.gang gn with
  | none => .next s
  | some x =>
    let persist := ((s.launch x.launch).map (·.record.persist)).getD true
    if x.state = .resident ∧ !persist ∧ x.since + sliceTicks ≤ s.dev.tick then
      .next (s.modGang gn (fun y => { y with expired := true }))
    else .next s

/-- Whether a resident gang may be pre-empted in favour of another (R69, R70). -/
def State.candidate (s : State) (w : Want) (x : Gang) : Bool :=
  let p := s.effPrio w.launch
  let q := s.effPrio x.launch
  let other := ((s.launch w.launch).map (·.record.ctx)) != ((s.launch x.launch).map (·.record.ctx))
  x.state == .resident && (decide (q < p) || (q == p && x.expired && other))

/-- The cluster a gang stands on. -/
def Gang.cluster (x : Gang) : Nat := x.cores.headD 0 / 8

/-- The device without some gangs: their cores, slots and tokens free. -/
def State.without (s : State) (gns : List Nat) : State :=
  let ids := (s.kiln.groups.filter (fun x => gns.contains x.2.gang)).map (·.1)
  { s with
    kiln := { s.kiln with groups := s.kiln.groups.map (fun x => (x.1, if ids.contains x.1 then { x.2 with core := none } else x.2)) }
    cores := s.cores.map (fun c => (c.1, { c.2 with
      slots := c.2.slots.map (fun y => match y.owner with | some g => if ids.contains g then { y with owner := none } else y | none => y)
      token := c.2.token.filter (fun t => !ids.contains t.1) })) }

/-- Every set of elements of a list. -/
def subsets {α : Type} : List α → List (List α)
  | [] => [[]]
  | a :: r => let xs := subsets r; xs ++ xs.map (a :: ·)

/-- How a set of gangs ranks as a choice of R69, apart from the ranks of its gangs: highest effective priority, number,
cluster. -/
def State.setKey (s : State) (c : Nat) (gs : List (Nat × Gang)) : Nat × Nat × Nat :=
  (gs.foldl (fun m x => max m (s.effPrio x.2.launch)) 0, gs.length, c)

/-- Whether the gangs of one set rank later than those of another, each listed latest first. -/
def State.laterSet (s : State) : List (Nat × Gang) → List (Nat × Gang) → Bool
  | [], _ => false
  | _ :: _, [] => true
  | a :: r, b :: r' =>
    if a.1 = b.1 then s.laterSet r r' else s.before68 b.2.launch b.2.number a.2.launch a.2.number

/-- Whether set a is chosen before set b by the criteria of R69. -/
def State.betterSet (s : State) (a b : Nat × List (Nat × Gang)) : Bool :=
  let x := s.setKey a.1 a.2
  let y := s.setKey b.1 b.2
  if x.1 ≠ y.1 then decide (x.1 < y.1)
  else if x.2.1 ≠ y.2.1 then decide (x.2.1 < y.2.1)
  else if x.2.2 ≠ y.2.2 then decide (x.2.2 < y.2.2)
  else s.laterSet a.2 b.2

/-- The set of gangs that KILN pre-empts for the first gang in order; none where that gang fits, or no set helps. -/
def State.victims (s : State) : List Nat :=
  match s.wants with
  | [] => []
  | w :: _ =>
    if (s.canPlace w true).isSome ∨ !s.memoryFits w then []
    else
      let latest (a b : Nat × Gang) : Bool := s.before68 b.2.launch b.2.number a.2.launch a.2.number
      let sets := (List.range 24).flatMap (fun c =>
        let cs := sortBy latest (s.kiln.gangs.filter (fun x => s.candidate w x.2 && x.2.cluster == c))
        ((subsets cs).filter (fun gs => !gs.isEmpty && ((s.without (gs.map (·.1))).canPlace w true).isSome)).map (fun gs => (c, gs)))
      match sets with
      | [] => []
      | a :: r => ((r.foldl (fun best x => if s.betterSet x best then x else best) a).2).map (·.1)

/-- The gangs that are pre-empted together with one: those of its span (R52, R69). -/
def State.together (s : State) (gn : Nat) : List Nat :=
  match s.gang gn with
  | none => []
  | some x =>
    let k := s.spanOf x.launch
    if k = 0 then [gn]
    else (s.kiln.gangs.filter (fun y => s.spanOf y.2.launch == k && y.2.state == .resident)).map (·.1)

/-- GANG_PREEMPT (R52, R69, R70): KILN marks a gang of the chosen set, with its span. A span that lies on several devices
may be pre-empted by any of them. -/
def execGangPreempt (gn : Nat) (s : State) : Out :=
  match s.gang gn with
  | none => .next s
  | some x =>
    let remote := match s.launch x.launch with
      | some l => l.record.spanKey != 0 && decide (1 < l.record.spanDevices)
      | none => false
    if !s.kilnUp ∨ x.state ≠ .resident ∨ !(remote || s.victims.contains gn) then .next s
    else .next ((s.together gn).foldl (fun s g => s.modGang g (fun y => { y with marked := true })) s)

/-! ## Saving (R52, R53, R56) -/

/-- Whether a wave has come to a stop for pre-emption: every strand stands at a clause boundary or in a wait, or its task has left
the slot; nothing is outstanding, and no trap is being taken. -/
def State.waveStopped (s : State) (u : Nat) (w : Wave) : Bool :=
  w.stop.isNone && s.drained u
    && (w.halted || w.ended.isSome || w.strands.all (fun n => (w.slice n).clause.isNone || (w.slice n).wait.isSome))

/-- Saving one group: its state goes to its save area, and its slots, its token and its core are free. -/
def State.saveGroup (s : State) (g : Nat) (x : Group) : State :=
  match x.core with
  | none => s
  | some k =>
    let c := s.core k
    let mine := ((c.slots.zipIdx).filter (fun y => y.1.owner == some g && y.1.loaded)).map (fun y => (y.2, y.1))
    let tok := match c.token with | some (h, r) => if h = g then some r else none | none => none
    let s1 := (s.release (s.agentOf g) .dev).modGroup g (fun y => { y with
      core := none, savedSlots := mine, savedToken := tok
      savedTakers := (c.takers.filter (fun t => t.1 == g)).map (fun t => t.2) })
    let s2 := s1.modCore k (fun c => { c with
      slots := c.slots.map (fun y => if y.owner = some g then .empty else y)
      token := if tok.isSome then none else c.token
      takers := c.takers.filter (fun t => t.1 != g) })
    let s3 := (s.wavesOf g).foldl (fun s y => s.modWave y.1 (fun w => { w with loop := [] })) (s2.tokServe k)
    match s3.saveArea g with
    | none => s3
    | some a => s3.saveOut g a

/-- GANG_SAVE (R52): a marked gang whose waves have stopped is Saved, with every gang of its span. It waits while the controller of
a stack that a save area stands in is being replaced (R367). -/
def execGangSave (gn : Nat) (s : State) : Out :=
  let all := s.together gn
  let gs := s.kiln.groups.filter (fun x => all.contains x.2.gang)
  if !s.kilnUp ∨ all = [] ∨ !all.all (fun g => ((s.gang g).map (fun y => y.marked && y.state == .resident)).getD false)
      ∨ !gs.all (fun x => (s.wavesOf x.1).all (fun w => s.waveStopped w.1 w.2)) then .next s
  else if gs.any (fun x => s.areaWaits x.1) then .next s.hold
  else
    let s1 := gs.foldl (fun s x => s.saveGroup x.1 x.2) s
    let s2 := all.foldl (fun s g => s.modGang g (fun y => { y with state := .saved, marked := false, expired := false })) s1
    let k := ((s.gang gn).map (fun y => s.spanOf y.launch)).getD 0
    let s3 := { s2 with kiln := { s2.kiln with spans := Tab.modify s2.kiln.spans k (fun p => { p with committed := false, ready := false }) } }
    .next ((all.filterMap (fun g => (s.gang g).map (·.launch))).dedup.foldl (fun s l => s.settleLaunch l) s3)

/-! ## Restoring (R54 to R56) -/

/-- What `ember.wait` returns after a restore: the lowest armed slot, or 4. -/
def Wave.lowestArmed (w : Wave) : Nat :=
  ((List.range 4).find? (fun i => ((w.task.ember[i]?).map (·.armed.isSome)).getD false)).getD 4

/-- Strands saved inside `ember.wait` go on after it. -/
def Wave.emberBack (w : Wave) : Wave :=
  w.strands.foldl (fun w n => match (w.slice n).wait with
    | some (.ember _ d lanes) => (w.wr d lanes (fun _ => BitVec.ofNat 32 w.lowestArmed)).resume (w.strandSlices n)
    | _ => w) w

/-- Strands saved in `tok.take` wait on the new core, in the order of their issue (R172, R389), behind those that wait there
already. DESIGN CHOICE (log 139). One whose wait its save area no longer has does not (R52; log 140). -/
def State.tokBack (s : State) (k g : Nat) (x : Group) : State :=
  let on := x.savedTakers.filter (fun t => (s.wave t.2).any (·.ended.isNone))
  (s.wavesOf g).foldl (fun s z => s.keepTakes z.1 (((s.wave z.1).map Wave.takes).getD 0))
    (s.modCore k (fun z => { z with takers := z.takers ++ on.map (fun t => (g, t.1, t.2)) }))

/-- A wave comes to a core: its tasks' last issues count anew, by the clock of its partition there (R73). -/
def State.arriveWave (s : State) (u base born : Nat) : State :=
  let s1 := s.modWave u (fun w => { w with
    wid := base + w.idx, born := born, pending := w.pending.map (fun x => { x with drain := false }) })
  s1.modWave u (fun w => { w with
    task := s1.arriving u w.task, chain := w.chain.map (fun h => { h with task := s1.arriving u h.task })
    root := w.root.map (fun r => (s1.arriving u r.1, r.2)) })

/-- Seating one group on a core: its state comes from its save area, its slots and its token with it (R54, R174, R176). -/
def State.seatGroup (s : State) (g ctx : Nat) (x : Group) (spot : Nat × Nat) : State :=
  let (k, base) := spot
  let (born, s0) := (s.arriveAt k ctx).takeUid
  let s1 := s0.modGroup g (fun y => { y with core := some k, slot := s0.freeSlot k, base := base, lastIssue := s.dev.tick })
  let s2 := match s1.saveArea g with
    | none => s1
    | some a => s1.loadBack g a
  let y := (s2.group g).getD x
  let s3 := (s2.modGroup g (fun y => { y with savedSlots := [], savedToken := none, savedTakers := [] })).modCore k (fun c => { c with
    slots := y.savedSlots.foldl (fun l z => modAt l z.1 (fun _ => z.2)) c.slots
    token := match y.savedToken with | some r => some (g, r) | none => c.token })
  (((s.wavesOf g).foldl (fun s z => s.arriveWave z.1 base born) s3).acquire (s3.agentOf g) .dev).tokBack k g y

/-- A Saved gang becomes Resident: of its groups those that have not departed (R425) and whose exit is not complete (R72). -/
def State.seatGang (s : State) (gn : Nat) (y : Gang) (spots : List (Nat × Nat)) : State :=
  let ctx := ((s.launch y.launch).map (·.record.ctx)).getD 0
  let s1 := ((s.gangGroups gn).zip spots).foldl (fun s x => s.seatGroup x.1.1 ctx x.1.2 x.2) (s.takePolicy ctx)
  (s1.modGang gn (fun y => { y with state := .resident, cores := spots.map (·.1), since := s.dev.tick, expired := false
                                    marked := false })).settleLaunch y.launch

/-- A restored wave goes on: an adoption that is over is unwound before any strand issues (R433), `ember.wait` returns, and every
wait is evaluated afresh. One whose unwinding must wait stays in `ember.wait` until then. -/
def State.resumeWave (s : State) (u : Nat) : State :=
  let s1 := s.settleAdoption u
  let s2 := s1.modWave u (fun w => if w.depth = 0 ∧ (s1.readyHelper w).isSome then w else w.emberBack)
  (s2.wake u).pollAsync u

/-- The groups of a restored gang go on: the waiting takers on their cores are served, and their waves go on. -/
def State.resumeGang (s : State) (gn : Nat) : State :=
  let gs := s.gangGroups gn
  let s1 := gs.foldl (fun s x => match x.2.core with
    | some k => s.tokServe k
    | none => s) s
  gs.foldl (fun s x => (s.wavesOf x.1).foldl (fun s w => s.resumeWave w.1) s) s1

/-- Restoring one gang. -/
def State.restoreGang (s : State) (gn : Nat) (y : Gang) (spots : List (Nat × Nat)) : State := (s.seatGang gn y spots).resumeGang gn

/-- Whether the restore of a gang waits for a controller (R367). -/
def State.gangWaits (s : State) (gn : Nat) : Bool := (s.gangGroups gn).any (fun x => s.areaWaits x.1)

/-- GANG_RESTORE (R54, R68): the first gang in order that fits is this Saved one. -/
def execGangRestore (gn : Nat) (s : State) : Out :=
  if !s.kilnUp then .next s
  else match s.firstFitting, s.gang gn with
    | some (⟨_, _, some g⟩, spots), some y =>
      .next (if g ≠ gn then s else if s.gangWaits gn then s.hold else s.restoreGang gn y spots)
    | _, _ => .next s

end Sys2Proof.Machine
end

