-- ==== Sys2Proof/Machine/Spans.lean ====
section
/-! DEFINITION. What KILN does for spans: reservation and commit (R71), the span's priority (R66, R71), and the
departure of a member (R425, R433). -/

namespace Sys2Proof.Machine

/-! ## Reservation -/

/-- A span that nothing is known of yet. -/
def Span.empty : Span := ⟨[], false, false, 0, [], [], 0⟩

def State.span (s : State) (k : Nat) : Span := (Tab.find s.kiln.spans k).getD .empty
def State.setSpan (s : State) (k : Nat) (x : Span) : State :=
  { s with kiln := { s.kiln with spans := Tab.put s.kiln.spans k x } }
def State.modSpan (s : State) (k : Nat) (f : Span → Span) : State := s.setSpan k (f (s.span k))

/-- The live launches of a span on this device. -/
def State.spanLaunches (s : State) (k : Nat) : List (Nat × Launch) :=
  s.kiln.launches.filter (fun x => x.2.record.spanId == k)

/-- The effective priority of a span as this device knows it (R66, R71). -/
def State.spanPrio (s : State) (k : Nat) : Nat := (s.spanLaunches k).foldl (fun m x => max m (s.effPrio x.1)) 0

/-- The priority that this device reports for a span (R71): that of its launches without the value agreed on. -/
def State.spanOwn (s : State) (k : Nat) : Nat :=
  (s.spanLaunches k).foldl (fun m x => max m (s.effPrioFuel k (s.kiln.launches.length + 1) x.1)) 0

/-- The devices of a span (R57). -/
def State.spanDevices (s : State) (k : Nat) : Nat := (((s.spanLaunches k).head?).map (fun x => x.2.record.spanDevices)).getD 1

/-- The priority that the devices agree on: the largest that any of them reports (R71). Where the span has one device, it is
that device's own; `prio` is the largest of the others. -/
def State.spanAgreed (s : State) (k prio : Nat) : Nat :=
  if s.spanDevices k ≤ 1 then s.spanOwn k else max (prio % 8) (s.spanOwn k)

/-- Whether one span ranks higher than another (R71). -/
def State.spanBefore (s : State) (a b : Nat) : Bool :=
  decide (s.spanPrio b < s.spanPrio a) || (s.spanPrio a == s.spanPrio b && decide (a % 2 ^ 32 < b % 2 ^ 32))

/-- The context of a span's launches. -/
def State.spanCtx (s : State) (k : Nat) : Nat := (((s.spanLaunches k).head?).map (fun x => x.2.record.ctx)).getD 0

/-- Giving up an uncommitted reservation: its memory is returned. -/
def State.releaseSpan (s : State) (k : Nat) : State :=
  let x := s.span k
  let arena := x.reserved.flatMap (·.arena)
  let save := x.reserved.flatMap (·.save)
  (s.setSpan k { x with reserved := [], ready := false }).modCtx (s.spanCtx k) (fun c =>
    { c with arenaTaken := c.arenaTaken.filter (fun b => !arena.contains b.1)
             reserveTaken := c.reserveTaken.filter (fun b => !save.contains b.1) })

/-- Reserving placements for the gangs of a span in order, as far as they fit (R67, R71). -/
def State.reserveAll (s : State) (k : Nat) : Nat → List Nat → List Nat → State
  | 0, _, _ => s
  | fuel + 1, arena, save =>
    match s.wants.find? (fun w => s.spanOf w.launch == k) with
    | none => s
    | some w => match s.placeOf w, s.launch w.launch with
      | some spots, some l =>
        let scans := spots.foldl (fun s x => s.abortScan x.1)
        match w.gang with
        | some g =>
          State.reserveAll (scans (s.modSpan k (fun x => { x with reserved := x.reserved ++ [⟨w.launch, w.number, some g, spots, [], []⟩] })))
            k fuel arena save
        | none =>
          let n := l.record.gang * l.record.waves
          let a := arena.take n
          let r := save.take l.record.gang
          match s.takeMemory l.record a r with
          | none => s
          | some s1 =>
            State.reserveAll (scans (s1.modSpan k (fun x => { x with reserved := x.reserved ++ [⟨w.launch, w.number, none, spots, a, r⟩] })))
              k fuel (arena.drop n) (save.drop l.record.gang)
      | _, _ => s

/-- Whether every gang of the span on this device has a placement reserved. -/
def State.spanPlanned (s : State) (k : Nat) : Bool :=
  !(s.span k).reserved.isEmpty && (s.spanLaunches k).all (fun x => x.2.state != .blocked)
    && !s.wants.any (fun w => s.spanOf w.launch == k)

/-- The number of the span of a context with a key. -/
def spanIdOf (ctx key : Nat) : Nat := if key = 0 then 0 else ctx * 2 ^ 32 + key

/-- Whether a message of another KILN about a span carries the protection key of the tenant of its context (R335). -/
def State.keyFits (s : State) (ctx : Nat) (pkey : BitVec 16) : Bool := (s.ctx ctx).any (fun c => (s.tenant c.tenant).pkey == pkey)

/-- Whether requests can arrive over FLUE: a link must be ready (R336, R362). -/
def Dev.flueUp (d : Dev) : Bool := d.links != 0

/-- The number of the span that a message of the negotiation names, where it has the key of the span's tenant (R335) and, if the
span lies on several devices, FLUE carries it (R336, R337); otherwise 0. -/
def State.negotiated (s : State) (m : SpanMsg) : Nat :=
  let key := spanIdOf m.ctx m.key
  if s.keyFits m.ctx m.pkey && (decide (s.spanDevices key ≤ 1) || s.dev.flueUp) then key else 0

/-- SPAN_RESERVE (R71): KILN releases the uncommitted reservations of lower spans, reserves placements for its gangs of
the span, and reports once it has them all. The addresses that it takes are its choice, as in GANG_PLACE. -/
def execSpanReserve (span : SpanMsg) (arena reserve : List Nat) (s : State) : Out :=
  let key := s.negotiated span
  if !s.kilnUp ∨ key = 0 ∨ (s.spanLaunches key).isEmpty ∨ (s.span key).committed then .next s
  else
    let low := (Tab.keys s.kiln.spans).filter (fun k => k != key && !(s.span k).committed && !(s.span k).reserved.isEmpty
      && s.spanBefore key k)
    let s1 := low.foldl (fun s k => s.releaseSpan k) (s.modSpan key id)
    let s2 := s1.reserveAll key (s1.wants.length + (s1.spanLaunches key).foldl (fun n x => n + x.2.record.groups) 0) arena reserve
    .next (s2.modSpan key (fun x => { x with ready := s2.spanPlanned key }))

/-! ## Commit -/

/-- The member indices on this device. -/
def State.spanMembersHere (s : State) (k : Nat) : List Nat :=
  (s.spanLaunches k).flatMap (fun x => (List.range x.2.record.groups).map (fun i => x.2.record.spanFirst + i))

/-- Whether members on other devices complete those of this one: every index once, on as many other devices as the
records say. -/
def State.membersOk (s : State) (k : Nat) (remotes : List (Nat × Nat)) : Bool :=
  match (s.spanLaunches k).head? with
  | none => false
  | some (_, l) =>
    let here := s.spanMembersHere k
    let all := here ++ remotes.map (fun x : Nat × Nat => x.1)
    decide (all.Nodup) && (List.range l.record.spanMembers).all (fun m => all.contains m) && all.length == l.record.spanMembers
      && !(remotes.any (fun x : Nat × Nat => x.2 == s.dev.devid))
      && ((remotes.map (fun x : Nat × Nat => x.2)).dedup).length + 1 == l.record.spanDevices

/-- A member on another device as it is when the span first commits. -/
def freshRemote (units : Nat) (x : Nat × Nat) : Remote := ⟨x.1, x.2, units, [], [], 0, false, false, false⟩

/-- Whether the cores of a planned gang still suit its groups, where it was saved (R174, R176). -/
def State.planSuits (s : State) (p : Plan) : Bool :=
  match p.gang with
  | none => true
  | some g => ((s.gangGroups g).zip p.spots).all (fun x => s.coreSuits x.2.1 x.1.2)

/-- Whether a span has not committed before: no gang of it has been placed (R71). -/
def State.spanNew (s : State) (k : Nat) : Bool := (s.spanLaunches k).all (fun x => x.2.placed == 0)

/-- Making one planned gang Resident; one that was saved takes its slots and its token with it, and then stands until all are
there (R174). -/
def State.commitPlan (s : State) (p : Plan) : State :=
  match s.launch p.launch, p.gang with
  | some l, none => s.placeGang p.launch l p.number p.spots p.arena p.save
  | _, some g => match s.gang g with
    | some y => s.seatGang g y p.spots
    | none => s
  | none, none => s

/-- Making planned gangs Resident one after another; none where the cores no longer suit one. -/
def State.commitAll : List Plan → State → Option State
  | [], s => some s
  | p :: r, s => if s.planSuits p then State.commitAll r (s.commitPlan p) else none

/-- SPAN_COMMIT (R71): every device has reported, and each makes its gangs Resident. `prio` is the largest of the
priorities that the other devices report, `remotes` are the members on them with their `%devid`, as the first commit has them;
`span` has the protection key that the message carries. Restores wait as in GANG_RESTORE. Where a core no longer suits a saved group, the reservation is given up. -/
def execSpanCommit (span : SpanMsg) (prio : Nat) (remotes : List (Nat × Nat)) (s : State) : Out :=
  let key := s.negotiated span
  let x := s.span key
  let first := s.spanNew key
  if !s.kilnUp ∨ key = 0 ∨ !x.ready ∨ x.committed ∨ !s.spanPlanned key ∨ (first && !s.membersOk key remotes) then .next s
  else if x.reserved.any (fun p => p.gang.any (fun g => s.gangWaits g)) then .next s.hold
  else
    let units := (((s.spanLaunches key).head?).map (fun y => y.2.record.pool.toNat % 128)).getD 0
    let rs := if first then remotes.map (freshRemote units) else x.remotes
    let s1 := s.setSpan key { x with reserved := [], ready := false, committed := true, remotes := rs
                                     prio := s.spanAgreed key prio }
    .next (match State.commitAll x.reserved s1 with
      | some t => (x.reserved.filterMap (·.gang)).foldl (fun s g => s.resumeGang g) t
      | none => s.releaseSpan key)

/-- SPAN_PRIORITY_UPDATE (R71): the coordinator forwards the largest of the other devices' values. -/
def execSpanPriorityUpdate (span : SpanMsg) (prio : Nat) (s : State) : Out :=
  let key := s.negotiated span
  if s.kilnUp && key != 0 && (Tab.find s.kiln.spans key).any (·.committed) then
    .next (s.modSpan key (fun x => { x with prio := s.spanAgreed key prio }))
  else .next s

/-! ## Departure (R425, R433) -/

/-- Every task of a slot ends by a fault, the innermost first (R433). -/
def State.faultChain (s : State) (u : Nat) : List Helper → State
  | [] => s.taskFault u false
  | h :: r => State.faultChain ((s.taskFault u false).modWave u (fun w => { w with task := h.task, chain := r, ended := none })) u r

/-- The tasks of a wave end by a fault: of one whose running task has left, those of its chain. -/
def State.faultTasks (s : State) (u : Nat) (w : Wave) : State :=
  if w.ended.isNone then s.faultChain u w.chain
  else match w.chain with
    | [] => s
    | h :: r => State.faultChain (s.modWave u (fun w => { w with task := h.task, chain := r, ended := none })) u r

/-- A group is removed without exiting: the tasks of its waves end by a fault, what it has outstanding is dropped, and
its units and the blocks of its root tasks are free. -/
def State.removeGroup (s : State) (g : Nat) : State :=
  let k := s.coreOf g
  let us := (s.wavesOf g).map (fun x : Nat × Wave => x.1)
  let s1 := s.modCore k (fun c => { c with
    copies := c.copies.filter (fun x => !us.contains x.wave), pend := c.pend.filter (fun x => !us.contains x.wave)
    array := c.array.filter (fun x => match x with
      | .joint h _ _ _ => h != g
      | .tile u _ _ | .load u _ _ => !us.contains u) })
  let s2 := us.foldl (fun s u => match s.wave u with
    | none => s
    | some w => if w.exited then s
      else (s.faultTasks u w).modWave u (fun w => { w with exited := true, ops := [], pending := [] })) s1
  let gn := ((s2.group g).map (·.gang)).getD 0
  let s3 := s2.returnBlocks g (s2.rootBlocks g)
  ((s3.modGroup g (fun x => { x with exited := true, detached := true })).freeGroup g).settleGangExit gn

/-- MEMBER_DEPART (R425): the member counts as detached and as arrived at every phase, every wave of every remaining
member has an asynchronous error pending, and the remaining gangs are pre-empted together. While KILN's firmware is being
replaced the news waits (R367). -/
def execMemberDepart (span : SpanMsg) (member : Nat) (s : State) : Out :=
  let key := spanIdOf span.ctx span.key
  if !s.kilnUp then .next (if s.dev.kiln then s.hold else s)
  else match (if s.keyFits span.ctx span.pkey then Tab.find s.kiln.spans key else none) with
  | none => .next s
  | some x =>
    let here := s.kiln.groups.find? (fun y => s.spanOf y.2.launch == key
      && ((s.launch y.2.launch).map (·.record.spanFirst)).getD 0 + y.2.number == member && !y.2.exited)
    let there := x.remotes.any (fun r => r.member == member && !r.exited)
    if x.departed.contains member ∨ !(here.isSome || there) then .next s
    else
      let s1 := s.modSpan key (fun x => { x with
        departed := x.departed ++ [member]
        remotes := x.remotes.map (fun r => if r.member = member then { r with departed := true } else r) })
      let s1 := if x.committed then s1 else s1.releaseSpan key
      let s2 := match here with | some (g, _) => s1.removeGroup g | none => s1
      let rest := s2.kiln.groups.filter (fun y => s2.spanOf y.2.launch == key && !y.2.exited)
      let s3 := rest.foldl (fun s y => (s.wavesOf y.1).foldl (fun s w =>
        if w.2.exited then s else s.addAsync w.1 (looseErr w.2 9 member 0)) s) s2
      let s4 := rest.foldl (fun s y => s.modGang y.2.gang (fun z =>
        if z.state = .resident then { z with marked := true } else z)) s3
      match rest.head? with
      | some (g, _) => .next ((s4.settleSpan g).settleHeld g)
      | none => match s4.kiln.groups.find? (fun y => s4.spanOf y.2.launch == key) with
        | some (g, _) => .next (s4.settleHeld g)
        | none => .next s4

end Sys2Proof.Machine
end

