-- ==== Sys2Proof/Machine/Packets.lean ====
section
/-! DEFINITION. Sessions and task packets of a 900-L (R330 to R333, R444, R450, R460). -/

namespace Sys2Proof.Machine

def State.session (s : State) (n : Nat) : Option Session := Tab.find s.kiln.sessions n
def State.modSession (s : State) (n : Nat) (f : Session → Session) : State :=
  { s with kiln := { s.kiln with sessions := Tab.modify s.kiln.sessions n f } }

/-- INBOX_WAKE (R331, R444): KILN reads the write index of an open inbox with an acquire at tenant scope. One too far
ahead stops the reading of the inbox. -/
def execInboxWake (session : Nat) (s : State) : Out :=
  match s.session session with
  | none => .next s
  | some x =>
    if !s.kilnUp || x.overrun then .next s
    else
      let ag := s.agentFor x.ctx
      match s.obj ag .ten (x.header + 8) 8 with
      | .error _ => .next s
      | .ok (s1, bs) =>
        let wr := leNat bs
        let s2 := s1.acquire ag .ten
        if 2 ^ x.log2 < (wr + 2 ^ 64 - x.read) % 2 ^ 64 then
          .next ((s2.modSession session (fun x => { x with write := wr, overrun := true })).setOver x.ctx x.header)
        else .next (s2.modSession session (fun x => { x with write := wr }))

/-- SESSION_KEY_INSTALL (R331): FIREBOX takes the key of an open session. -/
def execSessionKeyInstall (session : Nat) (key : BitVec 256) (s : State) : Out :=
  if s.dev.firebox then .next (s.modSession session (fun x => { x with key := some key })) else .next s

/-! ## The checks of R333 -/

/-- The MAC of a packet under a session's key (R330). -/
def macOk (x : Session) (bs : List Byte) : Bool :=
  match x.key with
  | none => false
  | some k => Config.kmac k (bs.take 0xE0) == BitVec.ofNat 256 (fieldAt bs 0xE0 32)

/-- The header check: version, tenant, session number and every reserved field. -/
def headerOk (x : Session) (n : Nat) (bs : List Byte) : Bool :=
  let h := fieldAt bs 0 4
  h / 2 ^ 24 == 1 && h / 2 ^ 20 % 16 == 0 && h / 2 ^ 16 % 16 == x.tenant && h % 2 ^ 16 == 0 && fieldAt bs 4 4 == n
    && fieldAt bs 0x50 4 / 2 ^ 24 == 0 && fieldAt bs 0x54 4 / 2 ^ 11 == 0 && fieldAt bs 0x54 4 % 256 == 0
    && fieldAt bs 0x5C 4 == 0

/-- Resolving an argument word (R332): the word, and the base of the extent it names. -/
def resolve (extents : List (Nat × Nat)) (a : Nat) : Option (Nat × Option Nat) :=
  if a / 2 ^ 63 % 2 = 0 then some (a, none)
  else match extents[a / 2 ^ 48 % 2 ^ 15]? with
    | some (base, size) => if a % 2 ^ 48 < size then some (base + a % 2 ^ 48, some base) else none
    | none => none

/-- The registered kernel with a digest. -/
def kernelWith (ks : List Kernel) (digest : Nat) : Option Kernel := ks.find? (fun k => k.digest == BitVec.ofNat 512 digest)

/-- The words that a packet resolves: the completion word and the 15 arguments. -/
def packetWords (bs : List Byte) : List Nat := (List.range 16).map (fun i => fieldAt bs (0x60 + 8 * i) 8)

/-- The five checks in their order: the kernel and the resolved words of a packet that passes. -/
def State.checkPacket (s : State) (n : Nat) (x : Session) (bs : List Byte) : Option (Kernel × List (Nat × Option Nat)) :=
  let t := s.tenant x.tenant
  if !macOk x bs || !headerOk x n bs || decide (fieldAt bs 8 8 ≤ x.seq) then none
  else match kernelWith t.kernels (fieldAt bs 0x10 64) with
    | none => none
    | some k =>
      let ws := (packetWords bs).map (resolve t.extents)
      if ws.all Option.isSome then some (k, ws.filterMap id) else none

/-! ## The launch of a packet -/

/-- The launch record that KILN forms (R210, R333): entry and shape from the kernel's note, CTX from the session, PRIO
from the packet. -/
def packetRecord (x : Session) (k : Kernel) (bs : List Byte) (completion block : Nat) : List Byte :=
  let shape := fieldAt k.image 8 4
  let shape := shape - shape / 2 ^ 24 % 64 * 2 ^ 24 + x.ctx * 2 ^ 24
  let shape := shape - shape / 256 % 8 * 256 + fieldAt bs 0x54 4
  leBytes (k.va + 32 + fieldAt k.image 0 8) 8 ++ leBytes block 8 ++ leBytes completion 8 ++ leBytes (fieldAt bs 0x58 4) 4
    ++ leBytes (fieldAt bs 0x50 4) 4 ++ leBytes shape 4 ++ leBytes (fieldAt k.image 12 4) 4 ++ List.replicate 24 0

/-- The read index of an inbox advances past a packet. -/
def State.packetDone (s : State) (n : Nat) (x : Session) : State :=
  (s.modSession n (fun y => { y with read := y.read + 1 })).kilnWrite x.ctx .ten (x.header + 0x10) (leBytes (x.read + 1) 8)

/-- Whether KILN can take a block of 128 bytes, aligned to 64, at an address of a context's arena. -/
def State.blockFree (s : State) (ctx a : Nat) : Bool :=
  a % 64 == 0 && ((s.ctx ctx).map (fun c => c.arenaFree a 128)).getD false

/-- PACKET_READ (R331, R333, R450, R460): once FIREBOX holds the session's key, KILN reads the next packet of an inbox,
checks it, and forms a launch from it.
`block` is the place of the argument block that KILN takes from the arena; while none can be had the packet stays. -/
def execPacketRead (session block : Nat) (s : State) : Out :=
  match s.session session with
  | none => .next s
  | some x =>
    if !s.kilnUp || x.overrun || x.read == x.write || x.key.isNone || decide (maxLive ≤ s.kiln.launches.length) then .next s
    else match s.obj (s.agentFor x.ctx) .ten (x.ring + 256 * (x.read % 2 ^ x.log2)) 256 with
      | .error _ => .next (s.packetDone session x)
      | .ok (s1, bs) => match s1.checkPacket session x bs with
        | none => .next (s1.packetDone session x)
        | some (k, ws) =>
          let done := (ws.map (fun w : Nat × Option Nat => w.1)).headD 0
          let rec_ := packetRecord x k bs done block
          let s2 := s1.modSession session (fun y => { y with seq := fieldAt bs 8 8 })
          if !s1.recordOk x.ctx rec_ then .next ((s2.rejectRecord x.ctx (Record.ofBytes rec_)).packetDone session x)
          else if !s1.blockFree x.ctx block then .next s
          else
            let s3 := s2.modCtx x.ctx (fun c => { c with arenaTaken := c.arenaTaken ++ [(block, 128)] })
            let s4 := s3.kilnWrite x.ctx .ten block (ws.flatMap (fun w : Nat × Option Nat => leBytes w.1 8))
            let named := (ws.filterMap (fun w : Nat × Option Nat => w.2)).dedup
            .next ((s4.accept (.packet block named) (Record.ofBytes rec_)).packetDone session x)

end Sys2Proof.Machine
end

