-- ==== Sys2Proof/Machine/Cuts.lean ====
section
/-! DEFINITION. Requests that end without being performed, whoever has made them: those that a switch drops or their target
refuses (R422, R335), those in flight on a route that is lost (R421), and those that wait at a stack when it goes out of service
(R443). -/

namespace Sys2Proof.Machine

/-- Which requests end: a read of a scope that no cache of a core serves, a write or an atomic at a point, a window access by its
destination, and the walk of an address that the translation cache does not hold. -/
structure Cut where
  read : State → Agent → Scope → Place → Bool
  write : State → Agent → Point → Place → Bool
  member : Nat → Bool
  walk : State → Agent → Nat → Bool

/-- Requests with the fabric: viral mode sends no write (R416). -/
def fenceCut : Cut :=
  ⟨fun s ag sc p => s.fromHome ag sc p, fun s ag pt p => p.isHome && pt == .home && !s.viral ag.ctx, fun _ => true,
    fun _ _ _ => false⟩

/-- Those of them to some destinations. -/
def routeCut (ds : List Nat) : Cut :=
  ⟨fun s ag sc p => p.dest.any ds.contains && fenceCut.read s ag sc p, fun s ag pt p => p.dest.any ds.contains && fenceCut.write s ag pt p,
    ds.contains, fun _ _ _ => false⟩

/-- Requests that wait at the MSC slice of a stack (R367): reads that no L2 serves, writes that go behind it, reads of a walker. -/
def waitCut : Cut :=
  ⟨fun s ag sc p => s.waitsAt p && !(pointOf sc p == .l2
      && (s.l2Find ag.cluster p.sector).any (fun y => y.valid == BitVec.allOnes 128)),
    fun s _ pt p => s.waitsAt p && pt != .l2, fun _ => false,
    fun s ag va => (s.tlbFind ag.cluster (s.asidOf ag.ctx) va).isNone
      && (s.walkReads va 3 (((s.ctx ag.ctx).map (·.tableRoot)).getD 0)).any (fun a => s.waitsAt (.loc a))⟩

/-- Whether the read of an address, which no cache of the core serves, ends; `need` is what it needs of the page. -/
def State.readEnds (s : State) (cut : Cut) (ag : Agent) (sc : Scope) (need : Need) (va : Nat) : Bool :=
  cut.walk s ag va || (match s.translate ag va need with
    | .ok (p, _) => cut.read s ag sc p
    | .error _ => false)

/-! ## Accesses of lanes -/

/-- The lanes of an operation, among some, whose request ends. An atomic that is performed in the L2 first reads its line. -/
def State.endingLanes (s : State) (cut : Cut) (ag : Agent) (grp : Nat) (o : Op) (a : Acc) (lanes : W32) : W32 :=
  let sc := s.capScope ag.ctx a.scope
  maskOf ((bitsOf (o.todo &&& lanes)).filter (fun l =>
    let x := o.addr l
    match a.space, a.kind with
    | .spad, _ => false
    | .win, k => (k == .load || !s.viral ag.ctx) && (s.windowDest grp (x / 2 ^ 21)).any cut.member
    | .const, _ => (vFind (s.core ag.core).cc (s.asidOf ag.ctx) x).isNone && s.readEnds cut ag .clus .read x
    | .glob, .load => (s.l1Load ag x sc a.way).isNone && s.readEnds cut ag sc .read x
    | .glob, .store => (match s.storePlace ag x with
      | .ok (p, at_) => cut.write s ag (writePoint (pointOf sc p) p at_) p
      | .error _ => false)
    | .glob, .atomic => (match s.translate ag x .write with
      | .ok (p, at_) =>
        let pt := if a.far then s.atomPoint ag a p else writePoint (pointOf sc p) p at_
        cut.write s ag pt (s.atomPlace ag p x) || (pt == .l2 && cut.read s ag sc p)
      | .error _ => false)))

/-- Requests of an operation that end in a trap, for reads, or unperformed with an asynchronous error, for writes and
atomics. `done` performs them all the same (R421). -/
def State.endRequests (s : State) (u : Nat) (ag : Agent) (grp : Nat) (o : Op) (a : Acc) (ls : W32) (e : MemErr) (code : Nat)
    (done : Bool) : State :=
  if ls = 0 then s
  else if a.kind = .load then
    let l := (bitsOf ls).headD 0
    s.holdOp u o (memBad e false false l (o.addr l))
  else
    let o1 := { o with todo := o.todo &&& ~~~ls, checked := true, dst := [] }
    let s1 := if done then s.performMem u ag grp o1 a ls else s
    (s1.setOp u { o1 with dst := o.dst }).refuseLanes u ag o ls code 0

/-- The end of the requests of an access, its checks being passed: where the walk for a write ends, it traps as a read does. -/
def State.endAccess (s : State) (cut : Cut) (u : Nat) (ag : Agent) (grp : Nat) (o : Op) (a : Acc) (lanes : W32) (e : MemErr)
    (code : Nat) (done : Bool) : State :=
  if !(o.checked || (s.memCheck ag grp o a).isNone) then s
  else
    let walks := if o.checked || a.kind == .load || a.space != .glob then none
      else (bitsOf (o.todo &&& lanes)).find? (fun l => (s.l1Hit ag (o.addr l)).isNone && cut.walk s ag (o.addr l))
    match walks with
    | some l => s.holdOp u o (memBad e true false l (o.addr l))
    | none => s.endRequests u ag grp o a (s.endingLanes cut ag grp o a lanes) e code done

/-! ## Other operations -/

/-- The address at which `cvt.had` reads, if its request ends. -/
def State.endingHad (s : State) (cut : Cut) (ag : Agent) (o : Op) (lanes : W32) : Option (Nat × Nat) :=
  let x := ((o.val64 2 o.leader).toNat + 0x30) % 2 ^ 64
  if (o.todo &&& lanes).getLsbD o.leader && (s.l1Load ag x .wave (.plain false)).isNone && s.readEnds cut ag .wave .read x then
    some (o.leader, x)
  else none

/-- The lowest lane of an operation of an Irwald unit or KILN, among some, whose read ends, with its address. -/
def State.endingRead (cut : Cut) (ag : Agent) (o : Op) (lanes : W32) (vs : List (Nat × State × Option W64)) : Option (Nat × Nat) :=
  vs.findSome? (fun x => if !lanes.getLsbD x.1 then none
    else (x.2.1.queueReads ag o x.1).findSome? (fun y =>
      (firstAt (fun a => x.2.1.readEnds cut ag y.2.2 .read a) y.1 y.2.1).map (fun a => (x.1, a))))

/-- The end of requests of `spawn`, `launch`, `qpush` or `qpop`: a read ends in a trap, and a lane one of whose writes ends is not
performed, or performed all the same where `done` says so, and leaves an asynchronous error (R421, R422, R429). Where both a read and
a write may be under way, which of them ends is not stated: it is a free value. DESIGN CHOICE (log 131). -/
def State.endQueue (s : State) (cut : Cut) (u : Nat) (ag : Agent) (grp : Nat) (o : Op) (lanes : W32) (e : MemErr) (code : Nat)
    (done : Bool) : State :=
  let vs := s.queueLanes u ag grp o (bitsOf o.todo)
  let hits := (State.queueHits ag o vs (fun s => cut.write s ag)).filter (fun x => lanes.getLsbD x.1)
  match (if o.checked then none else State.endingRead cut ag o lanes vs), hits with
  | none, [] => s
  | some (l, x), [] => s.holdOp u o (memBad e false false l x)
  | r, h :: hs =>
    if r.isSome ∧ Config.freeChoice s.sched.fresh % 2 = 0 then
      s.bumpFresh.holdOp u o (memBad e false false ((r.map (·.1)).getD 0) ((r.map (·.2)).getD 0))
    else
      let s0 := if r.isSome then s.bumpFresh else s
      if done then match s0.queueOp u ag grp o with
        | .ok (s1, ws, left) => s1.queueDone u ag o ws left (h :: hs) code
        | .error b => s0.holdOp u o b
      else (s0.setOp u { o with todo := o.todo &&& ~~~(maskOf ((h :: hs).map (·.1))) }).addAsync u
        (o.err code 0 h.2 h.1 (maskOf ((h :: hs).map (·.1))))

/-- The end of the request that a copy is at: of a read, with class 5 code 4; of a write, with `code`, `done` performing it all the
same. -/
def State.endCopy (s : State) (cut : Cut) (core : Nat) (ag : Agent) (grp : Nat) (o : Op) (c : Copy) (e : MemErr) (code : Nat)
    (done : Bool) : State :=
  let m := cpMods c.instr
  let stop (s : State) (code detail a row k : Nat) : State := (s.dropCopy core c.id).copyErr ag.ctx c o code detail a row k false
  let writes (sc : Scope) (a : Nat) : Bool := match s.translate ag a .write with
    | .ok (p, at_) => cut.write s ag (writePoint (pointOf sc p) p at_) p
    | .error _ => false
  match c.instr, c.pos with
  | .cpOut .., some (row, k) =>
    let a := (c.row row).1 + (lineAt (c.row row).1 (c.box.box 0) k).1
    if cut.walk s ag a then stop s 4 (16 * e.code + e.detail) a row k
    else if writes .clus a then
      stop (if done then (s.copyLine grp ag c row k).toOption.getD s else s) code 0 a row k
    else s
  | .cpOut .., none =>
    let sc : Scope := if m.rel then s.capScope ag.ctx m.fscope else .clus
    if writes sc c.stamp then
      stop (if done then s.setObj ag sc c.stamp (leBytes c.value.toNat 8) else s) code 0 c.stamp c.box.rows 0
    else s
  | .cpGather .., some (row, k) =>
    let a := (c.row row).1 + (lineAt (c.row row).1 (c.box.box 0) k).1
    if !c.rows.isEmpty && s.readEnds cut ag .clus .read a then stop s 4 (16 * e.code + e.detail) a row k else s
  | _, some (row, k) =>
    let a := (c.row row).1 + (lineAt (c.row row).1 (c.box.box 0) k).1
    if s.readEnds cut ag .clus .read a then stop s 4 (16 * e.code + e.detail) a row k else s
  | _, none => s

/-- The end of the requests that an operation has made for some lanes. -/
def State.endIssued (s : State) (cut : Cut) (u core : Nat) (ag : Agent) (grp : Nat) (o : Op) (lanes : W32) (e : MemErr) (code : Nat)
    (done : Bool) : State :=
  match accOf o.instr with
  | some a => s.endAccess cut u ag grp o a lanes e code done
  | none => match o.instr with
    | .cpTile .. | .cpMcast .. | .cpOut .. | .cpGather .. =>
      if (s.wave u).any (fun w => w.olderThan o.id) then s
      else ((s.core core).copies.filter (fun c => c.op == o.id && lanes.getLsbD c.lane)).foldl (fun s c =>
        s.endCopy cut core ag grp o c e code done) s
    | .spawn .. | .launch .. | .qpush .. | .qpop .. => s.endQueue cut u ag grp o lanes e code done
    | .cvtHad .. => (match (if o.checked then none else s.endingHad cut ag o lanes) with
        | some (l, x) => s.holdOp u o (memBad e false false l x)
        | none => s)
    | _ => s

/-! ## What a strand is about to ask for -/

/-- The address of the first word of the clause at which a strand stands whose fetch ends. The instruction cache is filled from
the MSC on (R150). -/
def State.endingFetch (s : State) (cut : Cut) (u : Nat) (w : Wave) (ag : Agent) (pc : Nat) : Option Nat :=
  let n := match s.fetchWord u ag pc with
    | .ok (_, h) => hdrLen h + 1
    | .error _ => 1
  ((List.range n).map (fun i => (pc + 4 * i) % 2 ^ 56)).find? (fun a =>
    !w.loop.any (fun x => x.1 == a) && (vFind (s.core ag.core).ic (s.asidOf ag.ctx) a).isNone && s.readEnds cut ag .dev .exec a)

/-- The waitable at an address, and the record of its owner that `await` and `lock.take` then read (R92). -/
def State.waitReads (s : State) (ag : Agent) (a : Nat) : List Nat :=
  a :: (match s.waitable ag a with
    | .ok (_, x) => if x.ready || x.owner == 0 || x.owner % 64 != 0 then [] else [x.owner]
    | .error _ => [])

/-- The object that an instruction reads at its issue, or a copy's layout record: the executing strand, the flag that it would
count, the lane and the address. -/
def State.objectRead (w : Wave) (u : Nat) (ag : Agent) (st : BitVec 8) (i : Instr) : Option (Env × Option Nat × Nat × Nat) :=
  let awaits (g : Guard) (a : Opd) : Option (Env × Option Nat × Nat × Nat) :=
    let e := w.env u ag st g
    match e.awaitBad a with
    | .ok (some (l, x)) => some (e, none, l, x)
    | _ => none
  let leads (g : Guard) (a : Opd) : Option (Env × Option Nat × Nat × Nat) :=
    let e := w.env u ag st g
    e.leader.map (fun l => (e, none, l, (w.rdq a l).toNat))
  match i with
  | .await g a _ | .lockTake g a _ | .park g a => awaits g a
  | .futSet g a _ | .lockGive g a => leads g a
  | .cpTile g _ a _ _ m | .cpMcast g _ a _ _ m _ | .cpOut g _ a _ _ m | .cpGather g _ a _ _ m =>
    (leads g a).map (fun x => (x.1, x.1.flag m.fs, x.2.2))
  | _ => none

/-- The precise trap of a wave whose next request ends: the fetch of a strand that is ready, the object that a ready strand's next
instruction reads, or the waitable that a waiting one decides on. -/
def State.endAsk (s : State) (cut : Cut) (u : Nat) (w : Wave) (ag : Agent) (e : MemErr) : Option State :=
  w.strands.findSome? (fun n =>
    let st := w.strandSlices n
    let x := w.slice n
    match x.wait, x.clause with
    | none, none => if !s.ready u w n then none
      else
        let env := w.env u ag st ⟨false, 0⟩
        (s.endingFetch cut u w ag env.pc).map (fun a => s.stopStart env (memBad e false true 0xFF a))
    | none, some c => if !s.ready u w n then none
      else match decodeWords c.rest with
        | .ok (i, _) => (match State.objectRead w u ag st i with
          | some (env, fl, l, a) =>
            let sc : Scope := if isEngine i then .clus else .ten
            let as := match i with
              | .await .. | .lockTake .. => s.waitReads ag a
              | _ => [a]
            if a % 16 ≠ 0 then none
            else (as.find? (fun x => s.readEnds cut ag sc .read x)).map (fun x => s.stopAt env fl (memBad e false false l x))
          | none => none)
        | .error _ => none
    | some (.await _ _ a), _ =>
      let as := match w.adopting with
        | some c => [c.owner.toNat]
        | none => s.waitReads ag a.toNat
      if s.awake w && s.drained u then (as.find? (fun x => s.readEnds cut ag .ten .read x)).map (fun x =>
        (s.stopAwait u w (memBad e false false (w.awaitLane.getD 0xFF) x)).unclaim u)
      else none
    | _, _ => none)

/-! ## All at once -/

/-- Every request that an issued operation may have made, and the next one of each wave, ends. Which of them are under way is not
stated: all that can be. DESIGN CHOICE (log 131). -/
def State.endAll (s : State) (cut : Cut) (e : MemErr) (code : Nat) (done : Bool) : State :=
  s.kiln.waves.foldl (fun s x =>
    let grp := x.2.group
    let ag := s.agentOf grp
    let s1 := x.2.ops.foldl (fun s o => match s.wave x.1 with
      | none => s
      | some w =>
        if isEngine o.instr || (List.range 8).any (fun i => o.undone.getLsbD i && w.mayPerform o i) then
          s.endIssued cut x.1 (s.coreOf grp) ag grp o 0xFFFFFFFF e code done
        else s) s
    match s1.wave x.1 with
    | none => s1
    | some w => (s1.endAsk cut x.1 w ag e).getD s1) s

/-- The writeback of a dirty sector of fabric space is fenced: its bytes are lost, as R424 has it of a writeback whose target is
gone. Cluster 24 stands for the MSC. DEDUCED (log 132). -/
def State.fenceBack (s : State) (cluster sector : Nat) : State :=
  let cl := if cluster = 24 then none else some cluster
  let xs := if cluster = 24 then s.mem.msc else (s.cluster cluster).l2
  match xs[sector]? with
  | none => s
  | some x =>
    if x.dirty = 0 ∨ !x.place.isHome ∨ s.viral x.ctx then s
    else
      let y := { x with dirty := 0 }
      let s1 : State := if cluster = 24 then { s with mem := { s.mem with msc := putSec s.mem.msc y } } else s.l2Set cluster y
      let s2 := s1.forget x.place
      State.noteLost { s2 with mem := { s2.mem with msc := s2.mem.msc.filter (fun z => z.place != x.place || z.dirty != 0) } }
        cl x.tenant x.place.addr

end Sys2Proof.Machine
end

