-- ==== Sys2Proof/Machine/Fabric.lean ====
section
/-! DEFINITION. What reaches the device from its fabric and what it does there: dead regions (R124, R455, R463), extents
(R125, R328, R424), back-invalidation (R326, R327), inbound requests (R335), viral indications (R415), fenced responses
(R422), links and routes (R149, R420, R421), lost expanders and writebacks (R424). -/

namespace Sys2Proof.Machine

/-- The number of a destination: 4,096 × kind + port or device. -/
def WinKind.dest (k : WinKind) (n : Nat) : Nat :=
  match k with | .host => n % 4096 | .hdm => 4096 + n % 4096 | .peer => 8192 + n % 4096

/-! ## Dead regions -/

/-- Whether two blocks meet. -/
def blocksMeet (a b : Nat × Nat) : Bool := decide (a.1 < b.1 + b.2) && decide (b.1 < a.1 + a.2)

/-- A row of a stack is retired if a spare row remains (R418). -/
def Clinker.retire (c : Clinker) (row : Nat) : Clinker :=
  if c.spare = 0 then c
  else { c with spare := c.spare - 1, retired := min (c.retired + 1) 65535, retiredRows := row :: c.retiredRows
                table := c.table.filter (·.1 != row) }

/-- Retiring each row that holds one of some granules once (R463). -/
def Dev.retireRows (d : Dev) (gs : List Nat) : Dev :=
  ((gs.map (fun g => (stackOf (64 * g), Config.dramRow g))).dedup).foldl
    (fun (d : Dev) (x : Nat × Nat) => { d with clinker := modAt d.clinker x.1 (fun c => c.retire x.2) }) d

/-- Whether a place stands on a byte of a range of local memory: itself, or by its plane bytes. -/
def State.standsIn (s : State) (base size : Nat) : Place → Bool
  | .loc a => decide (base ≤ a) && decide (a < base + size)
  | .inAlias t a => (aliasEnds (s.tenant t).regions a).any (fun x => decide (base ≤ x) && decide (x < base + size))
  | _ => false

/-- Declaring a range of local memory dead (R124, R455): its lines are dropped without writeback, it reads 0, its poison is cleared,
and rows that a DRAM error had poisoned are retired. Lines of GLAZE space that stand on it, of which R124 and R455 do not speak, are
dropped from every L2 in the same way. DESIGN CHOICE (log 148). -/
def State.declareDead (s : State) (base size : Nat) : State :=
  let inside (a : Nat) : Bool := decide (base ≤ a) && decide (a < base + size)
  { s with
    clusters := s.clusters.map (fun c => (c.1, { c.2 with l2 := c.2.l2.filter (fun x => !s.standsIn base size x.place) }))
    cores := s.cores.map (fun c => (c.1, { c.2 with
      l1 := c.2.l1.filter (fun x => !s.standsIn base size x.place)
      cc := c.2.cc.filter (fun x => !s.standsIn base size x.place)
      ic := c.2.ic.filter (fun x => !s.standsIn base size x.place) }))
    dev := s.dev.retireRows (s.mem.bad.filter (fun g => inside (64 * g)))
    mem := { s.mem with
      loc := s.mem.loc.clear base (base + size)
      poison := s.mem.poison.filter (fun g => !inside (64 * g))
      bad := s.mem.bad.filter (fun g => !inside (64 * g))
      sram := s.mem.sram.filter (fun g => !inside (64 * g))
      wire := s.mem.wire.filter (fun g => !inside (64 * g))
      lines := s.mem.lines.filter (fun l => !inside (256 * l))
      dirty := s.mem.dirty.filter (fun l => !inside (256 * l))
      snoop := s.mem.snoop.filter (fun l => !inside (256 * l))
      dead := (base, size) :: s.mem.dead.filter (· != (base, size)) } }

/-! ## Extents (R125, R328, R424) -/

/-- 256 MiB. -/
def extentUnit : Nat := 2 ^ 28

/-- Whether a base and a size are those of an extent. -/
def extentOk (base size : Nat) : Bool := base % extentUnit == 0 && size % extentUnit == 0 && size != 0

/-- The memory at which an extent of another 900-L lies. -/
def farKey (h : WinKind × Nat) : Nat := homeKey (WinKind.dest h.1 h.2)

/-- Another device declares a range of its memory dead: it reads zero, without poison. -/
def State.farDead (s : State) (k base size : Nat) : State :=
  let inside (a : Nat) : Bool := decide (base ≤ a) && decide (a < base + size)
  { s with mem := { s.mem with
      homes := Tab.modify s.mem.homes k (fun m => m.clear base (base + size))
      homePoison := s.mem.homePoison.filter (fun x => !(x.1 == k && inside (64 * x.2))) } }

/-- What stands on this device of a range of memory elsewhere that its device declares dead goes, so that nothing of it is read
after that (R125): dirty sectors are written back, which is lost for an extent that the tenant holds no longer (R424). -/
def State.dropFar (s : State) (k base size : Nat) : State :=
  let mine : Place → Bool := fun p => match p with
    | .home _ _ d a => homeKey d == k && decide (base ≤ a) && decide (a < base + size)
    | _ => false
  let s1 := ((s.copies (fun _ x => x.coh && mine x.place)).map (·.place)).foldl (fun s p => s.cohHome none p) s
  let s2 := (Tab.keys s1.clusters).foldl (fun s c =>
    (s.l2Places c (fun x => mine x.place)).foldl (fun s p => s.l2Flush c p) s) s1
  let s3 := ((s2.mem.msc.map (·.place)).filter mine).foldl (fun s p => s.mscFlush none p) s2
  let keep (x : VSector) : Bool := !mine x.place
  { s3 with cores := s3.cores.map (fun c => (c.1, { c.2 with
      l1 := c.2.l1.filter keep, cc := c.2.cc.filter keep, ic := c.2.ic.filter keep })) }

/-- EXTENT_ADD: an extent of this 900-L takes effect with the answer, as a dead region and as the last of the tenant's list; one
of another 900-L becomes memory that the tenant holds there. -/
def execExtentAdd (tenant : Nat) (x : ExtentAt) (size : Nat) (s : State) : Out :=
  let t := s.tenant tenant
  let b := (x.base, size)
  if 16 ≤ tenant ∨ !extentOk x.base size then .next s
  else match x.home with
    | none =>
      let taken := s.kiln.tenants.any (fun y => y.2.ranges.any (blocksMeet b))
      if s.dev.fitting ≠ .l900 ∨ s.dev.populated < x.base + size ∨ 1024 ≤ t.extents.length ∨ taken then .next s
      else .next ((s.declareDead x.base size).modTenant tenant (fun t => { t with
        extents := t.extents ++ [b], ranges := t.ranges ++ [b], released := t.released.filter (fun y => !blocksMeet y b) }))
    | some h =>
      let k := farKey h
      let taken := s.kiln.tenants.any (fun y => y.2.away.any (fun z => z.1 == k && blocksMeet z.2 b))
      if 1024 ≤ (t.away.filter (·.1 == k)).length ∨ taken then .next s
      else .next (((s.dropFar k x.base size).farDead k x.base size).modTenant tenant (fun t => { t with
        away := t.away ++ [(k, b)], gone := t.gone.filter (fun z => !(z.1 == k && blocksMeet z.2 b)) }))

/-- EXTENT_RELEASE: the fabric manager asks for an extent back; the request waits for its answer. One made of another 900-L is not
seen here before it. -/
def execExtentRelease (tenant : Nat) (x : ExtentAt) (s : State) : Out :=
  match x.home, (s.tenant tenant).extents.find? (·.1 == x.base) with
  | none, some b => .next (s.modTenant tenant (fun t => if t.releasing.contains b then t else { t with releasing := t.releasing ++ [b] }))
  | _, _ => .next s

/-- Whether an access of a tenant that was accepted is still to be performed. -/
def State.accessesOpen (s : State) (tenant : Nat) : Bool :=
  s.kiln.waves.any (fun w => s.tenantNo w.2.group == tenant
    && w.2.ops.any (fun o => o.checked && o.todo != 0 && (accOf o.instr).isSome))
  || s.cores.any (fun c => c.2.copies.any (fun x => x.done != 0
    && ((s.wave x.wave).map (fun w => s.tenantNo w.group)).getD 16 == tenant))

/-- Closing a session: its inbox is read no more and its key is gone (R331). -/
def State.dropSession (s : State) (n : Nat) : State :=
  { s with kiln := { s.kiln with sessions := Tab.drop s.kiln.sessions n } }

/-- An extent of this device that is given back: once every launch of a packet that names it is Complete and every accepted access
is performed, it is declared dead, leaves the tenant's list and ranges, and closes the sessions whose inbox it holds. -/
def State.answerRelease (s : State) (tenant base : Nat) : State :=
  match (s.tenant tenant).releasing.find? (·.1 == base) with
  | none => s
  | some x =>
    let named := s.kiln.launches.any (fun l => match l.2.source with
      | .packet _ es => es.contains base && ((s.ctx l.2.record.ctx).map (·.tenant)).getD 16 == tenant
      | _ => false)
    if named || s.accessesOpen tenant then s
    else
      let s1 := (s.declareDead x.1 x.2).modTenant tenant (fun t => { t with
        extents := t.extents.filter (· != x), ranges := t.ranges.filter (· != x), releasing := t.releasing.filter (· != x)
        released := t.released ++ [x] })
      ((s.kiln.sessions.filter (fun y => y.2.tenant == tenant && y.2.extent == base)).map (·.1)).foldl (fun s n => s.dropSession n) s1

/-- EXTENT_RELEASE_ANSWER: the release of an extent takes effect. One of another 900-L the tenant holds no longer: that device has
declared it dead. -/
def execExtentReleaseAnswer (tenant : Nat) (x : ExtentAt) (s : State) : Out :=
  match x.home with
  | none => .next (s.answerRelease tenant x.base)
  | some h => match (s.tenant tenant).away.find? (fun z => z.1 == farKey h && z.2.1 == x.base) with
    | none => .next s
    | some z =>
      let s1 := s.modTenant tenant (fun t => { t with away := t.away.filter (· != z), gone := t.gone ++ [z] })
      .next ((s1.dropFar z.1 z.2.1 z.2.2).farDead z.1 z.2.1 z.2.2)

/-! ## Back-invalidation (R326, R327) -/

/-- BISNP: the holders write back and drop the line, by whichever port they reach it, and EMBER slots that watch a word of it are
hit. -/
def execBisnp (kind : WinKind) (dest addr : Nat) (s : State) : Out :=
  .next (s.cohHome none (.home 0 0 (WinKind.dest kind dest) addr))

/-! ## Inbound requests (R116, R290 to R292, R323, R335) -/

/-- The tenant that owns a range of local memory. -/
def State.ownerOf (s : State) (a n : Nat) : Option Nat :=
  (s.kiln.tenants.find? (fun t => inBlocks t.2.ranges a n)).map (·.1)

/-- Whether a request on local memory is admitted: its key is that of the tenant that owns the bytes. -/
def State.admits (s : State) (key : BitVec 16) (a n : Nat) : Bool :=
  match s.ownerOf a n with
  | none => false
  | some t => (s.tenant t).pkey == key

/-- Whether a byte stands in a stack that is ready: no other can be reached (R362). -/
def Dev.stands (d : Dev) (a : Nat) : Bool := d.stackBits.getLsbD (stackOf a)

/-- Whether requests can arrive: over FLUE or a CXL port, a link or port must be ready (R336, R362). -/
def Dev.busUp (d : Dev) : Bool := d.links != 0 || d.ports != 0

/-- The groups of this device in the span that a request over FLUE names: of the context that it is made for, its key being that of
their tenant (R4, R335). -/
def State.spanOfKey (s : State) (m : SpanMsg) : List (Nat × Group) :=
  if m.key = 0 ∨ !s.dev.flueUp ∨ !s.keyFits m.ctx m.pkey then []
  else s.kiln.groups.filter (fun y => (s.launch y.2.launch).any (fun l => l.record.spanId == spanIdOf m.ctx m.key))

/-- The local member of a span that a request names. -/
def State.inMember (s : State) (m : SpanMsg) (member : Nat) : Option Nat :=
  ((s.spanOfKey m).find? (fun y =>
    ((s.launch y.2.launch).map (·.record.spanFirst)).getD 0 + y.2.number == member
      && y.2.core.isSome && !y.2.detached && !y.2.freed)).map (·.1)

/-- The poison of a sector of arriving data: poison from the fabric in both granules, or none (R316, R409, R413). -/
def wirePoison (bad : Bool) : BitVec 4 := if bad then 0xF else 0

/-- The granules that n bytes at an offset touch are poisoned where their data arrived so. -/
def poisonTouched (bad : Bool) (ps : List Nat) (off n : Nat) : List Nat :=
  if bad then (List.range (n / 64 + 2)).foldl (fun l i =>
    let g := off / 64 + i
    if 64 * g < off + n ∧ !l.contains g then g :: l else l) ps
  else ps

/-- A write that arrives for local memory, performed at the MSC in pieces within sectors, where the stack of a piece is ready. -/
def State.inWrite (s : State) (bad : Bool) (a : Nat) : Nat → List Byte → State
  | 0, _ => s
  | fuel + 1, bs =>
    if bs.isEmpty then s
    else
      let k := min bs.length (128 - a % 128)
      let x : PSector := ⟨.loc (a / 128 * 128), 0, 0, false, secPut 0 (a % 128) k (leNat (bs.take k)), 0, 0, wirePoison bad⟩
      let s1 := if s.dev.stands a then (s.backWrite x (byteMask (a % 128) k)).emberHit (.loc a) k else s
      State.inWrite s1 bad (a + k) fuel (bs.drop k)

/-- A write that another agent performs at a home, in pieces within sectors: the home first sends a BISnp to every holder of
a coherent line (R326). -/
def State.inHome (s : State) (bad : Bool) (d a : Nat) : Nat → List Byte → State
  | 0, _ => s
  | fuel + 1, bs =>
    if bs.isEmpty then s
    else
      let k := min bs.length (128 - a % 128)
      let p : Place := .home 0 0 d a
      let s1 := (s.cohHome none p).homeWrite d (a / 128 * 128) (secPut 0 (a % 128) k (leNat (bs.take k)))
        (byteMask (a % 128) k) (wirePoison bad)
      State.inHome (s1.emberHit p k) bad d (a + k) fuel (bs.drop k)

/-- Something that a member on another device reports or does: an arrival, its detaching, its exit, a store of its own to its
scratchpad. -/
def State.remoteSays (s : State) (m : SpanMsg) (member : Nat) (f : Remote → Remote) : State :=
  match s.spanOfKey m with
  | [] => s
  | (g, _) :: _ => ((s.modRemote (s.spanKeyOf g) member f).settleSpan g).settleHeld g

/-- Admitting a request, or an outside agent's own access at its home. A read changes nothing here but that a line which is
cached outside enters the snoop filter (R316, R326). -/
def State.inbound (s : State) (r : InReq) : State :=
  let open_ (key : BitVec 16) (a n : Nat) : Bool := s.dev.busUp && s.admits key a n
  match r with
  | .readLocal _ _ _ | .readWindow _ _ _ _ => s
  | .cacheLocal key a =>
    if open_ key a 1 && s.dev.stands a && !s.mem.snoop.contains (a / 256) then
      { s with mem := { s.mem with snoop := a / 256 :: s.mem.snoop } }
    else s
  | .writeLocal key a data bad => if open_ key a data.length then s.inWrite bad a (data.length + 1) data else s
  | .atomicLocal key a op ty c =>
    let n := tyBytes ty
    if open_ key a n && s.dev.stands a && a % n == 0 && s.backPoison (.loc a) == 0 then
      s.inWrite false a 2 (leBytes (rmwOp op ty (leNat (s.mem.loc.bytes a n)) (c.toNat % 2 ^ (8 * n))) n)
    else s
  | .casLocal key a n cmp new =>
    if open_ key a n && s.dev.stands a && a % n == 0 && s.backPoison (.loc a) == 0
        && leNat (s.mem.loc.bytes a n) == cmp.toNat % 2 ^ (8 * n) then
      s.inWrite false a 2 (leBytes (new.toNat % 2 ^ (8 * n)) n)
    else s
  | .writeWindow m k off data bad => match s.inMember m k with
    | some g => if off + data.length ≤ s.spadSize g then
        (s.spadWrite g off data).modGroup g (fun x => { x with spadPoison := poisonTouched bad x.spadPoison off data.length })
      else s
    | none => s
  | .memberWrite m k off data bad => s.remoteSays m k (fun r => if off + data.length ≤ r.spadu * 16384 then
      { r with spad := r.spad.setBytes off data, poison := poisonTouched bad (clearPoison r.poison off data.length) off data.length }
      else r)
  | .arrive m k => s.remoteSays m k (fun r => { r with arrivals := r.arrivals + 1 })
  | .detach m k => s.remoteSays m k (fun r => { r with detached := true })
  | .exited m k => s.remoteSays m k (fun r => { r with exited := true })
  | .homeWrite kind dest a data bad => s.inHome bad (WinKind.dest kind dest) a (data.length + 1) data

/-- Whether a request waits at the link: one for a member of a span comes over FLUE, one for local memory also through a CXL
port. -/
def State.arrivalWaits (s : State) (r : InReq) : Bool :=
  s.linkWaits && (match r with
    | .readLocal _ _ _ | .cacheLocal _ _ | .writeLocal _ _ _ _ | .atomicLocal _ _ _ _ _ | .casLocal _ _ _ _ _ => s.dev.ports == 0
    | .readWindow _ _ _ _ | .writeWindow _ _ _ _ _ | .memberWrite _ _ _ _ _ | .arrive _ _ | .detach _ _ | .exited _ _ => true
    | .homeWrite _ _ _ _ _ => false)

/-- INBOUND_REQUEST (R335): a request with another key is refused, with no effect. -/
def execInboundRequest (r : InReq) (s : State) : Out := .next (if s.arrivalWaits r then s.hold else s.inbound r)

/-! ## Viral indications, fences, links and routes -/

/-- CXL_VIRAL_INDICATION (R415): every context of a tenant that has a fabric window through the port goes viral. -/
def execCxlViralIndication (port : Nat) (s : State) : Out :=
  let through (t : Tenant) : Bool := t.windows.any (fun w => w.control.getLsbD 7 && decide (w.control.toNat % 4 < 2)
    && w.control.toNat / 256 % 4096 == port)
  .next ((s.kiln.ctxs.filter (fun c => through (s.tenant c.2.tenant))).foldl (fun s c => s.goViral c.1) s)

/-- FENCED_RESPONSE (R422): requests have been dropped at a switch, or `refused` by their target (R335): those that an operation has
made for some lanes; where the wave does not have it, what a strand of the wave is about to fetch or to read of an object. From
192 on `core` stands for the L2 of a cluster, 216 for the MSC, and `id` for a sector whose writeback has been dropped. -/
def execFencedResponse (core wid id : Nat) (fenced : Fenced) (s : State) : Out :=
  let err : MemErr := ⟨5, if fenced.refused then 2 else 1⟩
  if 192 ≤ core then .next (s.fenceBack (core - 192) id)
  else match s.waveAt core wid with
    | none => .next s
    | some (u, w) =>
      let ag := s.agentOf w.group
      match w.ops.find? (fun o => o.id == id) with
      | some o => .next (s.endIssued fenceCut u core ag w.group o fenced.lanes err 8 false)
      | none => .next ((s.endAsk fenceCut u w ag err).getD s)

/-- LINK_REPLAY (R149, R420): a link replays from the failed flit; `again` says that this flit's replay has failed. -/
def execLinkReplay (link : Nat) (again : Bool) (s : State) : Out :=
  .next { s with dev := { s.dev with linkState := modAt s.dev.linkState link (fun l =>
    { l with replays := if again then min (l.replays + 1) 16 else 0 }) } }

/-- LINK_RETRAIN (R420): after 16 failed replays of a flit the link retrains, and after three failed retrains it is out
of service, its KINDLING bit clear. -/
def execLinkRetrain (link : Nat) (ok : Bool) (s : State) : Out :=
  match s.dev.linkState[link]? with
  | none => .next s
  | some l =>
    if l.replays < 16 ∨ l.out then .next s
    else if ok then .next { s with dev := { s.dev with linkState := modAt s.dev.linkState link (fun _ => ⟨0, 0, false⟩) } }
    else if l.retrains < 2 then
      .next { s with dev := { s.dev with linkState := modAt s.dev.linkState link (fun l => { l with retrains := l.retrains + 1 }) } }
    else .next { s with dev := { s.dev with
      linkState := modAt s.dev.linkState link (fun l => { l with retrains := 3, out := true })
      links := s.dev.links &&& ~~~(BitVec.ofNat 16 (2 ^ link)) } }

/-- The destinations that a lost route leads to: a CXL port carries the traffic of both kinds of its windows. -/
def lostDests (kind : WinKind) (dest : Nat) : List Nat :=
  match kind with
  | .peer => [WinKind.dest .peer dest]
  | _ => [WinKind.dest .host dest, WinKind.dest .hdm dest]

/-- ROUTE_LOST (R420, R421): requests in flight on the route end; where no other route exists, later ones fail too, and a
CXL port is out of service. `performed` says whether the writes and atomics in flight had been performed. -/
def execRouteLost (kind : WinKind) (dest : Nat) (other performed : Bool) (s : State) : Out :=
  let ds := lostDests kind dest
  let s1 := s.endAll (routeCut ds) ⟨7, 2⟩ 7 performed
  if other then .next s1
  else .next { s1 with dev := { s1.dev with
    lostRoutes := ds.foldl (fun l d => if l.contains d then l else d :: l) s1.dev.lostRoutes
    ports := if kind = .peer then s1.dev.ports else s1.dev.ports &&& ~~~(BitVec.ofNat 4 (2 ^ (dest % 4096))) } }

/-- EXPANDER_LOST (R424): an expander leaves the fabric. -/
def execExpanderLost (port : Nat) (s : State) : Out :=
  let d := WinKind.dest .hdm port
  .next { s with dev := { s.dev with lostPorts := if s.dev.lostPorts.contains d then s.dev.lostPorts else d :: s.dev.lostPorts } }

/-- DIRTY_SECTOR_WRITEBACK (R15, R120, R121, R424): an L2 slice evicts a sector it holds, and cluster 24 stands for the
MSC, which evicts a sector of fabric space. -/
def execDirtySectorWriteback (cluster sector : Nat) (s : State) : Out :=
  if cluster = 24 then
    match s.mem.msc[sector]? with
    | some x => .next (s.mscFlush none x.place)
    | none => .next s
  else match (s.cluster cluster).l2[sector]? with
    | some x => if x.dirty = 0 then .next s else .next (s.l2Flush cluster x.place)
    | none => .next s

end Sys2Proof.Machine
end

