-- ==== Sys2Proof/Machine/Health.lean ====
section
/-! DEFINITION. Readiness (R361, R362), functions (R321, R322), memory errors and CLINKER (R413, R418, R419, R437),
in-field scan (R10, R11, R439, R440), and the arithmetic clock (R21, R371). -/

namespace Sys2Proof.Machine

/-! ## KINDLING -/

/-- The firmware of a controller by its code (R461). -/
def Dev.firmwareOf (d : Dev) (c : Nat) : Firmware := (Tab.find d.firmware c).getD ⟨0, none, false⟩
def Dev.modFirmware (d : Dev) (c : Nat) (f : Firmware → Firmware) : Dev :=
  { d with firmware := Tab.put d.firmware c (f (d.firmwareOf c)) }

/-- SELF_TEST_PASS (R362): the function's ready bit is set. A link trains only once the device number has been set, and a
function out of service stays so. -/
def execSelfTestPass (f : Func) (s : State) : Out :=
  let d := s.dev
  let stopped (c : Nat) : Bool := (d.firmwareOf c).stopped
  .next { s with dev := match f with
    | .clus n => { d with clus := d.clus ||| BitVec.ofNat 24 (2 ^ n) }
    | .link n =>
      if d.devSet && !((d.linkState[n]?).any (·.out)) && !stopped (0x10 + n) then
        { d with links := d.links ||| BitVec.ofNat 16 (2 ^ n), trained := true }
      else d
    | .stack n =>
      if stopped (0x20 + n) || stopped (0x30 + n) then d else { d with stackBits := d.stackBits ||| BitVec.ofNat 8 (2 ^ n) }
    | .port n => { d with ports := d.ports ||| BitVec.ofNat 4 (2 ^ n)
                          lostRoutes := d.lostRoutes.filter (fun x => x != n && x != 4096 + n) }
    | .firebox => if stopped 1 then d else { d with firebox := true }
    | .kiln => if stopped 0 then d else { d with kiln := true } }

/-! ## Functions (R321, R322) -/

/-- Declaring every range of a tenant dead (R322). -/
def State.deadRanges (s : State) (fn : Nat) : State :=
  (s.tenant fn).ranges.foldl (fun s b => s.declareDead b.1 b.2) s

/-- FUNCTION_ENABLE (R321, R322): every range of the tenant is declared dead, and FIREBOX draws the tenant's key pair; while it
is being replaced that waits (R367). -/
def execFunctionEnable (fn : Nat) (s : State) : Out :=
  if s.replacing 1 then .next s.hold
  else if !s.dev.firebox ∨ 16 ≤ fn ∨ (s.tenant fn).enabled then .next s
  else .next ((s.deadRanges fn).bumpFresh.modTenant fn (fun t => { t with enabled := true, key := some (Config.drawKey s.sched.fresh) }))

/-- FUNCTION_RESET (R322, R363, R365, R443): every range of the tenant is declared dead, FIREBOX draws a new key, and the
function's registers are reset. A reset of the PF also takes the links down, forgets the device number, and lets
stopped controllers start again. -/
def execFunctionReset (fn : Nat) (s : State) : Out :=
  if s.replacing 1 then .next s.hold
  else if 16 ≤ fn then .next s
  else
    let s1 := s.deadRanges fn
    let s2 := s1.bumpFresh.modTenant fn (fun t => { t with
      enabled := false, key := some (Config.drawKey s1.sched.fresh), payload := [], cmd := 0, dseq := 0, result := 0, busy := false })
    if fn ≠ 0 then .next s2
    else .next { s2 with dev := { s2.dev with
      links := 0, devSet := false, trained := false, devid := 0, linkState := List.replicate 16 ⟨0, 0, false⟩
      firmware := s2.dev.firmware.map (fun x => (x.1, { x.2 with stopped := false })) } }

/-! ## Errors of memory -/

/-- One more, up to a maximum. -/
def satInc (m n : Nat) : Nat := min (n + 1) m

/-- The bits of a row in the filter (R418). -/
def bloomBits (row : Nat) : List Nat := (List.range 4).map (fun i => Config.bloomHash i row % 2 ^ 20)

/-- Entering a row in the repeat table, oldest entry first: a full table replaces its oldest entry of count 1. -/
def tableEnter (t : List (Nat × Nat)) (row : Nat) : List (Nat × Nat) :=
  if t.any (·.1 == row) then t.map (fun x => if x.1 = row then (x.1, x.2 + 1) else x)
  else if t.length < 512 then t ++ [(row, 1)]
  else match t.find? (·.2 == 1) with
    | some x => t.filter (· != x) ++ [(row, 1)]
    | none => t.eraseIdx (Config.repeatVictim row % t.length) ++ [(row, 1)]

/-- Logging a corrected error (R418, R419). -/
def Clinker.log (c : Clinker) (row : Nat) : Clinker :=
  let bits := bloomBits row
  if bits.all (fun b => c.bloom.contains b) then
    let c1 := { c with repeats := satInc (2 ^ 32 - 1) c.repeats, table := tableEnter c.table row }
    if c1.table.any (fun x => x.1 == row && decide (2 ≤ x.2)) then c1.retire row else c1
  else { c with first := satInc (2 ^ 32 - 1) c.first, bloom := (c.bloom ++ bits).dedup }

/-- CORRECTABLE_ERROR (R418). -/
def execCorrectableError (stack row : Nat) (s : State) : Out :=
  .next { s with dev := { s.dev with clinker := modAt s.dev.clinker stack (fun c => c.log row) } }

/-- Adding an element once. -/
def addOnce (l : List Nat) (n : Nat) : List Nat := if l.contains n then l else n :: l

/-- Poisoning half h of a sector with a code, unless it is poisoned already. -/
def poisonHalf (p : BitVec 4) (h code : Nat) : BitVec 4 :=
  if poisonAt p (64 * h) ≠ 0 then p else p + BitVec.ofNat 4 (code * 4 ^ h)

/-- UNCORRECTABLE_ERROR (R413, R419, R437): the granule in which the error arises is poisoned. -/
def execUncorrectableError (loc : PoisonLoc) (s : State) : Out :=
  .next (match loc with
  | .dram g =>
    if s.dev.populated ≤ 64 * g then s
    else
      let c := modAt s.dev.clinker (stackOf (64 * g)) (fun c => { c with uncorr := satInc (2 ^ 32 - 1) c.uncorr })
      { s with mem := { s.mem with poison := addOnce s.mem.poison g, bad := addOnce s.mem.bad g }
               dev := { s.dev with clinker := c } }
  | .home kind dest g =>
    let x := (homeKey (WinKind.dest kind dest), g)
    { s with mem := { s.mem with homePoison := if s.mem.homePoison.contains x then s.mem.homePoison else x :: s.mem.homePoison } }
  | .msc g => if s.dev.populated ≤ 64 * g then s
    else { s with mem := { s.mem with poison := addOnce s.mem.poison g
                                      sram := if s.mem.poison.contains g then s.mem.sram else addOnce s.mem.sram g } }
  | .mscLine g => { s with mem := { s.mem with msc := modAt s.mem.msc (g / 2) (fun x => { x with poison := poisonHalf x.poison (g % 2) 2 }) } }
  | .remote ctx key m g => s.modRemote (spanIdOf ctx key) m (fun r =>
    if 64 * g < r.spadu * 16384 then { r with poison := addOnce r.poison g } else r)
  | .l2 cl g => s.modCluster cl (fun c => { c with l2 := modAt c.l2 (g / 2) (fun x => { x with poison := poisonHalf x.poison (g % 2) 2 }) })
  | .spad g i => if 64 * i < s.spadSize g then s.modGroup g (fun x => { x with spadPoison := addOnce x.spadPoison i }) else s
  | .vreg core wid r hi => match s.waveAt core wid with
    | some (u, w) => if r < w.alloc then s.modWave u (fun w => { w with task := { w.task with
        poison := addOnce w.task.poison (2 * r + (if hi then 1 else 0)) } }) else s
    | none => s
  | .tile g i => s.modGroup g (fun x => { x with tilePoison := addOnce x.tilePoison i })
  | .slot core n g => s.modCore core (fun c => { c with slots := modAt c.slots n (fun x =>
      if x.loaded then { x with poison := addOnce x.poison g } else x) }))

/-- CLINKER_CLEAR (R418): KILN clears every filter and repeat table every 2^46 ticks. -/
def execClinkerClear (s : State) : Out :=
  if s.dev.lastClear + 2 ^ 46 ≤ s.dev.tick ∧ s.kilnUp then
    .next { s with dev := { s.dev with lastClear := s.dev.tick
                                       clinker := s.dev.clinker.map (fun c => { c with bloom := [], table := [] }) } }
  else .next s

/-! ## In-field scan -/

/-- Whether KILN may scan a core: ready, in service, with nothing resident, reserved or running there. -/
def State.scannable (s : State) (k : Nat) : Bool :=
  decide (k < 192) && s.dev.clus.getLsbD (k / 8) && !s.dev.outOfService.contains k && (s.coreUse k).isEmpty
    && (s.core k).scanning.isNone

/-- SCAN_RUN (R314, R439): KILN starts a queued scan on the core it names, or on one of KILN's choice. -/
def execScanRun (handle core : Nat) (s : State) : Out :=
  match Tab.find s.kiln.scans handle with
  | none => .next s
  | some x =>
    if !s.kilnUp || !(x.status == 0 || x.status == 4) || !((x.core.map (fun k => k == core)).getD true) || !s.scannable core then
      .next s
    else .next { (s.modCore core (fun c => { c with scanning := some handle })) with
      kiln := { s.kiln with scans := Tab.modify s.kiln.scans handle (fun x => { x with status := 1 }) } }

/-- A core fails its scan: it is removed, and a spare takes its number while one remains (R10, R11, R439, R440). -/
def Dev.removeCore (d : Dev) (k : Nat) : Dev :=
  let d1 := { d with removed := satInc 255 d.removed }
  if d.spares = 0 then { d1 with outOfService := addOnce d1.outOfService k }
  else { d1 with spares := d.spares - 1, physical := modAt d.physical k (fun _ => 200 - d.spares) }

/-- SCAN_COMPLETE (R439): the scan leaves no state on the core. -/
def execScanComplete (handle : Nat) (pass : Bool) (s : State) : Out :=
  match s.cores.find? (fun c => c.2.scanning == some handle) with
  | none => .next s
  | some (k, c) =>
    let s1 := s.setCore k { Core.reset with clockBase := c.clockBase }
    let s2 := { s1 with kiln := { s1.kiln with scans := Tab.modify s1.kiln.scans handle (fun x =>
      { x with status := if pass then 2 else 3 }) } }
    .next (if pass then s2 else { s2 with dev := s2.dev.removeCore k })

/-! ## The arithmetic clock -/

/-- The nominal clock of a fitting in MHz (R21). -/
def Fitting.nominal : Fitting → Nat
  | .h900 => 3300
  | .l900 => 2400

/-- CLOCK_ADJUST (R371): power management moves the clock by a step of 100 MHz, from 1.2 GHz up to nominal. -/
def execClockAdjust (mhz : Nat) (s : State) : Out :=
  if 1200 ≤ mhz ∧ mhz ≤ s.dev.fitting.nominal ∧ (mhz = s.dev.mhz + 100 ∨ mhz + 100 = s.dev.mhz) then
    .next { s with dev := { s.dev with mhz := mhz } }
  else .next s

end Sys2Proof.Machine
end

