-- ==== Sys2Proof/Machine/Mailbox.lean ====
section
/-! DEFINITION. The mailbox of a function (R363, R364, R441, R451, R461) and its commands but those for firmware: contexts
(R317, R319), host queues (R61, R444), kernels (R329), windows (R323, R324), format regions (R117, R427), dead ranges
(R124), tenant policy (R318), the debugger's (R310, R436), sessions (R331), local ranges (R320), the device number and
kernel keys (R365). -/

namespace Sys2Proof.Machine

/-! ## Running a command -/

/-- A field of a function's payload. -/
def Tenant.pay (t : Tenant) (off n : Nat) : Nat := leNat (t.payload.bytes off n)

/-- Whether every payload byte outside a command's fields is 0 (R461). -/
def Tenant.clean (t : Tenant) (fields : List (Nat × Nat)) : Bool :=
  t.payload.all (fun x => fields.any (fun f : Nat × Nat => decide (f.1 ≤ x.1) && decide (x.1 < f.1 + f.2)))

/-- Whether a controller is held stopped (R443). -/
def State.stopped (s : State) (c : Nat) : Bool := (s.dev.firmwareOf c).stopped

/-- The codes of the firmware commands (R364). -/
def firmwareCode (code : Nat) : Bool := code == 0x10 || code == 0x11

/-- Starting a command, by a write to MBCMD: none where the write is ignored, as it is while BUSY is 1, before KILN is ready, and
for a firmware command before FIREBOX is (R362, R363). -/
def State.mbStart (s : State) (fn code seq : Nat) : Option State :=
  let word : W32 := BitVec.ofNat 32 (code + 256 * seq)
  if 16 ≤ fn ∨ (s.tenant fn).busy then none
  else if !(s.dev.kiln || s.stopped 0) || (firmwareCode code && !(s.dev.firebox || s.stopped 1)) then none
  else some (s.modTenant fn (fun t => { t with busy := true, cmd := word }))

/-- Completing a command: results, DSEQ and RESULT, BUSY clear. -/
def State.mbDone (s : State) (fn seq result : Nat) (out : List Byte) : State :=
  s.modTenant fn (fun t => { t with payload := t.payload.setBytes 0x80 out, dseq := seq, result := result, busy := false })

/-- A mailbox command: whether the PF alone may give it, the controllers it needs, its payload fields, and its effect: a
RESULT other than 0, or the state with the results, or with none while the command stays BUSY. -/
structure Cmd where
  pf : Bool
  needs : List Nat
  fields : List (Nat × Nat)
  body : State → Tenant → Except Nat (State × Option (List Byte))

/-- Carrying out the command that is in progress; it waits while a controller it needs is being replaced (R367). That one which needs
FIREBOX waits until FIREBOX is ready is not stated. DESIGN CHOICE (log 129). -/
def State.carry (s : State) (fn seq : Nat) (c : Cmd) : State :=
  if c.needs.any s.stopped then s.mbDone fn seq 7 []
  else if c.needs.any s.replacing || (c.needs.contains 1 && !s.dev.firebox) then s
  else if c.pf && fn != 0 then s.mbDone fn seq 2 []
  else if !(s.tenant fn).clean c.fields then s.mbDone fn seq 1 []
  else match c.body s (s.tenant fn) with
    | .error r => s.mbDone fn seq r []
    | .ok (s1, none) => s1
    | .ok (s1, some out) => s1.mbDone fn seq 0 out

/-- A write of a command's code and sequence to MBCMD. -/
def State.command (s : State) (fn code : Nat) (seq : Byte) (c : Cmd) : State :=
  match s.mbStart fn code seq.toNat with
  | none => s
  | some s1 => s1.carry fn seq.toNat c

/-- A context of the tenant (R364); another is not permitted. -/
def State.ownCtx (s : State) (fn ctx : Nat) : Except Nat Ctx :=
  match s.ctx ctx with
  | some c => if c.tenant = fn then .ok c else .error 2
  | none => .error 2

/-- RESULT 1 unless a condition holds. -/
def need (b : Bool) : Except Nat Unit := if b then .ok () else .error 1

/-! ## Contexts -/

/-- The lowest address-space identifier that no live context has (R109). -/
def State.freeAsid (s : State) : Nat :=
  ((List.range 65).find? (fun a => a != 0 && !s.kiln.ctxs.any (fun c => c.2.asid == a))).getD 0

/-- Removing the lines and translations of an address-space identifier, before it is used again (R109). -/
def State.purgeAsid (s : State) (a : Nat) : State :=
  let p (x : VSector) : Bool := x.asid != a
  { s with
    cores := s.cores.map (fun c => (c.1, { c.2 with l1 := c.2.l1.filter p, cc := c.2.cc.filter p, ic := c.2.ic.filter p }))
    clusters := s.clusters.map (fun c => (c.1, { c.2 with tlb := c.2.tlb.filter (fun x => x.asid != a) })) }

/-- CREATE_CONTEXT (R105, R109, R317, R318, R319): KILN takes the lowest free context number. -/
def cmdCreateContext (fn : Nat) : Cmd :=
  ⟨false, [0], [(0, 0x34), (0x80, 4)], fun s t => do
    let root := t.pay 0 8
    let tb := t.pay 8 8
    let arena := (t.pay 0x10 8, t.pay 0x18 8)
    let save := (t.pay 0x20 8, t.pay 0x28 8)
    let flag := t.pay 0x30 4
    need (flag < 2 && root % 65536 == 0 && inBlocks t.ranges root 65536 && codeAddrOk tb
      && arena.1 % 65536 == 0 && arena.2 % 65536 == 0 && arena.2 != 0 && decide (arena.1 + arena.2 ≤ 2 ^ 56)
      && save.1 % 2 ^ 21 == 0 && save.2 % 2 ^ 21 == 0 && save.2 != 0 && inBlocks t.ranges save.1 save.2)
    if flag = 1 ∧ !t.policy.getLsbD 2 then .error 2
    else if t.policy.toNat / 65536 % 128 ≤ (s.kiln.ctxs.filter (fun c => c.2.tenant == fn)).length then .error 3
    else match (List.range 64).find? (fun n => (s.ctx n).isNone) with
      | none => .error 3
      | some n =>
        let a := s.freeAsid
        let c : Ctx := { tenant := fn, asid := a, tableRoot := root, trapbase := tb, arena := arena, arenaTaken := []
                         reserve := save, reserveTaken := [], mgmt := flag == 1, cap := t.policy.getLsbD 0
                         strict := t.policy.getLsbD 1, att := false, viral := false, queues := [], segments := [] }
        let s1 := s.purgeAsid a
        .ok ({ s1 with kiln := { s1.kiln with ctxs := Tab.put s1.kiln.ctxs n c } }, some (leBytes n 4))⟩

def execCreateContext (fn : Nat) (seq : Byte) (s : State) : Out := .next (s.command fn 0x01 seq (cmdCreateContext fn))

/-- A context is gone: its sessions close, its segments leave the quota, and its parked tasks are forgotten (R331,
R434). -/
def State.dropCtx (s : State) (n : Nat) (c : Ctx) : State :=
  let size := c.segments.foldl (fun x b => x + b.2) 0
  { (s.modTenant c.tenant (fun t => { t with quotaUsed := t.quotaUsed - size })) with
    kiln := { (s.modTenant c.tenant (fun t => { t with quotaUsed := t.quotaUsed - size })).kiln with
      ctxs := Tab.drop s.kiln.ctxs n
      sessions := s.kiln.sessions.filter (fun x => x.2.ctx != n)
      parked := s.kiln.parked.filter (fun x => x.ctx != n)
      heldPushes := s.kiln.heldPushes.filter (fun x => x.ctx != n) } }

/-- DESTROY_CONTEXT (R364): it waits, with BUSY set, until no launch of the context is live. -/
def cmdDestroyContext (fn : Nat) : Cmd :=
  ⟨false, [0], [(0, 4)], fun s t => do
    let n := t.pay 0 4
    let c ← s.ownCtx fn n
    if s.kiln.launches.any (fun l => l.2.record.ctx == n) then .ok (s, none) else .ok (s.dropCtx n c, some [])⟩

def execDestroyContext (fn : Nat) (seq : Byte) (s : State) : Out := .next (s.command fn 0x02 seq (cmdDestroyContext fn))

/-! ## Host queues -/

/-- The checks of the header of a ring: its base is aligned and not 0, its log2 from 4 to 16, reserved fields 0 (R61, R331, R451). -/
def ringOk (bs : List Byte) : Bool :=
  let ring := fieldAt bs 0 8
  let lg := fieldAt bs 0x18 4
  ring != 0 && ring % 64 == 0 && decide (ring < 2 ^ 56) && decide (4 ≤ lg) && decide (lg ≤ 16) && fieldAt bs 0x1C 4 / 2 == 0
    && fieldAt bs 0x20 32 == 0

/-- REGISTER_HOST_QUEUE (R61, R444, R451): OVER is cleared, and reading starts at the header's read index. -/
def cmdRegisterHostQueue (fn : Nat) : Cmd :=
  ⟨false, [0], [(0, 16)], fun s t => do
    let n := t.pay 0 4
    let q := t.pay 4 4
    let hdr := t.pay 8 8
    let _ ← s.ownCtx fn n
    need (q < 8 && hdr % 64 == 0 && decide (hdr < 2 ^ 56))
    match s.obj (s.agentFor n) .sys hdr 64 with
    | .error _ => .error 1
    | .ok (s1, bs) =>
      let ring := fieldAt bs 0 8
      let lg := fieldAt bs 0x18 4
      need (ringOk bs)
      let rd := fieldAt bs 0x10 8
      let x : HostQueue := { header := hdr, ring := ring, log2 := lg, read := rd, write := rd, overrun := false, rung := false }
      let s2 := s1.modCtx n (fun c => { c with queues := Tab.put c.queues q x })
      .ok (s2.kilnWrite n .sys (hdr + 0x1C) (leBytes 0 4), some [])⟩

def execRegisterHostQueue (fn : Nat) (seq : Byte) (s : State) : Out := .next (s.command fn 0x03 seq (cmdRegisterHostQueue fn))

/-- UNREGISTER_HOST_QUEUE (R364): the records already read run on. -/
def cmdUnregisterHostQueue (fn : Nat) : Cmd :=
  ⟨false, [0], [(0, 8)], fun s t => do
    let n := t.pay 0 4
    let q := t.pay 4 4
    let _ ← s.ownCtx fn n
    need (q < 8)
    .ok (s.modCtx n (fun c => { c with queues := Tab.drop c.queues q }), some [])⟩

def execUnregisterHostQueue (fn : Nat) (seq : Byte) (s : State) : Out := .next (s.command fn 0x04 seq (cmdUnregisterHostQueue fn))

/-! ## Kernels -/

/-- Where the next image goes in a tenant's registry window: after the last, aligned to 64 bytes. -/
def nextImage (ks : List Kernel) : Nat :=
  (ks.foldl (fun a k => max a (k.va + k.image.length)) registryBase + 63) / 64 * 64

/-- Whether every stack that bytes of local memory stand in is ready; 16 pages in a row stand in all eight (R17, R362). What
an image that cannot be read does is open: its verification fails, and a key's payload is malformed. DESIGN CHOICE (log 112). -/
def State.readable (s : State) (a n : Nat) : Bool :=
  (List.range (min 16 ((a + n + 4095) / 4096 - a / 4096))).all (fun i => s.dev.stackBits.getLsbD (stackOf (a + 4096 * i)))

/-- REGISTER_KERNEL (R329, R365): digest and signature are verified, and the image is copied. -/
def cmdRegisterKernel (fn : Nat) : Cmd :=
  ⟨false, [0, 1], [(0, 0x58), (0x80, 8)], fun s t => do
    let a := t.pay 0 8
    let n := t.pay 8 8
    let digest := BitVec.ofNat 512 (t.pay 0x10 64)
    let sig := t.pay 0x50 8
    need (decide (36 ≤ n) && inBlocks t.ranges a n && inBlocks t.ranges sig 4627)
    let va := nextImage t.kernels
    if 256 ≤ t.kernels.length ∨ registryBase + 2 ^ 31 < va + n then .error 3
    else if s.rangeWaits a n || s.rangeWaits sig 4627 then .ok (s.hold, none)
    else if !(s.readable a n && s.readable sig 4627) then .error 4
    else
      let img := s.mem.loc.bytes a n
      let d := Config.sha3 img
      if d ≠ digest ∨ !t.signKeys.any (fun k => Config.verify k.2 d (s.mem.loc.bytes sig 4627)) then .error 4
      else .ok (s.modTenant fn (fun t => { t with kernels := t.kernels ++ [⟨d, va, img⟩] }), some (leBytes (va + 32) 8))⟩

def execRegisterKernel (fn : Nat) (seq : Byte) (s : State) : Out := .next (s.command fn 0x05 seq (cmdRegisterKernel fn))

/-- ENROL_OR_REMOVE_KERNEL_KEY (R365). -/
def cmdEnrolOrRemoveKernelKey : Cmd :=
  ⟨true, [0, 1], [(0, 0x14)], fun s t => do
    let n := t.pay 0 4
    let slot := t.pay 4 4
    let a := t.pay 8 8
    let flag := t.pay 0x10 4
    need (n < 16 && slot < 4 && flag < 2)
    if flag = 0 then .ok (s.modTenant n (fun x => { x with signKeys := Tab.drop x.signKeys slot }), some [])
    else do
      need (inBlocks t.ranges a 2592 && s.readable a 2592)
      if s.rangeWaits a 2592 then .ok (s.hold, none)
      else .ok (s.modTenant n (fun x => { x with signKeys := Tab.put x.signKeys slot (s.mem.loc.bytes a 2592) }), some [])⟩

def execEnrolOrRemoveKernelKey (fn : Nat) (seq : Byte) (s : State) : Out := .next (s.command fn 0x16 seq cmdEnrolOrRemoveKernelKey)

/-! ## Windows and regions -/

/-- The read-only bits of a window, from the capabilities of its path (R324). -/
def windowCaps (f : Fitting) (kind dest : Nat) : Nat :=
  let p := Config.path kind dest
  let io : Nat := if p % 4 = 1 then 0 else if p % 4 = 2 then 8 + 32 else 4 + 8 + 16 + 32
  match kind with
  | 0 => if f = .h900 ∧ p % 4 = 0 then 64 + 32 + 16 else if p % 4 = 0 then 0 else io
  | 1 => if p % 2 = 0 then 64 + 32 + 16 else 64 + 32 + 16 + 8 + 4
  | _ => 32 + 16

/-- The checks of a window's descriptor (R323, R451). -/
def windowDescOk (ws : List Window) (w base size target ctl : Nat) : Bool :=
  ctl / 2 ^ 20 == 0 && ctl % 4 != 3 && (ctl / 128 % 2 == 0
    || (base != 0 && base % 2 ^ 21 == 0 && size % 2 ^ 21 == 0 && size != 0 && target % 2 ^ 21 == 0 && decide (base < 2 ^ 44)
      && (ctl % 4 == 2 || decide (ctl / 256 % 4096 < 4))
      && (ws.zipIdx).all (fun y => y.2 == w || !y.1.control.getLsbD 7 || !blocksMeet (base, size) (y.1.base, y.1.size))))

/-- WRITE_FABRIC_WINDOW (R323, R324). What becomes of cached lines of a window that is written anew is not stated: they keep the
destination and the target that they were fetched with, so that accesses through the window no longer hit them, and their dirty bytes
go to the old target. DESIGN CHOICE (log 147). -/
def cmdWriteFabricWindow : Cmd :=
  ⟨true, [0], [(0, 0x28)], fun s t => do
    let n := t.pay 0 4
    let w := t.pay 4 4
    let base := t.pay 8 8
    let size := t.pay 0x10 8
    let target := t.pay 0x18 8
    let ctl := t.pay 0x20 4
    need (n < 16 && w < 32 && t.pay 0x24 4 == 0 && windowDescOk (s.tenant n).windows w base size target ctl)
    let bits := BitVec.ofNat 32 (ctl / 128 * 128 + ctl % 4 + windowCaps s.dev.fitting (ctl % 4) (ctl / 256 % 4096))
    .ok (s.modTenant n (fun x => { x with windows := modAt x.windows w (fun _ => ⟨base, size, target, bits⟩) }), some [])⟩

def execWriteFabricWindow (fn : Nat) (seq : Byte) (s : State) : Out := .next (s.command fn 0x06 seq cmdWriteFabricWindow)

/-- Writing back and invalidating every GLAZE line of a tenant's region (R427). -/
def State.flushAlias (s : State) (t k : Nat) : State :=
  let mine (p : Place) : Bool := match p with | .inAlias u a => u == t && a / 2 ^ 40 % 16 == k | _ => false
  let s1 := (Tab.keys s.clusters).foldl (fun s c =>
    (s.l2Places c (fun x => mine x.place)).foldl (fun s p => s.l2Flush c p) s) s
  let keep (x : VSector) : Bool := !mine x.place
  { s1 with cores := s1.cores.map (fun c => (c.1, { c.2 with l1 := c.2.l1.filter keep, cc := c.2.cc.filter keep })) }

/-- WRITE_FORMAT_REGION (R117, R427, R451). -/
def cmdWriteFormatRegion (fn : Nat) : Cmd :=
  ⟨false, [0], [(0, 4), (8, 32)], fun s t => do
    let k := t.pay 0 4
    let base := t.pay 8 8
    let size := t.pay 0x10 4
    let ctl := t.pay 0x14 4
    need (k < 16 && t.pay 0x20 8 == 0 && ctl / 2 ^ 13 == 0 && ctl / 32 % 4 == 0 && ctl / 512 % 4 < 2 && ctl / 128 % 4 == 0
      && ctl % 32 == 14 && (ctl / 4096 % 2 == 0 || (base != 0 && base % 2 ^ 21 == 0 && decide (base < 2 ^ 44) && size != 0
        && decide (size ≤ 65536) && inBlocks t.ranges base (size * 2 ^ 21))))
    .ok ((s.flushAlias fn k).modTenant fn (fun x => { x with regions := modAt x.regions k (fun _ =>
      ⟨base, size, BitVec.ofNat 32 ctl, BitVec.ofNat 64 (t.pay 0x18 8)⟩) }), some [])⟩

def execWriteFormatRegion (fn : Nat) (seq : Byte) (s : State) : Out := .next (s.command fn 0x07 seq (cmdWriteFormatRegion fn))

/-! ## Ranges, policy and the device number -/

/-- A range of whole 2 MiB pieces. -/
def rangeOk (base size : Nat) : Bool := base % 2 ^ 21 == 0 && size % 2 ^ 21 == 0 && size != 0

/-- DECLARE_DEAD_OR_LIVE (R124, R455). -/
def cmdDeclareDeadOrLive : Cmd :=
  ⟨true, [0], [(0, 0x14)], fun s t => do
    let base := t.pay 0 8
    let size := t.pay 8 8
    let flag := t.pay 0x10 4
    need (flag < 2 && rangeOk base size && decide (base + size ≤ s.dev.populated))
    .ok (if flag = 1 then s.declareDead base size
      else { s with mem := { s.mem with dead := s.mem.dead.filter (fun b => !blocksMeet b (base, size)) } }, some [])⟩

def execDeclareDeadOrLive (fn : Nat) (seq : Byte) (s : State) : Out := .next (s.command fn 0x08 seq cmdDeclareDeadOrLive)

/-- WRITE_TENANT_POLICY (R318): MGMT is writable for tenant 0 only. -/
def cmdWriteTenantPolicy : Cmd :=
  ⟨true, [0], [(0, 8)], fun s t => do
    let n := t.pay 0 4
    let v := t.pay 4 4
    need (n < 16 && v / 2 ^ 23 == 0 && v / 8 % 2 ^ 13 == 0 && decide (v / 65536 % 128 ≤ 64))
    let v := if n = 0 then v else v - v / 4 % 2 * 4
    .ok (s.modTenant n (fun x => { x with policy := BitVec.ofNat 32 v }), some [])⟩

def execWriteTenantPolicy (fn : Nat) (seq : Byte) (s : State) : Out := .next (s.command fn 0x09 seq cmdWriteTenantPolicy)

/-- ASSIGN_OR_REMOVE_LOCAL_RANGE (R320): a removed range is declared dead. -/
def cmdAssignOrRemoveLocalRange : Cmd :=
  ⟨true, [0], [(0, 0x18)], fun s t => do
    let n := t.pay 0 4
    let flag := t.pay 4 4
    let base := t.pay 8 8
    let size := t.pay 0x10 8
    let x := s.tenant n
    need (n < 16 && flag < 2 && rangeOk base size)
    if flag = 1 then do
      need (decide (x.ranges.length < x.extents.length + 64)
        && !s.kiln.tenants.any (fun y => y.2.ranges.any (blocksMeet (base, size))))
      .ok (s.modTenant n (fun x => { x with ranges := x.ranges ++ [(base, size)] }), some [])
    else do
      need (x.ranges.contains (base, size) && !x.extents.contains (base, size))
      .ok ((s.declareDead base size).modTenant n (fun x => { x with ranges := x.ranges.filter (· != (base, size)) }), some [])⟩

def execAssignOrRemoveLocalRange (fn : Nat) (seq : Byte) (s : State) : Out := .next (s.command fn 0x14 seq cmdAssignOrRemoveLocalRange)

/-- SET_DEVICE_NUMBER (R362, R365): only while no link is ready or has trained since the reset, and no context exists. -/
def cmdSetDeviceNumber : Cmd :=
  ⟨true, [0], [(0, 4)], fun s t => do
    let n := t.pay 0 4
    need (n < 4096)
    if s.dev.links ≠ 0 ∨ s.dev.trained ∨ !s.kiln.ctxs.isEmpty then .error 5
    else .ok ({ s with dev := { s.dev with devid := n, devSet := true } }, some [])⟩

def execSetDeviceNumber (fn : Nat) (seq : Byte) (s : State) : Out := .next (s.command fn 0x15 seq cmdSetDeviceNumber)

/-! ## The debugger (R310, R436) -/

/-- ATTACH_OR_DETACH_DEBUGGER: with the debugger go the CLSTEP and BRKSTOP that it has set. DEDUCED (log 113). -/
def cmdAttachOrDetachDebugger (fn : Nat) : Cmd :=
  ⟨false, [0], [(0, 8)], fun s t => do
    let n := t.pay 0 4
    let flag := t.pay 4 4
    let _ ← s.ownCtx fn n
    need (flag < 2)
    let s1 := s.modCtx n (fun c => { c with att := flag == 1 })
    if flag = 1 then .ok (s1, some [])
    else .ok (((Tab.keys s.kiln.waves).filter (fun u => ((s.wave u).map (fun w => s.ctxNo w.group)) == some n)).foldl
      (fun s u => s.modWave u (fun w => { w with clstep := false, brkstop := false })) s1, some [])⟩

def execAttachOrDetachDebugger (fn : Nat) (seq : Byte) (s : State) : Out := .next (s.command fn 0x0A seq (cmdAttachOrDetachDebugger fn))

/-- The wave that a payload names by context, launch tag, group and wave index. -/
def State.namedWave (s : State) (t : Tenant) : Option (Nat × Wave) :=
  match s.launchTag (t.pay 0 4) (t.pay 4 4) with
  | none => none
  | some l => (s.kiln.groups.find? (fun g => g.2.launch == l && g.2.number == t.pay 8 4)).bind (fun g =>
      (s.wavesOf g.1).find? (fun w => w.2.idx == t.pay 12 4))

/-- READ_DBGCTL. -/
def cmdReadDbgctl (fn : Nat) : Cmd :=
  ⟨false, [0], [(0, 16), (0x80, 4)], fun s t => do
    let c ← s.ownCtx fn (t.pay 0 4)
    match s.namedWave t with
    | none => .error 1
    | some (_, w) => .ok (s, some (leBytes (w.dbgctl c.att) 4))⟩

def execReadDbgctl (fn : Nat) (seq : Byte) (s : State) : Out := .next (s.command fn 0x0B seq (cmdReadDbgctl fn))

/-- WRITE_DBGCTL: CLSTEP and BRKSTOP, and a 0 written to HALTED lets the wave issue again. -/
def cmdWriteDbgctl (fn : Nat) : Cmd :=
  ⟨false, [0], [(0, 20)], fun s t => do
    let c ← s.ownCtx fn (t.pay 0 4)
    let v := t.pay 0x10 4
    need (v / 16 == 0)
    match s.namedWave t with
    | none => .error 1
    | some (u, _) =>
      let s1 := s.modWave u (fun w => { w with
        clstep := c.att && v / 2 % 2 == 1, brkstop := c.att && v % 2 == 1, halted := w.halted && v / 4 % 2 == 1 })
      .ok ((s1.wake u).pollAsync u, some [])⟩

def execWriteDbgctl (fn : Nat) (seq : Byte) (s : State) : Out := .next (s.command fn 0x0C seq (cmdWriteDbgctl fn))

/-! ## Sessions (R331) -/

/-- OPEN_SESSION: 900-L only. -/
def cmdOpenSession (fn : Nat) : Cmd :=
  ⟨false, [0], [(0, 16)], fun s t => do
    let n := t.pay 0 4
    let ctx := t.pay 4 4
    let hdr := t.pay 8 8
    need (s.dev.fitting == .l900 && n < 64 && (s.session n).isNone && (match s.ownCtx fn ctx with | .ok _ => true | .error _ => false)
      && hdr % 64 == 0 && decide (hdr < 2 ^ 56))
    let ag := s.agentFor ctx
    let phys (a : Nat) : Option Nat := match s.translate ag a .read with | .ok (.loc p, _) => some p | _ => none
    match s.obj ag .ten hdr 64, phys hdr with
    | .ok (s1, bs), some p =>
      let ring := fieldAt bs 0 8
      let lg := fieldAt bs 0x18 4
      need (ringOk bs)
      let pages := (List.range ((ring % 4096 + 256 * 2 ^ lg + 4095) / 4096)).map (fun i => if i = 0 then ring else ring / 4096 * 4096 + 4096 * i)
      match t.extents.find? (fun b => inBlocks [b] p 64 && pages.all (fun a => (phys a).any (fun r => inBlocks [b] r 1))) with
      | none => .error 1
      | some b =>
        let rd := fieldAt bs 0x10 8
        let x : Session := { tenant := fn, ctx := ctx, header := hdr, ring := ring, log2 := lg, read := rd, write := rd
                             overrun := false, seq := 0, key := none, extent := b.1 }
        let s2 := { s1 with kiln := { s1.kiln with sessions := Tab.put s1.kiln.sessions n x } }
        .ok (s2.kilnWrite ctx .ten (hdr + 0x1C) (leBytes 0 4), some [])
    | _, _ => .error 1⟩

def execOpenSession (fn : Nat) (seq : Byte) (s : State) : Out := .next (s.command fn 0x12 seq (cmdOpenSession fn))

/-- CLOSE_SESSION: 900-L only. -/
def cmdCloseSession (fn : Nat) : Cmd :=
  ⟨false, [0], [(0, 4)], fun s t => do
    let n := t.pay 0 4
    need (s.dev.fitting == .l900)
    match s.session n with
    | none => .error 1
    | some x => if x.tenant = fn then .ok (s.dropSession n, some []) else .error 2⟩

def execCloseSession (fn : Nat) (seq : Byte) (s : State) : Out := .next (s.command fn 0x13 seq (cmdCloseSession fn))

/-! ## Reserved codes and registers -/

/-- The command codes of R364. -/
def commandCodes : List Nat :=
  [0x01, 0x02, 0x03, 0x04, 0x05, 0x06, 0x07, 0x08, 0x09, 0x0A, 0x0B, 0x0C, 0x10, 0x11, 0x12, 0x13, 0x14, 0x15, 0x16]

/-- What a reserved code does, whatever the payload. -/
def cmdReserved : Cmd := ⟨false, [0], [(0, 0x100)], fun _ _ => .error 1⟩

/-- MAILBOX_RESERVED_COMMAND (R441): RESULT 1. -/
def execMailboxReservedCommand (fn : Nat) (code seq : Byte) (s : State) : Out :=
  if commandCodes.contains code.toNat then .next s
  else .next (s.command fn code.toNat seq cmdReserved)

/-- The power limit in force (R371). -/
def Dev.limitInForce (d : Dev) : Nat := max 400 (min d.limit (match d.fitting with | .h900 => 1500 | .l900 => 800))

/-- What a host read of a BAR 0 register of a function gives (R361, R363, R371, R419, R440); none where the function has
no register that is read. A read changes nothing, so no step stands for one. -/
def State.registerRead (s : State) (fn off : Nat) : Option W32 :=
  if 16 ≤ fn ∨ off % 4 ≠ 0 then none
  else
    let t := s.tenant fn
    let d := s.dev
    let n (b : Bool) : Nat := if b then 1 else 0
    let w (x : Nat) : Option W32 := some (BitVec.ofNat 32 x)
    if off = 0x0 then w d.clus.toNat
    else if off = 0x4 then
      w (d.links.toNat * 2 ^ 16 + d.stackBits.toNat * 2 ^ 8 + d.ports.toNat * 2 ^ 4 + n d.firebox * 2 + n d.kiln)
    else if off = 0x20 then some t.cmd
    else if off = 0x28 then w (t.dseq % 256 * 2 ^ 8 + t.result % 128 * 2 + n t.busy)
    else if 0x100 ≤ off ∧ off < 0x200 then w (t.pay (off - 0x100) 4)
    else if fn ≠ 0 then none
    else if off = 0x40 then w d.limit
    else if 0x200 ≤ off ∧ off < 0x280 then
      (d.clinker[(off - 0x200) / 16]?).map (fun c => BitVec.ofNat 32 (match off % 16 with
        | 0 => c.first
        | 4 => c.repeats
        | 8 => c.spare * 2 ^ 16 + c.retired
        | _ => c.uncorr))
    else if off = 0x300 then w (min d.removed 255 * 2 ^ 8 + d.spares)
    else if 0x304 ≤ off ∧ off < 0x31C then
      w ((List.range 32).foldl (fun m i => m + n (d.outOfService.contains (8 * (off - 0x304) + i)) * 2 ^ i) 0)
    else none

/-- REGISTER_WRITE (R363, R371): the payload, and on the PF the power limit. The other registers are read-only, or are
written by steps of their own. -/
def execRegisterWrite (fn offset : Nat) (value : W32) (s : State) : Out :=
  if 16 ≤ fn ∨ offset % 4 ≠ 0 then .next s
  else if 0x100 ≤ offset ∧ offset < 0x200 then
    .next (s.modTenant fn (fun t => { t with payload := t.payload.setBytes (offset - 0x100) (leBytes value.toNat 4) }))
  else if fn = 0 ∧ offset = 0x40 then .next { s with dev := { s.dev with limit := value.toNat % 4096 } }
  else .next s

end Sys2Proof.Machine
end

