-- ==== Sys2Proof/Machine/Firmware.lean ====
section
/-! DEFINITION. Live firmware replacement (R367 to R370, R442, R443): staging, activation, safe point, CONE and its
deadline. -/

namespace Sys2Proof.Machine

/-- The controller codes (R461). -/
def controllerOk (c : Nat) : Bool := decide (c < 2) || (decide (0x10 ≤ c) && decide (c < 0x28)) || (decide (0x30 ≤ c) && decide (c < 0x38))

/-- STAGE_FIRMWARE (R367): FIREBOX verifies an image in PF local memory and keeps it. -/
def cmdStageFirmware : Cmd :=
  ⟨true, [0, 1], [(0, 4), (8, 16)], fun s t => do
    let c := t.pay 0 4
    let a := t.pay 8 8
    let n := t.pay 0x10 8
    need (controllerOk c && n != 0 && inBlocks t.ranges a n)
    if s.rangeWaits a n then .ok (s.hold, none)
    else match (if s.readable a n then Config.firmware c (s.mem.loc.bytes a n) else none) with
    | none => .error 4
    | some v => .ok ({ s with dev := s.dev.modFirmware c (fun x => { x with staged := some v }) }, some [])⟩

def execStageFirmware (fn : Nat) (seq : Byte) (s : State) : Out := .next (s.command fn 0x10 seq cmdStageFirmware)

/-- ACTIVATE_FIRMWARE (R367, R441): at most one activation is in progress; the command stays BUSY until CONE. -/
def cmdActivateFirmware (fn : Nat) : Cmd :=
  ⟨true, [0, 1], [(0, 4), (0x80, 8)], fun s t => do
    let c := t.pay 0 4
    need (controllerOk c)
    if s.stopped c then .error 7
    else if s.dev.activation.isSome ∨ (s.dev.firmwareOf c).staged.isNone then .error 5
    else .ok ({ s with dev := { s.dev with
      activation := some ⟨c, fn, t.cmd.toNat / 256 % 256, none, false, none⟩ } }, none)⟩

def execActivateFirmware (fn : Nat) (seq : Byte) (s : State) : Out := .next (s.command fn 0x11 seq (cmdActivateFirmware fn))

/-- 50 ms of `%tick`. -/
def coneTicks : Nat := 50000000

/-- A state of a launch and of a gang as a number, in the order of R63 and R65. -/
def LState.code : LState → Nat
  | .blocked => 0
  | .ready => 1
  | .running => 2
  | .completing => 3
def GState.code : GState → Nat
  | .resident => 1
  | .saved => 2
  | .held => 3

/-- What the sections of a hand-over block hold, by kind: read indices of the host command queues, live launches with their
states, placements of gangs, effective priorities, reservations of spans, the SAGGER key tables: each tenant's protection key and
the keys of the sessions. R369 names them and gives neither their kinds nor their layout. DESIGN CHOICE (log 114). -/
def State.handOverParts (s : State) : List (List Nat) :=
  [s.kiln.ctxs.flatMap (fun c => c.2.queues.flatMap (fun q => [c.1, q.1, q.2.read])),
    s.kiln.launches.flatMap (fun l => [l.1, l.2.record.ctx, l.2.record.tag, l.2.state.code]),
    s.kiln.gangs.flatMap (fun g => [g.1, g.2.launch, g.2.number, g.2.state.code] ++ g.2.cores),
    s.kiln.launches.flatMap (fun l => [l.1, s.effPrio l.1]),
    s.kiln.spans.flatMap (fun p => p.2.reserved.flatMap (fun x => [p.1, x.launch, x.number] ++ x.spots.flatMap (fun y => [y.1, y.2]))),
    s.kiln.tenants.map (fun t => t.2.pkey.toNat) ++ s.kiln.sessions.flatMap (fun x =>
      (x.2.key.map (fun k => x.1 :: (List.range 4).map (fun i => k.toNat / 2 ^ (64 * i) % 2 ^ 64))).getD [])]

/-- The sections of those contents, one after another from an offset of the block. -/
def sectionsFrom (off : Nat) : List (Nat × List Nat) → List Section
  | [] => []
  | (k, c) :: r => ⟨k, off, 8 * c.length, c⟩ :: sectionsFrom (off + 8 * c.length) r

/-- The bytes of a block from 0x60 on: the descriptors, then the sections. -/
def sectionBytes (xs : List Section) : List Byte :=
  xs.flatMap (fun x => leBytes x.kind 4 ++ leBytes x.offset 4 ++ leBytes x.length 8) ++ xs.flatMap (fun x => x.content.flatMap (leBytes · 8))

/-- The hand-over block that the image of a controller writes (R369). -/
def State.handOver (s : State) (c : Nat) : HandOver :=
  let parts := s.handOverParts
  let xs := sectionsFrom (0x60 + 16 * parts.length) ((List.range parts.length).zip parts)
  let bs := sectionBytes xs
  ⟨Config.blockFormat.toNat, (s.dev.firmwareOf c).version, 0x60 + bs.length, s.dev.tick, Config.sha3 bs, xs⟩

/-- The waves of marked gangs go on without KILN (R367, R443): their pending errors wait for no restore any longer. -/
def State.pollMarked (s : State) : State :=
  (s.kiln.waves.filter (fun w => w.2.pending.any (·.drain))).foldl (fun s w => s.pollAsync w.1) s

/-- SAFE_POINT (R367, R369, R370): the old image writes the hand-over block and stops, and the new image starts. -/
def execSafePoint (s : State) : Out :=
  match s.dev.activation with
  | none => .next s
  | some a =>
    if a.deadline.isSome then .next s
    else
      let s1 : State := { s with dev := { s.dev with activation := some { a with
        deadline := some (s.dev.tick + coneTicks), block := some (s.handOver a.controller) } } }
      .next (if a.controller = 0 then s1.pollMarked else s1)

/-- The command of a code of R364, for a function. -/
def commandOf (fn code : Nat) : Cmd :=
  match code with
  | 0x01 => cmdCreateContext fn
  | 0x02 => cmdDestroyContext fn
  | 0x03 => cmdRegisterHostQueue fn
  | 0x04 => cmdUnregisterHostQueue fn
  | 0x05 => cmdRegisterKernel fn
  | 0x06 => cmdWriteFabricWindow
  | 0x07 => cmdWriteFormatRegion fn
  | 0x08 => cmdDeclareDeadOrLive
  | 0x09 => cmdWriteTenantPolicy
  | 0x0A => cmdAttachOrDetachDebugger fn
  | 0x0B => cmdReadDbgctl fn
  | 0x0C => cmdWriteDbgctl fn
  | 0x10 => cmdStageFirmware
  | 0x11 => cmdActivateFirmware fn
  | 0x12 => cmdOpenSession fn
  | 0x13 => cmdCloseSession fn
  | 0x14 => cmdAssignOrRemoveLocalRange
  | 0x15 => cmdSetDeviceNumber
  | 0x16 => cmdEnrolOrRemoveKernelKey
  | _ => cmdReserved

/-- A function's command that is in progress goes on: one that has waited for a controller or for a launch (R364, R368). That
of an activation in progress waits for CONE. Which payload a command that waits acts on, where software has written the payload
anew meanwhile, is not stated: it reads the payload each time that it is taken up. DESIGN CHOICE (log 129). -/
def State.resume (s : State) (fn : Nat) : State :=
  let t := s.tenant fn
  if !t.busy || s.dev.activation.any (fun a => a.fn == fn) then s
  else s.carry fn (t.cmd.toNat / 256 % 256) (commandOf fn (t.cmd.toNat % 256))

/-- The end of an activation: the PF's command completes with the running image's version, and what has waited for the
controller goes on, in the order in which it came (R368). -/
def State.endActivation (s : State) (a : Activation) (result : Nat) : State :=
  let s1 := ({ s with dev := { s.dev with activation := none }
                      sched := { s.sched with waiting := [], agenda := s.sched.waiting ++ s.sched.agenda } }).mbDone a.fn a.seq result
    (leBytes (s.dev.firmwareOf a.controller).version.toNat 8)
  (List.range 16).foldl (fun s fn => s.resume fn) s1

/-- CONE (R367, R442): an image writes its version to FIREBOX. One from an image that does not run is ignored. -/
def execCone (version : W64) (s : State) : Out :=
  match s.dev.activation with
  | none => .next s
  | some a => match a.deadline with
    | none => .next s
    | some d =>
      let f := s.dev.firmwareOf a.controller
      if d < s.dev.tick then .next s
      else if a.old then (if version = f.version then .next (s.endActivation a 6) else .next s)
      else if f.staged = some version then
        .next (({ s with dev := s.dev.modFirmware a.controller (fun x => { x with version := version, staged := none }) }).endActivation
          a 0)
      else .next s

/-- A controller that has missed both CONEs is out of service (R443): its KINDLING bit is clear, and it stays stopped. -/
def Dev.outOfControl (d : Dev) (c : Nat) : Dev :=
  let d1 := d.modFirmware c (fun x => { x with stopped := true })
  if c = 0 then { d1 with kiln := false }
  else if c = 1 then { d1 with firebox := false }
  else if c < 0x20 then { d1 with links := d1.links &&& ~~~(BitVec.ofNat 16 (2 ^ (c - 0x10)))
                                  linkState := modAt d1.linkState (c - 0x10) (fun l => { l with out := true }) }
  else { d1 with stackBits := d1.stackBits &&& ~~~(BitVec.ofNat 8 (2 ^ (c % 8))) }

/-- KILN goes out of service: no gang is being stopped for pre-emption any longer, and each runs on to its exit (R443). -/
def State.unmark (s : State) : State :=
  { s with kiln := { s.kiln with gangs := s.kiln.gangs.map (fun y => (y.1, { y.2 with marked := false })) } }

/-- CONE_DEADLINE_EXPIRY (R370, R442, R443): the new image is discarded and the previous one restarted; if that misses its
CONE too, the controller is out of service. -/
def execConeDeadlineExpiry (s : State) : Out :=
  match s.dev.activation with
  | none => .next s
  | some a => match a.deadline with
    | none => .next s
    | some d =>
      if s.dev.tick ≤ d then .next s
      else if !a.old then
        let d1 := s.dev.modFirmware a.controller (fun x => { x with staged := none })
        .next { s with dev := { d1 with activation := some { a with old := true, deadline := some (s.dev.tick + coneTicks) } } }
      else
        let s1 := if 0x20 ≤ a.controller then s.endAll waitCut ⟨7, 2⟩ 7 false
          else if a.controller = 0 then s.unmark.pollMarked else s
        .next (({ s1 with dev := s1.dev.outOfControl a.controller }).endActivation a 7)

end Sys2Proof.Machine
end

