-- ==== Sys2Proof/Machine/Dispatch.lean ====
section
/-! DEFINITION. What the machine does at each instruction and event: one arm per row of opcode_table.json. -/

namespace Sys2Proof.Machine

/-- One instruction of the executing strand, or one event of the device. -/
def exec (i : Instr) (s : State) : Host.Outcome State Fault Refusal :=
  match i with
  | .nop g => Sys2Proof.Machine.execNop g s
  | .iadd g d a b => Sys2Proof.Machine.execIadd g d a b s
  | .isub g d a b => Sys2Proof.Machine.execIsub g d a b s
  | .imul g d a b => Sys2Proof.Machine.execImul g d a b s
  | .imulhS g d a b => Sys2Proof.Machine.execImulhS g d a b s
  | .imulhN g d a b => Sys2Proof.Machine.execImulhN g d a b s
  | .iminS g d a b => Sys2Proof.Machine.execIminS g d a b s
  | .iminN g d a b => Sys2Proof.Machine.execIminN g d a b s
  | .imaxS g d a b => Sys2Proof.Machine.execImaxS g d a b s
  | .imaxN g d a b => Sys2Proof.Machine.execImaxN g d a b s
  | .and g d a b => Sys2Proof.Machine.execAnd g d a b s
  | .or g d a b => Sys2Proof.Machine.execOr g d a b s
  | .xor g d a b => Sys2Proof.Machine.execXor g d a b s
  | .andn g d a b => Sys2Proof.Machine.execAndn g d a b s
  | .shl g d a b => Sys2Proof.Machine.execShl g d a b s
  | .shr g d a b => Sys2Proof.Machine.execShr g d a b s
  | .sar g d a b => Sys2Proof.Machine.execSar g d a b s
  | .rotl g d a b => Sys2Proof.Machine.execRotl g d a b s
  | .popc g d a => Sys2Proof.Machine.execPopc g d a s
  | .clz g d a => Sys2Proof.Machine.execClz g d a s
  | .brev g d a => Sys2Proof.Machine.execBrev g d a s
  | .iabs g d a => Sys2Proof.Machine.execIabs g d a s
  | .mov g d a => Sys2Proof.Machine.execMov g d a s
  | .sel g d a b => Sys2Proof.Machine.execSel g d a b s
  | .iaddQ g d a b => Sys2Proof.Machine.execIaddQ g d a b s
  | .isubQ g d a b => Sys2Proof.Machine.execIsubQ g d a b s
  | .shlQ g d a b => Sys2Proof.Machine.execShlQ g d a b s
  | .shrQ g d a b => Sys2Proof.Machine.execShrQ g d a b s
  | .sarQ g d a b => Sys2Proof.Machine.execSarQ g d a b s
  | .movQ g d a => Sys2Proof.Machine.execMovQ g d a s
  | .fadd g d a b => Sys2Proof.Machine.execFadd g d a b s
  | .fsub g d a b => Sys2Proof.Machine.execFsub g d a b s
  | .fmul g d a b => Sys2Proof.Machine.execFmul g d a b s
  | .fmin g d a b => Sys2Proof.Machine.execFmin g d a b s
  | .fmax g d a b => Sys2Proof.Machine.execFmax g d a b s
  | .faddBf16x2 g d a b => Sys2Proof.Machine.execFaddBf16x2 g d a b s
  | .fmulBf16x2 g d a b => Sys2Proof.Machine.execFmulBf16x2 g d a b s
  | .fminBf16x2 g d a b => Sys2Proof.Machine.execFminBf16x2 g d a b s
  | .fmaxBf16x2 g d a b => Sys2Proof.Machine.execFmaxBf16x2 g d a b s
  | .faddF16x2 g d a b => Sys2Proof.Machine.execFaddF16x2 g d a b s
  | .fmulF16x2 g d a b => Sys2Proof.Machine.execFmulF16x2 g d a b s
  | .fminF16x2 g d a b => Sys2Proof.Machine.execFminF16x2 g d a b s
  | .fmaxF16x2 g d a b => Sys2Proof.Machine.execFmaxF16x2 g d a b s
  | .lea g d a b => Sys2Proof.Machine.execLea g d a b s
  | .br g off => Sys2Proof.Machine.execBr g off s
  | .call g off => Sys2Proof.Machine.execCall g off s
  | .icmp g a b ty cond pd => Sys2Proof.Machine.execIcmp g a b ty cond pd s
  | .imad g d a b c => Sys2Proof.Machine.execImad g d a b c s
  | .imulQ g d a b => Sys2Proof.Machine.execImulQ g d a b s
  | .iaddSat g d a b ty => Sys2Proof.Machine.execIaddSat g d a b ty s
  | .isubSat g d a b ty => Sys2Proof.Machine.execIsubSat g d a b ty s
  | .bfe g d a b ty => Sys2Proof.Machine.execBfe g d a b ty s
  | .bfi g d a b c => Sys2Proof.Machine.execBfi g d a b c s
  | .fshl g d a b c => Sys2Proof.Machine.execFshl g d a b c s
  | .fshr g d a b c => Sys2Proof.Machine.execFshr g d a b c s
  | .pbool g tt pa pb pd => Sys2Proof.Machine.execPbool g tt pa pb pd s
  | .pget g d => Sys2Proof.Machine.execPget g d s
  | .pset g a => Sys2Proof.Machine.execPset g a s
  | .ffma g d a b c ty rnd => Sys2Proof.Machine.execFfma g d a b c ty rnd s
  | .faddFpx g d a b ty rnd => Sys2Proof.Machine.execFaddFpx g d a b ty rnd s
  | .fsubFpx g d a b ty rnd => Sys2Proof.Machine.execFsubFpx g d a b ty rnd s
  | .fmulFpx g d a b ty rnd => Sys2Proof.Machine.execFmulFpx g d a b ty rnd s
  | .fabs g d a ty => Sys2Proof.Machine.execFabs g d a ty s
  | .fneg g d a ty => Sys2Proof.Machine.execFneg g d a ty s
  | .frcp g d a rnd => Sys2Proof.Machine.execFrcp g d a rnd s
  | .fsqrt g d a rnd => Sys2Proof.Machine.execFsqrt g d a rnd s
  | .frsqrt g d a rnd => Sys2Proof.Machine.execFrsqrt g d a rnd s
  | .fexp2 g d a rnd => Sys2Proof.Machine.execFexp2 g d a rnd s
  | .flog2 g d a rnd => Sys2Proof.Machine.execFlog2 g d a rnd s
  | .frnd g d a rnd => Sys2Proof.Machine.execFrnd g d a rnd s
  | .fcmp g a b cond pd => Sys2Proof.Machine.execFcmp g a b cond pd s
  | .cvt g d a dty sty rnd sat => Sys2Proof.Machine.execCvt g d a dty sty rnd sat s
  | .qblk g d a b => Sys2Proof.Machine.execQblk g d a b s
  | .dqblk g d a b => Sys2Proof.Machine.execDqblk g d a b s
  | .cvtHad g d a b c dty rnd sat inv fs => Sys2Proof.Machine.execCvtHad g d a b c dty rnd sat inv fs s
  | .lany g ps pd => Sys2Proof.Machine.execLany g ps pd s
  | .lall g ps pd => Sys2Proof.Machine.execLall g ps pd s
  | .lmask g d ps => Sys2Proof.Machine.execLmask g d ps s
  | .lpickIdx g d a b ty seg => Sys2Proof.Machine.execLpickIdx g d a b ty seg s
  | .lpickUp g d a b ty seg => Sys2Proof.Machine.execLpickUp g d a b ty seg s
  | .lpickDown g d a b ty seg => Sys2Proof.Machine.execLpickDown g d a b ty seg s
  | .lpickXor g d a b ty seg => Sys2Proof.Machine.execLpickXor g d a b ty seg s
  | .lred g d a op ty seg => Sys2Proof.Machine.execLred g d a op ty seg s
  | .lscan g d a op ty seg excl => Sys2Proof.Machine.execLscan g d a op ty seg excl s
  | .regang g => Sys2Proof.Machine.execRegang g s
  | .wide g => Sys2Proof.Machine.execWide g s
  | .endwide g => Sys2Proof.Machine.execEndwide g s
  | .wbase g a add => Sys2Proof.Machine.execWbase g a add s
  | .exit g => Sys2Proof.Machine.execExit g s
  | .trap g a => Sys2Proof.Machine.execTrap g a s
  | .trapret g => Sys2Proof.Machine.execTrapret g s
  | .ifence g => Sys2Proof.Machine.execIfence g s
  | .icinv g a b fs => Sys2Proof.Machine.execIcinv g a b fs s
  | .jmpi g a => Sys2Proof.Machine.execJmpi g a s
  | .ret g a => Sys2Proof.Machine.execRet g a s
  | .calli g d a => Sys2Proof.Machine.execCalli g d a s
  | .brk g => Sys2Proof.Machine.execBrk g s
  | .yieldto g a b c => Sys2Proof.Machine.execYieldto g a b c s
  | .ld g d a b m => Sys2Proof.Machine.execLd g d a b m s
  | .st g a b c m => Sys2Proof.Machine.execSt g a b c m s
  | .lds g d a b m => Sys2Proof.Machine.execLds g d a b m s
  | .sts g a b c m => Sys2Proof.Machine.execSts g a b c m s
  | .ldc g d a b ty fs => Sys2Proof.Machine.execLdc g d a b ty fs s
  | .gather g d a b m => Sys2Proof.Machine.execGather g d a b m s
  | .prefetch g a b lvl => Sys2Proof.Machine.execPrefetch g a b lvl s
  | .rmw g d a b c m => Sys2Proof.Machine.execRmw g d a b c m s
  | .fold g a b c m => Sys2Proof.Machine.execFold g a b c m s
  | .rmwCas g d a b c m => Sys2Proof.Machine.execRmwCas g d a b c m s
  | .fence g order scope => Sys2Proof.Machine.execFence g order scope s
  | .gatePass g a bar => Sys2Proof.Machine.execGatePass g a bar s
  | .gateWait g a bar => Sys2Proof.Machine.execGateWait g a bar s
  | .bobjOpen g a b => Sys2Proof.Machine.execBobjOpen g a b s
  | .bobjDue g a b mark => Sys2Proof.Machine.execBobjDue g a b mark s
  | .bobjMark g a => Sys2Proof.Machine.execBobjMark g a s
  | .bobjHold g a b => Sys2Proof.Machine.execBobjHold g a b s
  | .emberArm g a b k => Sys2Proof.Machine.execEmberArm g a b k s
  | .emberWait g d a => Sys2Proof.Machine.execEmberWait g d a s
  | .emberDisarm g mask => Sys2Proof.Machine.execEmberDisarm g mask s
  | .emberTimeout core wave strand => Sys2Proof.Machine.execEmberTimeout core wave strand s
  | .spawn g a b fs => Sys2Proof.Machine.execSpawn g a b fs s
  | .launch g a fs => Sys2Proof.Machine.execLaunch g a fs s
  | .await g a pd => Sys2Proof.Machine.execAwait g a pd s
  | .futSet g a b => Sys2Proof.Machine.execFutSet g a b s
  | .lockTake g a pd => Sys2Proof.Machine.execLockTake g a pd s
  | .lockGive g a => Sys2Proof.Machine.execLockGive g a s
  | .qpush g d a b form order scope fs => Sys2Proof.Machine.execQpush g d a b form order scope fs s
  | .qpop g d a b order scope fs => Sys2Proof.Machine.execQpop g d a b order scope fs s
  | .park g a => Sys2Proof.Machine.execPark g a s
  | .ldw g d a b m => Sys2Proof.Machine.execLdw g d a b m s
  | .stw g a b c m => Sys2Proof.Machine.execStw g a b c m s
  | .spanArrive g => Sys2Proof.Machine.execSpanArrive g s
  | .spanSync g => Sys2Proof.Machine.execSpanSync g s
  | .spanDetach g => Sys2Proof.Machine.execSpanDetach g s
  | .spanPeer g d a => Sys2Proof.Machine.execSpanPeer g d a s
  | .crewSet g a b => Sys2Proof.Machine.execCrewSet g a b s
  | .tokTake g => Sys2Proof.Machine.execTokTake g s
  | .tokGive g a pass => Sys2Proof.Machine.execTokGive g a pass s
  | .mma g a m => Sys2Proof.Machine.execMma g a m s
  | .mmas g a m => Sys2Proof.Machine.execMmas g a m s
  | .matrixEntry core group crew => Sys2Proof.Machine.execMatrixEntry core group crew s
  | .matrixOpFinish core => Sys2Proof.Machine.execMatrixOpFinish core s
  | .wbload g a m => Sys2Proof.Machine.execWbload g a m s
  | .accz g m => Sys2Proof.Machine.execAccz g m s
  | .accld g a b m => Sys2Proof.Machine.execAccld g a b m s
  | .accst g a b m => Sys2Proof.Machine.execAccst g a b m s
  | .cpTile g d a b c m => Sys2Proof.Machine.execCpTile g d a b c m s
  | .cpMcast g d a b c m mask => Sys2Proof.Machine.execCpMcast g d a b c m mask s
  | .cpOut g d a b c m => Sys2Proof.Machine.execCpOut g d a b c m s
  | .cpGather g d a b c m => Sys2Proof.Machine.execCpGather g d a b c m s
  | .copyDelivery core copy lines => Sys2Proof.Machine.execCopyDelivery core copy lines s
  | .sget g d sreg => Sys2Proof.Machine.execSget g d sreg s
  | .sset g a sreg => Sys2Proof.Machine.execSset g a sreg s
  | .cctl g a b op fs => Sys2Proof.Machine.execCctl g a b op fs s
  | .tlbinv g a b fs => Sys2Proof.Machine.execTlbinv g a b fs s
  | .probe g d a fs => Sys2Proof.Machine.execProbe g d a fs s
  | .scanStart g d a fs => Sys2Proof.Machine.execScanStart g d a fs s
  | .scanPoll g d a fs => Sys2Proof.Machine.execScanPoll g d a fs s
  | .halt g => Sys2Proof.Machine.execHalt g s
  | .clauseStart => Sys2Proof.Machine.execClauseStart s
  | .longOpComplete core wave op share => Sys2Proof.Machine.execLongOpComplete core wave op share s
  | .waveExit core wave => Sys2Proof.Machine.execWaveExit core wave s
  | .trapEntry core wave => Sys2Proof.Machine.execTrapEntry core wave s
  | .adopt core wave => Sys2Proof.Machine.execAdopt core wave s
  | .waitableReady ctx rec => Sys2Proof.Machine.execWaitableReady ctx rec s
  | .adoptionEnd core wave => Sys2Proof.Machine.execAdoptionEnd core wave s
  | .slotTakeTask core wave => Sys2Proof.Machine.execSlotTakeTask core wave s
  | .segmentLink ctx queue seg => Sys2Proof.Machine.execSegmentLink ctx queue seg s
  | .stallDetect group => Sys2Proof.Machine.execStallDetect group s
  | .doorbell fn value => Sys2Proof.Machine.execDoorbell fn value s
  | .hostQueueRecordRead ctx queue => Sys2Proof.Machine.execHostQueueRecordRead ctx queue s
  | .launchAccept index => Sys2Proof.Machine.execLaunchAccept index s
  | .launchComplete launch => Sys2Proof.Machine.execLaunchComplete launch s
  | .gangPlace arena reserve => Sys2Proof.Machine.execGangPlace arena reserve s
  | .timeSliceExpiry gang => Sys2Proof.Machine.execTimeSliceExpiry gang s
  | .gangPreempt gang => Sys2Proof.Machine.execGangPreempt gang s
  | .gangSave gang => Sys2Proof.Machine.execGangSave gang s
  | .gangRestore gang => Sys2Proof.Machine.execGangRestore gang s
  | .spanReserve span arena reserve => Sys2Proof.Machine.execSpanReserve span arena reserve s
  | .spanCommit span prio remotes => Sys2Proof.Machine.execSpanCommit span prio remotes s
  | .spanPriorityUpdate span prio => Sys2Proof.Machine.execSpanPriorityUpdate span prio s
  | .memberDepart span member => Sys2Proof.Machine.execMemberDepart span member s
  | .inboxWake session => Sys2Proof.Machine.execInboxWake session s
  | .packetRead session block => Sys2Proof.Machine.execPacketRead session block s
  | .sessionKeyInstall session key => Sys2Proof.Machine.execSessionKeyInstall session key s
  | .extentAdd tenant base size => Sys2Proof.Machine.execExtentAdd tenant base size s
  | .extentRelease tenant base => Sys2Proof.Machine.execExtentRelease tenant base s
  | .extentReleaseAnswer tenant base => Sys2Proof.Machine.execExtentReleaseAnswer tenant base s
  | .bisnp kind dest addr => Sys2Proof.Machine.execBisnp kind dest addr s
  | .inboundRequest r => Sys2Proof.Machine.execInboundRequest r s
  | .cxlViralIndication port => Sys2Proof.Machine.execCxlViralIndication port s
  | .fencedResponse core wave op fenced => Sys2Proof.Machine.execFencedResponse core wave op fenced s
  | .linkReplay link again => Sys2Proof.Machine.execLinkReplay link again s
  | .linkRetrain link ok => Sys2Proof.Machine.execLinkRetrain link ok s
  | .routeLost kind dest other performed => Sys2Proof.Machine.execRouteLost kind dest other performed s
  | .selfTestPass f => Sys2Proof.Machine.execSelfTestPass f s
  | .functionReset fn => Sys2Proof.Machine.execFunctionReset fn s
  | .correctableError stack row => Sys2Proof.Machine.execCorrectableError stack row s
  | .uncorrectableError loc => Sys2Proof.Machine.execUncorrectableError loc s
  | .clinkerClear => Sys2Proof.Machine.execClinkerClear s
  | .scanRun handle core => Sys2Proof.Machine.execScanRun handle core s
  | .scanComplete handle pass => Sys2Proof.Machine.execScanComplete handle pass s
  | .clockAdjust mhz => Sys2Proof.Machine.execClockAdjust mhz s
  | .createContext fn seq => Sys2Proof.Machine.execCreateContext fn seq s
  | .destroyContext fn seq => Sys2Proof.Machine.execDestroyContext fn seq s
  | .registerHostQueue fn seq => Sys2Proof.Machine.execRegisterHostQueue fn seq s
  | .unregisterHostQueue fn seq => Sys2Proof.Machine.execUnregisterHostQueue fn seq s
  | .registerKernel fn seq => Sys2Proof.Machine.execRegisterKernel fn seq s
  | .writeFabricWindow fn seq => Sys2Proof.Machine.execWriteFabricWindow fn seq s
  | .writeFormatRegion fn seq => Sys2Proof.Machine.execWriteFormatRegion fn seq s
  | .declareDeadOrLive fn seq => Sys2Proof.Machine.execDeclareDeadOrLive fn seq s
  | .writeTenantPolicy fn seq => Sys2Proof.Machine.execWriteTenantPolicy fn seq s
  | .attachOrDetachDebugger fn seq => Sys2Proof.Machine.execAttachOrDetachDebugger fn seq s
  | .readDbgctl fn seq => Sys2Proof.Machine.execReadDbgctl fn seq s
  | .writeDbgctl fn seq => Sys2Proof.Machine.execWriteDbgctl fn seq s
  | .stageFirmware fn seq => Sys2Proof.Machine.execStageFirmware fn seq s
  | .activateFirmware fn seq => Sys2Proof.Machine.execActivateFirmware fn seq s
  | .safePoint => Sys2Proof.Machine.execSafePoint s
  | .cone version => Sys2Proof.Machine.execCone version s
  | .coneDeadlineExpiry => Sys2Proof.Machine.execConeDeadlineExpiry s
  | .openSession fn seq => Sys2Proof.Machine.execOpenSession fn seq s
  | .closeSession fn seq => Sys2Proof.Machine.execCloseSession fn seq s
  | .assignOrRemoveLocalRange fn seq => Sys2Proof.Machine.execAssignOrRemoveLocalRange fn seq s
  | .setDeviceNumber fn seq => Sys2Proof.Machine.execSetDeviceNumber fn seq s
  | .enrolOrRemoveKernelKey fn seq => Sys2Proof.Machine.execEnrolOrRemoveKernelKey fn seq s
  | .mailboxReservedCommand fn code seq => Sys2Proof.Machine.execMailboxReservedCommand fn code seq s
  | .registerWrite fn offset value => Sys2Proof.Machine.execRegisterWrite fn offset value s
  | .unassignedEncoding major sub => Sys2Proof.Machine.execUnassignedEncoding major sub s
  | .functionEnable fn => Sys2Proof.Machine.execFunctionEnable fn s
  | .expanderLost port => Sys2Proof.Machine.execExpanderLost port s
  | .dirtySectorWriteback cluster sector => Sys2Proof.Machine.execDirtySectorWriteback cluster sector s

end Sys2Proof.Machine
end

