-- ==== Sys2Proof/Machine/Turn.lean ====
section
/-! DEFINITION. One turn of an agent: an issue slot, an event, time, or a cache dropping a line; the device's own turns
where nothing is asked for from outside; and the placing of an instruction for the next issue. -/

namespace Sys2Proof.Machine

/-! ## An issue slot -/

/-- No strand is issuing. -/
def State.noCur (s : State) : State := { s with sched := { s.sched with cur := none } }

/-- What follows a turn, if it ends in a next state. -/
def andThen (o : Out) (f : State → Out) : Out :=
  match o with
  | .next s => f s
  | .fault e => .fault e
  | .refused r => .refused r

/-- After a turn no strand is issuing, and what the monitors have seen is kept. -/
def settleTurn (o : Out) : Out := andThen o (fun s => .next s.noCur.notePast)

/-- What a word that decodes to no instruction does (R391, R394, R395). -/
def State.runReject (s : State) (r : Reject) : Out :=
  match r with
  | .major op => exec (.unassignedEncoding (BitVec.ofNat 7 op) none) s
  | .sub op x => exec (.unassignedEncoding (BitVec.ofNat 7 op) (some (BitVec.ofNat 8 x))) s
  | r => s.rejectAt s.guardHere r

/-- The executing strand issues: it starts its next clause, or runs the instruction that its clause's next words decode
to. Whether the start of a clause takes an issue slot of the partition is not stated (R73 speaks of instructions): it takes one of
its own. DESIGN CHOICE (log 128). -/
def State.runStrand (s : State) (ws : Option (List W32)) : Out :=
  match ws with
  | none => exec .clauseStart s
  | some ws => match decodeWords ws with
    | .ok (i, _) => exec i s
    | .error r => s.runReject r

/-- A partition's issue slot (R73). -/
def State.runIssue (s : State) (core part : Nat) : Out :=
  let s0 := s.noteSlots core part
  match s0.pick core part with
  | none => .next (s0.endSlot core part)
  | some c =>
    let s1 := ((s0.markIssue c).endSlot core part).withCur c
    settleTurn (s1.runStrand (s1.wordsOf c))

/-- One clock in which several partitions issue and lines of copies are delivered: what reaches a barrier object or a token
in it counts together (R172, R186). A partition issues at most once. -/
def State.runClock (s : State) (issues : List (Nat × Nat)) (lines : List (Nat × Nat × Nat)) : Out :=
  let o1 := issues.dedup.foldl (fun o x => andThen o (fun s => s.runIssue x.1 x.2))
    (.next { s with sched := { s.sched with changes := some [] } })
  let o2 := lines.foldl (fun o x => andThen o (exec (.copyDelivery x.1 x.2.1 x.2.2))) o1
  andThen o2 (fun s => settleTurn (.next s.endClock))

/-! ## Turns -/

/-- Whether a row may be a turn of its own: an event, other than those that belong to an issue slot. -/
def ownTurn (i : Instr) : Bool :=
  match i with
  | .clauseStart | .unassignedEncoding _ _ => false
  | i => i.isEvent

/-- What a turn does. -/
def State.doTurn (s : State) (t : Turn) : Out :=
  match t with
  | .issue core part => s.runIssue core part
  | .event e => if ownTurn e then settleTurn (exec e s) else .next s
  | .mailbox fn => settleTurn (.next (s.resume fn))
  | .clock issues lines => s.runClock issues lines
  | .elapse n => .next (s.elapse n)
  | t => .next (s.dropClean t)

/-! ## The device's own turns -/

/-- n free blocks of one size and alignment, one after another. -/
def freeBlocks (al lo hi size : Nat) : List (Nat × Nat) → Nat → List Nat
  | _, 0 => []
  | taken, n + 1 => match firstFit taken al size hi (taken.length + 1) lo with
    | some a => a :: freeBlocks al lo hi size ((a, size) :: taken) n
    | none => []

/-- The addresses that KILN takes for a gang's first placement. -/
def State.blocksFor (s : State) (l : Launch) (gangs : Nat) : List Nat × List Nat :=
  match s.ctx l.record.ctx with
  | none => ([], [])
  | some c =>
    (freeBlocks 256 c.arena.1 (c.arena.1 + c.arena.2) (rootSize l.record) c.arenaTaken (gangs * l.record.gang * l.record.waves),
      freeBlocks 64 c.reserve.1 (c.reserve.1 + c.reserve.2) (saveSize l.record) c.reserveTaken (gangs * l.record.gang))

/-- The turns of the waves of a core. -/
def State.waveTurns (s : State) (w : Wave) : List Turn :=
  match (s.group w.group).bind (·.core) with
  | none => []
  | some k =>
    let ops := w.ops.flatMap (fun o => (bitsOf o.undone).map (fun i => Turn.event (.longOpComplete k w.wid o.id ⟨i, 32⟩)))
    let waits := (w.strands.filter (fun n => match (w.slice n).wait with
      | some (.ember (some _) _ _) => true
      | _ => false)).map (fun n => Turn.event (.emberTimeout k w.wid n))
    [Turn.issue k (w.wid % 4)] ++ ops ++ waits ++ (if w.stop.isSome then [Turn.event (.trapEntry k w.wid)] else [])
      ++ [Turn.event (.adopt k w.wid), Turn.event (.adoptionEnd k w.wid)]
      ++ (if w.ended.isSome then [Turn.event (.slotTakeTask k w.wid), Turn.event (.waveExit k w.wid)] else [])

/-- The turns of a group: its crews' operations, its stall. -/
def State.groupTurns (s : State) (g : Nat) (x : Group) : List Turn :=
  match x.core with
  | none => []
  | some k => ((List.range 4).map (fun c => Turn.event (.matrixEntry k g c))) ++ [Turn.event (.stallDetect g)]
    ++ (if (s.core k).array.isEmpty then [] else [Turn.event (.matrixOpFinish k)])

/-- The turns of KILN. -/
def State.kilnTurns (s : State) : List Turn :=
  let place := match s.firstFitting with
    | some (w, _) => match s.launch w.launch, w.gang with
      | some l, none => let (a, r) := s.blocksFor l 1; [Turn.event (.gangPlace a r)]
      | _, some g => [Turn.event (.gangRestore g)]
      | none, none => []
    | none => []
  let gangs := s.kiln.gangs.flatMap (fun x =>
    [Turn.event (.timeSliceExpiry x.1)] ++ (if x.2.marked then [Turn.event (.gangSave x.1)] else []))
  let queues := s.kiln.ctxs.flatMap (fun c => (c.2.queues.filter (fun q => q.2.rung || q.2.read != q.2.write)).map (fun q =>
    Turn.event (.hostQueueRecordRead c.1 q.1)))
  let sess := s.kiln.sessions.flatMap (fun x =>
    let block := match s.ctx x.2.ctx with
      | some c => (freeBlocks 64 c.arena.1 (c.arena.1 + c.arena.2) 128 c.arenaTaken 1).headD 0
      | none => 0
    [Turn.event (.inboxWake x.1), Turn.event (.packetRead x.1 block)])
  let segs := ((s.pendingPushes ++ s.kiln.heldPushes.map (fun h => (h.ctx, h.queue.toNat))).dedup).map (fun p =>
    let ag := s.agentFor p.1
    let size := match s.queue ag p.2 with | .ok (_, q) => q.segSize | .error _ => 64
    let a := match s.ctx p.1 with
      | some c => (freeBlocks 64 c.arena.1 (c.arena.1 + c.arena.2) size c.arenaTaken 1).headD 0
      | none => 0
    Turn.event (.segmentLink p.1 p.2 a))
  let spans := ((s.kiln.launches.filter (fun l => l.2.record.spanId != 0)).map (fun l => (l.2.record.ctx, l.2.record.spanKey))).dedup.flatMap
    (fun x =>
      let k := spanIdOf x.1 x.2
      let (a, r) := match (s.spanLaunches k).head? with | some (_, l) => s.blocksFor l l.record.groups | none => ([], [])
      let key := ((s.ctx x.1).map (fun c => (s.tenant c.tenant).pkey)).getD 0
      if (s.span k).ready then [Turn.event (.spanCommit ⟨key, x.1, x.2⟩ (s.spanPrio k) [])]
      else [Turn.event (.spanReserve ⟨key, x.1, x.2⟩ a r)])
  place ++ gangs ++ s.victims.map (fun g => Turn.event (.gangPreempt g)) ++ queues ++ sess ++ segs ++ spans
    ++ (List.range s.kiln.submits.length).map (fun i => Turn.event (.launchAccept i))
    ++ (s.kiln.launches.filter (fun l => l.2.state == .completing)).map (fun l => Turn.event (.launchComplete l.1))
    ++ (s.kiln.parked.filter (fun p => p.waits.isSome)).map (fun p => Turn.event (.waitableReady p.ctx p.task.record.toNat))
    ++ (s.kiln.scans.filter (fun x => x.2.status == 0 || x.2.status == 4)).map (fun x =>
        Turn.event (.scanRun x.1 (x.2.core.getD (((List.range 192).find? s.scannable).getD 0))))

/-- Every turn that the device takes of its own accord. -/
def State.ownTurns (s : State) : List Turn :=
  s.kiln.waves.flatMap (fun x => s.waveTurns x.2) ++ s.kiln.groups.flatMap (fun x => s.groupTurns x.1 x.2)
    ++ s.cores.flatMap (fun c => c.2.copies.map (fun x => Turn.event (.copyDelivery c.1 x.id 1))) ++ s.kilnTurns
    ++ ((List.range 16).filter (fun n => (s.tenant n).busy)).map Turn.mailbox

/-- The turn that is taken where none is asked for: the device's own turns in rotation, and a tick. -/
def State.defaultTurn (s : State) : Turn :=
  let ts := s.ownTurns
  (ts[s.sched.rot % (ts.length + 1)]?).getD (.elapse 1)

/-- The next turn, and the state with that turn taken off the agenda. -/
def State.nextTurn (s : State) : Turn × State :=
  match s.sched.agenda with
  | t :: r => (t, { s with sched := { s.sched with agenda := r, held := false } })
  | [] => (s.defaultTurn, { s with sched := { s.sched with rot := s.sched.rot + 1, held := false } })

/-- The function, code and sequence of a write to MBCMD. -/
def mailboxWrite (i : Instr) : Option (Nat × Nat × Byte) :=
  match i with
  | .createContext fn seq => some (fn, 0x01, seq)
  | .destroyContext fn seq => some (fn, 0x02, seq)
  | .registerHostQueue fn seq => some (fn, 0x03, seq)
  | .unregisterHostQueue fn seq => some (fn, 0x04, seq)
  | .registerKernel fn seq => some (fn, 0x05, seq)
  | .writeFabricWindow fn seq => some (fn, 0x06, seq)
  | .writeFormatRegion fn seq => some (fn, 0x07, seq)
  | .declareDeadOrLive fn seq => some (fn, 0x08, seq)
  | .writeTenantPolicy fn seq => some (fn, 0x09, seq)
  | .attachOrDetachDebugger fn seq => some (fn, 0x0A, seq)
  | .readDbgctl fn seq => some (fn, 0x0B, seq)
  | .writeDbgctl fn seq => some (fn, 0x0C, seq)
  | .stageFirmware fn seq => some (fn, 0x10, seq)
  | .activateFirmware fn seq => some (fn, 0x11, seq)
  | .openSession fn seq => some (fn, 0x12, seq)
  | .closeSession fn seq => some (fn, 0x13, seq)
  | .assignOrRemoveLocalRange fn seq => some (fn, 0x14, seq)
  | .setDeviceNumber fn seq => some (fn, 0x15, seq)
  | .enrolOrRemoveKernelKey fn seq => some (fn, 0x16, seq)
  | .mailboxReservedCommand fn code seq => some (fn, code.toNat, seq)
  | _ => none

/-- The state in which a turn is put off that has met a request which must wait: the device's own turns come again, a command that
has been started stays in progress with BUSY set, and another event from outside is kept until the wait ends (R363, R367, R368). -/
def State.putOff (s : State) (t : Turn) : State :=
  match t with
  | .event e => match mailboxWrite e with
    | some (fn, code, seq) => (s.mbStart fn code seq.toNat).getD s
    | none => if s.ownTurns.contains t then s else { s with sched := { s.sched with waiting := s.sched.waiting ++ [t] } }
  | _ => s

/-- A turn. -/
def State.runTurn (s : State) (t : Turn) : Out :=
  andThen (s.doTurn t) (fun s1 => .next (if s1.sched.held then s.putOff t else s1))

/-! ## Placing an instruction -/

/-- The record of the launch that runs a placed instruction: one group of one wave with 512 registers and 32 scratchpad
units, in context 0. -/
def probeRecord : Record :=
  { entry := 0, args := 0, completion := 0, tag := 1, groups := 1, ctx := 0, regs := 63, persist := false, prio := 0, gang := 1
    waves := 1, pool := 0x00041020, spanKey := 0, spanFirst := 0, spanMembers := 1, spanDevices := 1, deps := [] }

/-- The launch, gang, group, wave and context that run it; their numbers are 0, which nothing else has. -/
def probeLaunch : Launch :=
  { record := probeRecord, source := .kernel, age := 0, state := .running, deps := [], placed := 1, ended := 0, viral := false
    fault := false, nest := false, stall := false }
def probeGang : Gang :=
  { launch := 0, number := 0, state := .resident, groups := [], cores := [0], since := 0, expired := false, marked := false
    saveAreas := [], records := [], barrier := 0 }
def probeGroup : Group :=
  { launch := 0, gang := 0, number := 0, pos := 0, nwaves := 1, core := some 0, slot := 0, base := 0, spad := [], tiles := []
    spadPoison := [], tilePoison := [], bars := List.replicate 16 ⟨0, 0, 0⟩, crews := List.replicate 4 none, detached := false
    exited := false, freed := false, savedSlots := [], savedToken := none, savedTakers := [], lastIssue := 0 }
def probeCtx : Ctx :=
  { tenant := 0, asid := 1, tableRoot := 0, trapbase := 0, arena := (0, 0), arenaTaken := [], reserve := (0, 0), reserveTaken := []
    mgmt := true, cap := false, strict := false, att := false, viral := false, queues := [], segments := [] }

/-- The slices of the wave, in a clause whose words to issue are given. -/
def probeSlice (ws : List W32) : SliceSt := { SliceSt.fresh 4 with clause := some ⟨ws, 0, 1, false⟩ }

def probeWave (ws : List W32) : Wave :=
  { group := 0, idx := 0, wid := 0, alloc := 512, born := 0
    task := { TaskCtx.fresh 0 0 0 63 0 true with slices := List.replicate 8 (probeSlice ws) }
    ended := none, chain := [], adopting := none, root := none, rootReady := false, queue := none, exited := false, ops := [], depth := 0, narm := false, saves := []
    stop := none, held := [], trapbase := 0, cause := 0, tinfo := 0, taddr := 0, pending := [], lost := false, note := false
    clstep := false, brkstop := false, halted := false, spanArrivals := 0, loop := [] }

/-- The state in which the next step issues the first of some words: a wave on core 0 stands in a clause whose words they
are, nothing else is on that core, and its issue slot is the next turn. -/
def State.placeWords (s : State) (ws : List W32) : State :=
  { s with
    kiln := { s.kiln with
      ctxs := if (s.ctx 0).isSome then s.kiln.ctxs else Tab.put s.kiln.ctxs 0 probeCtx
      launches := Tab.put s.kiln.launches 0 probeLaunch
      gangs := Tab.put s.kiln.gangs 0 probeGang
      groups := Tab.put (s.kiln.groups.filter (fun g => g.2.core != some 0)) 0 probeGroup
      waves := Tab.put s.kiln.waves 0 (probeWave ws) }
    sched := { s.sched with agenda := [.issue 0 0] } }

end Sys2Proof.Machine
end

