-- ==== Sys2Proof/Machine/Step.lean ====
section
/-! DEFINITION. The step: the next turn is taken. -/

namespace Sys2Proof.Machine

/-- One step of the device. -/
def step (s : State) : Host.Outcome State Fault Refusal := s.nextTurn.2.runTurn s.nextTurn.1

/-- The state with an instruction's words stored where the next step issues from: the first words of the clause in which
the only wave of core 0 stands. -/
def State.withFetchWord (s : State) (nbits w : Nat) : State := s.placeWords (tableWords nbits w)

end Sys2Proof.Machine
end

