-- ==== Sys2Proof/Safety.lean ====
section
/-! DEFINITION. What a safe run is, and the terms in which claims are stated: the form of sparse storage, a byte as an
agent sees it, a strand about to execute, and what an instruction or a step leaves alone. -/

namespace Sys2Proof.Machine

/-! ## Runs -/

/-- A step that does not end the run: neither a fault nor a refusal. -/
def State.goesOn (s : State) : Prop := ∃ t, step s = .next t

/-! ## Storage -/

/-- The canonical form of a memory: addresses strictly rising, no entry of what an unlisted address reads as, which
is 0 (log 1). -/
def Memory.wf (m : Mem) : Bool := Store.wf m

/-- Every memory behind the cores is in canonical form: local memory, and what lies at homes in fabric space. -/
def MemSys.wf (m : MemSys) : Bool := Memory.wf m.loc && m.homes.all (fun h => Memory.wf h.2)

/-- The registers of a task are in canonical form. -/
def TaskCtx.wf (t : TaskCtx) : Bool := Store.wf t.vregs && Store.wf t.scal && Store.wf t.preds

/-- So are those of every task that a slot holds, and the scratchpad and tiles of a group. -/
def Wave.wf (w : Wave) : Bool :=
  w.task.wf && w.chain.all (fun h => h.task.wf) && (match w.root with | some r => r.1.wf | none => true)
def Group.wf (g : Group) : Bool := Store.wf g.spad && Store.wf g.tiles

/-- Everything a state stores by address or register number is in canonical form, and the table of waves has rising
keys. -/
structure State.canonical (s : State) : Prop where
  mem : s.mem.wf = true
  waves : ∀ x ∈ s.kiln.waves, x.2.wf = true
  groups : ∀ x ∈ s.kiln.groups, x.2.wf = true
  parked : ∀ x ∈ s.kiln.parked, x.task.wf = true
  keys : (Tab.keys s.kiln.waves).Pairwise (· < ·)

/-- One byte at a virtual address as an agent's load of a scope reads it. -/
def State.seen (s : State) (ag : Agent) (sc : Scope) (va : Nat) : Nat := (s.loadVa ag va 1 sc (.plain true)).2.1

/-- One byte of a group's scratchpad. -/
def State.spadByte (s : State) (g a : Nat) : Byte := ((s.group g).map (fun x => x.spad.get a)).getD 0

/-! ## Exact values (R156, R157) -/

/-- The exact value of a finite value. -/
def Val.exact : Val → ℚ
  | .fin neg m e => (if neg then -1 else 1) * m * 2 ^ e
  | _ => 0

/-- R156's pseudocode round_fmt for a number other than 0. -/
def Fmt.exactRound (f : Fmt) (mode : Rnd) (x : ℚ) : ℚ :=
  let e : Int := max (Int.log 2 |x|) (1 - f.b)
  let q : ℚ := 2 ^ (e - f.m)
  let lo : ℚ := ⌊x / q⌋ * q
  let hi : ℚ := lo + q
  if lo = x then x
  else match mode with
    | .rne => if x - lo < hi - x then lo else if hi - x < x - lo then hi else if ⌊x / q⌋ % 2 = 0 then lo else hi
    | .rna => if x - lo < hi - x then lo else if hi - x < x - lo then hi else if |lo| < |hi| then hi else lo
    | .rtz => if |lo| < |hi| then lo else hi
    | .rdn => lo
    | .rup => hi

/-- A code is what a format delivers for a number of a sign: the number rounded once by R156, a zero with that sign; what R157's table
gives where that is greater in magnitude than the largest finite value, and that value where an infinity is saturated. -/
def Fmt.Rounds (f : Fmt) (mode : Rnd) (sat neg : Bool) (x : ℚ) (code : Nat) : Prop :=
  let r : ℚ := f.exactRound mode x
  let away : Bool := match mode with
    | .rne | .rna => true
    | .rtz => false
    | .rdn => neg
    | .rup => !neg
  if |r| ≤ (f.val f.maxf).exact then ∃ m e, f.val code = .fin neg m e ∧ (f.val code).exact = r
  else code = f.sign neg + (if away && !sat then f.inf.getD f.maxf else f.maxf)

/-! ## A strand about to execute -/

/-- The strand whose turn it is executes an instruction with this guard (R194, R212): the guard is not the never code
and no destination of the instruction is outstanding (R43). -/
structure Executes (s : State) (g : Guard) (dsts : List (Opd × Nat)) (e : Env) : Prop where
  env : s.env g = some e
  guard : guardNever g = false
  free : e.w.busy e.st dsts = false

/-- It reads its sources, none of them poisoned (R414). -/
structure Reads (s : State) (g : Guard) (dsts srcs : List (Opd × Nat)) (e : Env) : Prop extends Executes s g dsts e where
  clean : e.w.poisonLane srcs e.part = none

/-- It reads its sources in the leader alone, as a wave-wide instruction does (R212). -/
structure Leads (s : State) (g : Guard) (dsts srcs : List (Opd × Nat)) (e : Env) : Prop extends Executes s g dsts e where
  clean : e.w.poisonLane srcs e.lead = none

/-- A waiting instruction can be executed: as above, and it has no pending error to report (R383). -/
structure Waits (s : State) (g : Guard) (srcs : List (Opd × Nat)) (e : Env) : Prop extends Leads s g [] srcs e where
  quiet : s.reportAt e.u (fun x => x.names e.st) = none

/-- A long-latency instruction can be issued (R40, R41, R43): as above, and its completion flag can be raised. -/
structure Issues (s : State) (g : Guard) (fs : FlagSel) (dsts srcs : List (Opd × Nat)) (e : Env) : Prop
    extends Reads s g dsts srcs e where
  flag : e.w.flagFull e.sl (e.flag fs) = false

/-- The same for one that reads its sources in the leader alone. -/
structure LeadIssues (s : State) (g : Guard) (fs : FlagSel) (dsts srcs : List (Opd × Nat)) (e : Env) : Prop
    extends Leads s g dsts srcs e where
  flag : e.w.flagFull e.sl (e.flag fs) = false

/-- The state after a long-latency instruction has been issued in at least one lane: the flag is raised in the slices,
the operation with its captured operands is outstanding, and the strand stands after the instruction. -/
def State.issued (s : State) (e : Env) (i : Instr) (fs : FlagSel) (caps dsts : List (Opd × Nat)) : State :=
  ((s.takeUid.2.modWave e.u (fun w =>
    { w.raise e.sl (e.flag fs) with ops := w.ops ++ [e.op i s.takeUid.1 (e.flag fs) caps dsts] })).next e i)

/-- What a long-latency instruction does at issue: with no participating lane nothing but its passing (R212). -/
def State.begun (s : State) (e : Env) (i : Instr) (fs : FlagSel) (caps dsts : List (Opd × Nat)) : State :=
  if e.part = 0 then s.next e i else s.issued e i fs caps dsts

/-- An operation of this scope is not capped at tenant scope (R148). -/
def State.uncapped (s : State) (e : Env) (sc : Scope) : Prop := sc = .sys → ∀ c, s.ctx e.ag.ctx = some c → c.cap = false

/-- The guard field of an instruction's first word (R192). -/
def guardCode (i : Instr) : Nat := (((encode i).headD 0).extractLsb' 21 4).toNat

/-- The instructions that act, or are checked, although no lane participates: `sel`, which writes in every active lane,
the transfers, whose other lanes fall through, and those that the whole wave executes (R218, R222, R392). -/
def actsWithoutLanes (i : Instr) : Bool :=
  match i with
  | .sel .. | .br .. | .call .. | .jmpi .. | .ret .. | .calli .. | .regang .. | .wide .. | .endwide .. | .await ..
  | .lockTake .. | .park .. | .mma .. | .mmas .. => true
  | _ => false

/-- The instructions that are reporting points for asynchronous errors (R383). -/
def isReporting (i : Instr) : Bool :=
  match i with
  | .fence .. | .gateWait .. | .spanSync .. | .bobjHold .. | .yieldto .. | .tokTake .. | .emberWait .. | .exit .. | .await ..
  | .lockTake .. | .park .. => true
  | _ => false

/-- The instructions, among those that do nothing without lanes, that the whole wave executes (R402). -/
def needsWhole (i : Instr) : Bool :=
  match i with
  | .gatePass .. | .gateWait .. | .spanArrive .. | .spanSync .. => true
  | _ => false

/-- The instruction completes: in each participating lane its destination takes the lane's result, and the strand stands
after the instruction. For a 32-bit result, a pair, a predicate. -/
def Gives32 (s : State) (e : Env) (i : Instr) (d : Opd) (f : Nat → W32) : Prop :=
  exec i s = .next ((s.setWave e.u (e.w.wr d e.part f)).next e i)
def Gives64 (s : State) (e : Env) (i : Instr) (d : Opd) (f : Nat → W64) : Prop :=
  exec i s = .next ((s.setWave e.u (e.w.wrq d e.part f)).next e i)
def GivesPred (s : State) (e : Env) (i : Instr) (pd : Fin 8) (f : Nat → Bool) : Prop :=
  exec i s = .next ((s.setWave e.u (e.w.setPreds e.part pd.val f)).next e i)

/-! ## A mailbox command that runs -/

/-- A command runs (R363, R441, R461): its function takes it, no controller that it needs is stopped, being replaced or not ready, the
function may give it, and its unused payload bytes are 0. `s1` is the state with BUSY set. -/
structure CommandRuns (s s1 : State) (fn code : Nat) (seq : Byte) (pf : Bool) (needs : List Nat) (fields : List (Nat × Nat)) :
    Prop where
  start : s.mbStart fn code seq.toNat = some s1
  up : needs.any s1.stopped = false
  idle : needs.any s1.replacing = false
  ready : (needs.contains 1 && !s1.dev.firebox) = false
  may : (pf && fn != 0) = false
  clean : (s1.tenant fn).clean fields = true

/-! ## What is left alone -/

/-- Nothing behind the registers differs: memory, caches, translation caches, the device's own state, and every group
with its scratchpad, tiles, barriers and crews. -/
structure SameMemory (s t : State) : Prop where
  mem : t.mem = s.mem
  cores : t.cores = s.cores
  clusters : t.clusters = s.clusters
  groups : t.kiln.groups = s.kiln.groups

/-- Nothing of the device, KILN's tables or the tenants differs. -/
structure SameDevice (s t : State) : Prop where
  dev : t.dev = s.dev
  tenants : t.kiln.tenants = s.kiln.tenants
  launches : t.kiln.launches = s.kiln.launches
  gangs : t.kiln.gangs = s.kiln.gangs
  parked : t.kiln.parked = s.kiln.parked
  sessions : t.kiln.sessions = s.kiln.sessions
  spans : t.kiln.spans = s.kiln.spans
  scans : t.kiln.scans = s.kiln.scans

/-- Every wave but one is the same. -/
def OtherWavesSame (s t : State) (u : Nat) : Prop := ∀ v, v ≠ u → t.wave v = s.wave v

/-- The vector registers, scalars and predicates of a wave's running task. -/
def Wave.registers (w : Wave) : Store 32 × Store 32 × Store 8 := (w.task.vregs, w.task.scal, w.task.preds)

/-- What a trap saves into, and the special registers that the wave itself holds. -/
def Wave.specials (w : Wave) : Nat × W32 × W32 × W64 × List AsyncErr × List TrapSave × Nat :=
  (w.trapbase, w.cause, w.tinfo, w.taddr, w.pending, w.saves, w.depth)

/-- The destination and its registers, for an instruction whose only effect is to write them and move its strand on. -/
def writesOf (i : Instr) : Option (Opd × Nat) :=
  match i with
  | .iadd _ d _ _ | .isub _ d _ _ | .imul _ d _ _ | .imulhS _ d _ _ | .imulhN _ d _ _ | .iminS _ d _ _ | .iminN _ d _ _
  | .imaxS _ d _ _ | .imaxN _ d _ _ | .and _ d _ _ | .or _ d _ _ | .xor _ d _ _ | .andn _ d _ _ | .shl _ d _ _
  | .shr _ d _ _ | .sar _ d _ _ | .rotl _ d _ _ | .popc _ d _ | .clz _ d _ | .brev _ d _ | .iabs _ d _ | .mov _ d _
  | .sel _ d _ _ | .fadd _ d _ _ | .fsub _ d _ _ | .fmul _ d _ _ | .fmin _ d _ _ | .fmax _ d _ _ | .faddBf16x2 _ d _ _
  | .fmulBf16x2 _ d _ _ | .fminBf16x2 _ d _ _ | .fmaxBf16x2 _ d _ _ | .faddF16x2 _ d _ _ | .fmulF16x2 _ d _ _
  | .fminF16x2 _ d _ _ | .fmaxF16x2 _ d _ _ | .imad _ d _ _ _ | .iaddSat _ d _ _ _ | .isubSat _ d _ _ _ | .bfe _ d _ _ _
  | .bfi _ d _ _ _ | .fshl _ d _ _ _ | .fshr _ d _ _ _ | .pget _ d | .fabs _ d _ _ | .fneg _ d _ _ | .frcp _ d _ _
  | .fsqrt _ d _ _ | .frsqrt _ d _ _ | .fexp2 _ d _ _ | .flog2 _ d _ _ | .frnd _ d _ _ | .lmask _ d _ | .lred _ d _ _ _ _
  | .lscan _ d _ _ _ _ _ | .spanPeer _ d _ => some (d, 1)
  | .iaddQ _ d _ _ | .isubQ _ d _ _ | .shlQ _ d _ _ | .shrQ _ d _ _ | .sarQ _ d _ _ | .movQ _ d _ | .lea _ d _ _
  | .imulQ _ d _ _ | .qblk _ d _ _ => some (d, 2)
  | .dqblk _ d _ _ => some (d, 8)
  | .lpickIdx _ d _ _ ty _ | .lpickUp _ d _ _ ty _ | .lpickDown _ d _ _ ty _ | .lpickXor _ d _ _ ty _ => some (d, Ty.regs ty)
  | .cvt _ d _ dty sty _ _ =>
    some (d, if isPacked dty then 1 else if isPacked sty then Ty.packN sty else Ty.regs dty)
  | .sget _ d r => some (d, if sregIs64 r.toNat then 2 else 1)
  | _ => none

/-- The predicate, for an instruction whose only effect is to write it and move its strand on. -/
def writesPredOf (i : Instr) : Option (Fin 8) :=
  match i with
  | .icmp _ _ _ _ _ pd | .fcmp _ _ _ _ pd | .pbool _ _ _ _ pd | .lany _ _ pd | .lall _ _ pd => some pd
  | _ => none

/-- An instruction changes nothing of a wave but its registers and where its strand stands: another wave's registers,
the special registers, the slices' masks, stacks, windows and flags are as before. -/
structure OnlyRegisters (s t : State) (u : Nat) (w w' : Wave) : Prop where
  memory : SameMemory s t
  dev : t.dev = s.dev
  others : OtherWavesSame s t u
  before : s.wave u = some w
  after : t.wave u = some w'
  specials : w'.specials = w.specials
  slices : ∀ i, (w'.slice i).mask = (w.slice i).mask ∧ (w'.slice i).exited = (w.slice i).exited ∧
    (w'.slice i).stack = (w.slice i).stack ∧ (w'.slice i).window = (w.slice i).window ∧ (w'.slice i).flags = (w.slice i).flags

end Sys2Proof.Machine
end

