-- ==== Sys2Proof/Certificates/Slice0/Obligations.lean ====
section
/-! DEFINITION. What is claimed of the machine, for the provers. -/

section

open Sys2Proof Sys2Proof.Machine

/-! ## Integer, bit and predicate instructions -/

/-- R215: the results of the A-form integer instructions, for a strand that executes and reads clean sources; those of the
instructions of one source are said bit by bit. -/
def Obligations.IntegerResults : Prop :=
  (∀ (s : Machine.State) (g : Guard) (d a b : Opd) (e : Env), Reads s g [(d, 1)] [(a, 1), (b, 1)] e →
     let x (l : Nat) : W32 := e.w.rd a l
     let y (l : Nat) : W32 := e.w.rd b l
     Gives32 s e (.iadd g d a b) d (fun l => BitVec.ofNat 32 ((x l).toNat + (y l).toNat)) ∧
     Gives32 s e (.isub g d a b) d (fun l => BitVec.ofInt 32 ((x l).toNat - (y l).toNat)) ∧
     Gives32 s e (.imul g d a b) d (fun l => BitVec.ofNat 32 ((x l).toNat * (y l).toNat)) ∧
     Gives32 s e (.imulhS g d a b) d (fun l => BitVec.ofInt 32 ((x l).toInt * (y l).toInt / 2 ^ 32)) ∧
     Gives32 s e (.imulhN g d a b) d (fun l => BitVec.ofNat 32 ((x l).toNat * (y l).toNat / 2 ^ 32)) ∧
     Gives32 s e (.iminS g d a b) d (fun l => if (x l).toInt ≤ (y l).toInt then x l else y l) ∧
     Gives32 s e (.imaxS g d a b) d (fun l => if (x l).toInt ≥ (y l).toInt then x l else y l) ∧
     Gives32 s e (.iminN g d a b) d (fun l => if (x l).toNat ≤ (y l).toNat then x l else y l) ∧
     Gives32 s e (.imaxN g d a b) d (fun l => if (x l).toNat ≥ (y l).toNat then x l else y l) ∧
     Gives32 s e (.and g d a b) d (fun l => x l &&& y l) ∧
     Gives32 s e (.or g d a b) d (fun l => x l ||| y l) ∧
     Gives32 s e (.xor g d a b) d (fun l => x l ^^^ y l) ∧
     Gives32 s e (.andn g d a b) d (fun l => x l &&& ~~~y l)) ∧
  (∀ (s : Machine.State) (g : Guard) (d a : Opd) (e : Env), Reads s g [(d, 1)] [(a, 1)] e →
     let x (l : Nat) : W32 := e.w.rd a l
     Gives32 s e (.popc g d a) d (fun l => BitVec.ofNat 32 ((List.range 32).countP (fun i => (x l).getLsbD i))) ∧
     (∃ f : Nat → W32, Gives32 s e (.clz g d a) d f ∧ ∀ l, (x l = 0 → f l = 32) ∧
       (x l ≠ 0 → (f l).toNat < 32 ∧ (x l).getLsbD (31 - (f l).toNat) = true ∧
         ∀ i, 31 - (f l).toNat < i → (x l).getLsbD i = false)) ∧
     (∃ f : Nat → W32, Gives32 s e (.brev g d a) d f ∧ ∀ l i, i < 32 → (f l).getLsbD i = (x l).getLsbD (31 - i)) ∧
     Gives32 s e (.iabs g d a) d (fun l => if (x l).toInt < 0 then BitVec.ofInt 32 (-(x l).toInt) else x l) ∧
     Gives32 s e (.mov g d a) d x)

/-- R216 to R219: shifts and the rotation, at width 32 and, for a pair, at width 64; the pair instructions, `lea`, `sel` in
every active lane, and `nop`. -/
def Obligations.ShiftPairResults : Prop :=
  (∀ (s : Machine.State) (g : Guard) (d a b : Opd) (e : Env),
     let n (l : Nat) : Nat := (e.w.rd b l).toNat
     (Reads s g [(d, 1)] [(a, 1), (b, 1)] e →
       let x (l : Nat) : W32 := e.w.rd a l
       Gives32 s e (.shl g d a b) d (fun l => BitVec.ofNat 32 ((x l).toNat * 2 ^ n l)) ∧
       Gives32 s e (.shr g d a b) d (fun l => BitVec.ofNat 32 ((x l).toNat / 2 ^ n l)) ∧
       Gives32 s e (.sar g d a b) d (fun l => BitVec.ofInt 32 ((x l).toInt / (2 ^ n l : Nat))) ∧
       Gives32 s e (.rotl g d a b) d (fun l => if n l % 32 = 0 then x l
         else BitVec.ofNat 32 ((x l).toNat * 2 ^ (n l % 32)) ||| BitVec.ofNat 32 ((x l).toNat / 2 ^ (32 - n l % 32)))) ∧
     (Reads s g [(d, 2)] [(a, 2), (b, 1)] e →
       let x (l : Nat) : W64 := e.w.rdq a l
       Gives64 s e (.shlQ g d a b) d (fun l => BitVec.ofNat 64 ((x l).toNat * 2 ^ n l)) ∧
       Gives64 s e (.shrQ g d a b) d (fun l => BitVec.ofNat 64 ((x l).toNat / 2 ^ n l)) ∧
       Gives64 s e (.sarQ g d a b) d (fun l => BitVec.ofInt 64 ((x l).toInt / (2 ^ n l : Nat))))) ∧
  (∀ (s : Machine.State) (g : Guard) (d a b : Opd) (e : Env),
     (Reads s g [(d, 2)] [(a, 2), (b, 2)] e →
       Gives64 s e (.iaddQ g d a b) d (fun l => BitVec.ofNat 64 ((e.w.rdq a l).toNat + (e.w.rdq b l).toNat)) ∧
       Gives64 s e (.isubQ g d a b) d (fun l => BitVec.ofInt 64 ((e.w.rdq a l).toNat - (e.w.rdq b l).toNat))) ∧
     (Reads s g [(d, 2)] [(a, 2)] e → Gives64 s e (.movQ g d a) d (fun l => e.w.rdq a l)) ∧
     (Reads s g [(d, 2)] [(a, 2), (b, 1)] e →
       Gives64 s e (.lea g d a b) d (fun l => BitVec.ofInt 64 ((e.w.rdq a l).toNat + (e.w.rd b l).toInt))) ∧
     (Executes s g [(d, 1)] e → e.w.task.poison = [] →
       exec (.sel g d a b) s = .next ((s.setWave e.u (e.w.wr d e.act (fun l =>
         if e.w.guard g l then e.w.rd a l else e.w.rd b l))).next e (.sel g d a b))) ∧
     (s.env g = some e → exec (.nop g) s = .next (s.next e (.nop g))))

/-- R225, R229: the compare and the predicate instructions write their predicate in each participating lane; `pget`
and `pset` move the predicates of a lane. The last clause is about predicates in canonical form, which every step keeps
(`CanonicalKept`). -/
def Obligations.PredicateResults : Prop :=
  ∀ (s : Machine.State) (g : Guard) (d a b : Opd) (ty : Ty) (c : Cond) (pa pb pd : Fin 8) (tt : BitVec 4) (e : Env),
    (ty = .s32 ∨ ty = .n32 → Reads s g [] [(a, 1), (b, 1)] e →
      let x (o : Opd) (l : Nat) : Int := if ty = .s32 then (e.w.rd o l).toInt else (e.w.rd o l).toNat
      GivesPred s e (.icmp g a b ty c pd) pd (fun l => Cond.onInt c (x a l) (x b l))) ∧
    (ty = .s64 ∨ ty = .n64 → Reads s g [] [(a, 2), (b, 2)] e →
      let x (o : Opd) (l : Nat) : Int := if ty = .s64 then (e.w.rdq o l).toInt else (e.w.rdq o l).toNat
      GivesPred s e (.icmp g a b ty c pd) pd (fun l => Cond.onInt c (x a l) (x b l))) ∧
    (Executes s g [] e → GivesPred s e (.pbool g tt pa pb pd) pd (fun l =>
      tt.getLsbD (2 * (if e.w.pred l pa then 1 else 0) + (if e.w.pred l pb then 1 else 0)))) ∧
    (Executes s g [(d, 1)] e → ∃ f : Nat → W32, Gives32 s e (.pget g d) d f ∧
      ∀ l i, (f l).getLsbD i = (decide (i < 8) && e.w.pred l i)) ∧
    (Reads s g [] [(a, 1)] e → Store.wf e.w.task.preds = true → ∃ w' : Wave, exec (.pset g a) s = .next ((s.setWave e.u w').next e (.pset g a)) ∧
      w'.task.vregs = e.w.task.vregs ∧ w'.task.scal = e.w.task.scal ∧
      ∀ l p, l < 32 → p < 8 → w'.pred l p =
        if e.part.getLsbD l ∧ p ≠ 0 then (e.w.rd a l).getLsbD p else e.w.pred l p)

/-- R226, R227, R228: the arithmetic, field and funnel-shift forms of group INTX. -/
def Obligations.IntxResults : Prop :=
  ∀ (s : Machine.State) (g : Guard) (d a b c : Opd) (ty : Ty) (e : Env),
    (Reads s g [(d, 1)] [(a, 1), (b, 1), (c, 1)] e →
      let x (l : Nat) : Nat := (e.w.rd a l).toNat
      let y (l : Nat) : Nat := (e.w.rd b l).toNat
      let z (l : Nat) : Nat := (e.w.rd c l).toNat
      let p (l : Nat) : Nat := min (z l % 256) 32
      let n (l : Nat) : Nat := min (z l / 256 % 256) (32 - p l)
      Gives32 s e (.imad g d a b c) d (fun l => BitVec.ofNat 32 (x l * y l + z l)) ∧
      Gives32 s e (.fshl g d a b c) d (fun l =>
        BitVec.ofNat 32 ((x l * 2 ^ 32 + y l) * 2 ^ (z l % 32) % 2 ^ 64 / 2 ^ 32)) ∧
      Gives32 s e (.fshr g d a b c) d (fun l => BitVec.ofNat 32 ((x l * 2 ^ 32 + y l) / 2 ^ (z l % 32))) ∧
      (∃ f : Nat → W32, Gives32 s e (.bfi g d a b c) d f ∧ ∀ l i, i < 32 → (f l).getLsbD i =
        if p l ≤ i ∧ i < p l + n l then (e.w.rd b l).getLsbD (i - p l) else (e.w.rd a l).getLsbD i)) ∧
    (Reads s g [(d, 2)] [(a, 2), (b, 2)] e →
      Gives64 s e (.imulQ g d a b) d (fun l => BitVec.ofNat 64 ((e.w.rdq a l).toNat * (e.w.rdq b l).toNat))) ∧
    (ty = .s32 ∨ ty = .n32 → Reads s g [(d, 1)] [(a, 1), (b, 1)] e →
      let v (o : Opd) (l : Nat) : Int := if ty = .s32 then (e.w.rd o l).toInt else (e.w.rd o l).toNat
      let sat (r : Int) : W32 := BitVec.ofInt 32 (if ty = .s32 then min (max r (-2 ^ 31)) (2 ^ 31 - 1) else min (max r 0) (2 ^ 32 - 1))
      let p (l : Nat) : Nat := min ((e.w.rd b l).toNat % 256) 32
      let n (l : Nat) : Nat := min ((e.w.rd b l).toNat / 256 % 256) (32 - p l)
      Gives32 s e (.iaddSat g d a b ty) d (fun l => sat (v a l + v b l)) ∧
      Gives32 s e (.isubSat g d a b ty) d (fun l => sat (v a l - v b l)) ∧
      (∃ f : Nat → W32, Gives32 s e (.bfe g d a b ty) d f ∧ ∀ l, (n l = 0 → f l = 0) ∧
        (n l ≠ 0 → ∀ i, i < 32 → (f l).getLsbD i = if i < n l then (e.w.rd a l).getLsbD (p l + i)
          else ty == .s32 && (e.w.rd a l).getLsbD (p l + n l - 1))))

/-! ## Floating point -/

/-- R220, R231, R387: a checked addition, subtraction, multiplication or fused multiply-add completes with the rounded
result where no soft error has been injected and the shadow check of each lane's result passes. -/
def Obligations.CheckedArithmeticResults : Prop :=
  ∀ (s : Machine.State) (g : Guard) (d a b c : Opd) (ty : Ty) (rnd : Rnd) (e : Env), s.sched.glitch = [] →
    Ty.isFpx ty = true → Reads s g [(d, 1)] [(a, 1), (b, 1), (c, 1)] e → Reads s g [(d, 1)] [(a, 1), (b, 1)] e →
    let f := fpFmt ty
    let h (n : Nat) (o : Opd) (l : Nat) : Nat := halfOf ty n (e.w.rd o l)
    let put (op : Nat → Nat → Nat → Nat) (l : Nat) : W32 := fpOp3 ty (fun _ => op) (e.w.rd a l) (e.w.rd b l) (e.w.rd c l)
    let passes (r : Nat → W32) (q : Nat → Nat → Nat → Bool) : Prop :=
      ∀ l, e.part.getLsbD l = true → ∀ n, n < (if isPair ty then 2 else 1) → q n l (halfOf ty n (r l)) = true
    let sum := fun r => put (fun x y _ => f.add r x y)
    let dif := fun r => put (fun x y _ => f.sub r x y)
    let prd := fun r => put (fun x y _ => f.mul r x y)
    let fus := put (f.fma rnd)
    (passes (sum rnd) (fun n l => f.shadowAdd rnd false (h n a l) (h n b l)) →
      Gives32 s e (.faddFpx g d a b ty rnd) d (sum rnd)) ∧
    (passes (dif rnd) (fun n l => f.shadowAdd rnd true (h n a l) (h n b l)) →
      Gives32 s e (.fsubFpx g d a b ty rnd) d (dif rnd)) ∧
    (passes (prd rnd) (fun n l => f.shadowMul rnd (h n a l) (h n b l)) →
      Gives32 s e (.fmulFpx g d a b ty rnd) d (prd rnd)) ∧
    (passes fus (fun n l => f.shadowFma rnd (h n a l) (h n b l) (h n c l)) →
      Gives32 s e (.ffma g d a b c ty rnd) d fus) ∧
    (passes (sum .rne) (fun n l => f.shadowAdd .rne false (h n a l) (h n b l)) →
      (ty = .f32 → Gives32 s e (.fadd g d a b) d (sum .rne)) ∧
      (ty = .bf16x2 → Gives32 s e (.faddBf16x2 g d a b) d (sum .rne)) ∧
      (ty = .f16x2 → Gives32 s e (.faddF16x2 g d a b) d (sum .rne))) ∧
    (passes (dif .rne) (fun n l => f.shadowAdd .rne true (h n a l) (h n b l)) →
      ty = .f32 → Gives32 s e (.fsub g d a b) d (dif .rne)) ∧
    (passes (prd .rne) (fun n l => f.shadowMul .rne (h n a l) (h n b l)) →
      (ty = .f32 → Gives32 s e (.fmul g d a b) d (prd .rne)) ∧
      (ty = .bf16x2 → Gives32 s e (.fmulBf16x2 g d a b) d (prd .rne)) ∧
      (ty = .f16x2 → Gives32 s e (.fmulF16x2 g d a b) d (prd .rne)))

/-- R221, R231, R232, R233: the operations that round nothing or one operand, and the compare. -/
def Obligations.FloatUnaryResults : Prop :=
  ∀ (s : Machine.State) (g : Guard) (d a b : Opd) (ty : Ty) (rnd : Rnd) (c : Cond) (pd : Fin 8) (e : Env),
    (Reads s g [(d, 1)] [(a, 1), (b, 1)] e →
      let v (ty : Ty) (mx : Bool) (l : Nat) : W32 := fpOp2 ty (fun f => f.minmax mx) (e.w.rd a l) (e.w.rd b l)
      Gives32 s e (.fmin g d a b) d (v .f32 false) ∧ Gives32 s e (.fmax g d a b) d (v .f32 true) ∧
      Gives32 s e (.fminBf16x2 g d a b) d (v .bf16x2 false) ∧ Gives32 s e (.fmaxBf16x2 g d a b) d (v .bf16x2 true) ∧
      Gives32 s e (.fminF16x2 g d a b) d (v .f16x2 false) ∧ Gives32 s e (.fmaxF16x2 g d a b) d (v .f16x2 true)) ∧
    (Reads s g [(d, 1)] [(a, 1)] e →
      let x (l : Nat) : W32 := e.w.rd a l
      Gives32 s e (.fabs g d a ty) d (fun l => fpOp1 ty Fmt.abs (x l)) ∧
      Gives32 s e (.fneg g d a ty) d (fun l => fpOp1 ty Fmt.negate (x l)) ∧
      Gives32 s e (.frcp g d a rnd) d (fun l => frcp32 rnd (x l)) ∧
      Gives32 s e (.fsqrt g d a rnd) d (fun l => fsqrt32 rnd (x l)) ∧
      Gives32 s e (.frsqrt g d a rnd) d (fun l => frsqrt32 rnd (x l)) ∧
      Gives32 s e (.fexp2 g d a rnd) d (fun l => fexp2_32 rnd (x l)) ∧
      Gives32 s e (.flog2 g d a rnd) d (fun l => flog2_32 rnd (x l)) ∧
      Gives32 s e (.frnd g d a rnd) d (fun l => frnd32 rnd (x l))) ∧
    (Reads s g [] [(a, 1), (b, 1)] e →
      GivesPred s e (.fcmp g a b c pd) pd (fun l => Cond.onVal c (f32 (e.w.rd a l)) (f32 (e.w.rd b l))))

/-- R155 to R158: a non-zero finite value is delivered as R156 rounds its exact value once, by every mode, subnormal codes included,
and by R157 beyond the largest finite value; NaN, infinities and zeros as in R158. The sums and products that `fadd`, `fsub`, `fmul`
and `ffma` round are exact, and a sum of zero has the sign of R220; `frcp` rounds the exact quotient. R221, R232, R233, R238, R239:
which operand `fmin` and `fmax` choose, the special inputs of the unary functions under every rounding, unordered pairs with −0 equal
to +0, and the values that blocks take at the ends of their scales. -/
def Obligations.SpecialValues : Prop :=
  ((∀ (f : Fmt) (r : Rnd) (sat neg : Bool) (m : Nat) (k : Int), f ∈ [fF32, fF16, fBf16, fE4m3, fE5m2, fE2m1, fE3m5] →
      (f.signed = true ∨ neg = false) →
      (f.conv r sat .nan = f.nan ∧ f.conv r sat (.fin neg 0 k) = f.sign neg ∧
        f.conv r sat (.inf neg) = f.sign neg + (if sat then f.maxf else f.inf.getD f.maxf)) ∧
      (m ≠ 0 → f.Rounds r sat neg (Val.exact (.fin neg m k)) (f.conv r sat (.fin neg m k)))) ∧
   (∀ (rdn na nb : Bool) (ma mb : Nat) (ka kb : Int),
      let a : Val := .fin na ma ka
      let b : Val := .fin nb mb kb
      (∃ n m k, a.add rdn b = .fin n m k ∧ Val.exact (.fin n m k) = a.exact + b.exact ∧
        (m = 0 → n = if na = nb then na else rdn) ∧ (m ≠ 0 → n = decide (a.exact + b.exact < 0))) ∧
      (∃ m k, a.mul b = .fin (na != nb) m k ∧ Val.exact (.fin (na != nb) m k) = a.exact * b.exact)) ∧
   (∀ (f : Fmt) (r : Rnd) (a b c : Nat),
      f.add r a b = f.conv r false ((f.val a).add (r == .rdn) (f.val b)) ∧
      f.sub r a b = f.conv r false ((f.val a).add (r == .rdn) (f.val b).neg) ∧ f.mul r a b = f.conv r false ((f.val a).mul (f.val b)) ∧
      f.fma r a b c = f.conv r false (((f.val a).mul (f.val b)).add (r == .rdn) (f.val c))) ∧
   (∀ (r : Rnd) (x : W32) (n : Bool) (m : Nat) (k : Int), f32 x = .fin n m k → m ≠ 0 →
      fF32.Rounds r false n (1 / (f32 x).exact) (frcp32 r x).toNat)) ∧
  (∀ (f : Fmt) (a b : Nat), f ∈ [fF32, fF16, fBf16] → a < 2 ^ f.width → b < 2 ^ f.width →
     let x := f.val a
     let y := f.val b
     ∀ mx : Bool,
       (x = .nan → y = .nan → f.minmax mx a b = f.nan) ∧
       (x = .nan → y ≠ .nan → f.minmax mx a b = b) ∧
       (x ≠ .nan → y = .nan → f.minmax mx a b = a) ∧
       (x.isZero = true → y.isZero = true → a ≠ b → f.minmax mx a b = if mx then 0 else 2 ^ (f.width - 1)) ∧
       (x ≠ .nan → y ≠ .nan → x.lt y = true → f.minmax mx a b = if mx then b else a) ∧
       (x ≠ .nan → y ≠ .nan → y.lt x = true → f.minmax mx a b = if mx then a else b)) ∧
  (∀ (r : Rnd) (x : W32),
     let pz : W32 := 0
     let nz : W32 := 0x80000000
     let pi : W32 := 0x7F800000
     let ni : W32 := 0xFF800000
     let nn : W32 := 0x7FC00000
     (frcp32 r pz = pi ∧ frcp32 r nz = ni ∧ frcp32 r pi = pz ∧ frcp32 r ni = nz) ∧
     (fsqrt32 r pz = pz ∧ fsqrt32 r nz = nz ∧ fsqrt32 r pi = pi ∧ fsqrt32 r ni = nn) ∧
     (frsqrt32 r pz = pi ∧ frsqrt32 r nz = ni ∧ frsqrt32 r pi = pz ∧ frsqrt32 r ni = nn) ∧
     (fexp2_32 r pz = 0x3F800000 ∧ fexp2_32 r nz = 0x3F800000 ∧ fexp2_32 r pi = pi ∧ fexp2_32 r ni = pz) ∧
     (flog2_32 r pz = ni ∧ flog2_32 r nz = ni ∧ flog2_32 r pi = pi ∧ flog2_32 r ni = nn ∧ flog2_32 r 0x3F800000 = pz) ∧
     (frnd32 r pz = pz ∧ frnd32 r nz = nz ∧ frnd32 r pi = pi ∧ frnd32 r ni = ni) ∧
     (f32 x = .nan → frcp32 r x = nn ∧ fsqrt32 r x = nn ∧ frsqrt32 r x = nn ∧ fexp2_32 r x = nn ∧ flog2_32 r x = nn ∧
       frnd32 r x = nn) ∧
     (∀ m k, m ≠ 0 → f32 x = .fin true m k → fsqrt32 r x = nn ∧ frsqrt32 r x = nn ∧ flog2_32 r x = nn)) ∧
  (∀ x y : Val,
     ((x = .nan ∨ y = .nan) → Cond.onVal .uo x y = true ∧ Cond.onVal .ord x y = false ∧ Cond.onVal .ne x y = true ∧
       Cond.onVal .eq x y = false ∧ Cond.onVal .lt x y = false ∧ Cond.onVal .le x y = false ∧ Cond.onVal .gt x y = false ∧
       Cond.onVal .ge x y = false) ∧
     (x ≠ .nan → y ≠ .nan → Cond.onVal .uo x y = false ∧ Cond.onVal .ord x y = true ∧
       Cond.onVal .ne x y = !Cond.onVal .eq x y ∧ Cond.onVal .gt x y = Cond.onVal .lt y x ∧
       Cond.onVal .ge x y = Cond.onVal .le y x) ∧
     (x.isZero = true → y.isZero = true → Cond.onVal .eq x y = true)) ∧
  (∀ (xs : List Val) (band : Val) (elem scale : Nat), elem < 16 → scale < 256 →
     ((band.isZero = true ∨ band.isFinite = false) → quantBlock xs band = (0xFF, List.replicate 8 0)) ∧
     ((elem = 0 ∨ elem = 8 ∨ scale = 0) → rne32 (elemValue elem scale band) = 0) ∧
     (elem ≠ 0 → elem ≠ 8 → scale = 0xFF → rne32 (elemValue elem scale band) = 0x7FC00000) ∧
     (elem ≠ 0 → elem ≠ 8 → scale ≠ 0 → scale ≠ 0xFF →
       (band = .nan → rne32 (elemValue elem scale band) = 0x7FC00000) ∧
       (∀ n, band = .inf n → rne32 (elemValue elem scale band) = if (n != decide (8 < elem)) then 0xFF800000 else 0x7F800000) ∧
       (∀ n k, band = .fin n 0 k →
         rne32 (elemValue elem scale band) = if (n != decide (8 < elem)) then 0x80000000 else 0)))

/-! ## Conversions and lanes -/

/-- R235 to R239: `cvt` in its three kinds, `qblk` and `dqblk`. -/
def Obligations.ConversionResults : Prop :=
  ∀ (s : Machine.State) (g : Guard) (d a b : Opd) (dty sty : Ty) (rnd : Rnd) (sat : Bool) (e : Env),
    let x (k l : Nat) : W32 := e.w.part a k l
    (isPacked dty = true → Reads s g [(d, 1)] [(a, Ty.packN dty)] e →
      Gives32 s e (.cvt g d a dty sty rnd sat) d (fun l => packElems dty rnd sat (Ty.packN dty) (fun k => x k l))) ∧
    (isPacked dty = false → isPacked sty = true → Reads s g [(d, Ty.packN sty)] [(a, 1)] e →
      exec (.cvt g d a dty sty rnd sat) s = .next ((s.setWave e.u (e.w.wrN d e.part
        (fun k l => unpackElem sty sat (e.w.rd a l) k) (Ty.packN sty))).next e (.cvt g d a dty sty rnd sat))) ∧
    (isPacked dty = false → isPacked sty = false → Reads s g [(d, Ty.regs dty)] [(a, Ty.regs sty)] e →
      exec (.cvt g d a dty sty rnd sat) s = .next ((s.setWave e.u (e.w.wrk (Ty.regs dty) d e.part (fun l =>
        (convElem dty sty rnd sat ((e.w.rdk (Ty.regs sty) a l).setWidth 64)).setWidth 128))).next e
        (.cvt g d a dty sty rnd sat))) ∧
    (Reads s g [(d, 2)] [(a, 8), (b, 1)] e →
      let q (l : Nat) := quantBlock ((List.range 8).map (fun k => f32 (x k l))) (bandOf (e.w.rd b l))
      Gives64 s e (.qblk g d a b) d (fun l =>
        BitVec.ofNat 64 ((List.range 8).foldl (fun acc k => acc + (q l).2.getD k 0 * 16 ^ k) 0 + (q l).1 * 2 ^ 32))) ∧
    (Reads s g [(d, 8)] [(a, 2), (b, 1)] e →
      exec (.dqblk g d a b) s = .next ((s.setWave e.u (e.w.wrN d e.part (fun k l =>
        rne32 (elemValue ((e.w.rdq a l).toNat / 16 ^ k % 16) ((e.w.rdq a l).toNat / 2 ^ 32 % 256) (bandOf (e.w.rd b l)))) 8)).next e
        (.dqblk g d a b)))

/-- R242 to R245: votes, shuffles, reductions and scans, for the participating lanes of a strand. -/
def Obligations.LaneResults : Prop :=
  ∀ (s : Machine.State) (g : Guard) (d a b : Opd) (ty : Ty) (seg : Seg) (op : LaneOp) (excl : Bool) (ps pd : Fin 8) (e : Env),
    let base (l : Nat) : Nat := l / Seg.width seg * Seg.width seg
    let lanes (l : Nat) : List Nat := (bitsOf e.part).filter (fun k => base k == base l)
    let n (l : Nat) : Nat := (e.w.rd b l).toNat
    let w := Seg.width seg
    let pick (src : Nat → Nat) (l : Nat) : W128 :=
      if e.part.getLsbD (src l) then e.w.rdk (Ty.regs ty) a (src l) else 0
    (Executes s g [] e →
      GivesPred s e (.lany g ps pd) pd (fun _ => decide (∃ l ∈ bitsOf e.part, e.w.pred l ps = true)) ∧
      GivesPred s e (.lall g ps pd) pd (fun _ => decide (∀ l ∈ bitsOf e.part, e.w.pred l ps = true))) ∧
    (Executes s g [(d, 1)] e → ∃ v : W32, Gives32 s e (.lmask g d ps) d (fun _ => v) ∧
      ∀ l, l < 32 → v.getLsbD l = (e.part.getLsbD l && e.w.pred l ps)) ∧
    (Reads s g [(d, Ty.regs ty)] [(a, Ty.regs ty), (b, 1)] e →
      (∀ src : Nat → Nat, src = (fun l => base l + n l % w) →
        exec (.lpickIdx g d a b ty seg) s =
          .next ((s.setWave e.u (e.w.wrk (Ty.regs ty) d e.part (pick src))).next e (.lpickIdx g d a b ty seg))) ∧
      (∀ src : Nat → Nat, src = (fun l => if n l ≥ w ∨ (l : Int) - n l < base l then l else l - n l) →
        exec (.lpickUp g d a b ty seg) s =
          .next ((s.setWave e.u (e.w.wrk (Ty.regs ty) d e.part (pick src))).next e (.lpickUp g d a b ty seg))) ∧
      (∀ src : Nat → Nat, src = (fun l => if n l ≥ w ∨ l + n l ≥ base l + w then l else l + n l) →
        exec (.lpickDown g d a b ty seg) s =
          .next ((s.setWave e.u (e.w.wrk (Ty.regs ty) d e.part (pick src))).next e (.lpickDown g d a b ty seg))) ∧
      (∀ src : Nat → Nat, src = (fun l => l ^^^ (n l % w)) →
        exec (.lpickXor g d a b ty seg) s =
          .next ((s.setWave e.u (e.w.wrk (Ty.regs ty) d e.part (pick src))).next e (.lpickXor g d a b ty seg)))) ∧
    (Reads s g [(d, 1)] [(a, 1)] e →
      Gives32 s e (.lred g d a op ty seg) d (fun l => (foldLanes op ty (e.w.rd a) (lanes l)).getD 0) ∧
      Gives32 s e (.lscan g d a op ty seg excl) d (fun l =>
        (foldLanes op ty (e.w.rd a) ((lanes l).filter (fun k => k < l || (!excl && k == l)))).getD (laneIdentity op ty)))

/-! ## Control -/

/-- R222, R223, R251: branches and calls move the strand as `Wave.transfer` says (R31), a call with its link written
first; a transfer inside a wide region needs one guard value in all lanes (R38). R31: where a slice's active lanes go. One
address: the current path moves there. A direct transfer whose lanes split between a target and the fall-through: the target
is current and the fall-through is pushed. An indirect transfer to k addresses: the lowest is current and the k − 1 others are pushed,
by ascending address (the model's choice, log 103); none where that makes more than 8 entries (R400). R28: slices of one strand then
stay in one strand exactly if they stand at one program counter, and no strands merge. -/
def Obligations.Transfers : Prop :=
  (∀ (s : Machine.State) (g : Guard) (off : BitVec 21) (d a : Opd) (e : Env) (w' : Wave),
     let plain : Prop := e.w.task.wide = none ∨ e.part = 0 ∨ e.part = e.act
     let goes (i : Instr) (w : Wave) (tgt : Nat → Nat) (ind : Bool) : Prop :=
       w.transfer e.st (fun l => if e.part.getLsbD l then tgt l else e.pc + 4 * (encode i).length)
         (e.pc + 4 * (encode i).length) ind = .ok w'
     let rel : Nat := (((e.pc : Int) + 4 * off.toInt) % (2 ^ 56 : Nat)).toNat
     let reg (l : Nat) : Nat := (e.w.rdq a l).toNat
     let legal : Prop := ∀ l, e.part.getLsbD l = true → reg l % 4 = 0 ∧ reg l < 2 ^ 56
     let link (i : Instr) (p : Opd) : Wave := e.w.wrq p e.part (fun _ => BitVec.ofNat 64 (e.pc + 4 * (encode i).length))
     plain →
       (Executes s g [] e → goes (.br g off) e.w (fun _ => rel) false → exec (.br g off) s = .next (s.setWave e.u w')) ∧
       (Executes s g [(.s 30, 2)] e → goes (.call g off) (link (.call g off) (.s 30)) (fun _ => rel) false →
         exec (.call g off) s = .next (s.setWave e.u w')) ∧
       (legal → Reads s g [] [(a, 2)] e → goes (.jmpi g a) e.w reg true → exec (.jmpi g a) s = .next (s.setWave e.u w')) ∧
       (legal → Reads s g [] [(a, 2)] e → goes (.ret g a) e.w reg true → exec (.ret g a) s = .next (s.setWave e.u w')) ∧
       (legal → Reads s g [(d, 2)] [(a, 2)] e → goes (.calli g d a) (link (.calli g d a) d) reg true →
         exec (.calli g d a) s = .next (s.setWave e.u w'))) ∧
  (∀ (x : SliceSt) (lane0 : Nat) (tgt : Nat → Nat) (fall t : Nat) (ind : Bool), x.mask ≠ 0 →
     (((∀ i, x.mask.getLsbD i = true → tgt (lane0 + i) = t) → x.stack.length ≤ 8 →
       ∃ y, x.transfer lane0 tgt fall ind = some y ∧ y.pc = t ∧ y.mask = x.mask ∧ y.stack = x.stack ∧ y.exited = x.exited ∧
         y.window = x.window ∧ y.flags = x.flags ∧ y.strand = x.strand) ∧
     (t ≠ fall → (∀ i, x.mask.getLsbD i = true → tgt (lane0 + i) = t ∨ tgt (lane0 + i) = fall) →
       (∃ i, x.mask.getLsbD i = true ∧ tgt (lane0 + i) = t) → (∃ i, x.mask.getLsbD i = true ∧ tgt (lane0 + i) = fall) →
       x.stack.length < 8 →
       ∃ y p, x.transfer lane0 tgt fall false = some y ∧ y.pc = t ∧ y.stack = x.stack ++ [p] ∧ p.pc = fall ∧
         (∀ i, y.mask.getLsbD i = (x.mask.getLsbD i && tgt (lane0 + i) == t)) ∧
         (∀ i, p.mask.getLsbD i = (x.mask.getLsbD i && tgt (lane0 + i) == fall)) ∧
         y.exited = x.exited ∧ y.window = x.window ∧ y.flags = x.flags) ∧
     (∀ (low : Nat) (others : List Nat), (low :: others).Pairwise (· < ·) →
       (∀ a, a ∈ low :: others ↔ ∃ i, x.mask.getLsbD i = true ∧ tgt (lane0 + i) = a) →
       (8 < x.stack.length + others.length → x.transfer lane0 tgt fall true = none) ∧
       (x.stack.length + others.length ≤ 8 → ∃ y ps, x.transfer lane0 tgt fall true = some y ∧ y.pc = low ∧ y.stack = x.stack ++ ps ∧
         (∀ i, y.mask.getLsbD i = (x.mask.getLsbD i && tgt (lane0 + i) == low)) ∧ ps.map (fun p => p.pc) = others ∧
         (∀ p ∈ ps, ∀ i, p.mask.getLsbD i = (x.mask.getLsbD i && tgt (lane0 + i) == p.pc)) ∧
         y.exited = x.exited ∧ y.window = x.window ∧ y.flags = x.flags)))) ∧
  (∀ (w w' : Wave) (st : BitVec 8) (tgt : Nat → Nat) (fall : Nat) (ind : Bool), w.task.slices.length = 8 →
     w.transfer st tgt fall ind = .ok w' →
     (∀ i, i < 8 → st.getLsbD i = true → ∃ y, (w.slice i).transfer (4 * i) tgt fall ind = some y ∧ (w'.slice i).pc = y.pc ∧
       (w'.slice i).mask = y.mask ∧ (w'.slice i).stack = y.stack) ∧
     (∀ i, i < 8 → st.getLsbD i = false → (w'.slice i).pc = (w.slice i).pc ∧ (w'.slice i).mask = (w.slice i).mask) ∧
     (∀ i j, i < 8 → j < 8 → (w.slice i).live = true → (w.slice j).live = true →
       ((w'.slice i).strand = (w'.slice j).strand ↔
         (w.slice i).strand = (w.slice j).strand ∧ (w'.slice i).pc = (w'.slice j).pc)))

/-- R34, R36, R248, R249, R254 to R256: what `regang`, `wide` and `trapret` do when they execute, that `regang` inside a
wide region completes at once, and `endwide`, `wbase`, `ifence`; `icinv` is issued with its range in the leader and completes at
once for a length of 0, and `yieldto` begins its wait on a live barrier object. That the whole strand waits at a `trapret` whose guard
is true in some of its lanes only is the model's choice (log 149). -/
def Obligations.GangInstructions : Prop :=
  ((∀ (s : Machine.State) (g : Guard) (e : Env), Executes s g [] e → guardAlways g = true →
      (e.w.task.wide = none → exec (.regang g) s = .next (s.waitIn e .regang) ∧ exec (.wide g) s = .next (s.waitIn e .wide)) ∧
      (e.w.task.wide ≠ none → exec (.regang g) s = .next (s.next e (.regang g))) ∧
      (e.inHandler = true → e.part ≠ 0 → exec (.trapret g) s = .next (s.waitIn e .trapret))) ∧
   (∀ (s : Machine.State) (g : Guard) (a : Opd) (add : Bool) (save : List WideSave) (e : Env),
      (Executes s g [] e → guardAlways g = true → e.w.task.wide = some save →
        exec (.endwide g) s = .next ((s.setWave e.u ((e.w.closeWide e.st save).clauseStep
          (e.w.closeWide e.st save).liveSlices)).wake e.u)) ∧
      (Executes s g [] e → e.part ≠ 0 →
        exec (.ifence g) s = .next ((s.modWave e.u (fun w => { w with loop := [] })).next e (.ifence g))) ∧
      (Reads s g [] [(a, 1)] e →
        let v (i l : Nat) : Int := if add then ((e.w.slice i).window : Int) + (e.w.rd a l).toInt else (e.w.rd a l).toNat
        let first (i : Nat) : Option Nat := (bitsOf e.part).find? (fun l => l / 4 == i)
        (∀ i l, i < 8 → first i = some l → v i l % 8 = 0 ∧ 0 ≤ v i l ∧ v i l + 88 ≤ (e.w.task.regs + 1) * 8) →
        exec (.wbase g a add) s = .next ((s.setWave e.u (e.w.modSlicesI 0xFF (fun i x => match first i with
          | some l => { x with window := (v i l).toNat }
          | none => x))).next e (.wbase g a add))))) ∧
  (∀ (s : Machine.State) (g : Guard) (a b c : Opd) (fs : FlagSel) (e : Env) (l : Nat), e.leader = some l →
     (LeadIssues s g fs [] [(a, 2), (b, 1)] e → (e.w.rdq a l).toNat < 2 ^ 56 →
       let t : Machine.State := s.issued e (.icinv g a b fs) fs [(a, 2), (b, 1)] []
       exec (.icinv g a b fs) s = .next (if e.w.rd b l = 0 then t.endOp e.u s.takeUid.1 else t)) ∧
     (Waits s g [(a, 1), (b, 1), (c, 2)] e → e.w.behind e.sl = false → e.w.task.wide = none →
       (∃ t : Machine.State, s.transfer e (.yieldto g a b c) (fun _ => (e.w.rdq c l).toNat) false = .ok t) →
       bobjBad s e.w.group (e.w.rd a l).toNat l true = none → (e.w.rdq c l).toNat % 4 = 0 → (e.w.rdq c l).toNat < 2 ^ 56 →
       exec (.yieldto g a b c) s = .next (s.waitIn e
         (.yieldto (e.w.rd a l).toNat ((e.w.rd b l).getLsbD 0) (e.w.rdq c l).toNat e.part))))

/-- R34, R35: the slices of a wave that wait at a `regang` with the lowest address form one strand and go on once every
live slice waits at a `regang` or a `wide`; nothing proceeds before. R36, R37, R430: where all wait at one `wide`, the region opens;
where they wait at several, the slices at the lowest trap with class 6 code 3 and the number of addresses. Opening a wide region saves
every slice's mask, stack and exited lanes and makes one strand of 8 slices with full masks; closing it restores them, and leaves one
strand of every live slice. -/
def Obligations.StrandsMerge : Prop :=
  (∀ (s : Machine.State) (u low : Nat) (w : Wave), s.wave u = some w → s.awake w = true →
     let live (i : Nat) : Prop := w.liveSlices.getLsbD i = true
     let at_ (i : Nat) (x : Wait) : Prop := (w.slice i).wait = some x
     ((∃ i, live i ∧ ¬at_ i .regang ∧ ¬at_ i .wide ∧ ¬at_ i .trapret) → s.settleGang u = s) ∧
     ((∀ i, live i → at_ i .regang ∨ at_ i .wide) → (∃ i, live i ∧ at_ i .regang ∧ (w.slice i).pc = low) →
       (∀ i, live i → at_ i .regang → low ≤ (w.slice i).pc) →
       ∃ grp : BitVec 8, (∀ i, i < 8 → (grp.getLsbD i = true ↔ live i ∧ at_ i .regang ∧ (w.slice i).pc = low)) ∧
         s.settleGang u = s.setWave u ((w.mergeSlices grp).resume grp)) ∧
     ((∀ i, live i → at_ i .wide) → (∃ i, live i ∧ (w.slice i).pc = low) → (∀ i, live i → low ≤ (w.slice i).pc) →
       ((∀ i, live i → (w.slice i).pc = low) → s.settleGang u = s.setWave u (w.openWide w.liveSlices)) ∧
       ((∃ i, live i ∧ (w.slice i).pc ≠ low) → ∃ (grp : BitVec 8) (pcs : List Nat) (r : TrapReq),
         (∀ i, i < 8 → (grp.getLsbD i = true ↔ live i ∧ (w.slice i).pc = low)) ∧ pcs.Nodup ∧
         (∀ p, p ∈ pcs ↔ ∃ i, live i ∧ (w.slice i).pc = p) ∧ r.cls = 6 ∧ r.code = 3 ∧ r.detail = pcs.length ∧ r.fpc = low ∧
         r.slices = grp ∧ s.settleGang u =
           (s.setWave u (w.modSlices grp (fun x => { x with wait := none }))).stopWave u r))) ∧
  (∀ (w : Wave) (live : BitVec 8), w.task.slices.length = 8 →
     (∀ i, i < 8 → ∃ x y, w.task.slices[i]? = some x ∧ (w.openWide live).task.slices[i]? = some y ∧
       y.mask = 0xF ∧ y.exited = 0 ∧ y.stack = [] ∧ y.strand = 0 ∧ y.wait = none ∧ y.window = x.window ∧ y.flags = x.flags ∧
       ((w.openWide live).task.wide.bind (fun v => v[i]?)) = some ⟨x.mask, x.exited, x.stack⟩) ∧
     (∀ (st : BitVec 8) (save : List WideSave), save.length = 8 → (w.closeWide st save).task.wide = none ∧
       (∀ i, i < 8 → ∃ v y, save[i]? = some v ∧ (w.closeWide st save).task.slices[i]? = some y ∧
         y.mask = v.mask ∧ y.exited = v.exited ∧ y.stack = v.stack) ∧
       (∀ i, (w.closeWide st save).liveSlices.getLsbD i = true → ((w.closeWide st save).slice i).strand =
         (List.find? (fun j => (w.closeWide st save).liveSlices.getLsbD j) (List.range 8)).getD 0)))

/-- R33, R84, R250: `exit` of participating lanes outside a wide region and outside a handler; a slice left without an active
lane resumes its pending paths of the lowest program counter, and one with others falls through. WAVE_EXIT of a wave whose
root task has ended with nothing outstanding: it is exited, what its exit completes within the group follows, the block of its
root record and park area is returned, phases of the span's barrier may complete, and its group may exit. -/
def Obligations.Exits : Prop :=
  ((∀ (s : Machine.State) (g : Guard) (e : Env), Waits s g [] e → e.part ≠ 0 → e.w.task.wide = none → e.inHandler = false →
     exec (.exit g) s = .next (s.exitLanes e (.exit g))) ∧
   (∀ (x : SliceSt) (gone : BitVec 4) (fall low : Nat),
     (x.exitLanes gone fall).exited = x.exited ||| gone ∧
     (x.mask &&& ~~~gone ≠ 0 → (x.exitLanes gone fall).pc = fall ∧ (x.exitLanes gone fall).mask = x.mask &&& ~~~gone ∧
       (x.exitLanes gone fall).stack = x.stack) ∧
     (x.mask &&& ~~~gone = 0 → (∃ p ∈ x.stack, p.pc = low) → (∀ p ∈ x.stack, low ≤ p.pc) →
       (x.exitLanes gone fall).pc = low ∧ (x.exitLanes gone fall).stack = x.stack.filter (fun p => p.pc != low) ∧
       ∀ i, (x.exitLanes gone fall).mask.getLsbD i = decide (∃ p ∈ x.stack, p.pc = low ∧ p.mask.getLsbD i = true)))) ∧
  (∀ (s : Machine.State) (core wid u : Nat) (w : Wave), s.waveAt core wid = some (u, w) → w.task.root = true → w.ops = [] →
     w.stop = none →
     (w.ended = some .done ∨ w.ended = some .fault) →
     let s1 : Machine.State := (s.modWave u (fun w => { w with exited := true })).waveGone u w.group
     let s2 : Machine.State := s1.returnBlocks w.group ((s1.rootBlocks w.group).filter (fun b => b == w.rootBlock))
     exec (.waveExit core wid) s = .next ((s2.settleSpan w.group).groupExit w.group))

/-- R252, R253: `trap` and `brk` complete, and the wave stops: with class 0 and the leader's code, for the debugger, or
with class 1. The trap asked for names the instruction's address. R435: a group that has stood stalled for 2^28 ticks has its
launch marked and its waiting waves stopped; before that nothing happens. -/
def Obligations.TrapsAndStalls : Prop :=
  (∀ (s : Machine.State) (g : Guard) (a : Opd) (e : Env) (l : Nat),
     (Leads s g [] [(a, 1)] e → e.leader = some l → ∃ r : TrapReq,
       exec (.trap g a) s = .next ((s.stopWave e.u r).next e (.trap g a)) ∧
       r.cls = 0 ∧ r.code = (e.w.rd a l).toNat % 65536 ∧ r.addr = e.pc ∧ r.lane = l ∧ r.fpc = 0 ∧ r.lanes = e.part ∧
       r.slices = e.sl) ∧
     (Executes s g [] e → e.part ≠ 0 → e.w.brkstop = true →
       exec (.brk g) s = .next ((s.modWave e.u (fun w => { w with halted := true })).next e (.brk g))) ∧
     (Executes s g [] e → e.part ≠ 0 → e.w.brkstop = false → ∃ r : TrapReq,
       exec (.brk g) s = .next ((s.stopWave e.u r).next e (.brk g)) ∧ r.cls = 1 ∧ r.code = 0 ∧ r.addr = e.pc ∧ r.fpc = 0)) ∧
  (∀ (s : Machine.State) (g : Nat) (x : Group), s.group g = some x →
     (s.stalled g = false ∨ s.dev.tick < x.lastIssue + 2 ^ 28 → exec (.stallDetect g) s = .next s) ∧
     (s.stalled g = true → x.lastIssue + 2 ^ 28 ≤ s.dev.tick → exec (.stallDetect g) s = .next ((s.wavesOf g).foldl
       (fun s y => s.stallWave y.1 y.2) ((s.modGroup g (fun y => { y with lastIssue := s.dev.tick })).modLaunch x.launch
         (fun l => { l with stall := true })))) ∧
     (∀ (u : Nat) (w : Wave) (n : Nat) (rest : List Nat), w.waiting = n :: rest → w.trapbase ≠ 0 → w.ended = none → ∃ r : TrapReq,
       s.stallWave u w = s.stopWave u r ∧ r.cls = 6 ∧ r.code = 5 ∧ r.fpc = (w.slice n).pc))


/-! ## Memory -/

/-- R257, R262 to R265, R268, R269, R289, R423: every load, store and atomic, aligned and inside its space, is issued; a global
atomic where the path to its place performs it. Global addresses are formed at 64 bits, scratchpad and window addresses at 32;
`gather` takes its base from the leader. -/
def Obligations.AccessesIssue : Prop :=
  ∀ (s : Machine.State) (g : Guard) (d a b c : Opd) (m : MemMods) (r : RmwMods) (ty : Ty) (fs : FlagSel) (e : Env),
    s.uncapped e m.scope → s.uncapped e r.scope →
    let glob (l : Nat) : Nat := (e.w.rdq a l + (e.w.rd b l).signExtend 64).toNat
    let near (l : Nat) : Nat := (e.w.rd a l + e.w.rd b l).toNat
    let lead (l : Nat) : Nat := (e.w.rdq a (e.leader.getD 0) + (e.w.rd b l).signExtend 64).toNat
    let each (x : Nat → Nat) (n : Nat) (q : Nat → Prop) : Prop := ∀ l, e.part.getLsbD l = true → x l % n = 0 ∧ q (x l)
    let low (x : Nat) : Prop := x < 2 ^ 56
    let lowAtomic (i : Instr) (x : Nat) : Prop := x < 2 ^ 56 ∧
      (r.far = true → ∀ tn y at_, s.translate e.ag x .write ≠ .ok (.inAlias tn y, at_)) ∧
      ∀ p at_, s.translate e.ag x .write = .ok (p, at_) → s.atomErr e.ag i p x = none
    let inSpad (n x : Nat) : Prop := x + n ≤ s.spadSize e.w.group
    let inWin (n x : Nat) : Prop := x < 2 ^ 28 ∧ s.member e.w.group (x / 2 ^ 21) ≠ .absent ∧
      x % 2 ^ 21 + n ≤ s.memberSize e.w.group
    let k := Ty.regs m.ty
    let kr := Ty.regs r.ty
    let done (i : Instr) (fs : FlagSel) (caps dsts : List (Opd × Nat)) : Prop :=
      Issues s g fs dsts caps e → exec i s = .next (s.begun e i fs caps dsts)
    (each glob (tyBytes m.ty) low →
      done (.ld g d a b m) m.fs [(a, 2), (b, 1)] [(d, k)] ∧ done (.st g a b c m) m.fs [(a, 2), (b, 1), (c, k)] []) ∧
    (each lead (tyBytes m.ty) low → done (.gather g d a b m) m.fs [(a, 2), (b, 1)] [(d, k)]) ∧
    (each glob (tyBytes ty) low → done (.ldc g d a b ty fs) fs [(a, 2), (b, 1)] [(d, Ty.regs ty)]) ∧
    (each near (tyBytes m.ty) (inSpad (tyBytes m.ty)) →
      done (.lds g d a b m) m.fs [(a, 1), (b, 1)] [(d, k)] ∧ done (.sts g a b c m) m.fs [(a, 1), (b, 1), (c, k)] []) ∧
    (each near (tyBytes m.ty) (inWin (tyBytes m.ty)) →
      done (.ldw g d a b m) m.fs [(a, 1), (b, 1)] [(d, k)] ∧ done (.stw g a b c m) m.fs [(a, 1), (b, 1), (c, k)] []) ∧
    (r.spad = false →
      (each glob (tyBytes r.ty) (lowAtomic (.rmw g d a b c r)) →
        done (.rmw g d a b c r) r.fs [(a, 2), (b, 1), (c, kr)] [(d, kr)]) ∧
      (each glob (tyBytes r.ty) (lowAtomic (.fold g a b c r)) →
        done (.fold g a b c r) r.fs [(a, 2), (b, 1), (c, kr)] [])) ∧
    (r.spad = true → r.far = false → each near (tyBytes r.ty) (inSpad (tyBytes r.ty)) →
      done (.rmw g d a b c r) r.fs [(a, 1), (b, 1), (c, kr)] [(d, kr)] ∧
      done (.fold g a b c r) r.fs [(a, 1), (b, 1), (c, kr)] []) ∧
    (r.spad = false → each (fun l => (e.w.rdq a l).toNat) (tyBytes r.ty) (lowAtomic (.rmwCas g d a b c r)) →
      done (.rmwCas g d a b c r) r.fs [(a, 2), (b, kr), (c, kr)] [(d, kr)]) ∧
    (r.spad = true → r.far = false → each (fun l => (e.w.rd a l).toNat) (tyBytes r.ty) (inSpad (tyBytes r.ty)) →
      done (.rmwCas g d a b c r) r.fs [(a, 1), (b, kr), (c, kr)] [(d, kr)])

/-- R257, R403: every load, store and atomic of which a lane's address is misaligned stops the wave with code 0x09, and otherwise
one of which a lane's lies outside its space with 0x0A, FAR in GLAZE space too; LANE is the lowest such lane, and nothing is issued.
R148, R407: a fence, a load, a store or an atomic of system scope under the scope cap stops with class 7 where the policy is strict;
otherwise it sets the scope note, and a fence then acts at tenant scope. R423: an atomic stops with class 3 code 8 at issue in the lowest
lane whose path does not perform it. R266: `prefetch` completes whatever its addresses are, and changes no register and no scratchpad; for one
lane of a page that allocates in the L2, its sector is then in the L2 of the cluster, in fabric space where the home can be read and
no line has to leave a cache for it; no memory changes where no line has to leave a cache for it and the line is not coherent. -/
def Obligations.AccessStops : Prop :=
  (∀ (s : Machine.State) (g : Guard) (d a b c : Opd) (m : MemMods) (r : RmwMods) (ty : Ty) (cs : FlagSel) (e : Env) (l : Nat),
     let glob (j : Nat) : Nat := (e.w.rdq a j + (e.w.rd b j).signExtend 64).toNat
     let near (j : Nat) : Nat := (e.w.rd a j + e.w.rd b j).toNat
     let lead (j : Nat) : Nat := (e.w.rdq a (e.leader.getD 0) + (e.w.rd b j).signExtend 64).toNat
     let far (x : Nat) : Prop := 2 ^ 56 ≤ x ∨ (r.far = true ∧ ∃ tn y at_, s.translate e.ag x .write = .ok (.inAlias tn y, at_))
     let high (x : Nat) : Prop := 2 ^ 56 ≤ x
     let outSpad (n x : Nat) : Prop := s.spadSize e.w.group < x + n
     let outWin (n x : Nat) : Prop := 2 ^ 28 ≤ x ∨ s.member e.w.group (x / 2 ^ 21) = .absent ∨
       s.memberSize e.w.group < x % 2 ^ 21 + n
     let first (q : Nat → Prop) : Prop := e.part.getLsbD l = true ∧ q l ∧ ∀ j, j < l → e.part.getLsbD j = true → ¬q j
     let stops (i : Instr) (fs : FlagSel) (caps dsts : List (Opd × Nat)) (x : Nat → Nat) (n : Nat) (out : Nat → Prop) : Prop :=
       Issues s g fs dsts caps e →
         (first (fun j => x j % n ≠ 0) → exec i s = .next (s.stopAt e (e.flag fs) (illegalIn 0x09 1 l))) ∧
         ((∀ j, e.part.getLsbD j = true → x j % n = 0) → first (fun j => out (x j)) →
           exec i s = .next (s.stopAt e (e.flag fs) (illegalIn 0x0A 1 l)))
     let n := tyBytes m.ty
     let nr := tyBytes r.ty
     let k := Ty.regs m.ty
     let kr := Ty.regs r.ty
     stops (.ld g d a b m) m.fs [(a, 2), (b, 1)] [(d, k)] glob n high ∧
     stops (.st g a b c m) m.fs [(a, 2), (b, 1), (c, k)] [] glob n high ∧
     stops (.gather g d a b m) m.fs [(a, 2), (b, 1)] [(d, k)] lead n high ∧
     stops (.ldc g d a b ty cs) cs [(a, 2), (b, 1)] [(d, Ty.regs ty)] glob (tyBytes ty) high ∧
     stops (.lds g d a b m) m.fs [(a, 1), (b, 1)] [(d, k)] near n (outSpad n) ∧
     stops (.sts g a b c m) m.fs [(a, 1), (b, 1), (c, k)] [] near n (outSpad n) ∧
     stops (.ldw g d a b m) m.fs [(a, 1), (b, 1)] [(d, k)] near n (outWin n) ∧
     stops (.stw g a b c m) m.fs [(a, 1), (b, 1), (c, k)] [] near n (outWin n) ∧
     (r.spad = false →
       stops (.rmw g d a b c r) r.fs [(a, 2), (b, 1), (c, kr)] [(d, kr)] glob nr far ∧
       stops (.fold g a b c r) r.fs [(a, 2), (b, 1), (c, kr)] [] glob nr far ∧
       stops (.rmwCas g d a b c r) r.fs [(a, 2), (b, kr), (c, kr)] [(d, kr)] (fun j => (e.w.rdq a j).toNat) nr far) ∧
     (r.spad = true → r.far = false →
       stops (.rmw g d a b c r) r.fs [(a, 1), (b, 1), (c, kr)] [(d, kr)] near nr (outSpad nr) ∧
       stops (.fold g a b c r) r.fs [(a, 1), (b, 1), (c, kr)] [] near nr (outSpad nr) ∧
       stops (.rmwCas g d a b c r) r.fs [(a, 1), (b, kr), (c, kr)] [(d, kr)] (fun j => (e.w.rd a j).toNat) nr (outSpad nr))) ∧
  (∀ (s : Machine.State) (g : Guard) (d a b c : Opd) (m : MemMods) (r : RmwMods) (o : Order) (e : Env) (x : Ctx), e.part ≠ 0 →
     s.ctx e.ag.ctx = some x → x.cap = true → m.scope = .sys → r.scope = .sys →
     let glob (j : Nat) : Nat := (e.w.rdq a j + (e.w.rd b j).signExtend 64).toNat
     let near (j : Nat) : Nat := (e.w.rd a j + e.w.rd b j).toNat
     let lead (j : Nat) : Nat := (e.w.rdq a (e.leader.getD 0) + (e.w.rd b j).signExtend 64).toNat
     let each (y : Nat → Nat) (n : Nat) (q : Nat → Prop) : Prop := ∀ l, e.part.getLsbD l = true → y l % n = 0 ∧ q (y l)
     let low (y : Nat) : Prop := y < 2 ^ 56
     let lowAtomic (i : Instr) (y : Nat) : Prop := y < 2 ^ 56 ∧
       (r.far = true → ∀ tn z at_, s.translate e.ag y .write ≠ .ok (.inAlias tn z, at_)) ∧
       ∀ p at_, s.translate e.ag y .write = .ok (p, at_) → s.atomErr e.ag i p y = none
     let inSpad (n y : Nat) : Prop := y + n ≤ s.spadSize e.w.group
     let inWin (n y : Nat) : Prop := y < 2 ^ 28 ∧ s.member e.w.group (y / 2 ^ 21) ≠ .absent ∧ y % 2 ^ 21 + n ≤ s.memberSize e.w.group
     let noted : Machine.State := s.modWave e.u (fun w => { w with note := true })
     let capped (i : Instr) (fs : FlagSel) (caps dsts : List (Opd × Nat)) : Prop := Issues s g fs dsts caps e →
       (x.strict = true → exec i s = .next (s.stopAt e (e.flag fs) ⟨7, 1, 0, 0xFF, none⟩)) ∧
       (x.strict = false → exec i s = .next (noted.issued e i fs caps dsts))
     let n := tyBytes m.ty
     let nr := tyBytes r.ty
     let k := Ty.regs m.ty
     let kr := Ty.regs r.ty
     (each glob n low → capped (.ld g d a b m) m.fs [(a, 2), (b, 1)] [(d, k)] ∧
       capped (.st g a b c m) m.fs [(a, 2), (b, 1), (c, k)] []) ∧
     (each lead n low → capped (.gather g d a b m) m.fs [(a, 2), (b, 1)] [(d, k)]) ∧
     (each near n (inSpad n) → capped (.lds g d a b m) m.fs [(a, 1), (b, 1)] [(d, k)] ∧
       capped (.sts g a b c m) m.fs [(a, 1), (b, 1), (c, k)] []) ∧
     (each near n (inWin n) → capped (.ldw g d a b m) m.fs [(a, 1), (b, 1)] [(d, k)] ∧
       capped (.stw g a b c m) m.fs [(a, 1), (b, 1), (c, k)] []) ∧
     (r.spad = false →
       (each glob nr (lowAtomic (.rmw g d a b c r)) → capped (.rmw g d a b c r) r.fs [(a, 2), (b, 1), (c, kr)] [(d, kr)]) ∧
       (each glob nr (lowAtomic (.fold g a b c r)) → capped (.fold g a b c r) r.fs [(a, 2), (b, 1), (c, kr)] []) ∧
       (each (fun l => (e.w.rdq a l).toNat) nr (lowAtomic (.rmwCas g d a b c r)) →
         capped (.rmwCas g d a b c r) r.fs [(a, 2), (b, kr), (c, kr)] [(d, kr)])) ∧
     (r.spad = true → r.far = false →
       (each near nr (inSpad nr) → capped (.rmw g d a b c r) r.fs [(a, 1), (b, 1), (c, kr)] [(d, kr)] ∧
         capped (.fold g a b c r) r.fs [(a, 1), (b, 1), (c, kr)] []) ∧
       (each (fun l => (e.w.rd a l).toNat) nr (inSpad nr) →
         capped (.rmwCas g d a b c r) r.fs [(a, 1), (b, kr), (c, kr)] [(d, kr)])) ∧
     (Waits s g [] e → s.reportAt e.u (fun _ => true) = none → e.w.behind e.sl = false →
       (x.strict = true → exec (.fence g o .sys) s = .next (s.stopAt e none ⟨7, 1, 0, 0xFF, none⟩)) ∧
       (x.strict = false → exec (.fence g o .sys) s = .next ((match o with
         | .rlx => noted
         | .acq => noted.acquire e.ag .ten
         | .rel => noted.release e.ag .ten
         | .ar => (noted.release e.ag .ten).acquire e.ag .ten).next e (.fence g o .sys))))) ∧
  (∀ (s : Machine.State) (g : Guard) (d a b c : Opd) (r : RmwMods) (e : Env) (l n : Nat) (p : Place) (at_ : Attr),
     r.spad = false → s.uncapped e r.scope → e.part.getLsbD l = true →
     let kr := Ty.regs r.ty
     let glob (j : Nat) : Nat := (e.w.rdq a j + (e.w.rd b j).signExtend 64).toNat
     let path (i : Instr) (caps dsts : List (Opd × Nat)) (x : Nat → Nat) : Prop := Issues s g r.fs dsts caps e →
       (∀ j, e.part.getLsbD j = true → x j % tyBytes r.ty = 0 ∧ x j < 2 ^ 56 ∧
         (r.far = true → ∀ tn z at_, s.translate e.ag (x j) .write ≠ .ok (.inAlias tn z, at_))) →
       s.translate e.ag (x l) .write = .ok (p, at_) → s.atomErr e.ag i p (x l) = some n →
       (∀ j, j < l → e.part.getLsbD j = true → ∀ q at_, s.translate e.ag (x j) .write = .ok (q, at_) →
         s.atomErr e.ag i q (x j) = none) →
       exec i s = .next (s.stopAt e (e.flag r.fs) (memBad ⟨8, n⟩ true false l (x l)))
     path (.rmw g d a b c r) [(a, 2), (b, 1), (c, kr)] [(d, kr)] glob ∧ path (.fold g a b c r) [(a, 2), (b, 1), (c, kr)] [] glob ∧
     path (.rmwCas g d a b c r) [(a, 2), (b, kr), (c, kr)] [(d, kr)] (fun j => (e.w.rdq a j).toNat)) ∧
  (∀ (s : Machine.State) (g : Guard) (a b : Opd) (lvl : PfLevel) (e : Env), Reads s g [] [(a, 2), (b, 1)] e →
     ∃ t : Machine.State, exec (.prefetch g a b lvl) s = .next (t.next e (.prefetch g a b lvl)) ∧ t.dev = s.dev ∧
       t.kiln.groups = s.kiln.groups ∧
       (∀ u w, s.wave u = some w → ∃ w', t.wave u = some w' ∧ w'.registers = w.registers) ∧
       ∀ l p at_, e.part = maskOf [l] → l < 32 → (e.w.rdq a l + (e.w.rd b l).signExtend 64).toNat < 2 ^ 56 →
         s.translate e.ag (e.w.rdq a l + (e.w.rd b l).signExtend 64).toNat .read = .ok (p, at_) →
         let room : Prop := (s.cluster e.ag.cluster).l2.length < l2Lines ∧
           s.mem.msc.length + s.mem.lines.length + (p.sectors.flatMap s.localLines).length + 2 < mscLines
         (p.isHome = false ∨ (room ∧ s.lostRead e.ag .wave p.sector = none) → at_.pol = 0 → lvl = .l2 →
           (t.l2Find e.ag.cluster p.sector).isSome = true) ∧
         (at_.coh = false → room → t.mem.loc = s.mem.loc ∧ t.mem.homes = s.mem.homes))

/-- R40, R43, R108, R255, R260, R312: an outstanding operation completes for a slice when nothing earlier has to be performed
first, and not otherwise. An access whose lanes are not refused is performed for its lanes still to do, `tlbinv` and `icinv`
act once on their range. The completion subtracts 1 from the operation's flag in the slice and from nothing else, and the
operation is gone after its last slice. That the lanes of a load read together is the model's reading (log 99). -/
def Obligations.OperationsComplete : Prop :=
  (∀ (s : Machine.State) (core wid id slice count u : Nat) (w : Wave) (o : Op), s.waveAt core wid = some (u, w) →
     w.ops.find? (fun x => x.id == id) = some o →
     let ag := s.agentOf w.group
     let goes (t : Machine.State) : Prop := exec (.longOpComplete core wid id ⟨slice, count⟩) s = .next (t.settleGang u)
     let once (t : Machine.State) : Machine.State :=
       (t.setOp u { o with todo := 0, checked := true }).sliceDone u { o with todo := 0, checked := true } slice
     (o.undone.getLsbD slice = true → w.mayPerform o slice = true →
       goes (s.completeOp u core w.group ag o slice count) ∧
       (∀ a, accOf o.instr = some a → (a.kind = .load ∨ 32 ≤ count) →
         o.checked = true ∨ (s.memCheck ag w.group o a = none ∧ ∀ x ∈ s.lanesRefused ag w.group o a, x.1 = 0) →
         let ls : W32 := o.todo &&& lanesOf (o.together slice)
         let o0 : Op := { o with checked := true }
         let o1 : Op := { o0 with todo := o.todo &&& ~~~ls }
         goes (((if ls = 0 then s else s.performMem u ag w.group o0 a ls).setOp u o1).sliceDone u o1 slice)) ∧
       (∀ g a b fs, o.todo ≠ 0 →
         (o.instr = .icinv g a b fs →
           goes (once (s.dropIcache (s.asidOf ag.ctx) (o.val64 0 o.leader).toNat (o.val32 1 o.leader).toNat))) ∧
         (o.instr = .tlbinv g a b fs →
           goes (once (s.doTlbinv (s.asidOf ag.ctx) (o.val64 0 o.leader).toNat (o.val32 1 o.leader).toNat))))) ∧
     (o.undone.getLsbD slice = false ∨ w.mayPerform o slice = false →
       exec (.longOpComplete core wid id ⟨slice, count⟩) s = .next s)) ∧
  (∀ (s : Machine.State) (u slice : Nat) (w : Wave) (o : Op), s.wave u = some w → o.depth = w.depth → slice < 8 →
     w.task.slices.length = 8 → o.undone.getLsbD slice = true →
     ∃ w', (s.sliceDone u o slice).wave u = some w' ∧
       (∀ i f, i < 8 → (w'.slice i).count f = (w.slice i).count f - (if i = slice ∧ o.flag = some f then 1 else 0)) ∧
       (o.undone = maskOf [slice] → w'.ops = w.ops.filter (fun x => x.id != o.id)) ∧ w'.registers = w.registers)

/-- R258, R262, R263: a scratchpad load of a lane takes the little-endian bytes at its address, sign-extended for s8 and
s16; a scratchpad store writes the low bytes of c there and leaves every other byte of every scratchpad. -/
def Obligations.ScratchpadAccess : Prop :=
  ∀ (s : Machine.State) (ag : Agent) (grp l : Nat) (o : Op) (a : Acc) (x : Group), s.group grp = some x → a.space = .spad →
    (a.kind = .load → ∃ v, s.performLane ag grp o a l = (s, some v) ∧
      (a.ty ≠ .s8 → a.ty ≠ .s16 → v = BitVec.ofNat 128 (leNat (x.spad.bytes (o.addr l) a.n))) ∧
      (a.ty = .s8 → v = ((x.spad.get (o.addr l)).signExtend 32).setWidth 128) ∧
      (a.ty = .s16 →
        v = (((x.spad.get (o.addr l + 1) ++ x.spad.get (o.addr l)).signExtend 32 : W32)).setWidth 128)) ∧
    (a.kind = .store → Store.wf x.spad = true → ∃ t : Machine.State, s.performLane ag grp o a l = (t, none) ∧
      (∀ i, i < a.n → t.spadByte grp (o.addr l + i) = ((o.val 2 l) >>> (8 * i)).setWidth 8) ∧
      (∀ k y, (k ≠ grp ∨ y < o.addr l ∨ o.addr l + a.n ≤ y) → t.spadByte k y = s.spadByte k y) ∧
      t.mem = s.mem ∧ t.cores = s.cores ∧ t.clusters = s.clusters ∧ t.kiln.waves = s.kiln.waves)

/-- R268, R269: what an atomic leaves in memory, from the old value and its operands as captured; f32 adds round the exact sum once,
and minimum and maximum are those of R221. -/
def Obligations.AtomicValues : Prop :=
  ∀ (o : Op) (l old : Nat) (g : Guard) (d a b c : Opd) (m : RmwMods), old < 2 ^ (8 * tyBytes m.ty) →
    let n := 8 * tyBytes m.ty
    let x := (o.val 2 l).toNat % 2 ^ n
    let cmp := (o.val 1 l).toNat % 2 ^ n
    let sg (v : Nat) : Int := if v < 2 ^ (n - 1) then v else (v : Int) - 2 ^ n
    let signed : Prop := m.ty = .s32 ∨ m.ty = .s64
    (o.instr = .rmwCas g d a b c m → o.atomicNew l old = if old = cmp then some x else none) ∧
    (o.instr = .rmw g d a b c m ∨ o.instr = .fold g a b c m → m.ty = .f32 → ∃ v, o.atomicNew l old = some v ∧
      (m.op = .add → v = (rne32 ((fF32.val old).add false (fF32.val x))).toNat) ∧
      (m.op = .min → v = fF32.minmax false old x) ∧ (m.op = .max → v = fF32.minmax true old x)) ∧
    (o.instr = .rmw g d a b c m ∨ o.instr = .fold g a b c m → m.ty ≠ .f32 → ∃ v, o.atomicNew l old = some v ∧
      (m.op = .add → v = (old + x) % 2 ^ n) ∧
      (m.op = .and → v = old &&& x) ∧ (m.op = .or → v = old ||| x) ∧ (m.op = .xor → v = old ^^^ x) ∧
      (m.op = .exch → v = x) ∧
      (m.op = .min → signed → v = if sg old ≤ sg x then old else x) ∧
      (m.op = .max → signed → v = if sg x ≤ sg old then old else x) ∧
      (m.op = .min → ¬signed → v = min old x) ∧ (m.op = .max → ¬signed → v = max old x))

/-! ## Synchronisation -/

/-- R143, R272: a fence completes once everything earlier of its strand is performed, with the cache actions of its order:
release first, acquire after. R273, R274: an arrival of a whole wave at a named barrier. Short of the expected count it is
counted; the last one resets the counts and ends the phase, and the waiters of that phase are woken. b0 expects the waves that
have not exited. -/
def Obligations.FencesAndBarriers : Prop :=
  (∀ (s : Machine.State) (g : Guard) (o : Order) (sc : Scope) (e : Env), Waits s g [] e → s.reportAt e.u (fun _ => true) = none →
     e.w.behind e.sl = false → s.uncapped e sc →
     exec (.fence g o sc) s = .next ((if e.part = 0 then s else match o with
       | .rlx => s
       | .acq => s.acquire e.ag sc
       | .rel => s.release e.ag sc
       | .ar => (s.release e.ag sc).acquire e.ag sc).next e (.fence g o sc))) ∧
  (∀ (s : Machine.State) (g : Guard) (a : Opd) (bar : Fin 16) (e : Env) (l : Nat) (b : Bar) (x : Group),
     let n : Nat := if bar = 0 then s.wavesLeft e.w.group else (e.w.rd a l).toNat
     let t : Machine.State := (s.release e.ag .core).modGroup e.w.group (fun y =>
       { y with bars := modAt y.bars bar.val (fun q => ⟨n, q.count + 1, q.phase⟩) })
     e.leader = some l → e.whole = true → e.w.behind e.sl = false → s.group e.w.group = some x → x.bars[bar.val]? = some b →
     (bar ≠ 0 → 1 ≤ n ∧ n ≤ 32 ∧ (b.count = 0 ∨ b.expected = n)) →
     (Leads s g [] [(a, 1)] e →
       (b.count + 1 < n → exec (.gatePass g a bar) s = .next (t.next e (.gatePass g a bar))) ∧
       (n ≤ b.count + 1 → exec (.gatePass g a bar) s = .next (((t.modGroup e.w.group (fun y =>
         { y with bars := modAt y.bars bar.val (fun q => ⟨0, 0, q.phase + 1⟩) })).wakeGroup e.w.group).next e
         (.gatePass g a bar)))) ∧
     (Waits s g [(a, 1)] e →
       (b.count + 1 < n → exec (.gateWait g a bar) s = .next (t.waitIn e (.gate bar.val b.phase))) ∧
       (n ≤ b.count + 1 → exec (.gateWait g a bar) s = .next (((t.modGroup e.w.group (fun y =>
         { y with bars := modAt y.bars bar.val (fun q => ⟨0, 0, q.phase + 1⟩) })).wakeGroup e.w.group).waitIn e
         (.gate bar.val b.phase)))))

/-- R186, R275: the barrier-object instructions on a live, aligned object in the group's scratchpad. The phase ends exactly
when no arrival, no posted byte and no early byte remains, and the arrivals start again from their initial count; a delivery
or an arrival that does not end the phase only counts. Several changes of one clock reach the object together, posts before
deliveries before arrivals. The object survives its 16 bytes. -/
def Obligations.BarrierObjects : Prop :=
  (∀ (s : Machine.State) (g : Guard) (a b : Opd) (mark : Bool) (e : Env) (l : Nat), e.leader = some l →
     let x : Nat := (e.w.rd a l).toNat
     let n : Nat := (e.w.rd b l).toNat
     let post (o : BObj) : BObj := { o with early := o.early - min o.early n, pending := o.pending + (n - min o.early n) }
     (Leads s g [] [(a, 1), (b, 1)] e → e.w.behind e.sl = false → x % 16 = 0 → x + 16 ≤ s.spadSize e.w.group → 1 ≤ n →
       n ≤ 4095 → exec (.bobjOpen g a b) s =
         .next ((s.spadWrite e.w.group x (leBytes (BObj.toBits ⟨true, false, n, n, 0, 0⟩).toNat 16)).next e (.bobjOpen g a b))) ∧
     (Leads s g [] [(a, 1), (b, 1)] e → e.w.behind e.sl = false → bobjBad s e.w.group x l true = none →
       (post (s.bobjNow e.w.group x)).pending < 2 ^ 24 →
       let t : Machine.State := s.change (.post e.w.group x n)
       exec (.bobjDue g a b mark) s =
         .next ((if mark then t.change (.arrive e.w.group x) else t).next e (.bobjDue g a b mark))) ∧
     (Leads s g [] [(a, 1)] e → e.w.behind e.sl = false → bobjBad s e.w.group x l true = none →
       exec (.bobjMark g a) s = .next ((s.change (.arrive e.w.group x)).next e (.bobjMark g a))) ∧
     (s.sched.changes = none → s.bobjNow e.w.group x = s.bobj e.w.group x ∧
       s.change (.post e.w.group x n) = s.putBobj e.w.group x (BObj.test (post (s.bobj e.w.group x))) ∧
       s.change (.arrive e.w.group x) = s.bobjArrive e.w.group x) ∧
     (Waits s g [(a, 1), (b, 1)] e → e.w.behind e.sl = false → bobjBad s e.w.group x l true = none →
       exec (.bobjHold g a b) s = .next (s.waitIn e (.hold x ((e.w.rd b l).getLsbD 0))))) ∧
  (∀ (o : BObj) (n : Nat) (free : BitVec 12),
     (o.arrivals = 0 → o.pending = 0 → o.early = 0 → o.test = { o with phase := !o.phase, arrivals := o.init }) ∧
     (o.arrivals ≠ 0 ∨ o.pending ≠ 0 ∨ o.early ≠ 0 → o.test = o) ∧
     (n ≤ o.pending → o.deliver n = BObj.test { o with pending := o.pending - n }) ∧
     (o.pending < n → o.early + (n - o.pending) < 2 ^ 24 →
       o.deliver n = BObj.test { o with pending := 0, early := o.early + (n - o.pending) }) ∧
     (o.arrivals ≠ 0 → o.arrive free = BObj.test { o with arrivals := o.arrivals - 1 }) ∧
     (o.arrivals < 4096 → o.init < 4096 → o.pending < 2 ^ 24 → o.early < 2 ^ 24 → BObj.ofBits o.toBits = o)) ∧
  (∀ (s : Machine.State) (g a n k id : Nat) (l : List Change) (c : Change),
     (s.sched.changes = some l → s.change c = { s with sched := { s.sched with changes := some (l ++ [c]) } }) ∧
     s.endObject [.arrive g a, .deliver g a k id, .post g a n] (g, a) =
       ((s.putBobj g a ((s.bobj g a).post n).test).changeNow (.deliver g a k id)).changeNow (.arrive g a))

/-- R77, R78, R276 to R278, R436: arming an EMBER slot on the 8-byte word of an address, disarming slots, and a wait that finds
a hit, or has nothing to wait for, or sleeps. A sleeping strand whose timeout has passed takes the result 4 and goes on, and
no sooner. -/
def Obligations.Ember : Prop :=
  (∀ (s : Machine.State) (g : Guard) (d a b : Opd) (k : Fin 4) (mask : BitVec 4) (e : Env) (l : Nat) (p : Place) (at_ : Attr),
     e.leader = some l →
     let x : Nat := (e.w.rdq a l + (e.w.rd b l).signExtend 64).toNat
     let n : Nat := (e.w.rd a l).toNat
     (Leads s g [] [(a, 2), (b, 1)] e → x < 2 ^ 56 → s.translate e.ag x .read = .ok (p, at_) →
       exec (.emberArm g a b k) s = .next (((s.tlbFill e.ag x).modWave e.u (fun w => w.modEmber (fun i y =>
         if i = k.val then ⟨some (p.back (p.addr % 8)), false⟩ else y))).next e (.emberArm g a b k))) ∧
     (Executes s g [] e → exec (.emberDisarm g mask) s = .next ((s.modWave e.u (fun w => w.modEmber (fun i y =>
         if mask.getLsbD i then ⟨none, false⟩ else y))).next e (.emberDisarm g mask))) ∧
     (Executes s g [(d, 1)] e → e.w.poisonLane [(a, 1)] e.lead = none → s.reportAt e.u (fun x => x.names e.st) = none →
       (∀ i, e.w.emberHit = some i →
         exec (.emberWait g d a) s = .next ((s.setWave e.u (e.w.emberTake i d e.part)).next e (.emberWait g d a))) ∧
       (e.w.emberHit = none → (e.w.slice ((bitsOf e.st).headD 0)).wait = none →
         (n = 0 → exec (.emberWait g d a) s =
           .next ((s.setWave e.u (e.w.wr d e.part (fun _ => 4))).next e (.emberWait g d a))) ∧
         (n ≠ 0 → n ≠ 0xFFFFFFFF →
           exec (.emberWait g d a) s = .next (s.waitIn e (.ember (some (s.dev.tick + n)) d e.part))) ∧
         (n = 0xFFFFFFFF →
           ((∀ y ∈ e.w.task.ember, y.armed = none) → exec (.emberWait g d a) s =
             .next ((s.setWave e.u (e.w.wr d e.part (fun _ => 4))).next e (.emberWait g d a))) ∧
           ((∃ y ∈ e.w.task.ember, y.armed ≠ none) →
             exec (.emberWait g d a) s = .next (s.waitIn e (.ember none d e.part))))))) ∧
  (∀ (s : Machine.State) (core wid strand u tick : Nat) (w : Wave) (d : Opd) (lanes : W32), s.waveAt core wid = some (u, w) →
     w.strandSlices strand ≠ 0 → (w.slice ((bitsOf (w.strandSlices strand)).headD 0)).wait = some (.ember (some tick) d lanes) →
     s.awake w = true → w.emberHit = none → w.busy (w.strandSlices strand) [(d, 1)] = false →
     (tick ≤ s.dev.tick → exec (.emberTimeout core wid strand) s =
       .next (s.modWave u (fun w' => (w'.wr d lanes (fun _ => 4)).resume (w.strandSlices strand)))) ∧
     (s.dev.tick < tick → exec (.emberTimeout core wid strand) s = .next s))


/-! ## Tasks -/

/-- R280, R281, R285, R286, R403: `spawn` and `launch` are issued, `qpush` and `qpop` where the entry or buffer addresses are
aligned. When a `spawn` is performed, a lane whose record is misaligned or named by a lower lane has code 0x0F in field 1. -/
def Obligations.TaskOperationsIssue : Prop :=
  (∀ (s : Machine.State) (g : Guard) (d a b : Opd) (form : QForm) (o : Order) (sc : Scope) (fs : FlagSel) (e : Env),
     let aligned : Prop := ∀ l, e.part.getLsbD l = true → (e.w.rdq b l).toNat % 16 = 0
     (Issues s g fs [] [(a, 2), (b, 2)] e →
       exec (.spawn g a b fs) s = .next (s.begun e (.spawn g a b fs) fs [(a, 2), (b, 2)] [])) ∧
     (Issues s g fs [] [(a, 2)] e → exec (.launch g a fs) s = .next (s.begun e (.launch g a fs) fs [(a, 2)] [])) ∧
     (Issues s g fs [(d, 2)] [(a, 2), (b, 2)] e → (form = .rsv ∨ aligned) →
       exec (.qpush g d a b form o sc fs) s = .next (s.begun e (.qpush g d a b form o sc fs) fs [(a, 2), (b, 2)] [(d, 2)])) ∧
     (Issues s g fs [(d, 2)] [(a, 2), (b, 2)] e → aligned →
       exec (.qpop g d a b o sc fs) s = .next (s.begun e (.qpop g d a b o sc fs) fs [(a, 2), (b, 2)] [(d, 2)]))) ∧
  (∀ (s : Machine.State) (ag : Agent) (o : Op) (l k : Nat), (o.val64 0 l).toNat % 64 ≠ 0 ∨
     (k < l ∧ o.lanes.getLsbD k = true ∧ o.val64 0 k = o.val64 0 l) → s.spawnCheck ag o l = .error (illegalIn 0x0F 1 l))

/-- R91, R92, R99, R282: `await` and `lock.take` by a whole strand outside a wide region and a handler. A ready waitable
completes them: every live lane's predicate is written, 0 only for a failed future, and a lock is taken for the running
task. One that is not ready, owned by no task, leaves the strand waiting there; with nothing outstanding the task gives up its
slot. -/
def Obligations.AwaitsComplete : Prop :=
  ∀ (s s1 : Machine.State) (g : Guard) (a : Opd) (pd : Fin 8) (e : Env) (l : Nat) (f : Waitable), Waits s g [] e →
    e.w.task.wide = none → e.whole = true → e.inHandler = false → e.w.awaitLane = some l → e.w.task.poison = [] →
    let x : Nat := (e.w.rdq a l).toNat
    x % 16 = 0 → s.waitable e.ag x = .ok (s1, f) → f.ok = true → s1.futureClean e.ag l x f = .ok () →
    (f.ready = true →
      exec (.await g a pd) s = .next (((s1.modWave e.u (fun w =>
        w.setPreds w.liveLanes pd.val (fun _ => !(f.kind == 0 && f.st == 2)))).acquire e.ag .ten).next e (.await g a pd)) ∧
      (f.kind = 1 → s1.canWrite e.ag x 16 = none →
        exec (.lockTake g a pd) s = .next ((((s1.takeLock e.ag x e.w.task.record).modWave e.u (fun w =>
          w.setPreds w.liveLanes pd.val (fun _ => true))).acquire e.ag .ten).next e (.lockTake g a pd)))) ∧
    (f.ready = false → f.owner = 0 → s1.canWrite e.ag (e.w.task.record.toNat + 0x20) 16 = none → ∀ lock : Bool,
      (lock = true → f.kind = 1) →
      let i : Instr := if lock then .lockTake g a pd else .await g a pd
      let t : Machine.State := s1.waitIn e (.await lock pd (BitVec.ofNat 64 x))
      exec i s = .next (if s.drained e.u = true then (t.giveUp e.u lock pd (BitVec.ofNat 64 x)).settleAdoption e.u else t))

/-- R283: `fut.set` of an unset future: a release at tenant scope, then its value and the state Set. R284: `lock.give` of a
lock that the running task holds: it becomes free, or where helpers wait for it, it is taken for one of them; which one is
free (log 23). Where viral mode discards what is written there, neither happens (R416). R87, R287: `park` of a root task by a whole
strand with nothing outstanding: a release, the record becomes Parked with its home queue, the park area takes the task's registers
and state, and the slot, whose queue is the home queue, holds the task set aside, which stands after the `park`. The layout of the
park area behind the registers is the model's own (log 44), and that a header is taken as found is its choice (log 143). -/
def Obligations.FutureLockPark : Prop :=
  (∀ (s s1 : Machine.State) (g : Guard) (a b : Opd) (e : Env) (l : Nat) (bs : List Byte), Leads s g [] [(a, 2), (b, 2)] e →
     e.w.behind e.sl = false → e.leader = some l →
     let x : Nat := (e.w.rdq a l).toNat
     x % 32 = 0 → s.obj e.ag .ten x 32 = .ok (s1, bs) → fieldAt bs 8 4 = 0 → fieldAt bs 12 4 = 0 → fieldAt bs 24 8 = 0 →
     s1.canWrite e.ag x 32 = none →
     exec (.futSet g a b) s = .next ((((s1.release e.ag .ten).putNum e.ag (x + 16) 8 (e.w.rdq b l).toNat).putNum e.ag
       (x + 8) 4 1).next e (.futSet g a b))) ∧
  (∀ (s s1 : Machine.State) (g : Guard) (a : Opd) (e : Env) (l : Nat) (f : Waitable), Leads s g [] [(a, 2)] e →
     e.w.behind e.sl = false → e.leader = some l →
     let x : Nat := (e.w.rdq a l).toNat
     let t : Machine.State := s1.release e.ag .ten
     x % 16 = 0 → s.waitable e.ag x = .ok (s1, f) → f.state = 5 → f.entry = 0 → f.owner = e.w.task.record.toNat →
     s1.canWrite e.ag x 16 = none →
     (t.discards e.ag x = true → exec (.lockGive g a) s = .next (t.next e (.lockGive g a))) ∧
     (t.discards e.ag x = false → t.lockHelpers e.ag.ctx (BitVec.ofNat 64 x) = [] →
       exec (.lockGive g a) s = .next (((t.putNum e.ag x 8 0).putNum e.ag (x + 8) 4 4).next e (.lockGive g a))) ∧
     (t.discards e.ag x = false → t.lockHelpers e.ag.ctx (BitVec.ofNat 64 x) ≠ [] →
       ∃ v k tr, (v, k, tr) ∈ t.lockHelpers e.ag.ctx (BitVec.ofNat 64 x) ∧
         exec (.lockGive g a) s = .next (((t.bumpFresh.takeLock e.ag x tr).modWave v (fun w => w.lockTaken k)).next e
           (.lockGive g a)))) ∧
  (∀ (s s1 : Machine.State) (g : Guard) (a : Opd) (e : Env) (l : Nat) (q : Queue) (w : Wave), Waits s g [] e →
     s.drained e.u = true → e.w.task.wide = none → e.whole = true → e.inHandler = false → e.w.awaitLane = some l →
     e.w.task.poison = [] → s.headerOf e.ag l (e.w.rdq a l).toNat = .ok (s1, q) → q.esize = 16 →
     let tr : Nat := e.w.task.record.toNat
     let x : Nat := (e.w.rdq a l).toNat
     let s2 : Machine.State := (s1.release e.ag .ten).next e (.park g a)
     s1.canWrite e.ag (tr + 0x20) 32 = none → s2.wave e.u = some w → w.task.root = true →
     exec (.park g a) s = .next ((((s2.putState e.ag tr 0 4).putHome e.ag tr x).writeImage e.ag w.task.still []).modWave e.u
       (fun v => { v with queue := some (BitVec.ofNat 64 x), ended := some .parked, root := some (v.task.still, none) })))

/-- R92, R93, R99, R430: ADOPT on a drained wave that stands in `await` or `lock.take` starts the task that the wave has
taken; where it has taken none it does what the decision says: the wait is executed again, the task gives up its slot, a task is
taken and started, or the wave traps. A started Unstarted task runs in the wave, and the task that waits is the innermost helper
of its chain. R92, R98, R430: the decision on a waitable that is not ready, by its owner. The wave
waits for an owner that names no record and for a record with a reserved STATE; the task itself and each of its helpers is an
adoption cycle, with its position as DETAIL; a Faulted owner traps; an Unstarted or Parked one is adopted where it fits the slot and
fewer than 4 tasks help, and the wave waits where it does not fit or 4 tasks help; it waits for every other owner. -/
def Obligations.AdoptDecides : Prop :=
  (∀ (s s1 : Machine.State) (core wid u l : Nat) (w : Wave) (lock : Bool) (pd : Fin 8) (a : W64) (r : TaskRec) (c : Claim),
     s.waveAt core wid = some (u, w) →
     (w.slice ((bitsOf w.liveSlices).headD 0)).wait = some (.await lock pd a) → w.awaitLane = some l → s.awake w = true →
     s.drained u = true →
     let ag := s.agentOf w.group
     let clear (t : Machine.State) : Machine.State :=
       t.modWave u (fun w' => w'.modSlices w.liveSlices (fun x => { x with wait := none }))
     let claimed : Prop := w.adopting = some c ∧ s.taskRec ag c.owner.toNat = .ok (s1, r)
     let decided (d : Decision) : Prop := w.adopting = none ∧ s.decideWait w ag lock l a.toNat = .ok (s1, d)
     let taken : Prop := decided (.adopt c.owner.toNat r) ∧ c = ⟨c.owner, lock, pd, a, none, false⟩
     (claimed → exec (.adopt core wid) s = .next (s1.adopt u c r)) ∧
     (∀ v, decided (.ready v) → exec (.adopt core wid) s = .next (clear s1)) ∧
     (decided .wait → exec (.adopt core wid) s = .next ((s1.giveUp u lock pd a).settleAdoption u)) ∧
     (taken → exec (.adopt core wid) s = .next ((s1.claim u ag lock pd a c.owner.toNat r).adopt u c r)) ∧
     (∀ b, w.adopting = none → s.decideWait w ag lock l a.toNat = .error b → ∃ r : TrapReq, r.cls = b.cls ∧ r.code = b.code ∧
       exec (.adopt core wid) s = .next ((clear s).stopWave u r)) ∧
     (claimed ∨ taken → w.chain.length < 4 → (Tab.keys s.kiln.waves).Pairwise (· < ·) → r.shapeOk = true →
       codeAddrOk r.entry = true → (∀ p ∈ s1.kiln.parked, p.ctx = ag.ctx → p.task.record ≠ c.owner) →
       ∃ (t : Machine.State) (w' : Wave) (h : Helper) (rest : List Helper), exec (.adopt core wid) s = .next t ∧
         t.wave u = some w' ∧ w'.task.record = c.owner ∧ w'.task.root = false ∧ w'.adopting = none ∧ w'.ended = none ∧
         (∀ i, i < 8 → (w'.slice i).pc = r.entry ∧ (w'.slice i).mask = 0xF) ∧ w'.chain = h :: rest ∧
         rest.length = w.chain.length ∧ h.task.record = w.task.record ∧ h.lock = c.lock ∧ h.pd = c.pd ∧ h.addr = c.addr ∧
         h.status = c.status)) ∧
  (∀ (s s1 : Machine.State) (w : Wave) (ag : Agent) (l k : Nat) (x : Waitable) (r : TaskRec),
     let chain : List Nat := w.task.record.toNat :: w.chain.map (fun h => h.task.record.toNat)
     (x.owner = 0 ∨ x.owner % 64 ≠ 0 → s.decideOwner w ag l x = .ok (s, .wait)) ∧
     (x.owner ≠ 0 → x.owner % 64 = 0 → chain[k]? = some x.owner → (∀ j, j < k → chain[j]? ≠ some x.owner) →
       ∃ b, s.decideOwner w ag l x = .error b ∧ b.cls = 6 ∧ b.code = 1 ∧ b.detail = k) ∧
     (x.owner ≠ 0 → x.owner % 64 = 0 → x.owner ∉ chain → s.taskRec ag x.owner = .ok (s1, r) →
       (8 ≤ r.st → s.decideOwner w ag l x = .ok (s1, .wait)) ∧
       (r.state / 2 ^ 14 = 0 → r.shape / 1024 = 0 →
         (r.st = 1 ∨ r.st = 2 ∨ r.st = 3 ∨ r.st = 5 ∨ r.st = 7 → s.decideOwner w ag l x = .ok (s1, .wait)) ∧
         (r.st = 6 → ∃ b, s.decideOwner w ag l x = .error b ∧ b.cls = 6 ∧ b.code = 6 ∧ b.detail = x.kind) ∧
         (r.st = 0 ∨ r.st = 4 → s1.fits w x.owner r = false ∨ 4 ≤ w.chain.length →
           s.decideOwner w ag l x = .ok (s1, .wait)) ∧
         (r.st = 0 ∨ r.st = 4 → s1.fits w x.owner r = true → w.chain.length < 4 → s1.takeable ag.ctx x.owner r = true →
           s.decideOwner w ag l x = .ok (s1, .adopt x.owner r)))) ∧
     (s.fits w x.owner r = true ↔ r.ctx = s.ctxNo w.group ∧ regCount r.regs ≤ w.alloc ∧
       s.isRoot (s.ctxNo w.group) (BitVec.ofNat 64 x.owner) = false ∧ (r.gbind = true →
         (s.group w.group).map (·.number) = some r.ogroup ∧ (s.launchOf w.group).map (·.record.tag) = some r.olaunch)))

/-- R88, R96, R99: a slot left by its task, whose root task stands aside and cannot go on yet, or has none, takes the task at the
head of its queue; a head that has been taken already is discarded, and for one that does not fit the slot stays idle. It takes its
root task again, once the root's waitable is or has been ready, or once it was parked and the queue is empty. R94 to R97: when the
task that was adopted has left, its helper runs again from its park area and completes its wait with the status that it was given,
or with what its waitable says. WAITABLE_READY turns a Waiting task whose waitable is or has been ready into a Parked one on its
home queue. R75, R458: SEGMENT_LINK, for a push that waits, writes the segment's header, links it as the tail, makes it the head
where there is none or where every entry of the tail has been popped, whose segment then is returned, charges the quota, lists it
as the context's, and makes the pushes that KILN holds. That a queue without a tail takes the segment as head and tail is the
model's choice (log 109); that what a monitor has seen counts though the waitable be not ready any more is DEDUCED (log 60). -/
def Obligations.SlotsAndSegments : Prop :=
  ((∀ (s s1 s2 : Machine.State) (core wid u : Nat) (w w1 : Wave) (q : W64) (h : HeadEntry) (r : TaskRec) (x : Queue) (k t : TaskCtx)
      (y : Option (Bool × Fin 8 × W64)), s.waveAt core wid = some (u, w) → s.drained u = true → w.halted = false → w.stop = none →
      w.ended ≠ none → w.chain = [] → w.exited = false →
      let ag := s.agentOf w.group
      let rootWaits : Prop := (w.root = none → w.task.root = false) ∧
        (∀ k0 lock pd a, w.root = some (k0, some (lock, pd, a)) → w.rootReady = false ∧ s.waitReady ag a.toNat = false) ∧
        (∀ k0 sq (xq : Queue), w.root = some (k0, none) → s.queue ag q.toNat = .ok (sq, xq) → xq.pop ≠ xq.push)
      (rootWaits → w.queue = some q → s.headEntry ag q.toNat = .ok (s1, x, some h) → h.state % 4 = 2 →
        h.owner % 64 = 0 → s1.taskRec ag h.owner = .ok (s2, r) →
        (s2.takeable ag.ctx h.owner r = true → s2.fits w h.owner r = true →
          exec (.slotTakeTask core wid) s = .next (((((s2.popEntry ag q.toNat h).dropStale ag.ctx h.owner r).putState ag h.owner 0
            1).runTask u ag h.owner r r.prio []).acquire ag .ten)) ∧
        (s2.takeable ag.ctx h.owner r = true → s2.fits w h.owner r = false → exec (.slotTakeTask core wid) s = .next s) ∧
        (s2.takeable ag.ctx h.owner r = false → r.st ≠ 4 →
          exec (.slotTakeTask core wid) s = .next (s2.popEntry ag q.toNat h))) ∧
      (∀ k0 : TaskCtx, w.root = some (k0, y) →
        (∀ lock pd a, y = some (lock, pd, a) → w.rootReady = true ∨ s.waitReady ag a.toNat = true) →
        (y = none → w.queue = some q ∧ s.queue ag q.toNat = .ok (s1, x) ∧ x.pop = x.push) →
        let s0 : Machine.State := s.putState ag k0.record.toNat 0 1
        s0.wave u = some w1 → w1.root = some (k, y) → s0.readImage ag k [] = (s2, t, []) →
        s.badState ag k0.record.toNat = false → s2.imageOk ag k t = true →
        exec (.slotTakeTask core wid) s = .next (((s2.modWave u (fun w =>
          { w with task := t.still, chain := [], ended := none })).acquire ag .ten).modWave u (fun w =>
            { w with root := none, rootReady := false })))) ∧
   (∀ (s s4 s6 : Machine.State) (core wid u : Nat) (w w3 w5 : Wave) (h h3 : Helper) (t : TaskCtx) (v : Bool),
      s.waveAt core wid = some (u, w) → s.wave u = some w → s.drained u = true → w.halted = false → w.stop = none →
      w.ended ≠ none → w.depth = 0 → w.adopting = none → w.chain = [h] →
      let ag := s.agentOf w.group
      let s2 : Machine.State := (s.leaveWaits u).release ag .ten
      let s3 : Machine.State := s2.putState ag h.task.record.toNat 0 1
      s3.wave u = some w3 → w3.chain = [h3] → s2.badState ag h.task.record.toNat = false →
      s3.readImage ag h3.task [] = (s4, t, []) → s4.imageOk ag h3.task t = true →
      let s5 : Machine.State := (s4.modWave u (fun w => { w with task := t.still, chain := [], ended := none })).acquire ag .ten
      s5.wave u = some w5 → w5.ended = none →
      (h.status = some v → exec (.adoptionEnd core wid) s = .next (s5.modWave u (fun w => w.finishWait h.pd v))) ∧
      (h.status = none → w5.pending = [] →
        s5.decideWait w5 (s5.agentOf w5.group) h.lock (w5.awaitLane.getD 0) h.addr.toNat = .ok (s6, .ready v) →
        exec (.adoptionEnd core wid) s = .next ((if h.lock = true then s6.takeLock (s5.agentOf w5.group) h.addr.toNat w5.task.record
          else s6).modWave u (fun w => w.finishWait h.pd v))))) ∧
  (∀ (s : Machine.State) (ctx tr : Nat) (p : ParkedTask) (a : W64),
     let mine (q : ParkedTask) : Bool := q.ctx == ctx && q.task.record.toNat == tr
     s.kiln.parked.find? mine = some p → p.waits = some a → p.past = true ∨ s.waitReady (s.agentFor ctx) a.toNat = true →
     let s1 : Machine.State := { s with kiln := { s.kiln with
       parked := s.kiln.parked.map (fun q => if mine q then { q with waits := none, past := false } else q) } }
     exec (.waitableReady ctx tr) s =
       .next ((s1.putState (s.agentFor ctx) tr 0 4).pushTask (s.agentFor ctx) p.home.toNat p.task.record)) ∧
  (∀ (s s1 s2 : Machine.State) (ctx queue seg next first : Nat) (c : Ctx) (q : Queue), s.kilnUp = true → s.ctx ctx = some c →
     let held (h : HeldPush) : Bool := h.ctx == ctx && h.queue.toNat == queue
     s.kiln.heldPushes.any held = true ∨ (ctx, queue) ∈ s.pendingPushes → s.queue (s.agentFor ctx) queue = .ok (s1, q) →
     seg ≠ 0 → seg % 64 = 0 → c.arenaFree seg q.segSize = true → (s.tenant c.tenant).quotaUsed + q.segSize ≤ 2 ^ 28 →
     let ag := s.agentFor ctx
     let s3 : Machine.State := s1.setObj ag .ten seg (leBytes 0 8 ++ leBytes q.push 8)
     let listed (t : Machine.State) : Machine.State := (t.modCtx ctx (fun c => { c with
       segments := c.segments ++ [(seg, q.segSize)], arenaTaken := c.arenaTaken ++ [(seg, q.segSize)] })).modTenant c.tenant
         (fun t => { t with quotaUsed := t.quotaUsed + q.segSize })
     let pushed (t : Machine.State) : Machine.State := (t.kiln.heldPushes.filter held).foldl (fun s h => s.pushTask ag queue h.record)
       { t with kiln := { t.kiln with heldPushes := t.kiln.heldPushes.filter (fun h => !held h) } }
     (q.tail = 0 → exec (.segmentLink ctx queue seg) s =
       .next (pushed (listed ((s3.putNum ag (queue + 8) 8 seg).putNum ag queue 8 seg)))) ∧
     (q.tail ≠ 0 → s1.segment ag q.tail = .ok (s2, next, first) → q.per ≤ q.push - first →
       let s4 : Machine.State := (s3.putNum ag q.tail 8 seg).putNum ag (queue + 8) 8 seg
       (q.head ≠ q.tail ∨ q.pop - first < q.per → exec (.segmentLink ctx queue seg) s = .next (pushed (listed s4))) ∧
       (q.head = q.tail → q.per ≤ q.pop - first → exec (.segmentLink ctx queue seg) s =
         .next (pushed ((listed (s4.putNum ag queue 8 seg)).returnSegment ctx q.tail)))))


/-! ## Spans and exits -/

/-- R144, R290, R291: `span.arrive` and `span.sync` by a whole strand count one arrival after a release at the barrier's
scope, complete the phases for which all have arrived, and `span.sync` then waits for the phase it arrived in;
`span.detach` releases and marks the group once. R292: `span.peer` gives each lane the state of the member that its operand
names; an index past the span or gang has none, a group that is itself the member is live, here, on this core and this cluster,
and a member that has left every table is one of this device, detached or departed. -/
def Obligations.SpanInstructions : Prop :=
  (∀ (s : Machine.State) (g : Guard) (e : Env), e.part ≠ 0 →
     let sc := s.spanScope e.w.group
     let ph := s.spanPhase e.w.group
     let t : Machine.State := (s.release e.ag sc).modWave e.u (fun w => { w with spanArrivals := max w.spanArrivals ph + 1 })
     (Leads s g [] [] e → e.w.behind e.sl = false → e.whole = true →
       exec (.spanArrive g) s = .next ((t.settleSpan e.w.group).next e (.spanArrive g))) ∧
     (Waits s g [] e → e.w.behind e.sl = false → e.whole = true →
       exec (.spanSync g) s = .next ((t.settleSpan e.w.group).waitIn e (.span (t.arrivalPhase e.u)))) ∧
     (Executes s g [] e → (s.wavesOf e.w.group).any (fun x => x.2.behind 0xFF) = false →
       ((s.group e.w.group).map (·.detached)) = some false →
       exec (.spanDetach g) s = .next (((((s.release e.ag sc).modGroup e.w.group (fun x =>
         { x with detached := true })).settleSpan e.w.group).settleHeld e.w.group).next e (.spanDetach g)))) ∧
  ((∀ (s : Machine.State) (g : Guard) (d a : Opd) (e : Env), Reads s g [(d, 1)] [(a, 1)] e →
     Gives32 s e (.spanPeer g d a) d (fun l => BitVec.ofNat 32 (s.peer e.w.group (e.w.rd a l).toNat))) ∧
   (∀ (s : Machine.State) (g m c : Nat) (x : Group), s.group g = some x → x.core = some c →
     (s.memberIndex g m = false → s.peer g m = 4) ∧
     (s.memberIndex g m = true → s.memberGroup g m = some (g, x) → s.memberDeparted g m = false → x.detached = false →
       x.freed = false → x.exited = false → s.peer g m = 64 + 32 + 16 + 8) ∧
     (s.memberIndex g m = true → s.memberGroup g m = none → s.memberRemote g m = none →
       s.peer g m = 8 + (if s.memberDeparted g m = true then 3 else 2))))


/-! ## The matrix engine -/

/-- R169, R172, R295, R296: forming and dissolving a crew, and taking, passing and freeing the token. A `tok.take` that cannot
have the token at once joins the takers and waits; a freed token goes to the crew of the first taker. -/
def Obligations.CrewAndToken : Prop :=
  (∀ (s : Machine.State) (g : Guard) (a b : Opd) (e : Env) (l c : Nat) (x : Crew), e.leader = some l →
     let k := e.ag.core
     let me := (e.w.group, c)
     let n : Nat := (e.w.rd a l).toNat
     let busy : Prop := (s.core k).token ≠ none ∨ (s.core k).takers ≠ [] ∨ s.sched.changes ≠ none
     (Leads s g [] [(a, 1), (b, 1)] e → s.crewBad e.w.group n (e.w.rd b l) = false →
       exec (.crewSet g a b) s = .next ((s.modGroup e.w.group (fun y => { y with crews := modAt y.crews n (fun _ =>
         if e.w.rd b l = 0 then none else some ⟨e.w.rd b l, [], false⟩) })).next e (.crewSet g a b))) ∧
     (Waits s g [] e → s.crewOf e.w = some (c, x) →
       ((s.core k).token = some me →
         exec (.tokTake g) s = .next ((s.acquire e.ag .core).next e (.tokTake g))) ∧
       ((s.core k).token = none → (s.core k).takers = [] → s.sched.changes = none → exec (.tokTake g) s =
         .next (((s.modCore k (fun y => { y with token := some me })).acquire e.ag .core).next e (.tokTake g))) ∧
       ((s.core k).token ≠ some me → busy → exec (.tokTake g) s =
         .next ((s.change (.take k e.w.group c (((s.group e.w.group).map (·.slot)).getD 0) e.u)).waitIn e .token))) ∧
     (e.w.behind e.sl = false → s.crewOf e.w = some (c, x) → (s.core k).token = some me →
       (Leads s g [] [] e → exec (.tokGive g a false) s = .next ((((s.release e.ag .core).modCore k (fun y =>
         { y with token := none })).tokServe k).next e (.tokGive g a false))) ∧
       (Leads s g [] [(a, 1)] e → n ≠ c → (s.crew e.w.group n).isSome = true → exec (.tokGive g a true) s =
         .next ((((s.release e.ag .core).modCore k (fun y =>
           { y with token := some (e.w.group, n) })).wakeGroup e.w.group).next e (.tokGive g a true))))) ∧
  (∀ (s : Machine.State) (k g c p u : Nat) (r : List (Nat × Nat × Nat)),
     (s.sched.changes = none → s.change (.take k g c p u) =
       s.modCore k (fun x => { x with takers := x.takers ++ [(g, c, u)] })) ∧
     ((s.core k).token = none → (s.core k).takers = (g, c, u) :: r →
       s.tokServe k = (s.modCore k (fun x => { x with token := some (g, c) })).wakeGroup g))

/-- R170, R297: a legal `mma` or `mmas` inside a wide region raises its flag and arrives in its crew's latch, where its
strand waits; an issue that YIELD made the youngest is over (R191). R176, R180, R300 to R302: `wbload`, `accz`, `accld` and `accst`
are issued and enter the array in order. That a `wbload` takes the slot for its group when it is issued, and that then nothing is
left of another group's image, is the model's reading (log 61, DEDUCED). -/
def Obligations.MatrixIssues : Prop :=
  (∀ (s : Machine.State) (g : Guard) (a : Opd) (m : MmaMods) (e : Env) (l c : Nat) (x : Crew), LeadIssues s g m.fs [] [(a, 1)] e →
     guardAlways g = true → e.leader = some l → e.w.task.wide ≠ none → s.crewOf e.w = some (c, x) →
     let adr : Nat := (e.w.rd a l).toNat
     adr % 256 = 0 → adr + 8192 ≤ s.spadSize e.w.group → m.tile.val < accUnits (s.poolOf e.w.group) →
     ∀ sparse : Bool,
       (∀ y ∈ x.latch, y.mods.slot = m.slot ∧ y.mods.afmt = m.afmt ∧ y.mods.rotb = m.rotb ∧ y.sparse = sparse) →
       let i : Instr := if sparse then .mmas g a m else .mma g a m
       let k := ((bitsOf x.mask).filter (fun j => decide (j < e.w.idx))).length
       exec i s = .next ((s.takeUid.2.modWave e.u (fun w =>
         ({ w.raise e.sl (e.flag m.fs) with ops := w.ops ++ [e.op i s.takeUid.1 (e.flag m.fs) [(a, 1)] []] } : Wave).modSlices e.st
             (fun y => { y with wait := some .latch, clause := y.clause.map (fun c => { c with young := false }) }))).arrive e.w.group c ⟨e.u, s.takeUid.1, k, m, sparse, adr⟩)) ∧
  (∀ (s : Machine.State) (g : Guard) (a b : Opd) (w : WbMods) (m : AccMods) (e : Env) (l : Nat), e.leader = some l →
     let x : Nat := (e.w.rd a l).toNat
     let y : Nat := (e.w.rd b l).toNat
     let enter (t : Machine.State) (z : Entry) : Machine.State := t.modCore e.ag.core (fun k => { k with array := k.array ++ [z] })
     (LeadIssues s g w.fs [] [(a, 1)] e → s.wbBad e a w l = false → s.uncapped e w.fscope →
       exec (.wbload g a w) s = .next ((s.issued e (.wbload g a w) w.fs [(a, 1)] []).modCore e.ag.core (fun k =>
         { k with array := k.array ++ [.load e.u s.takeUid.1 w], slots := modAt k.slots w.slot.val (fun z =>
           if z.owner = some e.w.group then z else { Slot.empty with owner := some e.w.group }) }))) ∧
     (m.tile.val < accUnits (s.poolOf e.w.group) →
       (LeadIssues s g m.fs [] [] e → exec (.accz g m) s =
         .next (enter (s.issued e (.accz g m) m.fs [] []) (.tile e.u s.takeUid.1 m.tile.val))) ∧
       (LeadIssues s g m.fs [] [(a, 1), (b, 1)] e → s.accOpBad e m x y = false →
         exec (.accld g a b m) s = .next (enter (s.issued e (.accld g a b m) m.fs [(a, 1), (b, 1)] [])
           (.tile e.u s.takeUid.1 m.tile.val)) ∧
         exec (.accst g a b m) s = .next (enter (s.issued e (.accst g a b m) m.fs [(a, 1), (b, 1)] [])
           (.tile e.u s.takeUid.1 m.tile.val)))))

/-- R173, R299: a formed joint operation enters the array once its crew holds the token and fewer than 4 joint operations are
in it; its members' strands then stand after their `mma`. One that may not enter yet stays. That it is checked against the slot as
the loads before it will leave it, and is made of the first arrival of each member, is the model's reading (log 61, DEDUCED). R298,
R437: the first joint operation in a core's array, with nothing before it, finishes: each member's tile takes its results; on
a slot marked bad or poisoned no tile is written and every member has an asynchronous error, that of the bad mark where the slot is
both (log 62, DEDUCED). -/
def Obligations.MatrixEvents : Prop :=
  (∀ (s : Machine.State) (core grp c : Nat) (g : Group) (x : Crew) (a : Arrival) (r : List Arrival), s.group grp = some g →
     s.crew grp c = some x → firsts x.latch = a :: r →
     let l := a :: r
     let joint (y : Entry) : Bool := match y with | .joint .. => true | _ => false
     (x.formed = false ∨ (s.core core).token ≠ some (grp, c) ∨ 4 ≤ ((s.core core).array.filter joint).length →
       exec (.matrixEntry core grp c) s = .next s) ∧
     (g.core = some core → x.formed = true → (s.core core).token = some (grp, c) →
       ((s.core core).array.filter joint).length < 4 →
       entryBad ((s.core core).slotDue a.mods.slot.val) grp l = none →
       poisonedMembers g ((s.core core).slotDue a.mods.slot.val) l = [] →
       exec (.matrixEntry core grp c) s = .next ((l.foldl (fun s y => s.unlatchEntered y)
         ((s.modGroup grp (fun y => { y with crews := modAt y.crews c (fun _ => some { x with
             latch := x.latch.filter (fun y => !l.contains y), formed := false }) })).modCore
           core (fun k => { k with array := k.array ++ [.joint grp c a.sparse l] }))).form grp c)) ∧
     ((x.latch.map (·.wave)).Nodup → firsts x.latch = x.latch)) ∧
  (∀ (s : Machine.State) (core grp c : Nat) (sp : Bool) (a : Arrival) (r : List Arrival) (rest : List Entry),
     (s.core core).array = .joint grp c sp (a :: r) :: rest →
     (∀ z ∈ a :: r, ∀ w, s.wave z.wave = some w → w.olderThan z.op = false) →
     let b := (s.core core).slot a.mods.slot.val
     let s1 : Machine.State := s.modCore core (fun k => { k with array := k.array.filter (fun y => y != .joint grp c sp (a :: r)) })
     (b.bad = none → b.poison = [] →
       exec (.matrixOpFinish core) s = .next ((a :: r).foldl (fun s z => s.memberCompute grp z b) s1)) ∧
     (∀ n, b.bad = some n → exec (.matrixOpFinish core) s =
       .next ((a :: r).foldl (fun s z => s.memberDone z (some (1, 8 * n + a.mods.slot.val))) s1)) ∧
     (b.bad = none → b.poison ≠ [] → exec (.matrixOpFinish core) s =
       .next ((a :: r).foldl (fun s z => s.memberDone z (some (10, a.mods.slot.val))) s1)))

/-- R180, R301: clearing and loading the named columns of a tile. `accz` gives +0 there; `accld` gives the scratchpad's element
as f32; every other element of every tile stays, and the scratchpad is unchanged. R166: an `mma` element. A product with a
zero is +0 whatever the other factor; the group sums are added in order, each rounded; the sum takes the rotation and band
factors, one rounding, and is added to the accumulator. -/
def Obligations.Tiles : Prop :=
  (∀ (s : Machine.State) (grp a b : Nat) (m : AccMods) (g : Group), s.group grp = some g → Store.wf g.tiles = true →
     let named (j : Nat) : Prop := Cols.first m.cols ≤ j ∧ j < Cols.first m.cols + Cols.count m.cols
     let w := (accFmt m.aty).width / 8
     ∃ z y, (s.doAccz grp m).group grp = some z ∧ (s.doAccld grp m a b).group grp = some y ∧ z.spad = g.spad ∧ y.spad = g.spad ∧
       (∀ i j, i < 32 → named j → z.tiles.get (tileKey m.tile.val i j) = 0 ∧
         y.tiles.get (tileKey m.tile.val i j) = rne32 ((accFmt m.aty).val
           (leNat (g.spad.bytes (a + i * accPitch m b + (j - Cols.first m.cols) * w) w)))) ∧
       (∀ t i j, i < 32 → j < 128 → (t ≠ m.tile.val ∨ ¬named j) →
         z.tiles.get (tileKey t i j) = g.tiles.get (tileKey t i j) ∧ y.tiles.get (tileKey t i j) = g.tiles.get (tileKey t i j))) ∧
  ((∀ x y : Val, x.isZero = true ∨ y.isZero = true → prodOf x y = .fin false 0 0) ∧
   (∀ (acc g : W32) (both : Bool) (ba bb : Val), accumulate acc [g] both ba bb =
     rne32 ((f32 acc).add false (f32 (rne32 ((((f32 g).mul (.fin false (if both then 2 else 1) 0)).mul ba).mul bb))))) ∧
   (∀ (acc g h : W32) (r : List W32) (both : Bool) (ba bb : Val),
     accumulate acc (g :: h :: r) both ba bb = accumulate acc (rne32 ((f32 g).add false (f32 h)) :: r) both ba bb))


/-! ## Copies and the system group -/

/-- R145, R146, R183, R303, R304: a copy instruction whose every lane passes its checks, with nothing earlier of its slices
outstanding and room in the port, is issued: copies of its lanes, in lane order, that have moved nothing, each with the box that
its record gives, wait for the port behind those that wait already, and the port accepts as many as it has room for. -/
def Obligations.CopiesIssue : Prop :=
  (∀ (s t : Machine.State) (g : Guard) (d a b c : Opd) (m : CpMods) (mask : Byte) (e : Env) (i : Instr) (n : Nat) (bx : Nat → Box),
     i = .cpTile g d a b c m ∧ n = 1 ∨ i = .cpMcast g d a b c m mask ∧ n = 1 ∨ i = .cpOut g d a b c m ∧ n = 4 ∨
       i = .cpGather g d a b c m ∧ n = 1 →
     let caps : List (Opd × Nat) := [(d, n), (a, 2), (b, 4), (c, 1)]
     let k := e.ag.core
     let o : Op := e.op i t.takeUid.1 none caps []
     let s0 : Machine.State := if m.acq then s.acquire e.ag (s.capScope e.ag.ctx m.fscope) else s
     Issues s g m.fs [] caps e → e.part ≠ 0 → e.w.behind e.sl = false → (s.core k).copies.length < 64 →
     t.uncapped e m.fscope → s0.copyCheck e.w.group e.ag (e.op i 0 none caps []) (bitsOf (e.copyLanes m)) = .ok t →
     (∀ l, (e.copyLanes m).getLsbD l = true → ∃ z, (t.issued e i m.fs caps []).copyBox e.w.group e.ag o l = .ok (z, bx l)) →
     ∃ (x : Machine.State) (new : List Copy), exec i s = .next x ∧
       x.core k = Core.accept { t.core k with pend := (t.core k).pend ++ new } ∧
       x.wave e.u = (t.issued e i m.fs caps []).wave e.u ∧
       new.map (fun y => (y.lane, y.box)) = (bitsOf (e.copyLanes m)).map (fun l => (l, bx l)) ∧
       (∀ y ∈ new, y.wave = e.u ∧ y.op = t.takeUid.1 ∧ y.instr = i ∧ y.done = 0 ∧ y.spad = (o.val32 3 y.lane).toNat)) ∧
  (∀ k : Core, k.copies.length ≤ 64 → k.accept.copies.length ≤ 64 ∧ k.accept.copies ++ k.accept.pend = k.copies ++ k.pend ∧
     (k.accept.pend = [] ∨ k.accept.copies.length = 64))

/-- R305, R385, R448: COPY_DELIVERY of one line of a `cp.tile`, nothing earlier of its wave being outstanding. The line's bytes,
0 where they lie outside the tensor, stand at their place in the scratchpad, no other byte of it changes but those of the
object, and the copy has one more line done or leaves the port. An error ends the copy; a copy that has contributed to a delivery
past the largest early count ends with its error. That a delivery comes line by line, in the order of the rows, and that the address
of a row is taken modulo 2^64, is the model's choice (log 126, 135). -/
def Obligations.CopyMoves : Prop :=
  ∀ (s s1 : Machine.State) (core id u row k : Nat) (c : Copy) (w : Wave) (o : Op) (gd : Guard) (d a b p : Opd)
    (m : CpMods), (s.core core).copies.find? (fun c => c.id == id) = some c → c.wave = u → s.wave u = some w →
    w.ops.find? (fun o => o.id == c.op) = some o → c.instr = .cpTile gd d a b p m → m.acq = false → m.rel = false →
    s.sched.changes = none →
    let ag := s.agentOf w.group
    let adr := (c.row row).1
    let inside := (c.row row).2
    let lo := (lineAt adr (c.box.box 0) k).1
    let len := (lineAt adr (c.box.box 0) k).2
    let at_ := c.spad + row * c.box.box 0 + lo
    let held (t : Machine.State) (y : Copy) : Machine.State := t.modCore core (fun q => { q with
      copies := q.copies.map (fun x => if x.id = id then { y with excess := x.excess } else x) })
    let now (t : Machine.State) (y : Copy) : Copy := (((held t y).core core).copies.find? (fun x => x.id == c.id)).getD y
    (w.olderThan c.op = true → exec (.copyDelivery core id 1) s = .next s) ∧
    (w.olderThan c.op = false → c.pos = some (row, k) →
      (s.lineIn w.group ag c row k = .ok s1 →
        ((c.step 1).pos ≠ none → exec (.copyDelivery core id 1) s = .next (held s1 (c.step 1))) ∧
        ((c.step 1).pos = none → exec (.copyDelivery core id 1) s = .next (((held s1 (c.step 1)).dropCopy core id).copyExcess ag.ctx
          (now s1 (c.step 1)) o (now s1 (c.step 1)).box.rows 0))) ∧
      (∀ er, s.lineIn w.group ag c row k = .error er → exec (.copyDelivery core id 1) s =
        .next ((((held s c).dropCopy core id).copyFail ag.ctx (now s c) o er (adr + lo) row k).copyExcess ag.ctx (now s c) o row k))) ∧
    (s.lineIn w.group ag c row k = .ok s1 → (at_ + len ≤ c.obj ∨ c.obj + 16 ≤ at_) →
      (∀ x, s.group w.group = some x → Store.wf x.spad = true) → (s.group w.group).isSome = true →
      (∀ i, i < len → inside ≤ lo + i → s1.spadByte w.group (at_ + i) = 0) ∧
      (∀ i s2 bs, i < len → lo + i < inside → s.obj ag .clus (adr + lo) (min len (inside - lo)) = .ok (s2, bs) →
        s1.spadByte w.group (at_ + i) = bs.getD i 0) ∧
      (∀ y, (y < at_ ∨ at_ + len ≤ y) → (y < c.obj ∨ c.obj + 16 ≤ y) → s1.spadByte w.group y = s.spadByte w.group y))

/-- R308 to R310, R315: `sget` reads a special register of R309 in every participating lane; `sset` writes `%trapbase`,
clears `%scopenote` or writes CLSTEP and BRKSTOP from the leader; `halt` stops a wave that a debugger is attached to. -/
def Obligations.SpecialRegisters : Prop :=
  ∀ (s : Machine.State) (g : Guard) (d a : Opd) (sreg : Byte) (e : Env) (l : Nat),
    let code := sreg.toNat
    let put (f : Wave → Wave) : Prop := exec (.sset g a sreg) s = .next ((s.modWave e.u f).next e (.sset g a sreg))
    let att : Bool := ((s.ctx e.ag.ctx).map (·.att)).getD false
    ((s.special e.w code 0).isSome = true →
      (Executes s g [(d, 1)] e → sregIs64 code = false →
        Gives32 s e (.sget g d sreg) d (fun j => BitVec.ofNat 32 ((s.special e.w code j).getD 0))) ∧
      (Executes s g [(d, 2)] e → sregIs64 code = true →
        Gives64 s e (.sget g d sreg) d (fun j => BitVec.ofNat 64 ((s.special e.w code j).getD 0)))) ∧
    (s.special e.w 0x19 l = some s.dev.tick ∧ s.special e.w 0x20 l = some e.w.trapbase ∧
      s.special e.w 0x21 l = some e.w.cause.toNat ∧ s.special e.w 0x22 l = some e.w.taddr.toNat ∧
      s.special e.w 0x23 l = some e.w.tinfo.toNat ∧ s.special e.w 0x00 l = some l) ∧
    (e.leader = some l →
      (code = 0x20 → Leads s g [] [(a, 2)] e → e.w.depth ≠ 1 → codeAddrOk (e.w.rdq a l).toNat = true →
        put (fun w => { w with trapbase := (e.w.rdq a l).toNat })) ∧
      (code = 0x29 → Leads s g [] [(a, 1)] e → put (fun w => { w with note := w.note && (e.w.rd a l).getLsbD 0 })) ∧
      (code = 0x30 → Leads s g [] [(a, 1)] e →
        put (fun w => { w with clstep := att && (e.w.rd a l).getLsbD 1, brkstop := att && (e.w.rd a l).getLsbD 0 }))) ∧
    (Executes s g [] e → e.part ≠ 0 →
      (att = true → exec (.halt g) s = .next ((s.next e (.halt g)).modWave e.u (fun w => { w with halted := true }))) ∧
      (att = false → exec (.halt g) s = .next (s.stopAt e none (illegal 0x11 2))))

/-- R240, R311 to R314: the other long-latency instructions of groups SYS and CVT are issued where their address is legal
and, for scans, the context may manage the device; `probe` whatever its source holds, poison too. -/
def Obligations.SystemOperationsIssue : Prop :=
  ∀ (s : Machine.State) (g : Guard) (d a b c : Opd) (op : CctlOp) (ty : Ty) (rnd : Rnd) (sat inv : Bool) (fs : FlagSel) (e : Env)
    (l : Nat), e.leader = some l →
    let mgmt : Bool := ((s.ctx e.ag.ctx).map (·.mgmt)).getD false
    let n : Nat := (e.w.rd a l).toNat
    let x : Nat := (e.w.rdq c l).toNat
    ((e.w.rdq a l).toNat < 2 ^ 56 → LeadIssues s g fs [] [(a, 2), (b, 1)] e →
      exec (.cctl g a b op fs) s = .next (s.issued e (.cctl g a b op fs) fs [(a, 2), (b, 1)] []) ∧
      exec (.tlbinv g a b fs) s = .next (s.issued e (.tlbinv g a b fs) fs [(a, 2), (b, 1)] [])) ∧
    (Executes s g [(d, 1)] e → e.part ≠ 0 → e.w.flagFull e.sl (e.flag fs) = false →
      exec (.probe g d a fs) s = .next (s.issued e (.probe g d a fs) fs [(a, 2)] [(d, 1)])) ∧
    (LeadIssues s g fs [(d, 1)] [(a, 1)] e → mgmt = true →
      (n ≤ 191 ∨ n = 0xFFFFFFFF → exec (.scanStart g d a fs) s = .next (s.issued e (.scanStart g d a fs) fs [(a, 1)] [(d, 1)])) ∧
      exec (.scanPoll g d a fs) s = .next (s.issued e (.scanPoll g d a fs) fs [(a, 1)] [(d, 1)])) ∧
    (LeadIssues s g fs [(d, 1)] [(a, 1)] e → mgmt = false →
      exec (.scanPoll g d a fs) s = .next (s.stopAt e (e.flag fs) (illegal 0x11 1))) ∧
    (LeadIssues s g fs [(d, 1)] [(a, 1), (b, 1), (c, 2)] e → e.w.poisonLane [(a, 1)] e.part = none → x % 64 = 0 → x < 2 ^ 56 →
      exec (.cvtHad g d a b c ty rnd sat inv fs) s =
        .next (s.issued e (.cvtHad g d a b c ty rnd sat inv fs) fs [(a, 1), (b, 1), (c, 2)] [(d, 1)]))

/-! ## Clauses, traps and stalls -/

/-- R187, R188, R394, R395, R398, R411: a strand at a clause boundary starts its clause: nothing happens while its wait mask
is not clear, a malformed header and a word that cannot be fetched trap, and otherwise its slices hold the clause's words and
stand behind the header. A reserved encoding traps with code 1, or 2 and its major opcode. -/
def Obligations.ClauseStarts : Prop :=
  ∀ (s s1 s2 : Machine.State) (e : Env) (h : W32) (er : MemErr) (ws : List W32) (maj : BitVec 7) (sub : Byte),
    (s.env ⟨false, 0⟩ = some e → (e.w.slice ((bitsOf e.st).headD 0)).clause = none →
      (e.w.slice ((bitsOf e.st).headD 0)).wait = none → e.act ≠ 0 → s.awake e.w = true →
      (s.fetchWord e.u e.ag e.pc = .error er →
        exec .clauseStart s = .next (s.stopStart e (memBad er false true 0xFF e.pc))) ∧
      (s.fetchWord e.u e.ag e.pc = .ok (s1, h) →
        (e.w.waitClear e.sl (hdrWait h) = false → exec .clauseStart s = .next s1) ∧
        (e.w.waitClear e.sl (hdrWait h) = true → s1.reportAt e.u (fun x => x.atClause e.st (hdrWait h)) = none →
          (hdrOk h = false → exec .clauseStart s = .next (s1.stopStart e (illegal 0x03 1))) ∧
          (∀ w, hdrOk h = true → hdrToken h = false → s1.wave e.u = some w → (∀ i ∈ bitsOf e.st, (w.slice i).pc = e.pc) →
            s1.fetchWords e.u e.ag ((e.pc + 4) % 2 ^ 56) (hdrLen h) = .ok (s2, ws) →
            exec .clauseStart s = .next (s2.modWave e.u (fun w => (w.modSlices e.st (fun y =>
              { y with pc := e.pc + 4, clause := some ⟨ws, hdrSeta h, hdrSetb h, hdrYield h⟩ })).loopKeep e.pc (h :: ws))))))) ∧
    (s.env s.guardHere = some e →
      let flag := (rejectFlag e.clause.rest).bind (flagOf e.clause)
      exec (.unassignedEncoding maj none) s = .next (s.stopAt e flag ⟨2, 1, 0, 0xFF, none⟩) ∧
      exec (.unassignedEncoding maj (some sub)) s = .next (s.stopAt e flag ⟨2, 2, maj.toNat, 0xFF, none⟩))

/-- R374, R376 to R378, R380: a stopped wave that has drained takes its trap, which counts the errors that are pending then (R384). The frame is written to the running task's park
area, its first fields being cause, information, address and FPC, and every slice starts the handler at `%trapbase` with all
lanes, flags 0 and an empty stack; without a usable handler the wave is killed. -/
def Obligations.TrapsTaken : Prop :=
  (∀ (s : Machine.State) (core wid u : Nat) (w : Wave) (r : TrapReq), s.waveAt core wid = some (u, w) → s.wave u = some w →
    w.stop = some r → s.drained u = true → w.ended ≠ some .fault →
    let ag := s.agentOf w.group
    (w.trapbase = 0 ∨ (w.depth = 1 ∧ w.narm = false) ∨ 2 ≤ w.depth →
      exec (.trapEntry core wid) s = .next ((s.taskFault u true).ifGone u w.group)) ∧
    ((w.taking r).pend = w.pending.length ∧ (w.taking r).cls = r.cls ∧ (w.taking r).code = r.code ∧ (w.taking r).addr = r.addr ∧
      (w.taking r).fpc = r.fpc ∧ (w.taking r).lanes = r.lanes) ∧
    (∀ a, w.trapbase ≠ 0 → w.depth = 0 ∨ (w.depth = 1 ∧ w.narm = true) → s.frameAddr u (w.depth + 1) = .ok a →
      s.canWrite ag a 0x800 = none → exec (.trapEntry core wid) s =
        .next (((s.setObj ag .wave a (frameBytes w (w.taking r))).modWave u (fun v => v.enterHandler (w.taking r))).ifGone u w.group))) ∧
  (∀ (w : Wave) (r : TrapReq), r.cls < 16 →
    let y := w.enterHandler r
    y.depth = w.depth + 1 ∧ y.stop = none ∧ y.ended = none ∧ y.task.wide = none ∧ y.registers = w.registers ∧ y.trapbase = w.trapbase ∧
    y.cause.toNat = r.cls * 2 ^ 28 + r.code % 65536 ∧ y.taddr = BitVec.ofNat 64 r.addr ∧
    (∀ (i : Nat) (x : SliceSt), w.task.slices[i]? = some x → ∃ z : SliceSt, y.task.slices[i]? = some z ∧ z.pc = w.trapbase ∧
      z.mask = 0xF ∧ z.exited = 0 ∧ z.stack = [] ∧ z.flags = List.replicate 12 0 ∧ z.strand = 0 ∧ z.clause = none ∧
      z.wait = none ∧ z.window = x.window) ∧
    fieldAt (frameBytes w r) 0 4 = y.cause.toNat ∧ fieldAt (frameBytes w r) 4 4 = y.tinfo.toNat ∧
    fieldAt (frameBytes w r) 8 8 = r.addr % 2 ^ 64 ∧ fieldAt (frameBytes w r) 0x10 8 = r.fpc % 2 ^ 64 ∧
    fieldAt (frameBytes w r) 0x18 4 = r.lanes.toNat ∧
    (w.task.slices.length = 8 → (∀ x ∈ w.task.slices, x.stack.length ≤ 8) → w.task.wide = none → w.chain.length ≤ 4 →
      (frameBytes w r).length = 0x800))

/-- R377, R378, R381: a handler that leaves its frame as it was written returns to what was interrupted: outside a wide
region and with nothing to replay, every slice has its program counter, masks, stack, window and flags again, and the wave its depth
and handler base. That a slice has its clause in progress and its wait again is the model's reading (log 40, DEDUCED); so is that a
task whose lanes had all exited has ended again (log 96, DEDUCED). R39, R41, R445: what a return makes of the wave, with the chain
that the frame names; one that would raise a flag past 63 stalls while operations of the handler are outstanding, and so does one that
would issue again an operation with a destination that one of the handler still has to write (R43). What the handler has issued, and
what is pending, counts from then on as issued before any later trap (R383). That the wave then waits for a token only where the frame
has that wait, and keeps a task that it has taken only with its wait, is an inference (log 140, DEDUCED). -/
def Obligations.TrapRoundTrip : Prop :=
  (∀ (s s1 : Machine.State) (u a : Nat) (w w' : Wave) (bs : List Byte) (ch : List Helper), s.wave u = some w → w.depth = 1 →
    s.frameAddr u 1 = .ok a → s.obj (s.agentOf w.group) .wave a 0x740 = .ok (s1, bs) → s1.wave u = some w →
    w.fromFrame s1.kiln.nextUid bs none = some w' → s1.chainOf (s.agentOf w.group) w.chain (frameChain bs).2 = some ch →
    (frameChain bs).1 = w.task.record.toNat ∨ s1.ownTask (s.agentOf w.group) (frameChain bs).1 = true →
    let new := w'.ops.drop w.ops.length
    let s2 : Machine.State := s1.setWave u { w' with
      chain := ch, task := { w'.task with record := BitVec.ofNat 64 (frameChain bs).1 } }
    let s3 : Machine.State := ({ s2 with kiln := { s2.kiln with nextUid := s2.kiln.nextUid + new.length } } : Machine.State).modCore
      (s.coreOf w.group) (fun k => { k with array := k.array ++ new.filterMap (Op.tileEntry u) })
    let clash : Bool := new.any (fun o => o.clashes w.ops)
    (w'.flagsFit = true → clash = false → s.leaveTrap u = (s3.keepTakes u w'.takes).settleClaim u) ∧
    ((w'.flagsFit = false ∧ s.drained u = false) ∨ clash = true → s.leaveTrap u = s)) ∧
  ∀ (w : Wave) (r : TrapReq) (bs : List Byte) (id : Nat), w.task.slices.length = 8 → w.task.wide = none → w.held = [] →
    w.trapbase < 2 ^ 64 →
    (∀ x ∈ w.task.slices, x.pc < 2 ^ 64 ∧ x.window < 2 ^ 32 ∧ x.stack.length ≤ 8 ∧ (∀ p ∈ x.stack, p.pc < 2 ^ 64) ∧
      x.flags.length = 12 ∧ x.strand < 16 ∧ x.wait ≠ some .entered) →
    frameOk (regCount w.task.regs) (w.task.slices.map (fun x => if x.live then x else { x with strand := 15 })) none = true →
    bs.take 0x740 = (frameBytes w r).take 0x740 →
    ∃ y : Wave, (w.enterHandler r).fromFrame id bs none = some y ∧ y.depth = w.depth ∧ y.trapbase = w.trapbase ∧
      y.saves = w.saves ∧ y.ops = w.ops.map (fun o => { o with depth := min w.depth o.depth }) ∧
      y.pending = w.pending.map (fun x => { x with depth := min w.depth x.depth }) ∧ y.ended = (if w.task.slices.any (·.live) then none else some .done) ∧ y.registers = w.registers ∧ y.task.wide = none ∧
      ∀ (i : Nat) (x : SliceSt), w.task.slices[i]? = some x → ∃ z : SliceSt, y.task.slices[i]? = some z ∧ z.pc = x.pc ∧
        z.mask = x.mask ∧ z.exited = x.exited ∧ z.stack = x.stack ∧ z.window = x.window ∧ z.flags = x.flags ∧
        z.clause = x.clause ∧ z.wait = x.wait


/-! ## KILN -/

/-- R61, R366, R444, R450: a doorbell of the tenant's own registered queue has KILN read its write index; KILN reads the next
record of a queue, accepts it or rejects it, and writes the read index; a write index too far ahead stops the queue with OVER
set. -/
def Obligations.HostQueues : Prop :=
  ∀ (s s1 : Machine.State) (fn ctx queue : Nat) (value : W32) (c : Ctx) (q : HostQueue) (bs : List Byte),
    s.ctx ctx = some c → Tab.find c.queues queue = some q →
    let put (t : Machine.State) (f : HostQueue → HostQueue) : Machine.State :=
      t.modCtx ctx (fun c => { c with queues := Tab.modify c.queues queue f })
    let ahead : Nat := (q.write + 2 ^ 64 - q.read) % 2 ^ 64
    let advance (t : Machine.State) : Machine.State :=
      (put t (fun q => { q with read := q.read + 1 })).kilnWrite ctx .sys (q.header + 0x10) (leBytes (q.read + 1) 8)
    (value.toNat / 8 % 64 = ctx → value.toNat % 8 = queue →
      (c.tenant ≠ fn ∨ q.overrun = true → exec (.doorbell fn value) s = .next s) ∧
      (c.tenant = fn → q.overrun = false →
        (s.kilnUp = false → exec (.doorbell fn value) s = .next (put s (fun q => { q with rung := true }))) ∧
        (s.kilnUp = true → exec (.doorbell fn value) s =
          .next ((put s (fun q => { q with rung := true })).readWriteIndex ctx queue)))) ∧
    (s.obj (s.agentFor ctx) .sys (q.header + 8) 8 = .ok (s1, bs) →
      let t : Machine.State := put (s1.acquire (s.agentFor ctx) .sys) (fun q => { q with write := leNat bs, rung := false })
      s.readWriteIndex ctx queue = if 2 ^ q.log2 < (leNat bs + 2 ^ 64 - q.read) % 2 ^ 64 then
        (put t (fun q => { q with overrun := true })).setOver ctx q.header else t) ∧
    (s.kilnUp = true → q.rung = false → q.overrun = false → q.read ≠ q.write →
      (2 ^ q.log2 < ahead → exec (.hostQueueRecordRead ctx queue) s =
        .next ((put s (fun q => { q with overrun := true })).setOver ctx q.header)) ∧
      (ahead ≤ 2 ^ q.log2 → s.kiln.launches.length < 4096 →
        s.obj (s.agentFor ctx) .sys (q.ring + 64 * (q.read % 2 ^ q.log2)) 64 = .ok (s1, bs) →
        (s1.recordOk ctx bs = true →
          exec (.hostQueueRecordRead ctx queue) s = .next (advance (s1.accept .host (Record.ofBytes bs)))) ∧
        (s1.recordOk ctx bs = false →
          exec (.hostQueueRecordRead ctx queue) s = .next (advance (s1.rejectRecord ctx (Record.ofBytes bs))))) ∧
      (ahead ≤ 2 ^ q.log2 → 4096 ≤ s.kiln.launches.length → exec (.hostQueueRecordRead ctx queue) s = .next s))

/-- R60, R62 to R64, R281, R432: an accepted record is a new live launch, Ready when it depends on no live launch and Blocked
otherwise. The records of a `launch` are all checked before any is accepted, and accepted in lane order as far as the 4,096 live
launches allow, the rest waiting for room; none is accepted where one fails its checks, and one whose tag has been taken while it
waited goes on waiting (the model's choice, log 136). A Completing launch has its stores
performed, its completion word written, and leaves the table. -/
def Obligations.LaunchesRun : Prop :=
  (∀ (s : Machine.State) (src : Source) (r : Record), ∃ x : Launch, (s.accept src r).launch s.kiln.nextUid = some x ∧
    x.record = r ∧ x.source = src ∧ (x.state = .ready ∨ x.state = .blocked) ∧ (x.state = .ready ↔ x.deps = []) ∧
    (∀ l ∈ x.deps, ∃ t ∈ r.deps, s.launchTag r.ctx t = some l) ∧
    (s.accept src r).mem = s.mem ∧ (s.accept src r).kiln.waves = s.kiln.waves ∧
    (∀ l, l ≠ s.kiln.nextUid → (s.accept src r).launch l = s.launch l)) ∧
  (∀ (s : Machine.State) (y : Submit) (rest : List Submit) (w : Wave) (o : Op), s.kiln.submits = y :: rest →
    s.wave y.wave = some w → w.ops.find? (fun o => o.id == y.op) = some o → s.kilnUp = true →
    s.kiln.launches.length < 4096 →
    let room : Nat := 4096 - s.kiln.launches.length
    let go := (y.recs.take room).takeWhile (fun r => (s.launchTag (s.ctxNo w.group) (Record.ofBytes r.2).tag).isNone)
    let left := y.recs.drop go.length
    let s1 (subs : List Submit) : Machine.State := { s with kiln := { s.kiln with submits := subs } }
    (y.recs.length < popCount o.lanes ∨ s.badRecord (s.ctxNo w.group) y.recs = none →
      exec (.launchAccept 0) s = .next ((go.foldl (fun s r => s.accept .kernel (Record.ofBytes r.2))
        (s1 (if left = [] then rest else { y with recs := left } :: rest))).setOp y.wave
          { o with todo := maskOf (left.map (fun r => r.1)) })) ∧
    (∀ l, popCount o.lanes ≤ y.recs.length → s.badRecord (s.ctxNo w.group) y.recs = some l →
      exec (.launchAccept 0) s = .next ((s1 rest).holdOp y.wave { o with todo := o.lanes } (illegalIn 0x0F 7 l)))) ∧
  (∀ (s : Machine.State) (index : Nat) (y : Submit), s.kiln.submits[index]? = some y →
    (s.kiln.submits.take index).any (fun z => z.wave == y.wave) = true ∨ 4096 ≤ s.kiln.launches.length →
    exec (.launchAccept index) s = .next s) ∧
  (∀ (s : Machine.State) (l : Nat) (x y : Launch), s.launch l = some x → s.kilnUp = true →
    (s.releaseAll x.record.ctx).launch l = some y →
    (x.state ≠ .completing → exec (.launchComplete l) s = .next s) ∧
    (x.state = .completing → exec (.launchComplete l) s = .next (((s.releaseAll x.record.ctx).writeCompletion x.record.ctx
      x.record.completion y.word (Source.scope x.source)).dropLaunch l y))) ∧
  (∀ x : Launch, x.record.tag < 2 ^ 32 → x.word % 2 ^ 32 = x.record.tag ∧ x.word.testBit 32 = true ∧
    x.word.testBit 33 = x.viral ∧ x.word.testBit 34 = x.fault ∧ x.word.testBit 35 = x.nest ∧ x.word.testBit 36 = x.stall)

/-- R52, R54, R67 to R70: KILN places or restores the first gang that fits, ends time slices, marks the gangs of the chosen
set with their spans, and saves the marked gangs of a span, or a marked gang outside one, once every wave has stopped; a save or a
restore waits for the controllers of the stacks that a save area stands in (R367). That a gang of a span over several devices may be
marked at any time, that it is saved with every resident gang of the span here, and how a turn waits, are the model's readings (log 75
and 88, DEDUCED). -/
def Obligations.GangsMove : Prop :=
  ∀ (s s1 : Machine.State) (arena save : List Nat) (l n gn : Nat) (x : Launch) (y : Gang) (spots : List (Nat × Nat)),
    s.kilnUp = true →
    (s.firstFitting = some (⟨l, n, none⟩, spots) → s.launch l = some x → s.takeMemory x.record arena save = some s1 →
      exec (.gangPlace arena save) s = .next (s1.placeGang l x n spots arena save)) ∧
    (s.firstFitting = none → exec (.gangPlace arena save) s = .next s) ∧
    (s.gang gn = some y → s.firstFitting = some (⟨l, n, some gn⟩, spots) →
      (s.gangWaits gn = false → exec (.gangRestore gn) s = .next (s.restoreGang gn y spots)) ∧
      (s.gangWaits gn = true → exec (.gangRestore gn) s = .next s.hold)) ∧
    (s.gang gn = some y → s.launch y.launch = some x →
      (y.state = .resident → x.record.persist = false → y.since + 2000000 ≤ s.dev.tick →
        exec (.timeSliceExpiry gn) s = .next (s.modGang gn (fun z => { z with expired := true }))) ∧
      (y.state ≠ .resident ∨ x.record.persist = true ∨ s.dev.tick < y.since + 2000000 →
        exec (.timeSliceExpiry gn) s = .next s) ∧
      (x.record.spanKey = 0 → s.together gn = [gn]) ∧
      (y.state = .resident →
        (gn ∈ s.victims ∨ (x.record.spanKey ≠ 0 ∧ 1 < x.record.spanDevices) → exec (.gangPreempt gn) s =
          .next ((s.together gn).foldl (fun s g => s.modGang g (fun z => { z with marked := true })) s)) ∧
        (gn ∉ s.victims → x.record.spanKey = 0 ∨ x.record.spanDevices ≤ 1 → exec (.gangPreempt gn) s = .next s)) ∧
      (s.together gn ≠ [] → (∀ g ∈ s.together gn, ∃ z, s.gang g = some z ∧ z.marked = true ∧ z.state = .resident) →
        (∀ z ∈ s.kiln.groups, z.2.gang ∈ s.together gn → ∀ w ∈ s.wavesOf z.1, s.waveStopped w.1 w.2 = true) →
        let s2 : Machine.State := (s.together gn).foldl (fun s g => s.modGang g (fun z =>
            { z with state := .saved, marked := false, expired := false }))
          ((s.kiln.groups.filter (fun z => (s.together gn).contains z.2.gang)).foldl (fun s z => s.saveGroup z.1 z.2) s)
        let s3 : Machine.State := { s2 with kiln := { s2.kiln with
          spans := Tab.modify s2.kiln.spans x.record.spanId (fun p => { p with committed := false, ready := false }) } }
        ((∀ z ∈ s.kiln.groups, z.2.gang ∈ s.together gn → s.areaWaits z.1 = false) →
          exec (.gangSave gn) s = .next ((((s.together gn).filterMap (fun g => (s.gang g).map (fun z => z.launch))).dedup).foldl
            (fun s l => s.settleLaunch l) s3)) ∧
        ((∃ z ∈ s.kiln.groups, z.2.gang ∈ s.together gn ∧ s.areaWaits z.1 = true) → exec (.gangSave gn) s = .next s.hold)) ∧
      ((∃ g ∈ s.together gn, ∃ z, s.gang g = some z ∧ z.marked = false) → exec (.gangSave gn) s = .next s) ∧
      (∀ u w, s.waveStopped u w = true → w.stop = none ∧ s.drained u = true ∧ (w.halted = true ∨ w.ended.isSome = true ∨
        ∀ n ∈ w.strands, (w.slice n).clause = none ∨ (w.slice n).wait.isSome = true)))

/-! ## Spans and packets -/

/-- R66, R71, R335 to R337, R367, R425: the negotiation of a span is heard under the key of its tenant and, where the span lies on
several devices, over a FLUE link that is ready. KILN gives up the uncommitted reservations of lower spans and reserves for its
gangs of the span, and is ready once it holds a placement for each; a commit makes the planned gangs Resident, which then go on, or
gives the reservation up where a core no longer suits; a committed span takes the priority that its devices agree on, a one-device
span its own; a member that departs is recorded as departed, an uncommitted reservation is given up, and a departure elsewhere marks
the remaining gangs and their waves; it waits while KILN is being replaced. A span is that of its context and key (log 65, DEDUCED);
that a commit takes the members on other devices only the first time is the model's reading too (log 76, DEDUCED). -/
def Obligations.SpansMove : Prop :=
  ∀ (s : Machine.State) (pkey : BitVec 16) (ctx k0 prio member : Nat) (arena save : List Nat) (remotes : List (Nat × Nat)) (x : Span),
    let key := spanIdOf ctx k0
    let msg : SpanMsg := ⟨pkey, ctx, k0⟩
    s.span key = x → key ≠ 0 →
    let heard : Prop := s.keyFits ctx pkey = true ∧ (s.spanDevices key ≤ 1 ∨ s.dev.links ≠ 0)
    let low := (Tab.keys s.kiln.spans).filter (fun k => k != key && !(s.span k).committed && !(s.span k).reserved.isEmpty
      && s.spanBefore key k)
    let s1 : Machine.State := low.foldl (fun s k => s.releaseSpan k) (s.modSpan key id)
    let s2 : Machine.State := s1.reserveAll key
      (s1.wants.length + (s1.spanLaunches key).foldl (fun n x => n + x.2.record.groups) 0) arena save
    let first := (s.spanLaunches key).all (fun y => y.2.placed == 0)
    let agreed : Nat := if s.spanDevices key ≤ 1 then s.spanOwn key else max (prio % 8) (s.spanOwn key)
    (¬heard → exec (.spanReserve msg arena save) s = .next s ∧ exec (.spanCommit msg prio remotes) s = .next s ∧
      exec (.spanPriorityUpdate msg prio) s = .next s) ∧
    (s.kilnUp = true → heard → s.spanLaunches key ≠ [] → x.committed = false → exec (.spanReserve msg arena save) s =
      .next (s2.modSpan key (fun x => { x with ready := s2.spanPlanned key }))) ∧
    (s.kilnUp = true → heard → x.ready = true → x.committed = false → s.spanPlanned key = true →
      (first = true → s.membersOk key remotes = true) →
      (x.reserved.any (fun p => p.gang.any (fun g => s.gangWaits g)) = true → exec (.spanCommit msg prio remotes) s = .next s.hold) ∧
      (x.reserved.any (fun p => p.gang.any (fun g => s.gangWaits g)) = false →
      let got : Option Machine.State := State.commitAll x.reserved (s.setSpan key { x with
        reserved := []
        ready := false
        committed := true
        remotes := if first then remotes.map (freshRemote ((((s.spanLaunches key).head?).map (fun y =>
          y.2.record.pool.toNat % 128)).getD 0)) else x.remotes
        prio := agreed })
      (∀ t, got = some t → exec (.spanCommit msg prio remotes) s =
        .next ((x.reserved.filterMap (·.gang)).foldl (fun s g => s.resumeGang g) t)) ∧
      (got = none → exec (.spanCommit msg prio remotes) s = .next (s.releaseSpan key)))) ∧
    (x.ready = false → exec (.spanCommit msg prio remotes) s = .next s) ∧
    (s.kilnUp = true → heard → Tab.find s.kiln.spans key = some x →
      (x.committed = true →
        exec (.spanPriorityUpdate msg prio) s = .next (s.modSpan key (fun x => { x with prio := agreed }))) ∧
      (x.committed = false → exec (.spanPriorityUpdate msg prio) s = .next s)) ∧
    (s.kilnUp = true → s.keyFits ctx pkey = false → exec (.memberDepart msg member) s = .next s) ∧
    (s.kilnUp = false → s.dev.kiln = true →
      exec (.memberDepart msg member) s = .next { s with sched := { s.sched with held := true } }) ∧
    (s.kilnUp = true → s.keyFits ctx pkey = true → Tab.find s.kiln.spans key = some x → x.departed.contains member = false →
      let here := s.kiln.groups.find? (fun y => s.spanOf y.2.launch == key
        && ((s.launch y.2.launch).map (·.record.spanFirst)).getD 0 + y.2.number == member && !y.2.exited)
      here.isSome = true ∨ (∃ r ∈ x.remotes, r.member = member ∧ r.exited = false) →
      (∃ t : Machine.State, exec (.memberDepart msg member) s = .next t ∧
        (t.span key).departed = x.departed ++ [member]) ∧
      (∀ g y rest, here = none →
        let t0 : Machine.State := s.modSpan key (fun x => { x with
          departed := x.departed ++ [member]
          remotes := x.remotes.map (fun r => if r.member = member then { r with departed := true } else r) })
        let t : Machine.State := if x.committed then t0 else t0.releaseSpan key
        t.kiln.groups.filter (fun y => t.spanOf y.2.launch == key && !y.2.exited) = (g, y) :: rest →
        exec (.memberDepart msg member) s = .next (((((g, y) :: rest).foldl (fun s y => s.modGang y.2.gang (fun z =>
          if z.state = .resident then { z with marked := true } else z)) (((g, y) :: rest).foldl (fun s y =>
            (s.wavesOf y.1).foldl (fun s w => if w.2.exited then s else s.addAsync w.1 (looseErr w.2 9 member 0)) s) t)).settleSpan
              g).settleHeld g)))

/-- R330 to R333, R444, R450, R460: KILN reads an inbox's write index, takes a session's key, and reads packets only under a key.
A packet that fails a check is passed over; one that passes becomes a launch, with its resolved words in the argument block. -/
def Obligations.PacketsLaunch : Prop :=
  ∀ (s s1 : Machine.State) (n block : Nat) (x : Session) (bs : List Byte) (key : BitVec 256), s.session n = some x →
    let ag := s.agentFor x.ctx
    (s.kilnUp = true → x.overrun = false → s.obj ag .ten (x.header + 8) 8 = .ok (s1, bs) →
      (2 ^ x.log2 < (leNat bs + 2 ^ 64 - x.read) % 2 ^ 64 → exec (.inboxWake n) s = .next (((s1.acquire ag .ten).modSession n
        (fun x => { x with write := leNat bs, overrun := true })).setOver x.ctx x.header)) ∧
      ((leNat bs + 2 ^ 64 - x.read) % 2 ^ 64 ≤ 2 ^ x.log2 → exec (.inboxWake n) s =
        .next ((s1.acquire ag .ten).modSession n (fun x => { x with write := leNat bs })))) ∧
    (s.dev.firebox = true →
      exec (.sessionKeyInstall n key) s = .next (s.modSession n (fun x => { x with key := some key }))) ∧
    (s.dev.firebox = false → exec (.sessionKeyInstall n key) s = .next s) ∧
    (x.key = none ∨ x.read = x.write → exec (.packetRead n block) s = .next s) ∧
    (s.kilnUp = true → x.overrun = false → x.read ≠ x.write → x.key ≠ none → s.kiln.launches.length < 4096 →
      s.obj ag .ten (x.ring + 256 * (x.read % 2 ^ x.log2)) 256 = .ok (s1, bs) →
      (s1.checkPacket n x bs = none → exec (.packetRead n block) s = .next (s1.packetDone n x)) ∧
      (∀ k ws, s1.checkPacket n x bs = some (k, ws) →
        let rec_ := packetRecord x k bs ((ws.map (fun w : Nat × Option Nat => w.1)).headD 0) block
        let s2 : Machine.State := s1.modSession n (fun y => { y with seq := fieldAt bs 8 8 })
        (s1.recordOk x.ctx rec_ = false → exec (.packetRead n block) s =
          .next ((s2.rejectRecord x.ctx (Record.ofBytes rec_)).packetDone n x)) ∧
        (s1.recordOk x.ctx rec_ = true → s1.blockFree x.ctx block = true → exec (.packetRead n block) s =
          .next ((((s2.modCtx x.ctx (fun c => { c with arenaTaken := c.arenaTaken ++ [(block, 128)] })).kilnWrite x.ctx .ten
            block (ws.flatMap (fun w : Nat × Option Nat => leBytes w.1 8))).accept (.packet block
            ((ws.filterMap (fun w : Nat × Option Nat => w.2)).dedup) ) (Record.ofBytes rec_)).packetDone n x)))) ∧
    (∀ k ws, s.checkPacket n x bs = some (k, ws) → macOk x bs = true ∧ headerOk x n bs = true ∧ x.seq < fieldAt bs 8 8 ∧
      k ∈ (s.tenant x.tenant).kernels ∧ k.digest = BitVec.ofNat 512 (fieldAt bs 0x10 64))

/-! ## The fabric, health and the mailbox -/

/-- R4, R116, R316, R328, R335, R336, R362, R424: an extent of this device is added as a dead region and given up once no launch
names it and no accepted access is open; one of another device becomes memory that the tenant holds there, which is dead when it
comes and when it goes. That an access counts as open until all its lanes have been performed, whatever extent it is to, is the
model's reading (log 78, DEDUCED); so is that nothing of such an extent stays in a cache here (log 91, DEDUCED). A declared range reads
0; an inbound request waits while the controller of the only ready link that it may come by is replaced (R367; which links those are
is the model's choice, log 101); one with another key than its owner's, or with no way in trained, has no effect, and an admitted write
leaves its bytes at their addresses, where their stack is ready, and no other byte of local memory changed; a member elsewhere that
arrives is counted in the span of the context that the request names; a write to a member's scratchpad leaves the granules that it
touches poisoned if its data arrived so; a read changes nothing. -/
def Obligations.ExtentsAndInbound : Prop :=
  ∀ (s : Machine.State) (tenant base size : Nat) (home : WinKind × Nat) (key : BitVec 16) (a : Nat) (data : List Byte) (bad : Bool),
    let t := s.tenant tenant
    let here : ExtentAt := ⟨none, base⟩
    let there : ExtentAt := ⟨some home, base⟩
    let far : Nat := homeKey (WinKind.dest home.1 home.2)
    let inside (p : Place) : Prop := ∃ tn pa d y, p = .home tn pa d y ∧ homeKey d = far ∧ base ≤ y ∧ y < base + size
    (s.dev.fitting = .l900 → tenant < 16 → base % 2 ^ 28 = 0 → size % 2 ^ 28 = 0 → size ≠ 0 →
      base + size ≤ s.dev.populated → t.extents.length < 1024 →
      (∀ x ∈ s.kiln.tenants, ∀ b ∈ x.2.ranges, blocksMeet (base, size) b = false) →
      exec (.extentAdd tenant here size) s = .next ((s.declareDead base size).modTenant tenant (fun t => { t with
        extents := t.extents ++ [(base, size)]
        ranges := t.ranges ++ [(base, size)]
        released := t.released.filter (fun b => !blocksMeet b (base, size)) }))) ∧
    (s.dev.fitting ≠ .l900 → exec (.extentAdd tenant here size) s = .next s) ∧
    (tenant < 16 → base % 2 ^ 28 = 0 → size % 2 ^ 28 = 0 → size ≠ 0 → (t.away.filter (fun z => z.1 == far)).length < 1024 →
      (∀ x ∈ s.kiln.tenants, ∀ z ∈ x.2.away, z.1 = far → blocksMeet z.2 (base, size) = false) →
      exec (.extentAdd tenant there size) s = .next (((s.dropFar far base size).farDead far base size).modTenant tenant (fun t => { t with
        away := t.away ++ [(far, (base, size))]
        gone := t.gone.filter (fun z => !(z.1 == far && blocksMeet z.2 (base, size))) }))) ∧
    (∀ x, t.extents.find? (fun y => y.1 == base) = some x → t.releasing.contains x = false →
      exec (.extentRelease tenant here) s = .next (s.modTenant tenant (fun t =>
        if t.releasing.contains x then t else { t with releasing := t.releasing ++ [x] }))) ∧
    (exec (.extentRelease tenant there) s = .next s) ∧
    (∀ x, t.releasing.find? (fun y => y.1 == base) = some x →
      (s.accessesOpen tenant = true → exec (.extentReleaseAnswer tenant here) s = .next s) ∧
      let named : Prop := ∃ l ∈ s.kiln.launches, ∃ b es, l.2.source = .packet b es ∧ base ∈ es ∧
        ∃ c, s.ctx l.2.record.ctx = some c ∧ c.tenant = tenant
      (tenant < 16 → named → exec (.extentReleaseAnswer tenant here) s = .next s) ∧
      (tenant < 16 → s.accessesOpen tenant = false → ¬ named → exec (.extentReleaseAnswer tenant here) s = .next
        (((s.kiln.sessions.filter (fun y => y.2.tenant == tenant && y.2.extent == base)).map (fun y => y.1)).foldl
          (fun s n => s.dropSession n) ((s.declareDead x.1 x.2).modTenant tenant (fun t => { t with
            extents := t.extents.filter (fun y => y != x)
            ranges := t.ranges.filter (fun y => y != x)
            releasing := t.releasing.filter (fun y => y != x)
            released := t.released ++ [x] }))))) ∧
    (∀ z, t.away.find? (fun y => y.1 == far && y.2.1 == base) = some z → exec (.extentReleaseAnswer tenant there) s =
      .next (((s.modTenant tenant (fun t => { t with away := t.away.filter (fun y => y != z), gone := t.gone ++ [z] })).dropFar
        z.1 z.2.1 z.2.2).farDead z.1 z.2.1 z.2.2)) ∧
    ((∀ c, ∀ z ∈ ((s.dropFar far base size).cluster c).l2, ¬inside z.place) ∧
      (∀ z ∈ (s.dropFar far base size).mem.msc, ¬inside z.place) ∧
      ∀ c ∈ (s.dropFar far base size).cores, ∀ z, z ∈ c.2.l1 ∨ z ∈ c.2.cc ∨ z ∈ c.2.ic → ¬inside z.place) ∧
    (Store.wf s.mem.loc = true → ∀ y, (s.declareDead base size).mem.loc.get y =
      if base ≤ y ∧ y < base + size then 0 else s.mem.loc.get y) ∧
    (∀ m, Tab.find s.mem.homes far = some m → Store.wf m = true → ∃ m' : Mem,
      Tab.find (s.farDead far base size).mem.homes far = some m' ∧
        ∀ y, m'.get y = if base ≤ y ∧ y < base + size then 0 else m.get y) ∧
    (∀ r : InReq, exec (.inboundRequest r) s = .next (if s.arrivalWaits r then s.hold else s.inbound r)) ∧
    (∀ r : InReq, s.linkWaits = false → s.arrivalWaits r = false) ∧
    (s.linkWaits = false →
    (s.admits key a data.length = false ∨ s.dev.busUp = false →
      exec (.inboundRequest (.writeLocal key a data bad)) s = .next s) ∧
    (Store.wf s.mem.loc = true → ∃ u : Machine.State, exec (.inboundRequest (.writeLocal key a data bad)) s = .next u ∧
      ∀ y, (y < a ∨ a + data.length ≤ y ∨ s.dev.stackBits.getLsbD (stackOf y) = false → u.mem.loc.get y = s.mem.loc.get y) ∧
        (∀ i, s.dev.busUp = true → s.admits key a data.length = true → i < data.length →
          s.dev.stackBits.getLsbD (stackOf (a + i)) = true → u.mem.loc.get (a + i) = data.getD i 0)) ∧
    exec (.inboundRequest (.readLocal key a size)) s = .next s ∧
    (∀ (k : SpanMsg) (m g : Nat) (y : Group) (rest : List (Nat × Group)), s.spanOfKey k = (g, y) :: rest →
      exec (.inboundRequest (.arrive k m)) s =
        .next (((s.modRemote (s.spanKeyOf g) m (fun r => { r with arrivals := r.arrivals + 1 })).settleSpan g).settleHeld g)) ∧
    (∀ (k : SpanMsg) (m : Nat), s.spanOfKey k = [] → exec (.inboundRequest (.arrive k m)) s = .next s) ∧
    (∀ (k : SpanMsg) (y : Nat × Group), y ∈ s.spanOfKey k → ∃ l, s.launch y.2.launch = some l ∧
      l.record.spanId = spanIdOf k.ctx k.key ∧ s.keyFits k.ctx k.pkey = true) ∧
    (∀ (k : SpanMsg) (m off g : Nat), s.inMember k m = some g → off + data.length ≤ s.spadSize g →
      exec (.inboundRequest (.writeWindow k m off data bad)) s = .next ((s.spadWrite g off data).modGroup g (fun x =>
        { x with spadPoison := poisonTouched bad x.spadPoison off data.length }))))

/-- R15, R149, R326, R327, R335, R415, R420, R421, R422, R424: back-invalidations, viral indications, links, routes, lost
expanders and writebacks. A line that no coherent copy of is held is not touched by a BISnp, and a line that the MSC alone holds is
written back and dropped; a link retrains after 16 failed replays, and is out of service, its ready bit clear, after three failed
retrains; a lost route or expander is lost from then on, both kinds of window of a CXL port with it, and requests on the route end;
a dropped or refused access ends with code 5, DETAIL 1 or 2; a dirty sector that is evicted goes down and is dropped, one whose
writeback is fenced is lost. Which request a fenced response names is an argument of the event (log 91); which requests are under way
when a route is lost is the model's choice (log 131), and that a fenced writeback is lost is an inference (log 132). -/
def Obligations.FabricEvents : Prop :=
  ∀ (s : Machine.State) (kind : WinKind) (dest adr link port cl i core wid id u : Nat) (x : Link) (y : PSector) (w : Wave) (o : Op)
    (acc : Acc) (lanes : W32) (refused performed : Bool),
    let place := Place.home 0 0 (WinKind.dest kind dest) adr
    let through (t : Tenant) : Bool := t.windows.any (fun v => v.control.getLsbD 7 && decide (v.control.toNat % 4 < 2) &&
      v.control.toNat / 256 % 4096 == port)
    let ds : List Nat := if kind = .peer then [8192 + dest % 4096] else [dest % 4096, 4096 + dest % 4096]
    let ended : Machine.State := s.endAll (routeCut ds) ⟨7, 2⟩ 7 performed
    let copy (z : PSector) : Bool := z.coh && z.place.line.key == place.line.key
    let once (l : List Nat) (n : Nat) : List Nat := if l.contains n then l else n :: l
    let setLink (f : Link → Link) : Machine.State := { s with dev := { s.dev with linkState := modAt s.dev.linkState link f } }
    exec (.bisnp kind dest adr) s = .next (s.cohHome none place) ∧
    ((∀ z ∈ s.mem.msc, copy z = false) → (∀ c ∈ s.clusters, ∀ z ∈ c.2.l2, copy z = false) → exec (.bisnp kind dest adr) s = .next s) ∧
    ((∀ c ∈ s.clusters, ∀ z ∈ c.2.l2, copy z = false) → s.mem.msc.any copy = true →
      exec (.bisnp kind dest adr) s = .next (((s.mem.msc.filter copy).foldl (fun s z => s.homeBack none z)
        ({ s with mem := { s.mem with msc := s.mem.msc.filter (fun z => !copy z) } } : Machine.State)).emberHit place.line 256)) ∧
    exec (.cxlViralIndication port) s = .next ((s.kiln.ctxs.filter (fun c => through (s.tenant c.2.tenant))).foldl
      (fun s c => s.goViral c.1) s) ∧
    exec (.linkReplay link false) s = .next (setLink (fun l => { l with replays := 0 })) ∧
    exec (.linkReplay link true) s = .next (setLink (fun l => { l with replays := min (l.replays + 1) 16 })) ∧
    (s.dev.linkState[link]? = some x →
      (x.replays < 16 ∨ x.out = true → ∀ ok, exec (.linkRetrain link ok) s = .next s) ∧
      (16 ≤ x.replays → x.out = false →
        exec (.linkRetrain link true) s = .next (setLink (fun _ => ⟨0, 0, false⟩)) ∧
        (x.retrains < 2 → exec (.linkRetrain link false) s = .next (setLink (fun l => { l with retrains := l.retrains + 1 }))) ∧
        (2 ≤ x.retrains → ∃ t : Machine.State, exec (.linkRetrain link false) s = .next t ∧
          (∀ j, t.dev.links.getLsbD j = (s.dev.links.getLsbD j && decide (j ≠ link))) ∧
          t.dev.linkState[link]? = some { x with retrains := 3, out := true }))) ∧
    exec (.expanderLost port) s = .next { s with dev := { s.dev with lostPorts := once s.dev.lostPorts (4096 + port % 4096) } } ∧
    exec (.routeLost kind dest true performed) s = .next ended ∧
    exec (.routeLost kind dest false performed) s = .next { ended with dev := { ended.dev with
      lostRoutes := ds.foldl once ended.dev.lostRoutes
      ports := if kind = .peer then ended.dev.ports else ended.dev.ports &&& ~~~(BitVec.ofNat 4 (2 ^ (dest % 4096))) } } ∧
    (s.kiln.waves = [] → ∀ cut e code, s.endAll cut e code performed = s) ∧
    (∀ (ag : Agent) (e : MemErr) (ls : W32) (code : Nat), ls ≠ 0 → acc.kind = .load →
      s.endRequests u ag w.group o acc ls e code performed =
        s.holdOp u o (memBad e false false ((bitsOf ls).headD 0) (o.addr ((bitsOf ls).headD 0)))) ∧
    (cl ≠ 24 → (s.cluster cl).l2[i]? = some y →
      (y.dirty ≠ 0 → exec (.dirtySectorWriteback cl i) s = .next (s.l2Flush cl y.place)) ∧
      (y.dirty = 0 → exec (.dirtySectorWriteback cl i) s = .next s)) ∧
    (s.mem.msc[i]? = some y → exec (.dirtySectorWriteback 24 i) s = .next (s.mscFlush none y.place)) ∧
    (core < 192 → s.waveAt core wid = some (u, w) → w.ops.find? (fun o => o.id == id) = some o → accOf o.instr = some acc →
      o.checked = true ∨ s.memCheck (s.agentOf w.group) w.group o acc = none →
      exec (.fencedResponse core wid id ⟨lanes, refused⟩) s = .next (s.endRequests u (s.agentOf w.group) w.group o acc
        (s.endingLanes fenceCut (s.agentOf w.group) w.group o acc lanes) ⟨5, if refused = true then 2 else 1⟩ 8 false)) ∧
    ((s.cluster cl).l2[i]? = some y → cl ≠ 24 → y.dirty ≠ 0 → y.place.isHome = true → s.viral y.ctx = false →
      exec (.fencedResponse (192 + cl) wid i ⟨lanes, refused⟩) s = .next (s.fenceBack cl i) ∧
      (s.fenceBack cl i).mem.homes = s.mem.homes)

/-- R11, R21, R321, R322, R362, R367, R371, R413, R418, R419, R439: self tests, functions, errors of memory, scans and the clock.
A core that fails its scan is replaced by a spare while one remains and is out of service afterwards. A function that is enabled
or reset has its ranges declared dead before its key is drawn, which waits while FIREBOX is being replaced. The spec gives a core
no values to start from but that a scan leaves no state: that it stands as after reset but for its count of cycles is an
inference (log 90) from values that the model chose (log 2, 7). That a reset of a function clears its payload and BUSY is an
inference too (log 81). -/
def Obligations.HealthEvents : Prop :=
  ∀ (s : Machine.State) (fn stack row g h k mhz u r : Nat) (n : Fin 24) (f : Func) (loc : PoisonLoc) (w : Wave),
    let up (c : Nat) : Prop := (s.dev.firmwareOf c).stopped = false
    (∃ t : Machine.State, exec (.selfTestPass f) s = .next t ∧ t.mem = s.mem ∧ t.kiln = s.kiln ∧
      (f = .clus n → ∀ j, j < 24 → t.dev.clus.getLsbD j = (s.dev.clus.getLsbD j || decide (j = n.val))) ∧
      (∀ m, m < 8 → f = .stack m → up (0x20 + m) → up (0x30 + m) → ∀ j, j < 8 →
        t.dev.stackBits.getLsbD j = (s.dev.stackBits.getLsbD j || decide (j = m))) ∧
      (∀ m, m < 16 → f = .link m → s.dev.devSet = true → (s.dev.linkState[m]?).any (fun l => l.out) = false → up (0x10 + m) →
        ∀ j, j < 16 → t.dev.links.getLsbD j = (s.dev.links.getLsbD j || decide (j = m))) ∧
      (∀ m, f = .link m → s.dev.devSet = false → t = s) ∧
      (∀ m, m < 4 → f = .port m → ∀ j, j < 4 → t.dev.ports.getLsbD j = (s.dev.ports.getLsbD j || decide (j = m))) ∧
      (f = .firebox → up 1 → t.dev.firebox = true) ∧ (f = .kiln → up 0 → t.dev.kiln = true)) ∧
    (s.replacing 1 = true → exec (.functionEnable fn) s = .next { s with sched := { s.sched with held := true } } ∧
      exec (.functionReset fn) s = .next { s with sched := { s.sched with held := true } }) ∧
    (s.replacing 1 = false → fn < 16 → s.dev.firebox = true → (s.tenant fn).enabled = false → ∃ t : Machine.State,
      exec (.functionEnable fn) s = .next t ∧ (t.tenant fn).enabled = true ∧
      (t.tenant fn).key = some (Config.drawKey s.sched.fresh) ∧ t.mem = (s.deadRanges fn).mem ∧
      ∀ j, j ≠ fn → t.tenant j = s.tenant j) ∧
    (s.replacing 1 = false → s.dev.firebox = false ∨ 16 ≤ fn ∨ (s.tenant fn).enabled = true →
      exec (.functionEnable fn) s = .next s) ∧
    (s.replacing 1 = false → fn < 16 → ∃ t : Machine.State, exec (.functionReset fn) s = .next t ∧
      (t.tenant fn).key = some (Config.drawKey s.sched.fresh) ∧ (t.tenant fn).busy = false ∧ (t.tenant fn).payload = [] ∧
      t.mem = (s.deadRanges fn).mem ∧ (fn = 0 → t.dev.links = 0 ∧ t.dev.devSet = false ∧ t.dev.devid = 0 ∧
        ∀ c, (Tab.find s.dev.firmware c).isSome = true → (t.dev.firmwareOf c).stopped = false) ∧
      (fn ≠ 0 → t.dev = (s.deadRanges fn).dev)) ∧
    (Store.wf s.mem.loc = true → Store.wf (s.deadRanges fn).mem.loc = true ∧ ∀ y, (s.deadRanges fn).mem.loc.get y =
      if ∃ b ∈ (s.tenant fn).ranges, b.1 ≤ y ∧ y < b.1 + b.2 then 0 else s.mem.loc.get y) ∧
    exec (.correctableError stack row) s =
      .next { s with dev := { s.dev with clinker := modAt s.dev.clinker stack (fun c => c.log row) } } ∧
    (∀ c : Clinker, (bloomBits row).all (fun b => c.bloom.contains b) = false →
      (c.log row).first = min (c.first + 1) (2 ^ 32 - 1) ∧ (c.log row).table = c.table ∧ (c.log row).spare = c.spare ∧
      (bloomBits row).all (fun b => (c.log row).bloom.contains b) = true) ∧
    (∀ c : Clinker, c.spare = 0 → c.retire row = c) ∧
    (∀ c : Clinker, c.spare ≠ 0 → (c.retire row).spare = c.spare - 1 ∧ row ∈ (c.retire row).retiredRows ∧
      ∀ z ∈ (c.retire row).table, z.1 ≠ row) ∧
    (∃ t : Machine.State, exec (.uncorrectableError loc) s = .next t ∧ t.mem.loc = s.mem.loc ∧ t.sched = s.sched) ∧
    (s.waveAt g h = some (u, w) → r < w.alloc → exec (.uncorrectableError (.vreg g h r false)) s =
      .next (s.modWave u (fun w => { w with task := { w.task with poison := addOnce w.task.poison (2 * r) } }))) ∧
    (64 * r < s.spadSize g → exec (.uncorrectableError (.spad g r)) s =
      .next (s.modGroup g (fun x => { x with spadPoison := addOnce x.spadPoison r }))) ∧
    (64 * g < s.dev.populated → ∃ t : Machine.State, exec (.uncorrectableError (.msc g)) s = .next t ∧ g ∈ t.mem.poison) ∧
    (64 * g < s.dev.populated → ∃ t : Machine.State, exec (.uncorrectableError (.dram g)) s = .next t ∧ g ∈ t.mem.poison ∧
      g ∈ t.mem.bad ∧ t.mem.loc = s.mem.loc ∧ (g ∉ s.mem.sram → g ∉ s.mem.wire → t.backPoison (.loc (64 * g)) = 1)) ∧
    (s.dev.lastClear + 2 ^ 46 ≤ s.dev.tick → s.kilnUp = true → exec .clinkerClear s = .next { s with dev := { s.dev with
      lastClear := s.dev.tick
      clinker := s.dev.clinker.map (fun c => { c with bloom := [], table := [] }) } }) ∧
    (s.dev.tick < s.dev.lastClear + 2 ^ 46 → exec .clinkerClear s = .next s) ∧
    (∀ x, Tab.find s.kiln.scans h = some x → s.kilnUp = true → x.status = 0 ∨ x.status = 4 → x.core = none ∨ x.core = some k →
      s.scannable k = true → exec (.scanRun h k) s = .next { (s.modCore k (fun c => { c with scanning := some h })) with
        kiln := { s.kiln with scans := Tab.modify s.kiln.scans h (fun x => { x with status := 1 }) } }) ∧
    (∀ c, s.cores.find? (fun c => c.2.scanning == some h) = some (k, c) → ∀ pass : Bool, ∃ t : Machine.State,
      exec (.scanComplete h pass) s = .next t ∧ t.core k = { Core.reset with clockBase := c.clockBase } ∧
      (∀ x, Tab.find s.kiln.scans h = some x → (Tab.find t.kiln.scans h).map (·.status) = some (if pass then 2 else 3)) ∧
      (pass = true → t.dev = s.dev) ∧
      (pass = false → s.dev.spares = 0 → k ∈ t.dev.outOfService) ∧
      (pass = false → s.dev.spares ≠ 0 → t.dev.spares = s.dev.spares - 1 ∧ t.dev.outOfService = s.dev.outOfService)) ∧
    (1200 ≤ mhz → mhz ≤ s.dev.fitting.nominal → mhz = s.dev.mhz + 100 ∨ mhz + 100 = s.dev.mhz →
      exec (.clockAdjust mhz) s = .next { s with dev := { s.dev with mhz := mhz } }) ∧
    (mhz < 1200 ∨ s.dev.fitting.nominal < mhz → exec (.clockAdjust mhz) s = .next s)

/-- R61, R109, R310, R317, R319, R331, R364, R436, R444: the mailbox commands about contexts, host queues, the debugger and
sessions, where they run and their fields are legal: their effect, then DSEQ, RESULT 0 and BUSY clear. A session opens where its
header and every page of its ring stand in one extent of the tenant. That a queue registered again replaces the one before and a
detach clears CLSTEP and BRKSTOP are inferences (log 86, 113), and the lowest free context number is the model's choice (log 85). -/
def Obligations.ContextCommands : Prop :=
  ∀ (s s1 s2 : Machine.State) (fn n u : Nat) (seq : Byte) (c : Ctx) (w : Wave) (x : Session) (bs : List Byte),
    let t := s1.tenant fn
    let done (z : Machine.State) (out : List Byte) : Host.Outcome Machine.State Fault Refusal := .next (z.mbDone fn seq.toNat 0 out)
    let own : Prop := s1.ctx n = some c ∧ c.tenant = fn
    (CommandRuns s s1 fn 0x01 seq false [0] [(0, 0x34), (0x80, 4)] →
      let arena := (t.pay 0x10 8, t.pay 0x18 8)
      let save := (t.pay 0x20 8, t.pay 0x28 8)
      t.pay 0x30 4 < 2 → (t.pay 0x30 4 = 1 → t.policy.getLsbD 2 = true) → t.pay 0 8 % 65536 = 0 → inBlocks t.ranges (t.pay 0 8) 65536 = true → codeAddrOk (t.pay 8 8) = true →
      arena.1 % 65536 = 0 → arena.2 % 65536 = 0 → arena.2 ≠ 0 → arena.1 + arena.2 ≤ 2 ^ 56 → save.1 % 2 ^ 21 = 0 →
      save.2 % 2 ^ 21 = 0 → save.2 ≠ 0 → inBlocks t.ranges save.1 save.2 = true →
      (s1.kiln.ctxs.filter (fun c => c.2.tenant == fn)).length < t.policy.toNat / 65536 % 128 →
      (List.range 64).find? (fun n => (s1.ctx n).isNone) = some n → ∃ (z : Machine.State) (y : Ctx),
        exec (.createContext fn seq) s = done z (leBytes n 4) ∧ z.ctx n = some y ∧ y.tenant = fn ∧ y.tableRoot = t.pay 0 8 ∧
        y.trapbase = t.pay 8 8 ∧ y.arena = arena ∧ y.reserve = save ∧ y.arenaTaken = [] ∧ y.queues = [] ∧ y.mgmt = (t.pay 0x30 4 == 1) ∧
        y.att = false ∧ y.viral = false ∧ z.mem = s1.mem ∧ ∀ j, j ≠ n → z.ctx j = s1.ctx j) ∧
    (CommandRuns s s1 fn 0x02 seq false [0] [(0, 4)] → t.pay 0 4 = n → own →
      (s1.kiln.launches.any (fun l => l.2.record.ctx == n) = true → exec (.destroyContext fn seq) s = .next s1) ∧
      (s1.kiln.launches.any (fun l => l.2.record.ctx == n) = false →
        exec (.destroyContext fn seq) s = done (s1.dropCtx n c) [])) ∧
    (CommandRuns s s1 fn 0x03 seq false [0] [(0, 16)] → t.pay 0 4 = n → own → t.pay 4 4 < 8 → t.pay 8 8 % 64 = 0 →
      t.pay 8 8 < 2 ^ 56 → s1.obj (s1.agentFor n) .sys (t.pay 8 8) 64 = .ok (s2, bs) → fieldAt bs 0 8 ≠ 0 → fieldAt bs 0 8 % 64 = 0 →
      fieldAt bs 0 8 < 2 ^ 56 → 4 ≤ fieldAt bs 0x18 4 → fieldAt bs 0x18 4 ≤ 16 → fieldAt bs 0x1C 4 < 2 → fieldAt bs 0x20 32 = 0 →
      let q : HostQueue := ⟨t.pay 8 8, fieldAt bs 0 8, fieldAt bs 0x18 4, fieldAt bs 0x10 8, fieldAt bs 0x10 8, false, false⟩
      exec (.registerHostQueue fn seq) s = done ((s2.modCtx n (fun c =>
        { c with queues := Tab.put c.queues (t.pay 4 4) q })).kilnWrite n .sys (t.pay 8 8 + 0x1C) (leBytes 0 4)) []) ∧
    (CommandRuns s s1 fn 0x04 seq false [0] [(0, 8)] → t.pay 0 4 = n → own → t.pay 4 4 < 8 →
      exec (.unregisterHostQueue fn seq) s =
        done (s1.modCtx n (fun c => { c with queues := Tab.drop c.queues (t.pay 4 4) })) []) ∧
    (CommandRuns s s1 fn 0x0A seq false [0] [(0, 8)] → t.pay 0 4 = n → own → t.pay 4 4 < 2 →
      let s2 : Machine.State := s1.modCtx n (fun c => { c with att := t.pay 4 4 == 1 })
      (t.pay 4 4 = 1 → exec (.attachOrDetachDebugger fn seq) s = done s2 []) ∧
      (t.pay 4 4 = 0 → exec (.attachOrDetachDebugger fn seq) s = done (((Tab.keys s1.kiln.waves).filter (fun u =>
        ((s1.wave u).map (fun w => s1.ctxNo w.group)) == some n)).foldl (fun s u => s.modWave u (fun w =>
          { w with clstep := false, brkstop := false })) s2) [])) ∧
    (CommandRuns s s1 fn 0x0B seq false [0] [(0, 16), (0x80, 4)] → t.pay 0 4 = n → own → s1.namedWave t = some (u, w) →
      exec (.readDbgctl fn seq) s = done s1 (leBytes (w.dbgctl c.att) 4)) ∧
    (CommandRuns s s1 fn 0x0C seq false [0] [(0, 20)] → t.pay 0 4 = n → own → s1.namedWave t = some (u, w) → t.pay 0x10 4 < 16 →
      exec (.writeDbgctl fn seq) s = done (((s1.modWave u (fun w => { w with
        clstep := c.att && t.pay 0x10 4 / 2 % 2 == 1
        brkstop := c.att && t.pay 0x10 4 % 2 == 1
        halted := w.halted && t.pay 0x10 4 / 4 % 2 == 1 })).wake u).pollAsync u) []) ∧
    (CommandRuns s s1 fn 0x12 seq false [0] [(0, 16)] → t.pay 4 4 = n → own → s1.dev.fitting = .l900 → t.pay 0 4 < 64 →
      s1.session (t.pay 0 4) = none → t.pay 8 8 % 64 = 0 → t.pay 8 8 < 2 ^ 56 →
      s1.obj (s1.agentFor n) .ten (t.pay 8 8) 64 = .ok (s2, bs) → fieldAt bs 0 8 ≠ 0 → fieldAt bs 0 8 % 64 = 0 →
      fieldAt bs 0 8 < 2 ^ 56 → 4 ≤ fieldAt bs 0x18 4 → fieldAt bs 0x18 4 ≤ 16 → fieldAt bs 0x1C 4 < 2 → fieldAt bs 0x20 32 = 0 →
      let local_ (a : Nat) : Option Nat := match s1.translate (s1.agentFor n) a .read with | .ok (.loc p, _) => some p | _ => none
      let ring := fieldAt bs 0 8
      let pages := (List.range ((ring % 4096 + 256 * 2 ^ fieldAt bs 0x18 4 + 4095) / 4096)).map (fun i =>
        if i = 0 then ring else ring / 4096 * 4096 + 4096 * i)
      ∀ p b, local_ (t.pay 8 8) = some p →
        t.extents.find? (fun b => inBlocks [b] p 64 && pages.all (fun a => (local_ a).any (fun r => inBlocks [b] r 1))) = some b →
        let x : Session := ⟨fn, n, t.pay 8 8, fieldAt bs 0 8, fieldAt bs 0x18 4, fieldAt bs 0x10 8, fieldAt bs 0x10 8, false, 0,
          none, b.1⟩
        let z : Machine.State := { s2 with kiln := { s2.kiln with sessions := Tab.put s2.kiln.sessions (t.pay 0 4) x } }
        exec (.openSession fn seq) s = done (z.kilnWrite n .ten (t.pay 8 8 + 0x1C) (leBytes 0 4)) []) ∧
    (CommandRuns s s1 fn 0x13 seq false [0] [(0, 4)] → s1.dev.fitting = .l900 → s1.session (t.pay 0 4) = some x →
      x.tenant = fn → exec (.closeSession fn seq) s = done (s1.dropSession (t.pay 0 4)) [])

/-- R117, R124, R318, R320, R323, R329, R362, R365, R371, R427, R441, R451: the mailbox commands about kernels, windows,
regions, ranges, policy, the device number and keys, where they run and their fields are legal; a reserved command has RESULT
1, and what a register write changes, and what the ready bits (R361), the command and the status register (R363) read. The device
number is refused while a link is ready or has trained since the reset, or a context lives. The model's choices are where an image
goes in the registry, with its offset and least length (log 85), and what an image that cannot be read does (log 112); inferences
are that 64 ranges besides the extents fit a tenant (log 78), and that MGMT of another tenant is written as 0 and what declaring
live takes (log 87). -/
def Obligations.DeviceCommands : Prop :=
  ∀ (s s1 : Machine.State) (fn off : Nat) (seq code : Byte) (v : W32),
    let t := s1.tenant fn
    let n : Nat := t.pay 0 4
    let done (z : Machine.State) (out : List Byte) : Host.Outcome Machine.State Fault Refusal := .next (z.mbDone fn seq.toNat 0 out)
    (CommandRuns s s1 fn 0x05 seq false [0, 1] [(0, 0x58), (0x80, 8)] →
      let img := s1.mem.loc.bytes (t.pay 0 8) (t.pay 8 8)
      let va := nextImage t.kernels
      36 ≤ t.pay 8 8 → inBlocks t.ranges (t.pay 0 8) (t.pay 8 8) = true → inBlocks t.ranges (t.pay 0x50 8) 4627 = true →
      t.kernels.length < 256 → va + t.pay 8 8 ≤ registryBase + 2 ^ 31 → s1.readable (t.pay 0 8) (t.pay 8 8) = true →
      s1.readable (t.pay 0x50 8) 4627 = true →
      s1.rangeWaits (t.pay 0 8) (t.pay 8 8) = false → s1.rangeWaits (t.pay 0x50 8) 4627 = false →
      exec (.registerKernel fn seq) s = if Config.sha3 img = BitVec.ofNat 512 (t.pay 0x10 64) ∧ t.signKeys.any (fun k =>
          Config.verify k.2 (Config.sha3 img) (s1.mem.loc.bytes (t.pay 0x50 8) 4627)) = true then
        done (s1.modTenant fn (fun t => { t with kernels := t.kernels ++ [⟨Config.sha3 img, va, img⟩] })) (leBytes (va + 32) 8)
      else .next (s1.mbDone fn seq.toNat 4 [])) ∧
    (CommandRuns s s1 fn 0x06 seq true [0] [(0, 0x28)] → n < 16 → t.pay 4 4 < 32 → t.pay 0x24 4 = 0 →
      windowDescOk (s1.tenant n).windows (t.pay 4 4) (t.pay 8 8) (t.pay 0x10 8) (t.pay 0x18 8) (t.pay 0x20 4) = true →
      ∃ z : Machine.State, exec (.writeFabricWindow fn seq) s = done z [] ∧ ∀ y, (s1.tenant n).windows[t.pay 4 4]? = some y →
        ∃ x : Window, (z.tenant n).windows[t.pay 4 4]? = some x ∧ x.base = t.pay 8 8 ∧ x.size = t.pay 0x10 8 ∧ x.target = t.pay 0x18 8 ∧
          (∀ i, i < 2 ∨ (7 ≤ i ∧ i < 32) → x.control.getLsbD i = (t.pay 0x20 4).testBit i) ∧
          ∀ i, 2 ≤ i → i < 7 → x.control.getLsbD i =
            (windowCaps s1.dev.fitting (t.pay 0x20 4 % 4) (t.pay 0x20 4 / 256 % 4096)).testBit i) ∧
    (∀ d : Nat,
      (Config.path 0 d % 4 = 0 → windowCaps .h900 0 d = 0x70 ∧ windowCaps .l900 0 d = 0) ∧
      (∀ y, Config.path 0 d % 4 = 1 → windowCaps y 0 d = 0) ∧ (∀ y, Config.path 0 d % 4 = 2 → windowCaps y 0 d = 0x28) ∧
      (∀ y, Config.path 0 d % 4 = 3 → windowCaps y 0 d = 0x3C) ∧
      (∀ y, windowCaps y 1 d = if Config.path 1 d % 2 = 0 then 0x70 else 0x7C) ∧ ∀ y, windowCaps y 2 d = 0x30) ∧
    (CommandRuns s s1 fn 0x07 seq false [0] [(0, 4), (8, 32)] → n < 16 → t.pay 0x20 8 = 0 →
      t.pay 0x14 4 = 14 ∨ (t.pay 0x14 4 = 4110 ∧ t.pay 8 8 ≠ 0 ∧ t.pay 8 8 % 2 ^ 21 = 0 ∧ t.pay 8 8 < 2 ^ 44 ∧ t.pay 0x10 4 ≠ 0 ∧
        t.pay 0x10 4 ≤ 65536 ∧ inBlocks t.ranges (t.pay 8 8) (t.pay 0x10 4 * 2 ^ 21) = true) →
      exec (.writeFormatRegion fn seq) s = done ((s1.flushAlias fn n).modTenant fn (fun x => { x with
        regions := modAt x.regions n (fun _ => ⟨t.pay 8 8, t.pay 0x10 4, BitVec.ofNat 32 (t.pay 0x14 4),
          BitVec.ofNat 64 (t.pay 0x18 8)⟩) })) []) ∧
    (CommandRuns s s1 fn 0x08 seq true [0] [(0, 0x14)] → rangeOk (t.pay 0 8) (t.pay 8 8) = true →
      t.pay 0 8 + t.pay 8 8 ≤ s1.dev.populated →
      (t.pay 0x10 4 = 1 → exec (.declareDeadOrLive fn seq) s = done (s1.declareDead (t.pay 0 8) (t.pay 8 8)) []) ∧
      (t.pay 0x10 4 = 0 → exec (.declareDeadOrLive fn seq) s = done { s1 with mem := { s1.mem with
        dead := s1.mem.dead.filter (fun b => !blocksMeet b (t.pay 0 8, t.pay 8 8)) } } [])) ∧
    (CommandRuns s s1 fn 0x09 seq true [0] [(0, 8)] → n < 16 → t.pay 4 4 < 2 ^ 23 → t.pay 4 4 / 8 % 2 ^ 13 = 0 →
      t.pay 4 4 / 65536 % 128 ≤ 64 → exec (.writeTenantPolicy fn seq) s = done (s1.modTenant n (fun x => { x with
        policy := BitVec.ofNat 32 (if n = 0 then t.pay 4 4 else t.pay 4 4 - t.pay 4 4 / 4 % 2 * 4) })) []) ∧
    (CommandRuns s s1 fn 0x14 seq true [0] [(0, 0x18)] → n < 16 → rangeOk (t.pay 8 8) (t.pay 0x10 8) = true →
      let b := (t.pay 8 8, t.pay 0x10 8)
      let x := s1.tenant n
      (t.pay 4 4 = 1 → x.ranges.length < x.extents.length + 64 →
        (∀ y ∈ s1.kiln.tenants, ∀ r ∈ y.2.ranges, blocksMeet b r = false) →
        exec (.assignOrRemoveLocalRange fn seq) s = done (s1.modTenant n (fun x => { x with ranges := x.ranges ++ [b] })) []) ∧
      (t.pay 4 4 = 0 → b ∈ x.ranges → b ∉ x.extents → exec (.assignOrRemoveLocalRange fn seq) s =
        done ((s1.declareDead b.1 b.2).modTenant n (fun x => { x with ranges := x.ranges.filter (fun r => r != b) })) [])) ∧
    (CommandRuns s s1 fn 0x15 seq true [0] [(0, 4)] → n < 4096 →
      (s1.dev.links = 0 → s1.dev.trained = false → s1.kiln.ctxs = [] → exec (.setDeviceNumber fn seq) s =
        done { s1 with dev := { s1.dev with devid := n, devSet := true } } []) ∧
      (s1.dev.links ≠ 0 ∨ s1.dev.trained = true ∨ s1.kiln.ctxs ≠ [] → exec (.setDeviceNumber fn seq) s = .next (s1.mbDone fn seq.toNat 5 []))) ∧
    (CommandRuns s s1 fn 0x16 seq true [0, 1] [(0, 0x14)] → n < 16 → t.pay 4 4 < 4 →
      (t.pay 0x10 4 = 0 → exec (.enrolOrRemoveKernelKey fn seq) s =
        done (s1.modTenant n (fun x => { x with signKeys := Tab.drop x.signKeys (t.pay 4 4) })) []) ∧
      (t.pay 0x10 4 = 1 → inBlocks t.ranges (t.pay 8 8) 2592 = true → s1.readable (t.pay 8 8) 2592 = true →
        s1.rangeWaits (t.pay 8 8) 2592 = false → exec (.enrolOrRemoveKernelKey fn seq) s =
        (let key := s1.mem.loc.bytes (t.pay 8 8) 2592
        done (s1.modTenant n (fun x => { x with signKeys := Tab.put x.signKeys (t.pay 4 4) key })) []))) ∧
    (code.toNat ∉ commandCodes → s.mbStart fn code.toNat seq.toNat = some s1 → s1.replacing 0 = false →
      s1.stopped 0 = false → exec (.mailboxReservedCommand fn code seq) s = .next (s1.mbDone fn seq.toNat 1 [])) ∧
    (fn < 16 → (s.tenant fn).busy = true → s.mbStart fn code.toNat seq.toNat = none) ∧
    (fn < 16 → off % 4 = 0 →
      (0x100 ≤ off → off < 0x200 → exec (.registerWrite fn off v) s = .next (s.modTenant fn (fun t =>
        { t with payload := t.payload.setBytes (off - 0x100) (leBytes v.toNat 4) }))) ∧
      (fn = 0 → off = 0x40 → exec (.registerWrite fn off v) s =
        .next { s with dev := { s.dev with limit := v.toNat % 4096 } }) ∧
      (off < 0x100 → off ≠ 0x40 → exec (.registerWrite fn off v) s = .next s) ∧
      s.registerRead fn 0 = some (s.dev.clus.setWidth 32) ∧
      (∃ x : W32, s.registerRead fn 4 = some x ∧ x.extractLsb' 16 16 = s.dev.links ∧ x.extractLsb' 8 8 = s.dev.stackBits ∧
        x.extractLsb' 4 4 = s.dev.ports ∧ x.getLsbD 1 = s.dev.firebox ∧ x.getLsbD 0 = s.dev.kiln) ∧
      s.registerRead fn 0x20 = some (s.tenant fn).cmd ∧
      (∃ x : W32, s.registerRead fn 0x28 = some x ∧ (x.extractLsb' 8 8).toNat = (s.tenant fn).dseq % 256 ∧
        (x.extractLsb' 1 7).toNat = (s.tenant fn).result % 128 ∧ x.getLsbD 0 = (s.tenant fn).busy)) ∧
    (∀ (z : Machine.State) (r : Nat), (z.mbDone fn seq.toNat r []).tenant fn =
      { z.tenant fn with dseq := seq.toNat, result := r, busy := false })

/-- R367 to R370, R442, R443: firmware is verified and staged, an activation holds its command until CONE, the new image has
50 ms from the safe point, then the old one 50 ms, and a controller that misses both is out of service. While KILN is replaced or out of
service no gang is being stopped for pre-emption, an inference (log 137, DEDUCED). The sections of the
hand-over block, and what an image that cannot be read does, are the model's choice (log 112, 114). -/
def Obligations.FirmwareReplaced : Prop :=
  ∀ (s s1 : Machine.State) (fn d : Nat) (seq : Byte) (ver : W64) (a : Activation),
    let t := s1.tenant fn
    let c : Nat := t.pay 0 4
    (CommandRuns s s1 fn 0x10 seq true [0, 1] [(0, 4), (8, 16)] → controllerOk c = true → t.pay 0x10 8 ≠ 0 →
      inBlocks t.ranges (t.pay 8 8) (t.pay 0x10 8) = true → s1.rangeWaits (t.pay 8 8) (t.pay 0x10 8) = false →
      (s1.readable (t.pay 8 8) (t.pay 0x10 8) = true → exec (.stageFirmware fn seq) s =
        .next (match Config.firmware c (s1.mem.loc.bytes (t.pay 8 8) (t.pay 0x10 8)) with
          | some ver => ({ s1 with dev := s1.dev.modFirmware c (fun x => { x with staged := some ver }) } : Machine.State).mbDone fn
              seq.toNat 0 []
          | none => s1.mbDone fn seq.toNat 4 [])) ∧
      (s1.readable (t.pay 8 8) (t.pay 0x10 8) = false → exec (.stageFirmware fn seq) s = .next (s1.mbDone fn seq.toNat 4 []))) ∧
    (CommandRuns s s1 fn 0x11 seq true [0, 1] [(0, 4), (0x80, 8)] → controllerOk c = true →
      s1.stopped c = false →
      (s1.dev.activation = none → (s1.dev.firmwareOf c).staged ≠ none → exec (.activateFirmware fn seq) s =
        .next { s1 with dev := { s1.dev with activation := some ⟨c, fn, seq.toNat, none, false, none⟩ } }) ∧
      (s1.dev.activation ≠ none ∨ (s1.dev.firmwareOf c).staged = none →
        exec (.activateFirmware fn seq) s = .next (s1.mbDone fn seq.toNat 5 []))) ∧
    (s.dev.activation = none → exec .safePoint s = .next s ∧ exec (.cone ver) s = .next s ∧ exec .coneDeadlineExpiry s = .next s) ∧
    (s.dev.activation = some a → a.deadline = none →
      let b : Activation := { a with deadline := some (s.dev.tick + 50000000), block := some (s.handOver a.controller) }
      let s2 : Machine.State := { s with dev := { s.dev with activation := some b } }
      exec .safePoint s = .next (if a.controller = 0 then s2.pollMarked else s2)) ∧
    (s.dev.activation = some a → a.deadline = some d →
      (s.dev.tick ≤ d → a.old = false → (s.dev.firmwareOf a.controller).staged = some ver → exec (.cone ver) s =
        .next (({ s with dev := s.dev.modFirmware a.controller (fun x => { x with version := ver, staged := none }) } :
          Machine.State).endActivation a 0)) ∧
      (s.dev.tick ≤ d → a.old = true → (s.dev.firmwareOf a.controller).version = ver →
        exec (.cone ver) s = .next (s.endActivation a 6)) ∧
      (s.dev.tick ≤ d → exec .coneDeadlineExpiry s = .next s) ∧
      (d < s.dev.tick → a.old = false → ∃ z : Machine.State, exec .coneDeadlineExpiry s = .next z ∧
        z.dev.activation = some { a with old := true, deadline := some (s.dev.tick + 50000000) } ∧
        (z.dev.firmwareOf a.controller).staged = none ∧
        (z.dev.firmwareOf a.controller).version = (s.dev.firmwareOf a.controller).version) ∧
      (d < s.dev.tick → a.old = true →
        let s2 : Machine.State := if 0x20 ≤ a.controller then s.endAll waitCut ⟨7, 2⟩ 7 false
          else if a.controller = 0 then s.unmark.pollMarked else s
        exec .coneDeadlineExpiry s = .next (({ s2 with dev := s2.dev.outOfControl a.controller } : Machine.State).endActivation a 7))) ∧
    (∀ g, (s.kilnUp = false → s.preempting g = false) ∧ s.unmark.preempting g = false ∧ s.unmark.dev = s.dev ∧
      s.unmark.kiln.waves = s.kiln.waves) ∧
    ((s.handOver d).writer = (s.dev.firmwareOf d).version ∧ (s.handOver d).tick = s.dev.tick ∧
      (s.handOver d).digest = Config.sha3 (sectionBytes (s.handOver d).sections)) ∧
    (∀ x : Dev, ((x.outOfControl d).firmwareOf d).stopped = true ∧ (d = 0 → (x.outOfControl d).kiln = false) ∧
      (d = 1 → (x.outOfControl d).firebox = false))

/-! ## The machine as a whole -/

/-- R44 to R47, R195: a vector destination takes its value in each lane that writes, a scalar that of the lowest such lane of
each slice, `zero` nothing; a written pair reads back, of vectors and of scalars; nothing else changes. The registers are in
canonical form, which every step keeps (`CanonicalKept`). A scalar gives the slice's value to each lane, a
vector operand the element of the register its slice's window reaches. Predicate 0 is always true and ignores writes. -/
def Obligations.DestinationsWritten : Prop :=
  ∀ (w : Wave) (lanes : W32) (n r : Nat) (hn : n < 88) (m : Nat) (hm : m < 32) (l : Nat), l < 32 → w.task.wf = true →
    (∀ f : Nat → W32,
      (w.wr (.v ⟨n, hn⟩) lanes f).vreg n l = (if lanes.getLsbD l then f l else w.vreg n l) ∧
      (r ≠ n → (w.wr (.v ⟨n, hn⟩) lanes f).vreg r l = w.vreg r l) ∧
      (w.wr (.v ⟨n, hn⟩) lanes f).task.scal = w.task.scal ∧ (w.wr (.v ⟨n, hn⟩) lanes f).task.preds = w.task.preds ∧
      (∀ i, i < 8 → (∀ j, j < 4 → lanes.getLsbD (4 * i + j) = false) → (w.wr (.s ⟨m, hm⟩) lanes f).sreg m i = w.sreg m i) ∧
      (∀ i k, i < 8 → k < 4 → lanes.getLsbD (4 * i + k) = true → (∀ j, j < k → lanes.getLsbD (4 * i + j) = false) →
        (w.wr (.s ⟨m, hm⟩) lanes f).sreg m i = f (4 * i + k)) ∧
      (∀ i, i < 8 → r < 32 → r ≠ m → (w.wr (.s ⟨m, hm⟩) lanes f).sreg r i = w.sreg r i) ∧
      w.wr .zero lanes f = w) ∧
    (∀ f : Nat → W64, (lanes.getLsbD l = true → (w.wrq (.v ⟨n, hn⟩) lanes f).rdq (.v ⟨n, hn⟩) l = f l) ∧
      (m % 2 = 0 → ∀ k, k < 4 → lanes.getLsbD (l / 4 * 4 + k) = true → (∀ j, j < k → lanes.getLsbD (l / 4 * 4 + j) = false) →
        (w.wrq (.s ⟨m, hm⟩) lanes f).rdq (.s ⟨m, hm⟩) l = f (l / 4 * 4 + k))) ∧
    (w.pred l 0 = true ∧ ∀ f : Nat → Bool, w.setPreds lanes 0 f = w) ∧
    w.rd (.s ⟨m, hm⟩) l = w.sreg m (l / 4) ∧ (m % 2 = 0 → w.rdq (.s ⟨m, hm⟩) l = w.sreg (m + 1) (l / 4) ++ w.sreg m (l / 4)) ∧
    w.rd (.v ⟨n, hn⟩) l = w.task.vregs.get (32 * ((w.slice (l / 4)).window + n) + l)

/-- R40, R212 (frames): an instruction that only writes registers leaves memory, the other waves, the special registers, the
predicates and every register but its destination alone, and one that only writes a predicate leaves the registers and the
other predicates alone; so does the issue of a memory access, which writes no register. -/
def Obligations.RegisterFrames : Prop :=
  ∀ (s t : Machine.State) (i : Instr) (c : Cur) (w : Wave), s.canonical → s.sched.cur = some c → s.wave c.wave = some w →
    exec i s = .next t →
    (∀ d k, writesOf i = some (d, k) → ∃ w' : Wave, OnlyRegisters s t c.wave w w' ∧ w'.task.preds = w.task.preds ∧
      (∀ l r, l < 32 → (∀ n, d = .v n → r < n.val ∨ n.val + k ≤ r) → w'.vreg r l = w.vreg r l) ∧
      (∀ j r, j < 8 → r < 32 → (∀ n, d = .s n → r < n.val ∨ n.val + k ≤ r) → w'.sreg r j = w.sreg r j)) ∧
    (∀ pd, writesPredOf i = some pd → ∃ w' : Wave, OnlyRegisters s t c.wave w w' ∧ w'.task.vregs = w.task.vregs ∧
      w'.task.scal = w.task.scal ∧ ∀ l p, l < 32 → p < 8 → p ≠ pd.val → w'.pred l p = w.pred l p) ∧
    (accOf i ≠ none → SameMemory s t ∧ t.dev = s.dev ∧ OtherWavesSame s t c.wave ∧
      ∃ w' : Wave, t.wave c.wave = some w' ∧ w'.registers = w.registers)

/-- R110, R111, R257, R262 (frames): what a store of n bytes at a virtual address leaves, for a place that is not in fabric
space and so not coherent. Performed in the L2 it changes in the cluster of its core, where that has room for one more line,
the bytes stored and no other byte of any sector, and nothing behind it; at the MSC it changes in local memory the bytes
stored and no other, where the core's own L2 holds nothing dirty of the sector. Which line a full L2 gives up is free (log
100). -/
def Obligations.StoreFrames : Prop :=
  ∀ (s : Machine.State) (ag : Agent) (va n v : Nat) (sc : Scope) (p : Place) (at_ : Attr),
    s.storePlace ag va = .ok (p, at_) → p.off + n ≤ 128 → p.isHome = false → at_.coh = false →
    let t : Machine.State := s.storeVa ag va n v sc
    let stored (i : Nat) : Prop := p.off ≤ i ∧ i < p.off + n
    t.kiln.groups = s.kiln.groups ∧ t.dev = s.dev ∧
    (at_.pol = 0 → sc = .wave ∨ sc = .core ∨ sc = .clus → (s.cluster ag.cluster).l2.length < l2Lines →
      t.mem = s.mem ∧
      (∀ cl q, (cl ≠ ag.cluster ∨ q ≠ p.sector) → t.l2Find cl q = s.l2Find cl q) ∧
      ∃ x : PSector, t.l2Find ag.cluster p.sector = some x ∧
        (∀ i, i < 128 → stored i → x.valid.getLsbD i = true ∧ x.dirty.getLsbD i = true ∧
          secGet x.data i 1 = v / 2 ^ (8 * (i - p.off)) % 256) ∧
        (∀ y i, s.l2Find ag.cluster p.sector = some y → i < 128 → ¬stored i → x.valid.getLsbD i = y.valid.getLsbD i ∧
          x.dirty.getLsbD i = y.dirty.getLsbD i ∧ secGet x.data i 1 = secGet y.data i 1) ∧
        (s.l2Find ag.cluster p.sector = none → ∀ i, i < 128 → ¬stored i → x.valid.getLsbD i = false)) ∧
    (∀ a, p = .loc a → sc = .dev ∨ sc = .ten ∨ sc = .sys → Store.wf s.mem.loc = true → s.dev.stackBits.getLsbD (stackOf a) = true →
      (∀ y, s.l2Find ag.cluster p.sector = some y → y.dirty = 0) →
      (∀ b, b < a ∨ a + n ≤ b → t.mem.loc.get b = s.mem.loc.get b) ∧
      (∀ i, i < n → (t.mem.loc.get (a + i)).toNat = v / 2 ^ (8 * i) % 256))

/-- R194: where a guard is true in a lane; under the never code every instruction, whatever it is, only passes. R212: so does
one of which no lane participates, but for those that `actsWithoutLanes` names, where it does not have to wait for a destination
or for room in its flag and, at a reporting point (R383), no error of its wave pends. Only instructions that the whole wave
executes ask that it does (R402). -/
def Obligations.NothingWithoutLanes : Prop :=
  (∀ (w : Wave) (g : Guard) (l : Nat), w.guard g l = (if g.p = 0 then !g.neg else (w.task.preds.get l).getLsbD g.p != g.neg)) ∧
  ∀ (s : Machine.State) (g : Guard) (e : Env) (i : Instr), i.wf = true → i.isEvent = false →
    guardCode i = (if g.neg then 8 else 0) + g.p.val → s.env g = some e →
    (guardNever g = true → exec i s = .next (s.next e i)) ∧
    (s.canonical → e.part = 0 → actsWithoutLanes i = false → (needsWhole i = true → e.whole = true) →
      (isReporting i = true → e.w.pending = []) → (∀ ds, e.w.busy e.st ds = false) → (∀ f, e.w.flagFull e.sl f = false) →
      exec i s = .next (s.next e i))

/-- R192 to R203 and the groups' encoding tables: decoding the words of a well-formed instruction gives it back, with every
operand and modifier, and they are all of its words. -/
def Obligations.EncodeDecode : Prop :=
  ∀ i : Instr, i.wf = true → i.isEvent = false →
    decodeWords (encode i) = .ok (i, []) ∧ instrWords (encode i) = (encode i).length ∧ 1 ≤ (encode i).length ∧
      (encode i).length ≤ 8

/-- Three words written out from the encodings: an `iadd`, an `icmp` (the example of R225), and an `iadd` with a literal word. -/
def Obligations.WordsDecode : Prop :=
  decodeWords [0x02004082#32] = .ok (.iadd ⟨false, 0⟩ (.v 1) (.v 1) (.v 2), []) ∧
  decodeWords [0xB01E01D9#32, 0x00F00902#32] = .ok (.icmp ⟨false, 0⟩ (.v 3) (.s 1) .s32 .lt 2, []) ∧
  decodeWords [0x0200407C#32, 0x12345678#32] = .ok (.iadd ⟨false, 0⟩ (.v 1) (.v 0) (.lit 0x12345678), [])

/-- A step issues what its partition chooses: where the words left in the clause of the chosen strand decode, the step is the
execution of that instruction by that strand; where they do not, the trap for them; at a clause boundary, the start of a
clause. Around it the step notes which strands are ready and that the partition has had its slot, and where the instruction met a
request that must wait (R367) the slot is put off. -/
def Obligations.StepRunsDecoded : Prop :=
  ∀ (s : Machine.State) (core part : Nat) (rest : List Turn) (c : Cur) (i : Instr) (ws left : List W32) (r : Reject),
    s.sched.agenda = .issue core part :: rest →
    let s0 : Machine.State := { s with sched := { s.sched with agenda := rest, held := false } }
    let s1 : Machine.State := s0.noteSlots core part
    let done (o : Host.Outcome Machine.State Fault Refusal) : Host.Outcome Machine.State Fault Refusal :=
      andThen (settleTurn o) (fun z => .next (if z.sched.held = true then s0 else z))
    (s1.pick core part = none → step s = .next (s1.endSlot core part)) ∧
    (s1.pick core part = some c →
      let s2 : Machine.State := ((s1.markIssue c).endSlot core part).withCur c
      (s2.wordsOf c = none → step s = done (exec .clauseStart s2)) ∧
      (s2.wordsOf c = some ws → decodeWords ws = .ok (i, left) → step s = done (exec i s2)) ∧
      (s2.wordsOf c = some ws → decodeWords ws = .error r → step s = done (s2.runReject r)))

/-- R361, R365, R371, R418, R419, R440: what reset leaves, and that reset is in canonical form. Memory that reads 0, the clock
and the tick are the model's own choice (log 1, 2), as are the fitting on which the limit of 1,500 W rests (log 3) and the eight
spare row groups of each CLINKER (log 4). -/
def Obligations.ResetState : Prop :=
  let s : Machine.State := .reset
  s.canonical ∧ s.dev.clus = 0 ∧ s.dev.links = 0 ∧ s.dev.stackBits = 0 ∧ s.dev.ports = 0 ∧ s.dev.firebox = false ∧
    s.dev.kiln = false ∧ s.dev.devSet = false ∧ s.dev.limit = 1500 ∧ s.dev.removed = 0 ∧ s.dev.outOfService = [] ∧
    s.dev.clinker = List.replicate 8 ⟨0, 0, 8, 0, 0, [], [], []⟩ ∧ s.kiln.ctxs = [] ∧ s.kiln.launches = [] ∧ s.kiln.waves = [] ∧
    s.mem.dead = [] ∧ s.mem.poison = [] ∧ (∀ n, n < 16 → (s.tenant n).enabled = false ∧ (s.tenant n).policy = 0 ∧
      (s.tenant n).ranges = [] ∧ ∀ v ∈ (s.tenant n).windows, v.control = 0) ∧ ∀ a, s.mem.loc.get a = 0

/-- Every step goes on: the device has no state in which it stops, whatever its turn is, where the table of waves has rising
keys (`CanonicalKept`). That no instruction and no event ends a run is the model's choice where the spec states no effect (log 8). -/
def Obligations.StepGoesOn : Prop :=
  ∀ s : Machine.State, s.canonical → s.goesOn

/-- Every step keeps everything that is stored by address or register number in canonical form. -/
def Obligations.CanonicalKept : Prop :=
  ∀ s t : Machine.State, s.canonical → step s = .next t → t.canonical

end
end

