-- ==== Sys2Proof/Laws/Bits.lean ====
section
/-! SUPPORT. Masks and the lists of their set bits. -/

namespace Sys2Proof.Machine

theorem maskOf_fold {w : Nat} (l : List Nat) :
    ∀ (m : BitVec w) (i : Nat), i < w →
      (l.foldl (fun m i => m ||| BitVec.ofNat w (2 ^ i)) m).getLsbD i = (m.getLsbD i || decide (i ∈ l)) := by
  induction l with
  | nil => intro m i _; simp
  | cons a r ih =>
    intro m i hi
    rw [List.foldl_cons, ih _ _ hi, BitVec.getLsbD_or, BitVec.getLsbD_ofNat, Nat.testBit_two_pow]
    by_cases h : a = i
    · simp [h, hi]
    · simp [h, Ne.symm h]

/-- A bit of the mask of a list of numbers. -/
theorem getLsbD_maskOf {w : Nat} (l : List Nat) (i : Nat) (hi : i < w) :
    (maskOf l : BitVec w).getLsbD i = decide (i ∈ l) := by
  rw [maskOf, maskOf_fold _ _ _ hi]; simp

/-- The numbers of the set bits. -/
theorem mem_bitsOf {w : Nat} (m : BitVec w) (i : Nat) : i ∈ bitsOf m ↔ m.getLsbD i = true := by
  simp only [bitsOf, List.mem_filter, List.mem_range, and_iff_right_iff_imp]
  intro h
  exact BitVec.lt_of_getLsbD h

theorem bitsOf_nodup {w : Nat} (m : BitVec w) : (bitsOf m).Nodup := List.Nodup.filter _ List.nodup_range

@[simp] theorem maskOf_bitsOf {w : Nat} (m : BitVec w) : (maskOf (bitsOf m) : BitVec w) = m := by
  apply BitVec.eq_of_getLsbD_eq
  intro i hi
  rw [getLsbD_maskOf _ _ hi, Bool.eq_iff_iff, decide_eq_true_eq, mem_bitsOf]

/-- The leader of a set of lanes takes part; there is none exactly where the set is empty. -/
theorem bitsOf_eq_nil {w : Nat} (m : BitVec w) : bitsOf m = [] ↔ m = 0 := by
  constructor
  · intro h
    rw [← maskOf_bitsOf m, h]; rfl
  · intro h
    subst h
    simp [bitsOf]

end Sys2Proof.Machine
end

