-- ==== Sys2Proof/Laws/Dispatch.lean ====
section
/-! SUPPORT. The arm of `exec` for each instruction. -/

namespace Sys2Proof.Machine

theorem exec_nop (g : Guard) (s : State) :
    exec (.nop g) s = execNop g s := rfl
theorem exec_iadd (g : Guard) (d a b : Opd) (s : State) :
    exec (.iadd g d a b) s = execIadd g d a b s := rfl
theorem exec_isub (g : Guard) (d a b : Opd) (s : State) :
    exec (.isub g d a b) s = execIsub g d a b s := rfl
theorem exec_imul (g : Guard) (d a b : Opd) (s : State) :
    exec (.imul g d a b) s = execImul g d a b s := rfl
theorem exec_imulhS (g : Guard) (d a b : Opd) (s : State) :
    exec (.imulhS g d a b) s = execImulhS g d a b s := rfl
theorem exec_imulhN (g : Guard) (d a b : Opd) (s : State) :
    exec (.imulhN g d a b) s = execImulhN g d a b s := rfl
theorem exec_iminS (g : Guard) (d a b : Opd) (s : State) :
    exec (.iminS g d a b) s = execIminS g d a b s := rfl
theorem exec_iminN (g : Guard) (d a b : Opd) (s : State) :
    exec (.iminN g d a b) s = execIminN g d a b s := rfl
theorem exec_imaxS (g : Guard) (d a b : Opd) (s : State) :
    exec (.imaxS g d a b) s = execImaxS g d a b s := rfl
theorem exec_imaxN (g : Guard) (d a b : Opd) (s : State) :
    exec (.imaxN g d a b) s = execImaxN g d a b s := rfl
theorem exec_and (g : Guard) (d a b : Opd) (s : State) :
    exec (.and g d a b) s = execAnd g d a b s := rfl
theorem exec_or (g : Guard) (d a b : Opd) (s : State) :
    exec (.or g d a b) s = execOr g d a b s := rfl
theorem exec_xor (g : Guard) (d a b : Opd) (s : State) :
    exec (.xor g d a b) s = execXor g d a b s := rfl
theorem exec_andn (g : Guard) (d a b : Opd) (s : State) :
    exec (.andn g d a b) s = execAndn g d a b s := rfl
theorem exec_shl (g : Guard) (d a b : Opd) (s : State) :
    exec (.shl g d a b) s = execShl g d a b s := rfl
theorem exec_shr (g : Guard) (d a b : Opd) (s : State) :
    exec (.shr g d a b) s = execShr g d a b s := rfl
theorem exec_sar (g : Guard) (d a b : Opd) (s : State) :
    exec (.sar g d a b) s = execSar g d a b s := rfl
theorem exec_rotl (g : Guard) (d a b : Opd) (s : State) :
    exec (.rotl g d a b) s = execRotl g d a b s := rfl
theorem exec_popc (g : Guard) (d a : Opd) (s : State) :
    exec (.popc g d a) s = execPopc g d a s := rfl
theorem exec_clz (g : Guard) (d a : Opd) (s : State) :
    exec (.clz g d a) s = execClz g d a s := rfl
theorem exec_brev (g : Guard) (d a : Opd) (s : State) :
    exec (.brev g d a) s = execBrev g d a s := rfl
theorem exec_iabs (g : Guard) (d a : Opd) (s : State) :
    exec (.iabs g d a) s = execIabs g d a s := rfl
theorem exec_mov (g : Guard) (d a : Opd) (s : State) :
    exec (.mov g d a) s = execMov g d a s := rfl
theorem exec_sel (g : Guard) (d a b : Opd) (s : State) :
    exec (.sel g d a b) s = execSel g d a b s := rfl
theorem exec_iaddQ (g : Guard) (d a b : Opd) (s : State) :
    exec (.iaddQ g d a b) s = execIaddQ g d a b s := rfl
theorem exec_isubQ (g : Guard) (d a b : Opd) (s : State) :
    exec (.isubQ g d a b) s = execIsubQ g d a b s := rfl
theorem exec_shlQ (g : Guard) (d a b : Opd) (s : State) :
    exec (.shlQ g d a b) s = execShlQ g d a b s := rfl
theorem exec_shrQ (g : Guard) (d a b : Opd) (s : State) :
    exec (.shrQ g d a b) s = execShrQ g d a b s := rfl
theorem exec_sarQ (g : Guard) (d a b : Opd) (s : State) :
    exec (.sarQ g d a b) s = execSarQ g d a b s := rfl
theorem exec_movQ (g : Guard) (d a : Opd) (s : State) :
    exec (.movQ g d a) s = execMovQ g d a s := rfl
theorem exec_fadd (g : Guard) (d a b : Opd) (s : State) :
    exec (.fadd g d a b) s = execFadd g d a b s := rfl
theorem exec_fsub (g : Guard) (d a b : Opd) (s : State) :
    exec (.fsub g d a b) s = execFsub g d a b s := rfl
theorem exec_fmul (g : Guard) (d a b : Opd) (s : State) :
    exec (.fmul g d a b) s = execFmul g d a b s := rfl
theorem exec_fmin (g : Guard) (d a b : Opd) (s : State) :
    exec (.fmin g d a b) s = execFmin g d a b s := rfl
theorem exec_fmax (g : Guard) (d a b : Opd) (s : State) :
    exec (.fmax g d a b) s = execFmax g d a b s := rfl
theorem exec_faddBf16x2 (g : Guard) (d a b : Opd) (s : State) :
    exec (.faddBf16x2 g d a b) s = execFaddBf16x2 g d a b s := rfl
theorem exec_fmulBf16x2 (g : Guard) (d a b : Opd) (s : State) :
    exec (.fmulBf16x2 g d a b) s = execFmulBf16x2 g d a b s := rfl
theorem exec_fminBf16x2 (g : Guard) (d a b : Opd) (s : State) :
    exec (.fminBf16x2 g d a b) s = execFminBf16x2 g d a b s := rfl
theorem exec_fmaxBf16x2 (g : Guard) (d a b : Opd) (s : State) :
    exec (.fmaxBf16x2 g d a b) s = execFmaxBf16x2 g d a b s := rfl
theorem exec_faddF16x2 (g : Guard) (d a b : Opd) (s : State) :
    exec (.faddF16x2 g d a b) s = execFaddF16x2 g d a b s := rfl
theorem exec_fmulF16x2 (g : Guard) (d a b : Opd) (s : State) :
    exec (.fmulF16x2 g d a b) s = execFmulF16x2 g d a b s := rfl
theorem exec_fminF16x2 (g : Guard) (d a b : Opd) (s : State) :
    exec (.fminF16x2 g d a b) s = execFminF16x2 g d a b s := rfl
theorem exec_fmaxF16x2 (g : Guard) (d a b : Opd) (s : State) :
    exec (.fmaxF16x2 g d a b) s = execFmaxF16x2 g d a b s := rfl
theorem exec_lea (g : Guard) (d a b : Opd) (s : State) :
    exec (.lea g d a b) s = execLea g d a b s := rfl
theorem exec_br (g : Guard) (off : BitVec 21) (s : State) :
    exec (.br g off) s = execBr g off s := rfl
theorem exec_call (g : Guard) (off : BitVec 21) (s : State) :
    exec (.call g off) s = execCall g off s := rfl
theorem exec_icmp (g : Guard) (a b : Opd) (ty : Ty) (cond : Cond) (pd : Fin 8) (s : State) :
    exec (.icmp g a b ty cond pd) s = execIcmp g a b ty cond pd s := rfl
theorem exec_imad (g : Guard) (d a b c : Opd) (s : State) :
    exec (.imad g d a b c) s = execImad g d a b c s := rfl
theorem exec_imulQ (g : Guard) (d a b : Opd) (s : State) :
    exec (.imulQ g d a b) s = execImulQ g d a b s := rfl
theorem exec_iaddSat (g : Guard) (d a b : Opd) (ty : Ty) (s : State) :
    exec (.iaddSat g d a b ty) s = execIaddSat g d a b ty s := rfl
theorem exec_isubSat (g : Guard) (d a b : Opd) (ty : Ty) (s : State) :
    exec (.isubSat g d a b ty) s = execIsubSat g d a b ty s := rfl
theorem exec_bfe (g : Guard) (d a b : Opd) (ty : Ty) (s : State) :
    exec (.bfe g d a b ty) s = execBfe g d a b ty s := rfl
theorem exec_bfi (g : Guard) (d a b c : Opd) (s : State) :
    exec (.bfi g d a b c) s = execBfi g d a b c s := rfl
theorem exec_fshl (g : Guard) (d a b c : Opd) (s : State) :
    exec (.fshl g d a b c) s = execFshl g d a b c s := rfl
theorem exec_fshr (g : Guard) (d a b c : Opd) (s : State) :
    exec (.fshr g d a b c) s = execFshr g d a b c s := rfl
theorem exec_pbool (g : Guard) (tt : BitVec 4) (pa pb pd : Fin 8) (s : State) :
    exec (.pbool g tt pa pb pd) s = execPbool g tt pa pb pd s := rfl
theorem exec_pget (g : Guard) (d : Opd) (s : State) :
    exec (.pget g d) s = execPget g d s := rfl
theorem exec_pset (g : Guard) (a : Opd) (s : State) :
    exec (.pset g a) s = execPset g a s := rfl
theorem exec_ffma (g : Guard) (d a b c : Opd) (ty : Ty) (rnd : Rnd) (s : State) :
    exec (.ffma g d a b c ty rnd) s = execFfma g d a b c ty rnd s := rfl
theorem exec_faddFpx (g : Guard) (d a b : Opd) (ty : Ty) (rnd : Rnd) (s : State) :
    exec (.faddFpx g d a b ty rnd) s = execFaddFpx g d a b ty rnd s := rfl
theorem exec_fsubFpx (g : Guard) (d a b : Opd) (ty : Ty) (rnd : Rnd) (s : State) :
    exec (.fsubFpx g d a b ty rnd) s = execFsubFpx g d a b ty rnd s := rfl
theorem exec_fmulFpx (g : Guard) (d a b : Opd) (ty : Ty) (rnd : Rnd) (s : State) :
    exec (.fmulFpx g d a b ty rnd) s = execFmulFpx g d a b ty rnd s := rfl
theorem exec_fabs (g : Guard) (d a : Opd) (ty : Ty) (s : State) :
    exec (.fabs g d a ty) s = execFabs g d a ty s := rfl
theorem exec_fneg (g : Guard) (d a : Opd) (ty : Ty) (s : State) :
    exec (.fneg g d a ty) s = execFneg g d a ty s := rfl
theorem exec_frcp (g : Guard) (d a : Opd) (rnd : Rnd) (s : State) :
    exec (.frcp g d a rnd) s = execFrcp g d a rnd s := rfl
theorem exec_fsqrt (g : Guard) (d a : Opd) (rnd : Rnd) (s : State) :
    exec (.fsqrt g d a rnd) s = execFsqrt g d a rnd s := rfl
theorem exec_frsqrt (g : Guard) (d a : Opd) (rnd : Rnd) (s : State) :
    exec (.frsqrt g d a rnd) s = execFrsqrt g d a rnd s := rfl
theorem exec_fexp2 (g : Guard) (d a : Opd) (rnd : Rnd) (s : State) :
    exec (.fexp2 g d a rnd) s = execFexp2 g d a rnd s := rfl
theorem exec_flog2 (g : Guard) (d a : Opd) (rnd : Rnd) (s : State) :
    exec (.flog2 g d a rnd) s = execFlog2 g d a rnd s := rfl
theorem exec_frnd (g : Guard) (d a : Opd) (rnd : Rnd) (s : State) :
    exec (.frnd g d a rnd) s = execFrnd g d a rnd s := rfl
theorem exec_fcmp (g : Guard) (a b : Opd) (cond : Cond) (pd : Fin 8) (s : State) :
    exec (.fcmp g a b cond pd) s = execFcmp g a b cond pd s := rfl
theorem exec_cvt (g : Guard) (d a : Opd) (dty sty : Ty) (rnd : Rnd) (sat : Bool) (s : State) :
    exec (.cvt g d a dty sty rnd sat) s = execCvt g d a dty sty rnd sat s := rfl
theorem exec_qblk (g : Guard) (d a b : Opd) (s : State) :
    exec (.qblk g d a b) s = execQblk g d a b s := rfl
theorem exec_dqblk (g : Guard) (d a b : Opd) (s : State) :
    exec (.dqblk g d a b) s = execDqblk g d a b s := rfl
theorem exec_cvtHad (g : Guard) (d a b c : Opd) (dty : Ty) (rnd : Rnd) (sat inv : Bool) (fs : FlagSel) (s : State) :
    exec (.cvtHad g d a b c dty rnd sat inv fs) s = execCvtHad g d a b c dty rnd sat inv fs s := rfl
theorem exec_lany (g : Guard) (ps pd : Fin 8) (s : State) :
    exec (.lany g ps pd) s = execLany g ps pd s := rfl
theorem exec_lall (g : Guard) (ps pd : Fin 8) (s : State) :
    exec (.lall g ps pd) s = execLall g ps pd s := rfl
theorem exec_lmask (g : Guard) (d : Opd) (ps : Fin 8) (s : State) :
    exec (.lmask g d ps) s = execLmask g d ps s := rfl
theorem exec_lpickIdx (g : Guard) (d a b : Opd) (ty : Ty) (seg : Seg) (s : State) :
    exec (.lpickIdx g d a b ty seg) s = execLpickIdx g d a b ty seg s := rfl
theorem exec_lpickUp (g : Guard) (d a b : Opd) (ty : Ty) (seg : Seg) (s : State) :
    exec (.lpickUp g d a b ty seg) s = execLpickUp g d a b ty seg s := rfl
theorem exec_lpickDown (g : Guard) (d a b : Opd) (ty : Ty) (seg : Seg) (s : State) :
    exec (.lpickDown g d a b ty seg) s = execLpickDown g d a b ty seg s := rfl
theorem exec_lpickXor (g : Guard) (d a b : Opd) (ty : Ty) (seg : Seg) (s : State) :
    exec (.lpickXor g d a b ty seg) s = execLpickXor g d a b ty seg s := rfl
theorem exec_lred (g : Guard) (d a : Opd) (op : LaneOp) (ty : Ty) (seg : Seg) (s : State) :
    exec (.lred g d a op ty seg) s = execLred g d a op ty seg s := rfl
theorem exec_lscan (g : Guard) (d a : Opd) (op : LaneOp) (ty : Ty) (seg : Seg) (excl : Bool) (s : State) :
    exec (.lscan g d a op ty seg excl) s = execLscan g d a op ty seg excl s := rfl
theorem exec_regang (g : Guard) (s : State) :
    exec (.regang g) s = execRegang g s := rfl
theorem exec_wide (g : Guard) (s : State) :
    exec (.wide g) s = execWide g s := rfl
theorem exec_endwide (g : Guard) (s : State) :
    exec (.endwide g) s = execEndwide g s := rfl
theorem exec_wbase (g : Guard) (a : Opd) (add : Bool) (s : State) :
    exec (.wbase g a add) s = execWbase g a add s := rfl
theorem exec_exit (g : Guard) (s : State) :
    exec (.exit g) s = execExit g s := rfl
theorem exec_trap (g : Guard) (a : Opd) (s : State) :
    exec (.trap g a) s = execTrap g a s := rfl
theorem exec_trapret (g : Guard) (s : State) :
    exec (.trapret g) s = execTrapret g s := rfl
theorem exec_ifence (g : Guard) (s : State) :
    exec (.ifence g) s = execIfence g s := rfl
theorem exec_icinv (g : Guard) (a b : Opd) (fs : FlagSel) (s : State) :
    exec (.icinv g a b fs) s = execIcinv g a b fs s := rfl
theorem exec_jmpi (g : Guard) (a : Opd) (s : State) :
    exec (.jmpi g a) s = execJmpi g a s := rfl
theorem exec_ret (g : Guard) (a : Opd) (s : State) :
    exec (.ret g a) s = execRet g a s := rfl
theorem exec_calli (g : Guard) (d a : Opd) (s : State) :
    exec (.calli g d a) s = execCalli g d a s := rfl
theorem exec_brk (g : Guard) (s : State) :
    exec (.brk g) s = execBrk g s := rfl
theorem exec_yieldto (g : Guard) (a b c : Opd) (s : State) :
    exec (.yieldto g a b c) s = execYieldto g a b c s := rfl
theorem exec_ld (g : Guard) (d a b : Opd) (m : MemMods) (s : State) :
    exec (.ld g d a b m) s = execLd g d a b m s := rfl
theorem exec_st (g : Guard) (a b c : Opd) (m : MemMods) (s : State) :
    exec (.st g a b c m) s = execSt g a b c m s := rfl
theorem exec_lds (g : Guard) (d a b : Opd) (m : MemMods) (s : State) :
    exec (.lds g d a b m) s = execLds g d a b m s := rfl
theorem exec_sts (g : Guard) (a b c : Opd) (m : MemMods) (s : State) :
    exec (.sts g a b c m) s = execSts g a b c m s := rfl
theorem exec_ldc (g : Guard) (d a b : Opd) (ty : Ty) (fs : FlagSel) (s : State) :
    exec (.ldc g d a b ty fs) s = execLdc g d a b ty fs s := rfl
theorem exec_gather (g : Guard) (d a b : Opd) (m : MemMods) (s : State) :
    exec (.gather g d a b m) s = execGather g d a b m s := rfl
theorem exec_prefetch (g : Guard) (a b : Opd) (lvl : PfLevel) (s : State) :
    exec (.prefetch g a b lvl) s = execPrefetch g a b lvl s := rfl
theorem exec_rmw (g : Guard) (d a b c : Opd) (m : RmwMods) (s : State) :
    exec (.rmw g d a b c m) s = execRmw g d a b c m s := rfl
theorem exec_fold (g : Guard) (a b c : Opd) (m : RmwMods) (s : State) :
    exec (.fold g a b c m) s = execFold g a b c m s := rfl
theorem exec_rmwCas (g : Guard) (d a b c : Opd) (m : RmwMods) (s : State) :
    exec (.rmwCas g d a b c m) s = execRmwCas g d a b c m s := rfl
theorem exec_fence (g : Guard) (order : Order) (scope : Scope) (s : State) :
    exec (.fence g order scope) s = execFence g order scope s := rfl
theorem exec_gatePass (g : Guard) (a : Opd) (bar : Fin 16) (s : State) :
    exec (.gatePass g a bar) s = execGatePass g a bar s := rfl
theorem exec_gateWait (g : Guard) (a : Opd) (bar : Fin 16) (s : State) :
    exec (.gateWait g a bar) s = execGateWait g a bar s := rfl
theorem exec_bobjOpen (g : Guard) (a b : Opd) (s : State) :
    exec (.bobjOpen g a b) s = execBobjOpen g a b s := rfl
theorem exec_bobjDue (g : Guard) (a b : Opd) (mark : Bool) (s : State) :
    exec (.bobjDue g a b mark) s = execBobjDue g a b mark s := rfl
theorem exec_bobjMark (g : Guard) (a : Opd) (s : State) :
    exec (.bobjMark g a) s = execBobjMark g a s := rfl
theorem exec_bobjHold (g : Guard) (a b : Opd) (s : State) :
    exec (.bobjHold g a b) s = execBobjHold g a b s := rfl
theorem exec_emberArm (g : Guard) (a b : Opd) (k : Fin 4) (s : State) :
    exec (.emberArm g a b k) s = execEmberArm g a b k s := rfl
theorem exec_emberWait (g : Guard) (d a : Opd) (s : State) :
    exec (.emberWait g d a) s = execEmberWait g d a s := rfl
theorem exec_emberDisarm (g : Guard) (mask : BitVec 4) (s : State) :
    exec (.emberDisarm g mask) s = execEmberDisarm g mask s := rfl
theorem exec_emberTimeout (core wave strand : Nat) (s : State) :
    exec (.emberTimeout core wave strand) s = execEmberTimeout core wave strand s := rfl
theorem exec_spawn (g : Guard) (a b : Opd) (fs : FlagSel) (s : State) :
    exec (.spawn g a b fs) s = execSpawn g a b fs s := rfl
theorem exec_launch (g : Guard) (a : Opd) (fs : FlagSel) (s : State) :
    exec (.launch g a fs) s = execLaunch g a fs s := rfl
theorem exec_await (g : Guard) (a : Opd) (pd : Fin 8) (s : State) :
    exec (.await g a pd) s = execAwait g a pd s := rfl
theorem exec_futSet (g : Guard) (a b : Opd) (s : State) :
    exec (.futSet g a b) s = execFutSet g a b s := rfl
theorem exec_lockTake (g : Guard) (a : Opd) (pd : Fin 8) (s : State) :
    exec (.lockTake g a pd) s = execLockTake g a pd s := rfl
theorem exec_lockGive (g : Guard) (a : Opd) (s : State) :
    exec (.lockGive g a) s = execLockGive g a s := rfl
theorem exec_qpush (g : Guard) (d a b : Opd) (form : QForm) (order : Order) (scope : Scope) (fs : FlagSel) (s : State) :
    exec (.qpush g d a b form order scope fs) s = execQpush g d a b form order scope fs s := rfl
theorem exec_qpop (g : Guard) (d a b : Opd) (order : Order) (scope : Scope) (fs : FlagSel) (s : State) :
    exec (.qpop g d a b order scope fs) s = execQpop g d a b order scope fs s := rfl
theorem exec_park (g : Guard) (a : Opd) (s : State) :
    exec (.park g a) s = execPark g a s := rfl
theorem exec_ldw (g : Guard) (d a b : Opd) (m : MemMods) (s : State) :
    exec (.ldw g d a b m) s = execLdw g d a b m s := rfl
theorem exec_stw (g : Guard) (a b c : Opd) (m : MemMods) (s : State) :
    exec (.stw g a b c m) s = execStw g a b c m s := rfl
theorem exec_spanArrive (g : Guard) (s : State) :
    exec (.spanArrive g) s = execSpanArrive g s := rfl
theorem exec_spanSync (g : Guard) (s : State) :
    exec (.spanSync g) s = execSpanSync g s := rfl
theorem exec_spanDetach (g : Guard) (s : State) :
    exec (.spanDetach g) s = execSpanDetach g s := rfl
theorem exec_spanPeer (g : Guard) (d a : Opd) (s : State) :
    exec (.spanPeer g d a) s = execSpanPeer g d a s := rfl
theorem exec_crewSet (g : Guard) (a b : Opd) (s : State) :
    exec (.crewSet g a b) s = execCrewSet g a b s := rfl
theorem exec_tokTake (g : Guard) (s : State) :
    exec (.tokTake g) s = execTokTake g s := rfl
theorem exec_tokGive (g : Guard) (a : Opd) (pass : Bool) (s : State) :
    exec (.tokGive g a pass) s = execTokGive g a pass s := rfl
theorem exec_mma (g : Guard) (a : Opd) (m : MmaMods) (s : State) :
    exec (.mma g a m) s = execMma g a m s := rfl
theorem exec_mmas (g : Guard) (a : Opd) (m : MmaMods) (s : State) :
    exec (.mmas g a m) s = execMmas g a m s := rfl
theorem exec_matrixEntry (core group crew : Nat) (s : State) :
    exec (.matrixEntry core group crew) s = execMatrixEntry core group crew s := rfl
theorem exec_matrixOpFinish (core : Nat) (s : State) :
    exec (.matrixOpFinish core) s = execMatrixOpFinish core s := rfl
theorem exec_wbload (g : Guard) (a : Opd) (m : WbMods) (s : State) :
    exec (.wbload g a m) s = execWbload g a m s := rfl
theorem exec_accz (g : Guard) (m : AccMods) (s : State) :
    exec (.accz g m) s = execAccz g m s := rfl
theorem exec_accld (g : Guard) (a b : Opd) (m : AccMods) (s : State) :
    exec (.accld g a b m) s = execAccld g a b m s := rfl
theorem exec_accst (g : Guard) (a b : Opd) (m : AccMods) (s : State) :
    exec (.accst g a b m) s = execAccst g a b m s := rfl
theorem exec_cpTile (g : Guard) (d a b c : Opd) (m : CpMods) (s : State) :
    exec (.cpTile g d a b c m) s = execCpTile g d a b c m s := rfl
theorem exec_cpMcast (g : Guard) (d a b c : Opd) (m : CpMods) (mask : Byte) (s : State) :
    exec (.cpMcast g d a b c m mask) s = execCpMcast g d a b c m mask s := rfl
theorem exec_cpOut (g : Guard) (d a b c : Opd) (m : CpMods) (s : State) :
    exec (.cpOut g d a b c m) s = execCpOut g d a b c m s := rfl
theorem exec_cpGather (g : Guard) (d a b c : Opd) (m : CpMods) (s : State) :
    exec (.cpGather g d a b c m) s = execCpGather g d a b c m s := rfl
theorem exec_copyDelivery (core copy lines : Nat) (s : State) :
    exec (.copyDelivery core copy lines) s = execCopyDelivery core copy lines s := rfl
theorem exec_sget (g : Guard) (d : Opd) (sreg : Byte) (s : State) :
    exec (.sget g d sreg) s = execSget g d sreg s := rfl
theorem exec_sset (g : Guard) (a : Opd) (sreg : Byte) (s : State) :
    exec (.sset g a sreg) s = execSset g a sreg s := rfl
theorem exec_cctl (g : Guard) (a b : Opd) (op : CctlOp) (fs : FlagSel) (s : State) :
    exec (.cctl g a b op fs) s = execCctl g a b op fs s := rfl
theorem exec_tlbinv (g : Guard) (a b : Opd) (fs : FlagSel) (s : State) :
    exec (.tlbinv g a b fs) s = execTlbinv g a b fs s := rfl
theorem exec_probe (g : Guard) (d a : Opd) (fs : FlagSel) (s : State) :
    exec (.probe g d a fs) s = execProbe g d a fs s := rfl
theorem exec_scanStart (g : Guard) (d a : Opd) (fs : FlagSel) (s : State) :
    exec (.scanStart g d a fs) s = execScanStart g d a fs s := rfl
theorem exec_scanPoll (g : Guard) (d a : Opd) (fs : FlagSel) (s : State) :
    exec (.scanPoll g d a fs) s = execScanPoll g d a fs s := rfl
theorem exec_halt (g : Guard) (s : State) :
    exec (.halt g) s = execHalt g s := rfl
theorem exec_clauseStart (s : State) :
    exec .clauseStart s = execClauseStart s := rfl
theorem exec_longOpComplete (core wave op : Nat) (share : OpShare) (s : State) :
    exec (.longOpComplete core wave op share) s = execLongOpComplete core wave op share s := rfl
theorem exec_waveExit (core wave : Nat) (s : State) :
    exec (.waveExit core wave) s = execWaveExit core wave s := rfl
theorem exec_trapEntry (core wave : Nat) (s : State) :
    exec (.trapEntry core wave) s = execTrapEntry core wave s := rfl
theorem exec_adopt (core wave : Nat) (s : State) :
    exec (.adopt core wave) s = execAdopt core wave s := rfl
theorem exec_waitableReady (ctx rec : Nat) (s : State) :
    exec (.waitableReady ctx rec) s = execWaitableReady ctx rec s := rfl
theorem exec_adoptionEnd (core wave : Nat) (s : State) :
    exec (.adoptionEnd core wave) s = execAdoptionEnd core wave s := rfl
theorem exec_slotTakeTask (core wave : Nat) (s : State) :
    exec (.slotTakeTask core wave) s = execSlotTakeTask core wave s := rfl
theorem exec_segmentLink (ctx queue seg : Nat) (s : State) :
    exec (.segmentLink ctx queue seg) s = execSegmentLink ctx queue seg s := rfl
theorem exec_stallDetect (group : Nat) (s : State) :
    exec (.stallDetect group) s = execStallDetect group s := rfl
theorem exec_doorbell (fn : Nat) (value : W32) (s : State) :
    exec (.doorbell fn value) s = execDoorbell fn value s := rfl
theorem exec_hostQueueRecordRead (ctx queue : Nat) (s : State) :
    exec (.hostQueueRecordRead ctx queue) s = execHostQueueRecordRead ctx queue s := rfl
theorem exec_launchAccept (index : Nat) (s : State) :
    exec (.launchAccept index) s = execLaunchAccept index s := rfl
theorem exec_launchComplete (launch : Nat) (s : State) :
    exec (.launchComplete launch) s = execLaunchComplete launch s := rfl
theorem exec_gangPlace (arena reserve : List Nat) (s : State) :
    exec (.gangPlace arena reserve) s = execGangPlace arena reserve s := rfl
theorem exec_timeSliceExpiry (gang : Nat) (s : State) :
    exec (.timeSliceExpiry gang) s = execTimeSliceExpiry gang s := rfl
theorem exec_gangPreempt (gang : Nat) (s : State) :
    exec (.gangPreempt gang) s = execGangPreempt gang s := rfl
theorem exec_gangSave (gang : Nat) (s : State) :
    exec (.gangSave gang) s = execGangSave gang s := rfl
theorem exec_gangRestore (gang : Nat) (s : State) :
    exec (.gangRestore gang) s = execGangRestore gang s := rfl
theorem exec_spanReserve (span : SpanMsg) (arena reserve : List Nat) (s : State) :
    exec (.spanReserve span arena reserve) s = execSpanReserve span arena reserve s := rfl
theorem exec_spanCommit (span : SpanMsg) (prio : Nat) (remotes : List (Nat × Nat)) (s : State) :
    exec (.spanCommit span prio remotes) s = execSpanCommit span prio remotes s := rfl
theorem exec_spanPriorityUpdate (span : SpanMsg) (prio : Nat) (s : State) :
    exec (.spanPriorityUpdate span prio) s = execSpanPriorityUpdate span prio s := rfl
theorem exec_memberDepart (span : SpanMsg) (member : Nat) (s : State) :
    exec (.memberDepart span member) s = execMemberDepart span member s := rfl
theorem exec_inboxWake (session : Nat) (s : State) :
    exec (.inboxWake session) s = execInboxWake session s := rfl
theorem exec_packetRead (session block : Nat) (s : State) :
    exec (.packetRead session block) s = execPacketRead session block s := rfl
theorem exec_sessionKeyInstall (session : Nat) (key : BitVec 256) (s : State) :
    exec (.sessionKeyInstall session key) s = execSessionKeyInstall session key s := rfl
theorem exec_extentAdd (tenant : Nat) (base : ExtentAt) (size : Nat) (s : State) :
    exec (.extentAdd tenant base size) s = execExtentAdd tenant base size s := rfl
theorem exec_extentRelease (tenant : Nat) (base : ExtentAt) (s : State) :
    exec (.extentRelease tenant base) s = execExtentRelease tenant base s := rfl
theorem exec_extentReleaseAnswer (tenant : Nat) (base : ExtentAt) (s : State) :
    exec (.extentReleaseAnswer tenant base) s = execExtentReleaseAnswer tenant base s := rfl
theorem exec_bisnp (kind : WinKind) (dest addr : Nat) (s : State) :
    exec (.bisnp kind dest addr) s = execBisnp kind dest addr s := rfl
theorem exec_inboundRequest (r : InReq) (s : State) :
    exec (.inboundRequest r) s = execInboundRequest r s := rfl
theorem exec_cxlViralIndication (port : Nat) (s : State) :
    exec (.cxlViralIndication port) s = execCxlViralIndication port s := rfl
theorem exec_fencedResponse (core wave op : Nat) (fenced : Fenced) (s : State) :
    exec (.fencedResponse core wave op fenced) s = execFencedResponse core wave op fenced s := rfl
theorem exec_linkReplay (link : Nat) (again : Bool) (s : State) :
    exec (.linkReplay link again) s = execLinkReplay link again s := rfl
theorem exec_linkRetrain (link : Nat) (ok : Bool) (s : State) :
    exec (.linkRetrain link ok) s = execLinkRetrain link ok s := rfl
theorem exec_routeLost (kind : WinKind) (dest : Nat) (other performed : Bool) (s : State) :
    exec (.routeLost kind dest other performed) s = execRouteLost kind dest other performed s := rfl
theorem exec_selfTestPass (f : Func) (s : State) :
    exec (.selfTestPass f) s = execSelfTestPass f s := rfl
theorem exec_functionReset (fn : Nat) (s : State) :
    exec (.functionReset fn) s = execFunctionReset fn s := rfl
theorem exec_correctableError (stack row : Nat) (s : State) :
    exec (.correctableError stack row) s = execCorrectableError stack row s := rfl
theorem exec_uncorrectableError (loc : PoisonLoc) (s : State) :
    exec (.uncorrectableError loc) s = execUncorrectableError loc s := rfl
theorem exec_clinkerClear (s : State) :
    exec .clinkerClear s = execClinkerClear s := rfl
theorem exec_scanRun (handle core : Nat) (s : State) :
    exec (.scanRun handle core) s = execScanRun handle core s := rfl
theorem exec_scanComplete (handle : Nat) (pass : Bool) (s : State) :
    exec (.scanComplete handle pass) s = execScanComplete handle pass s := rfl
theorem exec_clockAdjust (mhz : Nat) (s : State) :
    exec (.clockAdjust mhz) s = execClockAdjust mhz s := rfl
theorem exec_createContext (fn : Nat) (seq : Byte) (s : State) :
    exec (.createContext fn seq) s = execCreateContext fn seq s := rfl
theorem exec_destroyContext (fn : Nat) (seq : Byte) (s : State) :
    exec (.destroyContext fn seq) s = execDestroyContext fn seq s := rfl
theorem exec_registerHostQueue (fn : Nat) (seq : Byte) (s : State) :
    exec (.registerHostQueue fn seq) s = execRegisterHostQueue fn seq s := rfl
theorem exec_unregisterHostQueue (fn : Nat) (seq : Byte) (s : State) :
    exec (.unregisterHostQueue fn seq) s = execUnregisterHostQueue fn seq s := rfl
theorem exec_registerKernel (fn : Nat) (seq : Byte) (s : State) :
    exec (.registerKernel fn seq) s = execRegisterKernel fn seq s := rfl
theorem exec_writeFabricWindow (fn : Nat) (seq : Byte) (s : State) :
    exec (.writeFabricWindow fn seq) s = execWriteFabricWindow fn seq s := rfl
theorem exec_writeFormatRegion (fn : Nat) (seq : Byte) (s : State) :
    exec (.writeFormatRegion fn seq) s = execWriteFormatRegion fn seq s := rfl
theorem exec_declareDeadOrLive (fn : Nat) (seq : Byte) (s : State) :
    exec (.declareDeadOrLive fn seq) s = execDeclareDeadOrLive fn seq s := rfl
theorem exec_writeTenantPolicy (fn : Nat) (seq : Byte) (s : State) :
    exec (.writeTenantPolicy fn seq) s = execWriteTenantPolicy fn seq s := rfl
theorem exec_attachOrDetachDebugger (fn : Nat) (seq : Byte) (s : State) :
    exec (.attachOrDetachDebugger fn seq) s = execAttachOrDetachDebugger fn seq s := rfl
theorem exec_readDbgctl (fn : Nat) (seq : Byte) (s : State) :
    exec (.readDbgctl fn seq) s = execReadDbgctl fn seq s := rfl
theorem exec_writeDbgctl (fn : Nat) (seq : Byte) (s : State) :
    exec (.writeDbgctl fn seq) s = execWriteDbgctl fn seq s := rfl
theorem exec_stageFirmware (fn : Nat) (seq : Byte) (s : State) :
    exec (.stageFirmware fn seq) s = execStageFirmware fn seq s := rfl
theorem exec_activateFirmware (fn : Nat) (seq : Byte) (s : State) :
    exec (.activateFirmware fn seq) s = execActivateFirmware fn seq s := rfl
theorem exec_safePoint (s : State) :
    exec .safePoint s = execSafePoint s := rfl
theorem exec_cone (version : W64) (s : State) :
    exec (.cone version) s = execCone version s := rfl
theorem exec_coneDeadlineExpiry (s : State) :
    exec .coneDeadlineExpiry s = execConeDeadlineExpiry s := rfl
theorem exec_openSession (fn : Nat) (seq : Byte) (s : State) :
    exec (.openSession fn seq) s = execOpenSession fn seq s := rfl
theorem exec_closeSession (fn : Nat) (seq : Byte) (s : State) :
    exec (.closeSession fn seq) s = execCloseSession fn seq s := rfl
theorem exec_assignOrRemoveLocalRange (fn : Nat) (seq : Byte) (s : State) :
    exec (.assignOrRemoveLocalRange fn seq) s = execAssignOrRemoveLocalRange fn seq s := rfl
theorem exec_setDeviceNumber (fn : Nat) (seq : Byte) (s : State) :
    exec (.setDeviceNumber fn seq) s = execSetDeviceNumber fn seq s := rfl
theorem exec_enrolOrRemoveKernelKey (fn : Nat) (seq : Byte) (s : State) :
    exec (.enrolOrRemoveKernelKey fn seq) s = execEnrolOrRemoveKernelKey fn seq s := rfl
theorem exec_mailboxReservedCommand (fn : Nat) (code seq : Byte) (s : State) :
    exec (.mailboxReservedCommand fn code seq) s = execMailboxReservedCommand fn code seq s := rfl
theorem exec_registerWrite (fn offset : Nat) (value : W32) (s : State) :
    exec (.registerWrite fn offset value) s = execRegisterWrite fn offset value s := rfl
theorem exec_unassignedEncoding (major : BitVec 7) (sub : Option Byte) (s : State) :
    exec (.unassignedEncoding major sub) s = execUnassignedEncoding major sub s := rfl
theorem exec_functionEnable (fn : Nat) (s : State) :
    exec (.functionEnable fn) s = execFunctionEnable fn s := rfl
theorem exec_expanderLost (port : Nat) (s : State) :
    exec (.expanderLost port) s = execExpanderLost port s := rfl
theorem exec_dirtySectorWriteback (cluster sector : Nat) (s : State) :
    exec (.dirtySectorWriteback cluster sector) s = execDirtySectorWriteback cluster sector s := rfl

end Sys2Proof.Machine
end

