-- ==== Sys2Proof/Laws/State.lean ====
section
/-! SUPPORT. Every field of the state after every named update, and what the tables answer after a change. -/

namespace Sys2Proof.Machine

/-! ## Tables -/

theorem Tab.find_put_self {α : Type} (t : Tab α) (k : Nat) (v : α) : Tab.find (Tab.put t k v) k = some v := by
  induction t with
  | nil => simp [Tab.put, Tab.find]
  | cons x r ih =>
    obtain ⟨k', v'⟩ := x
    simp only [Tab.put]
    split
    · simp [Tab.find]
    · split
      · simp [Tab.find]
      · have : k' ≠ k := by omega
        simp [Tab.find, this, ih]

theorem Tab.find_put_ne {α : Type} (t : Tab α) (k j : Nat) (v : α) (h : j ≠ k) :
    Tab.find (Tab.put t k v) j = Tab.find t j := by
  induction t with
  | nil => simp [Tab.put, Tab.find, Ne.symm h]
  | cons x r ih =>
    obtain ⟨k', v'⟩ := x
    simp only [Tab.put]
    split
    · simp [Tab.find, Ne.symm h]
    · split
      · rename_i h1 h2; subst h2; simp [Tab.find, Ne.symm h]
      · simp [Tab.find, ih]

theorem Tab.find_modify_self {α : Type} (t : Tab α) (k : Nat) (f : α → α) :
    Tab.find (Tab.modify t k f) k = (Tab.find t k).map f := by
  induction t with
  | nil => simp [Tab.modify, Tab.find]
  | cons x r ih =>
    obtain ⟨k', v'⟩ := x
    simp only [Tab.modify]
    split
    · rename_i h; simp [Tab.find, h]
    · rename_i h; simp [Tab.find, h, ih]

theorem Tab.find_modify_ne {α : Type} (t : Tab α) (k j : Nat) (f : α → α) (h : j ≠ k) :
    Tab.find (Tab.modify t k f) j = Tab.find t j := by
  induction t with
  | nil => simp [Tab.modify, Tab.find]
  | cons x r ih =>
    obtain ⟨k', v'⟩ := x
    simp only [Tab.modify]
    split
    · rename_i h'; subst h'; simp [Tab.find, Ne.symm h]
    · simp [Tab.find, ih]

/-! ## Waves, groups, cores and tenants after a change -/

@[simp] theorem State.wave_setWave (s : State) (u : Nat) (w : Wave) : (s.setWave u w).wave u = some w :=
  Tab.find_put_self _ _ _
theorem State.wave_setWave_ne (s : State) (u v : Nat) (w : Wave) (h : v ≠ u) : (s.setWave u w).wave v = s.wave v :=
  Tab.find_put_ne _ _ _ _ h
@[simp] theorem State.wave_modWave (s : State) (u : Nat) (f : Wave → Wave) :
    (s.modWave u f).wave u = (s.wave u).map f := Tab.find_modify_self _ _ _
theorem State.wave_modWave_ne (s : State) (u v : Nat) (f : Wave → Wave) (h : v ≠ u) :
    (s.modWave u f).wave v = s.wave v := Tab.find_modify_ne _ _ _ _ h
@[simp] theorem State.group_modGroup (s : State) (g : Nat) (f : Group → Group) :
    (s.modGroup g f).group g = (s.group g).map f := Tab.find_modify_self _ _ _
theorem State.group_modGroup_ne (s : State) (g k : Nat) (f : Group → Group) (h : k ≠ g) :
    (s.modGroup g f).group k = s.group k := Tab.find_modify_ne _ _ _ _ h
@[simp] theorem State.core_setCore (s : State) (c : Nat) (x : Core) : (s.setCore c x).core c = x := by
  simp [State.core, State.setCore, Tab.find_put_self]
@[simp] theorem State.tenant_setTenant (s : State) (n : Nat) (x : Tenant) : (s.setTenant n x).tenant n = x := by
  simp [State.tenant, State.setTenant, Tab.find_put_self]

/-! ## Fields -/

/-! `setWave` -/

@[simp] theorem State.setWave_dev (s : State) (u : Nat) (w : Wave) : (s.setWave u w).dev = s.dev := rfl
@[simp] theorem State.setWave_mem (s : State) (u : Nat) (w : Wave) : (s.setWave u w).mem = s.mem := rfl
@[simp] theorem State.setWave_cores (s : State) (u : Nat) (w : Wave) : (s.setWave u w).cores = s.cores := rfl
@[simp] theorem State.setWave_clusters (s : State) (u : Nat) (w : Wave) : (s.setWave u w).clusters = s.clusters := rfl
@[simp] theorem State.setWave_sched (s : State) (u : Nat) (w : Wave) : (s.setWave u w).sched = s.sched := rfl
@[simp] theorem State.setWave_kiln_tenants (s : State) (u : Nat) (w : Wave) : (s.setWave u w).kiln.tenants = s.kiln.tenants := rfl
@[simp] theorem State.setWave_kiln_ctxs (s : State) (u : Nat) (w : Wave) : (s.setWave u w).kiln.ctxs = s.kiln.ctxs := rfl
@[simp] theorem State.setWave_kiln_launches (s : State) (u : Nat) (w : Wave) : (s.setWave u w).kiln.launches = s.kiln.launches := rfl
@[simp] theorem State.setWave_kiln_gangs (s : State) (u : Nat) (w : Wave) : (s.setWave u w).kiln.gangs = s.kiln.gangs := rfl
@[simp] theorem State.setWave_kiln_groups (s : State) (u : Nat) (w : Wave) : (s.setWave u w).kiln.groups = s.kiln.groups := rfl
@[simp] theorem State.setWave_kiln_waves (s : State) (u : Nat) (w : Wave) : (s.setWave u w).kiln.waves = Tab.put s.kiln.waves u w := rfl
@[simp] theorem State.setWave_kiln_parked (s : State) (u : Nat) (w : Wave) : (s.setWave u w).kiln.parked = s.kiln.parked := rfl
@[simp] theorem State.setWave_kiln_heldPushes (s : State) (u : Nat) (w : Wave) : (s.setWave u w).kiln.heldPushes = s.kiln.heldPushes := rfl
@[simp] theorem State.setWave_kiln_sessions (s : State) (u : Nat) (w : Wave) : (s.setWave u w).kiln.sessions = s.kiln.sessions := rfl
@[simp] theorem State.setWave_kiln_scans (s : State) (u : Nat) (w : Wave) : (s.setWave u w).kiln.scans = s.kiln.scans := rfl
@[simp] theorem State.setWave_kiln_spans (s : State) (u : Nat) (w : Wave) : (s.setWave u w).kiln.spans = s.kiln.spans := rfl
@[simp] theorem State.setWave_kiln_submits (s : State) (u : Nat) (w : Wave) : (s.setWave u w).kiln.submits = s.kiln.submits := rfl
@[simp] theorem State.setWave_kiln_nextUid (s : State) (u : Nat) (w : Wave) : (s.setWave u w).kiln.nextUid = s.kiln.nextUid := rfl

/-! `modWave` -/

@[simp] theorem State.modWave_dev (s : State) (u : Nat) (f : Wave → Wave) : (s.modWave u f).dev = s.dev := rfl
@[simp] theorem State.modWave_mem (s : State) (u : Nat) (f : Wave → Wave) : (s.modWave u f).mem = s.mem := rfl
@[simp] theorem State.modWave_cores (s : State) (u : Nat) (f : Wave → Wave) : (s.modWave u f).cores = s.cores := rfl
@[simp] theorem State.modWave_clusters (s : State) (u : Nat) (f : Wave → Wave) : (s.modWave u f).clusters = s.clusters := rfl
@[simp] theorem State.modWave_sched (s : State) (u : Nat) (f : Wave → Wave) : (s.modWave u f).sched = s.sched := rfl
@[simp] theorem State.modWave_kiln_tenants (s : State) (u : Nat) (f : Wave → Wave) : (s.modWave u f).kiln.tenants = s.kiln.tenants := rfl
@[simp] theorem State.modWave_kiln_ctxs (s : State) (u : Nat) (f : Wave → Wave) : (s.modWave u f).kiln.ctxs = s.kiln.ctxs := rfl
@[simp] theorem State.modWave_kiln_launches (s : State) (u : Nat) (f : Wave → Wave) : (s.modWave u f).kiln.launches = s.kiln.launches := rfl
@[simp] theorem State.modWave_kiln_gangs (s : State) (u : Nat) (f : Wave → Wave) : (s.modWave u f).kiln.gangs = s.kiln.gangs := rfl
@[simp] theorem State.modWave_kiln_groups (s : State) (u : Nat) (f : Wave → Wave) : (s.modWave u f).kiln.groups = s.kiln.groups := rfl
@[simp] theorem State.modWave_kiln_waves (s : State) (u : Nat) (f : Wave → Wave) : (s.modWave u f).kiln.waves = Tab.modify s.kiln.waves u f := rfl
@[simp] theorem State.modWave_kiln_parked (s : State) (u : Nat) (f : Wave → Wave) : (s.modWave u f).kiln.parked = s.kiln.parked := rfl
@[simp] theorem State.modWave_kiln_heldPushes (s : State) (u : Nat) (f : Wave → Wave) : (s.modWave u f).kiln.heldPushes = s.kiln.heldPushes := rfl
@[simp] theorem State.modWave_kiln_sessions (s : State) (u : Nat) (f : Wave → Wave) : (s.modWave u f).kiln.sessions = s.kiln.sessions := rfl
@[simp] theorem State.modWave_kiln_scans (s : State) (u : Nat) (f : Wave → Wave) : (s.modWave u f).kiln.scans = s.kiln.scans := rfl
@[simp] theorem State.modWave_kiln_spans (s : State) (u : Nat) (f : Wave → Wave) : (s.modWave u f).kiln.spans = s.kiln.spans := rfl
@[simp] theorem State.modWave_kiln_submits (s : State) (u : Nat) (f : Wave → Wave) : (s.modWave u f).kiln.submits = s.kiln.submits := rfl
@[simp] theorem State.modWave_kiln_nextUid (s : State) (u : Nat) (f : Wave → Wave) : (s.modWave u f).kiln.nextUid = s.kiln.nextUid := rfl

/-! `setGroup` -/

@[simp] theorem State.setGroup_dev (s : State) (g : Nat) (x : Group) : (s.setGroup g x).dev = s.dev := rfl
@[simp] theorem State.setGroup_mem (s : State) (g : Nat) (x : Group) : (s.setGroup g x).mem = s.mem := rfl
@[simp] theorem State.setGroup_cores (s : State) (g : Nat) (x : Group) : (s.setGroup g x).cores = s.cores := rfl
@[simp] theorem State.setGroup_clusters (s : State) (g : Nat) (x : Group) : (s.setGroup g x).clusters = s.clusters := rfl
@[simp] theorem State.setGroup_sched (s : State) (g : Nat) (x : Group) : (s.setGroup g x).sched = s.sched := rfl
@[simp] theorem State.setGroup_kiln_tenants (s : State) (g : Nat) (x : Group) : (s.setGroup g x).kiln.tenants = s.kiln.tenants := rfl
@[simp] theorem State.setGroup_kiln_ctxs (s : State) (g : Nat) (x : Group) : (s.setGroup g x).kiln.ctxs = s.kiln.ctxs := rfl
@[simp] theorem State.setGroup_kiln_launches (s : State) (g : Nat) (x : Group) : (s.setGroup g x).kiln.launches = s.kiln.launches := rfl
@[simp] theorem State.setGroup_kiln_gangs (s : State) (g : Nat) (x : Group) : (s.setGroup g x).kiln.gangs = s.kiln.gangs := rfl
@[simp] theorem State.setGroup_kiln_groups (s : State) (g : Nat) (x : Group) : (s.setGroup g x).kiln.groups = Tab.put s.kiln.groups g x := rfl
@[simp] theorem State.setGroup_kiln_waves (s : State) (g : Nat) (x : Group) : (s.setGroup g x).kiln.waves = s.kiln.waves := rfl
@[simp] theorem State.setGroup_kiln_parked (s : State) (g : Nat) (x : Group) : (s.setGroup g x).kiln.parked = s.kiln.parked := rfl
@[simp] theorem State.setGroup_kiln_heldPushes (s : State) (g : Nat) (x : Group) : (s.setGroup g x).kiln.heldPushes = s.kiln.heldPushes := rfl
@[simp] theorem State.setGroup_kiln_sessions (s : State) (g : Nat) (x : Group) : (s.setGroup g x).kiln.sessions = s.kiln.sessions := rfl
@[simp] theorem State.setGroup_kiln_scans (s : State) (g : Nat) (x : Group) : (s.setGroup g x).kiln.scans = s.kiln.scans := rfl
@[simp] theorem State.setGroup_kiln_spans (s : State) (g : Nat) (x : Group) : (s.setGroup g x).kiln.spans = s.kiln.spans := rfl
@[simp] theorem State.setGroup_kiln_submits (s : State) (g : Nat) (x : Group) : (s.setGroup g x).kiln.submits = s.kiln.submits := rfl
@[simp] theorem State.setGroup_kiln_nextUid (s : State) (g : Nat) (x : Group) : (s.setGroup g x).kiln.nextUid = s.kiln.nextUid := rfl

/-! `modGroup` -/

@[simp] theorem State.modGroup_dev (s : State) (g : Nat) (f : Group → Group) : (s.modGroup g f).dev = s.dev := rfl
@[simp] theorem State.modGroup_mem (s : State) (g : Nat) (f : Group → Group) : (s.modGroup g f).mem = s.mem := rfl
@[simp] theorem State.modGroup_cores (s : State) (g : Nat) (f : Group → Group) : (s.modGroup g f).cores = s.cores := rfl
@[simp] theorem State.modGroup_clusters (s : State) (g : Nat) (f : Group → Group) : (s.modGroup g f).clusters = s.clusters := rfl
@[simp] theorem State.modGroup_sched (s : State) (g : Nat) (f : Group → Group) : (s.modGroup g f).sched = s.sched := rfl
@[simp] theorem State.modGroup_kiln_tenants (s : State) (g : Nat) (f : Group → Group) : (s.modGroup g f).kiln.tenants = s.kiln.tenants := rfl
@[simp] theorem State.modGroup_kiln_ctxs (s : State) (g : Nat) (f : Group → Group) : (s.modGroup g f).kiln.ctxs = s.kiln.ctxs := rfl
@[simp] theorem State.modGroup_kiln_launches (s : State) (g : Nat) (f : Group → Group) : (s.modGroup g f).kiln.launches = s.kiln.launches := rfl
@[simp] theorem State.modGroup_kiln_gangs (s : State) (g : Nat) (f : Group → Group) : (s.modGroup g f).kiln.gangs = s.kiln.gangs := rfl
@[simp] theorem State.modGroup_kiln_groups (s : State) (g : Nat) (f : Group → Group) : (s.modGroup g f).kiln.groups = Tab.modify s.kiln.groups g f := rfl
@[simp] theorem State.modGroup_kiln_waves (s : State) (g : Nat) (f : Group → Group) : (s.modGroup g f).kiln.waves = s.kiln.waves := rfl
@[simp] theorem State.modGroup_kiln_parked (s : State) (g : Nat) (f : Group → Group) : (s.modGroup g f).kiln.parked = s.kiln.parked := rfl
@[simp] theorem State.modGroup_kiln_heldPushes (s : State) (g : Nat) (f : Group → Group) : (s.modGroup g f).kiln.heldPushes = s.kiln.heldPushes := rfl
@[simp] theorem State.modGroup_kiln_sessions (s : State) (g : Nat) (f : Group → Group) : (s.modGroup g f).kiln.sessions = s.kiln.sessions := rfl
@[simp] theorem State.modGroup_kiln_scans (s : State) (g : Nat) (f : Group → Group) : (s.modGroup g f).kiln.scans = s.kiln.scans := rfl
@[simp] theorem State.modGroup_kiln_spans (s : State) (g : Nat) (f : Group → Group) : (s.modGroup g f).kiln.spans = s.kiln.spans := rfl
@[simp] theorem State.modGroup_kiln_submits (s : State) (g : Nat) (f : Group → Group) : (s.modGroup g f).kiln.submits = s.kiln.submits := rfl
@[simp] theorem State.modGroup_kiln_nextUid (s : State) (g : Nat) (f : Group → Group) : (s.modGroup g f).kiln.nextUid = s.kiln.nextUid := rfl

/-! `modGang` -/

@[simp] theorem State.modGang_dev (s : State) (g : Nat) (f : Gang → Gang) : (s.modGang g f).dev = s.dev := rfl
@[simp] theorem State.modGang_mem (s : State) (g : Nat) (f : Gang → Gang) : (s.modGang g f).mem = s.mem := rfl
@[simp] theorem State.modGang_cores (s : State) (g : Nat) (f : Gang → Gang) : (s.modGang g f).cores = s.cores := rfl
@[simp] theorem State.modGang_clusters (s : State) (g : Nat) (f : Gang → Gang) : (s.modGang g f).clusters = s.clusters := rfl
@[simp] theorem State.modGang_sched (s : State) (g : Nat) (f : Gang → Gang) : (s.modGang g f).sched = s.sched := rfl
@[simp] theorem State.modGang_kiln_tenants (s : State) (g : Nat) (f : Gang → Gang) : (s.modGang g f).kiln.tenants = s.kiln.tenants := rfl
@[simp] theorem State.modGang_kiln_ctxs (s : State) (g : Nat) (f : Gang → Gang) : (s.modGang g f).kiln.ctxs = s.kiln.ctxs := rfl
@[simp] theorem State.modGang_kiln_launches (s : State) (g : Nat) (f : Gang → Gang) : (s.modGang g f).kiln.launches = s.kiln.launches := rfl
@[simp] theorem State.modGang_kiln_gangs (s : State) (g : Nat) (f : Gang → Gang) : (s.modGang g f).kiln.gangs = Tab.modify s.kiln.gangs g f := rfl
@[simp] theorem State.modGang_kiln_groups (s : State) (g : Nat) (f : Gang → Gang) : (s.modGang g f).kiln.groups = s.kiln.groups := rfl
@[simp] theorem State.modGang_kiln_waves (s : State) (g : Nat) (f : Gang → Gang) : (s.modGang g f).kiln.waves = s.kiln.waves := rfl
@[simp] theorem State.modGang_kiln_parked (s : State) (g : Nat) (f : Gang → Gang) : (s.modGang g f).kiln.parked = s.kiln.parked := rfl
@[simp] theorem State.modGang_kiln_heldPushes (s : State) (g : Nat) (f : Gang → Gang) : (s.modGang g f).kiln.heldPushes = s.kiln.heldPushes := rfl
@[simp] theorem State.modGang_kiln_sessions (s : State) (g : Nat) (f : Gang → Gang) : (s.modGang g f).kiln.sessions = s.kiln.sessions := rfl
@[simp] theorem State.modGang_kiln_scans (s : State) (g : Nat) (f : Gang → Gang) : (s.modGang g f).kiln.scans = s.kiln.scans := rfl
@[simp] theorem State.modGang_kiln_spans (s : State) (g : Nat) (f : Gang → Gang) : (s.modGang g f).kiln.spans = s.kiln.spans := rfl
@[simp] theorem State.modGang_kiln_submits (s : State) (g : Nat) (f : Gang → Gang) : (s.modGang g f).kiln.submits = s.kiln.submits := rfl
@[simp] theorem State.modGang_kiln_nextUid (s : State) (g : Nat) (f : Gang → Gang) : (s.modGang g f).kiln.nextUid = s.kiln.nextUid := rfl

/-! `modLaunch` -/

@[simp] theorem State.modLaunch_dev (s : State) (l : Nat) (f : Launch → Launch) : (s.modLaunch l f).dev = s.dev := rfl
@[simp] theorem State.modLaunch_mem (s : State) (l : Nat) (f : Launch → Launch) : (s.modLaunch l f).mem = s.mem := rfl
@[simp] theorem State.modLaunch_cores (s : State) (l : Nat) (f : Launch → Launch) : (s.modLaunch l f).cores = s.cores := rfl
@[simp] theorem State.modLaunch_clusters (s : State) (l : Nat) (f : Launch → Launch) : (s.modLaunch l f).clusters = s.clusters := rfl
@[simp] theorem State.modLaunch_sched (s : State) (l : Nat) (f : Launch → Launch) : (s.modLaunch l f).sched = s.sched := rfl
@[simp] theorem State.modLaunch_kiln_tenants (s : State) (l : Nat) (f : Launch → Launch) : (s.modLaunch l f).kiln.tenants = s.kiln.tenants := rfl
@[simp] theorem State.modLaunch_kiln_ctxs (s : State) (l : Nat) (f : Launch → Launch) : (s.modLaunch l f).kiln.ctxs = s.kiln.ctxs := rfl
@[simp] theorem State.modLaunch_kiln_launches (s : State) (l : Nat) (f : Launch → Launch) : (s.modLaunch l f).kiln.launches = Tab.modify s.kiln.launches l f := rfl
@[simp] theorem State.modLaunch_kiln_gangs (s : State) (l : Nat) (f : Launch → Launch) : (s.modLaunch l f).kiln.gangs = s.kiln.gangs := rfl
@[simp] theorem State.modLaunch_kiln_groups (s : State) (l : Nat) (f : Launch → Launch) : (s.modLaunch l f).kiln.groups = s.kiln.groups := rfl
@[simp] theorem State.modLaunch_kiln_waves (s : State) (l : Nat) (f : Launch → Launch) : (s.modLaunch l f).kiln.waves = s.kiln.waves := rfl
@[simp] theorem State.modLaunch_kiln_parked (s : State) (l : Nat) (f : Launch → Launch) : (s.modLaunch l f).kiln.parked = s.kiln.parked := rfl
@[simp] theorem State.modLaunch_kiln_heldPushes (s : State) (l : Nat) (f : Launch → Launch) : (s.modLaunch l f).kiln.heldPushes = s.kiln.heldPushes := rfl
@[simp] theorem State.modLaunch_kiln_sessions (s : State) (l : Nat) (f : Launch → Launch) : (s.modLaunch l f).kiln.sessions = s.kiln.sessions := rfl
@[simp] theorem State.modLaunch_kiln_scans (s : State) (l : Nat) (f : Launch → Launch) : (s.modLaunch l f).kiln.scans = s.kiln.scans := rfl
@[simp] theorem State.modLaunch_kiln_spans (s : State) (l : Nat) (f : Launch → Launch) : (s.modLaunch l f).kiln.spans = s.kiln.spans := rfl
@[simp] theorem State.modLaunch_kiln_submits (s : State) (l : Nat) (f : Launch → Launch) : (s.modLaunch l f).kiln.submits = s.kiln.submits := rfl
@[simp] theorem State.modLaunch_kiln_nextUid (s : State) (l : Nat) (f : Launch → Launch) : (s.modLaunch l f).kiln.nextUid = s.kiln.nextUid := rfl

/-! `modCtx` -/

@[simp] theorem State.modCtx_dev (s : State) (c : Nat) (f : Ctx → Ctx) : (s.modCtx c f).dev = s.dev := rfl
@[simp] theorem State.modCtx_mem (s : State) (c : Nat) (f : Ctx → Ctx) : (s.modCtx c f).mem = s.mem := rfl
@[simp] theorem State.modCtx_cores (s : State) (c : Nat) (f : Ctx → Ctx) : (s.modCtx c f).cores = s.cores := rfl
@[simp] theorem State.modCtx_clusters (s : State) (c : Nat) (f : Ctx → Ctx) : (s.modCtx c f).clusters = s.clusters := rfl
@[simp] theorem State.modCtx_sched (s : State) (c : Nat) (f : Ctx → Ctx) : (s.modCtx c f).sched = s.sched := rfl
@[simp] theorem State.modCtx_kiln_tenants (s : State) (c : Nat) (f : Ctx → Ctx) : (s.modCtx c f).kiln.tenants = s.kiln.tenants := rfl
@[simp] theorem State.modCtx_kiln_ctxs (s : State) (c : Nat) (f : Ctx → Ctx) : (s.modCtx c f).kiln.ctxs = Tab.modify s.kiln.ctxs c f := rfl
@[simp] theorem State.modCtx_kiln_launches (s : State) (c : Nat) (f : Ctx → Ctx) : (s.modCtx c f).kiln.launches = s.kiln.launches := rfl
@[simp] theorem State.modCtx_kiln_gangs (s : State) (c : Nat) (f : Ctx → Ctx) : (s.modCtx c f).kiln.gangs = s.kiln.gangs := rfl
@[simp] theorem State.modCtx_kiln_groups (s : State) (c : Nat) (f : Ctx → Ctx) : (s.modCtx c f).kiln.groups = s.kiln.groups := rfl
@[simp] theorem State.modCtx_kiln_waves (s : State) (c : Nat) (f : Ctx → Ctx) : (s.modCtx c f).kiln.waves = s.kiln.waves := rfl
@[simp] theorem State.modCtx_kiln_parked (s : State) (c : Nat) (f : Ctx → Ctx) : (s.modCtx c f).kiln.parked = s.kiln.parked := rfl
@[simp] theorem State.modCtx_kiln_heldPushes (s : State) (c : Nat) (f : Ctx → Ctx) : (s.modCtx c f).kiln.heldPushes = s.kiln.heldPushes := rfl
@[simp] theorem State.modCtx_kiln_sessions (s : State) (c : Nat) (f : Ctx → Ctx) : (s.modCtx c f).kiln.sessions = s.kiln.sessions := rfl
@[simp] theorem State.modCtx_kiln_scans (s : State) (c : Nat) (f : Ctx → Ctx) : (s.modCtx c f).kiln.scans = s.kiln.scans := rfl
@[simp] theorem State.modCtx_kiln_spans (s : State) (c : Nat) (f : Ctx → Ctx) : (s.modCtx c f).kiln.spans = s.kiln.spans := rfl
@[simp] theorem State.modCtx_kiln_submits (s : State) (c : Nat) (f : Ctx → Ctx) : (s.modCtx c f).kiln.submits = s.kiln.submits := rfl
@[simp] theorem State.modCtx_kiln_nextUid (s : State) (c : Nat) (f : Ctx → Ctx) : (s.modCtx c f).kiln.nextUid = s.kiln.nextUid := rfl

/-! `setTenant` -/

@[simp] theorem State.setTenant_dev (s : State) (n : Nat) (x : Tenant) : (s.setTenant n x).dev = s.dev := rfl
@[simp] theorem State.setTenant_mem (s : State) (n : Nat) (x : Tenant) : (s.setTenant n x).mem = s.mem := rfl
@[simp] theorem State.setTenant_cores (s : State) (n : Nat) (x : Tenant) : (s.setTenant n x).cores = s.cores := rfl
@[simp] theorem State.setTenant_clusters (s : State) (n : Nat) (x : Tenant) : (s.setTenant n x).clusters = s.clusters := rfl
@[simp] theorem State.setTenant_sched (s : State) (n : Nat) (x : Tenant) : (s.setTenant n x).sched = s.sched := rfl
@[simp] theorem State.setTenant_kiln_tenants (s : State) (n : Nat) (x : Tenant) : (s.setTenant n x).kiln.tenants = Tab.put s.kiln.tenants n x := rfl
@[simp] theorem State.setTenant_kiln_ctxs (s : State) (n : Nat) (x : Tenant) : (s.setTenant n x).kiln.ctxs = s.kiln.ctxs := rfl
@[simp] theorem State.setTenant_kiln_launches (s : State) (n : Nat) (x : Tenant) : (s.setTenant n x).kiln.launches = s.kiln.launches := rfl
@[simp] theorem State.setTenant_kiln_gangs (s : State) (n : Nat) (x : Tenant) : (s.setTenant n x).kiln.gangs = s.kiln.gangs := rfl
@[simp] theorem State.setTenant_kiln_groups (s : State) (n : Nat) (x : Tenant) : (s.setTenant n x).kiln.groups = s.kiln.groups := rfl
@[simp] theorem State.setTenant_kiln_waves (s : State) (n : Nat) (x : Tenant) : (s.setTenant n x).kiln.waves = s.kiln.waves := rfl
@[simp] theorem State.setTenant_kiln_parked (s : State) (n : Nat) (x : Tenant) : (s.setTenant n x).kiln.parked = s.kiln.parked := rfl
@[simp] theorem State.setTenant_kiln_heldPushes (s : State) (n : Nat) (x : Tenant) : (s.setTenant n x).kiln.heldPushes = s.kiln.heldPushes := rfl
@[simp] theorem State.setTenant_kiln_sessions (s : State) (n : Nat) (x : Tenant) : (s.setTenant n x).kiln.sessions = s.kiln.sessions := rfl
@[simp] theorem State.setTenant_kiln_scans (s : State) (n : Nat) (x : Tenant) : (s.setTenant n x).kiln.scans = s.kiln.scans := rfl
@[simp] theorem State.setTenant_kiln_spans (s : State) (n : Nat) (x : Tenant) : (s.setTenant n x).kiln.spans = s.kiln.spans := rfl
@[simp] theorem State.setTenant_kiln_submits (s : State) (n : Nat) (x : Tenant) : (s.setTenant n x).kiln.submits = s.kiln.submits := rfl
@[simp] theorem State.setTenant_kiln_nextUid (s : State) (n : Nat) (x : Tenant) : (s.setTenant n x).kiln.nextUid = s.kiln.nextUid := rfl

/-! `setCore` -/

@[simp] theorem State.setCore_dev (s : State) (c : Nat) (x : Core) : (s.setCore c x).dev = s.dev := rfl
@[simp] theorem State.setCore_mem (s : State) (c : Nat) (x : Core) : (s.setCore c x).mem = s.mem := rfl
@[simp] theorem State.setCore_cores (s : State) (c : Nat) (x : Core) : (s.setCore c x).cores = Tab.put s.cores c x := rfl
@[simp] theorem State.setCore_clusters (s : State) (c : Nat) (x : Core) : (s.setCore c x).clusters = s.clusters := rfl
@[simp] theorem State.setCore_sched (s : State) (c : Nat) (x : Core) : (s.setCore c x).sched = s.sched := rfl
@[simp] theorem State.setCore_kiln (s : State) (c : Nat) (x : Core) : (s.setCore c x).kiln = s.kiln := rfl

/-! `setCluster` -/

@[simp] theorem State.setCluster_dev (s : State) (c : Nat) (x : Cluster) : (s.setCluster c x).dev = s.dev := rfl
@[simp] theorem State.setCluster_mem (s : State) (c : Nat) (x : Cluster) : (s.setCluster c x).mem = s.mem := rfl
@[simp] theorem State.setCluster_cores (s : State) (c : Nat) (x : Cluster) : (s.setCluster c x).cores = s.cores := rfl
@[simp] theorem State.setCluster_clusters (s : State) (c : Nat) (x : Cluster) : (s.setCluster c x).clusters = Tab.put s.clusters c x := rfl
@[simp] theorem State.setCluster_sched (s : State) (c : Nat) (x : Cluster) : (s.setCluster c x).sched = s.sched := rfl
@[simp] theorem State.setCluster_kiln (s : State) (c : Nat) (x : Cluster) : (s.setCluster c x).kiln = s.kiln := rfl

/-! `setMem` -/

@[simp] theorem State.setMem_dev (s : State) (m : MemSys) : (s.setMem m).dev = s.dev := rfl
@[simp] theorem State.setMem_mem (s : State) (m : MemSys) : (s.setMem m).mem = m := rfl
@[simp] theorem State.setMem_cores (s : State) (m : MemSys) : (s.setMem m).cores = s.cores := rfl
@[simp] theorem State.setMem_clusters (s : State) (m : MemSys) : (s.setMem m).clusters = s.clusters := rfl
@[simp] theorem State.setMem_sched (s : State) (m : MemSys) : (s.setMem m).sched = s.sched := rfl
@[simp] theorem State.setMem_kiln (s : State) (m : MemSys) : (s.setMem m).kiln = s.kiln := rfl

/-! `setDev` -/

@[simp] theorem State.setDev_dev (s : State) (d : Dev) : (s.setDev d).dev = d := rfl
@[simp] theorem State.setDev_mem (s : State) (d : Dev) : (s.setDev d).mem = s.mem := rfl
@[simp] theorem State.setDev_cores (s : State) (d : Dev) : (s.setDev d).cores = s.cores := rfl
@[simp] theorem State.setDev_clusters (s : State) (d : Dev) : (s.setDev d).clusters = s.clusters := rfl
@[simp] theorem State.setDev_sched (s : State) (d : Dev) : (s.setDev d).sched = s.sched := rfl
@[simp] theorem State.setDev_kiln (s : State) (d : Dev) : (s.setDev d).kiln = s.kiln := rfl

/-! `noCur` -/

@[simp] theorem State.noCur_dev (s : State) : (s.noCur).dev = s.dev := rfl
@[simp] theorem State.noCur_mem (s : State) : (s.noCur).mem = s.mem := rfl
@[simp] theorem State.noCur_cores (s : State) : (s.noCur).cores = s.cores := rfl
@[simp] theorem State.noCur_clusters (s : State) : (s.noCur).clusters = s.clusters := rfl
@[simp] theorem State.noCur_sched (s : State) : (s.noCur).sched = { s.sched with cur := none } := rfl
@[simp] theorem State.noCur_kiln (s : State) : (s.noCur).kiln = s.kiln := rfl

/-! `hold` -/

@[simp] theorem State.hold_dev (s : State) : (s.hold).dev = s.dev := rfl
@[simp] theorem State.hold_mem (s : State) : (s.hold).mem = s.mem := rfl
@[simp] theorem State.hold_cores (s : State) : (s.hold).cores = s.cores := rfl
@[simp] theorem State.hold_clusters (s : State) : (s.hold).clusters = s.clusters := rfl
@[simp] theorem State.hold_sched (s : State) : (s.hold).sched = { s.sched with held := true } := rfl
@[simp] theorem State.hold_kiln (s : State) : (s.hold).kiln = s.kiln := rfl

/-! `withCur` -/

@[simp] theorem State.withCur_dev (s : State) (c : Cur) : (s.withCur c).dev = s.dev := rfl
@[simp] theorem State.withCur_mem (s : State) (c : Cur) : (s.withCur c).mem = s.mem := rfl
@[simp] theorem State.withCur_cores (s : State) (c : Cur) : (s.withCur c).cores = s.cores := rfl
@[simp] theorem State.withCur_clusters (s : State) (c : Cur) : (s.withCur c).clusters = s.clusters := rfl
@[simp] theorem State.withCur_sched (s : State) (c : Cur) : (s.withCur c).sched = { s.sched with cur := some c } := rfl
@[simp] theorem State.withCur_kiln (s : State) (c : Cur) : (s.withCur c).kiln = s.kiln := rfl
/-! `noteWait`: the turn has met a request that must wait (R367) -/

@[simp] theorem State.noteWait_dev (s : State) (p : Place) : (s.noteWait p).dev = s.dev := by
  unfold State.noteWait; split <;> rfl
@[simp] theorem State.noteWait_mem (s : State) (p : Place) : (s.noteWait p).mem = s.mem := by
  unfold State.noteWait; split <;> rfl
@[simp] theorem State.noteWait_cores (s : State) (p : Place) : (s.noteWait p).cores = s.cores := by
  unfold State.noteWait; split <;> rfl
@[simp] theorem State.noteWait_clusters (s : State) (p : Place) : (s.noteWait p).clusters = s.clusters := by
  unfold State.noteWait; split <;> rfl
@[simp] theorem State.noteWait_kiln (s : State) (p : Place) : (s.noteWait p).kiln = s.kiln := by
  unfold State.noteWait; split <;> rfl

/-! `MemSys.soil` and `MemSys.unhold`: the lines of local memory in the MSC (R110, R123) -/

@[simp] theorem MemSys.soil_loc (m : MemSys) (ls : List Nat) : (m.soil ls).loc = m.loc := rfl
@[simp] theorem MemSys.soil_poison (m : MemSys) (ls : List Nat) : (m.soil ls).poison = m.poison := rfl
@[simp] theorem MemSys.soil_bad (m : MemSys) (ls : List Nat) : (m.soil ls).bad = m.bad := rfl
@[simp] theorem MemSys.soil_sram (m : MemSys) (ls : List Nat) : (m.soil ls).sram = m.sram := rfl
@[simp] theorem MemSys.soil_wire (m : MemSys) (ls : List Nat) : (m.soil ls).wire = m.wire := rfl
@[simp] theorem MemSys.soil_dead (m : MemSys) (ls : List Nat) : (m.soil ls).dead = m.dead := rfl
@[simp] theorem MemSys.soil_homes (m : MemSys) (ls : List Nat) : (m.soil ls).homes = m.homes := rfl
@[simp] theorem MemSys.soil_homePoison (m : MemSys) (ls : List Nat) : (m.soil ls).homePoison = m.homePoison := rfl
@[simp] theorem MemSys.soil_msc (m : MemSys) (ls : List Nat) : (m.soil ls).msc = m.msc := rfl
@[simp] theorem MemSys.soil_lines (m : MemSys) (ls : List Nat) : (m.soil ls).lines = m.lines := rfl
@[simp] theorem MemSys.soil_snoop (m : MemSys) (ls : List Nat) : (m.soil ls).snoop = m.snoop := rfl
@[simp] theorem MemSys.unhold_loc (m : MemSys) (n : Nat) : (m.unhold n).loc = m.loc := rfl
@[simp] theorem MemSys.unhold_poison (m : MemSys) (n : Nat) : (m.unhold n).poison = m.poison := rfl
@[simp] theorem MemSys.unhold_bad (m : MemSys) (n : Nat) : (m.unhold n).bad = m.bad := rfl
@[simp] theorem MemSys.unhold_sram (m : MemSys) (n : Nat) : (m.unhold n).sram = m.sram := rfl
@[simp] theorem MemSys.unhold_wire (m : MemSys) (n : Nat) : (m.unhold n).wire = m.wire := rfl
@[simp] theorem MemSys.unhold_dead (m : MemSys) (n : Nat) : (m.unhold n).dead = m.dead := rfl
@[simp] theorem MemSys.unhold_homes (m : MemSys) (n : Nat) : (m.unhold n).homes = m.homes := rfl
@[simp] theorem MemSys.unhold_homePoison (m : MemSys) (n : Nat) : (m.unhold n).homePoison = m.homePoison := rfl
@[simp] theorem MemSys.unhold_msc (m : MemSys) (n : Nat) : (m.unhold n).msc = m.msc := rfl
@[simp] theorem MemSys.unhold_lines (m : MemSys) (n : Nat) : (m.unhold n).lines = m.lines.filter (· != n) := rfl
@[simp] theorem MemSys.unhold_snoop (m : MemSys) (n : Nat) : (m.unhold n).snoop = m.snoop := rfl
@[simp] theorem MemSys.unhold_dirty (m : MemSys) (n : Nat) : (m.unhold n).dirty = m.dirty.filter (· != n) := rfl

/-! `endSlot`: an issue cycle of a partition is over (R48) -/

@[simp] theorem State.endSlot_dev (s : State) (c p : Nat) : (s.endSlot c p).dev = s.dev := rfl
@[simp] theorem State.endSlot_mem (s : State) (c p : Nat) : (s.endSlot c p).mem = s.mem := rfl
@[simp] theorem State.endSlot_clusters (s : State) (c p : Nat) : (s.endSlot c p).clusters = s.clusters := rfl
@[simp] theorem State.endSlot_kiln (s : State) (c p : Nat) : (s.endSlot c p).kiln = s.kiln := rfl
@[simp] theorem State.endSlot_sched (s : State) (c p : Nat) : (s.endSlot c p).sched = s.sched := rfl

end Sys2Proof.Machine
end

