-- ==== Sys2Proof/Laws/Store.lean ====
section
/-! SUPPORT. Sparse storage: a read after a write, the canonical form, and that every operation on storage keeps it. -/

namespace Sys2Proof

theorem Store.get_set_self {w : Nat} (m : Store w) (k : Nat) (v : BitVec w) :
    ∀ lo, Store.wfFrom lo m = true → Store.get (Store.set m k v) k = v := by
  induction m with
  | nil => intro lo _; simp only [Store.set]; split <;> simp_all [Store.get]
  | cons x r ih =>
    intro lo h
    obtain ⟨k', v'⟩ := x
    simp only [Store.wfFrom, Bool.and_eq_true, decide_eq_true_eq] at h
    simp only [Store.set]
    have low : ∀ (r : Store w) lo, Store.wfFrom lo r = true → ∀ j, j < lo → Store.get r j = 0 := by
      intro r
      induction r with
      | nil => intros; rfl
      | cons y q ihq =>
        intro lo hq j hj
        obtain ⟨a, b⟩ := y
        simp only [Store.wfFrom, Bool.and_eq_true, decide_eq_true_eq] at hq
        have : a ≠ j := by omega
        simp only [Store.get, this, if_false]
        exact ihq _ hq.2 j (by omega)
    split
    · split
      · rename_i h1 h2
        have : k' ≠ k := by omega
        simp only [Store.get, this, if_false, h2]
        exact low r _ h.2 k (by omega)
      · simp [Store.get]
    · split
      · rename_i h1 h2
        subst h2
        split
        · rename_i h3; rw [h3]; exact low r _ h.2 k (by omega)
        · simp [Store.get]
      · have : k' ≠ k := by omega
        simp only [Store.get, this, if_false]
        exact ih _ h.2

theorem Store.get_set_ne {w : Nat} (m : Store w) (k j : Nat) (v : BitVec w) (hj : j ≠ k) :
    Store.get (Store.set m k v) j = Store.get m j := by
  induction m with
  | nil => simp only [Store.set]; split <;> simp [Store.get, Ne.symm hj]
  | cons x r ih =>
    obtain ⟨k', v'⟩ := x
    simp only [Store.set]
    split
    · split <;> simp [Store.get, Ne.symm hj]
    · split
      · rename_i _ h2
        subst h2
        split <;> simp [Store.get, Ne.symm hj]
      · simp [Store.get, ih]

theorem Store.wfFrom_mono {w : Nat} (m : Store w) (lo lo' : Nat) (h : lo' ≤ lo) (hm : Store.wfFrom lo m = true) :
    Store.wfFrom lo' m = true := by
  cases m with
  | nil => rfl
  | cons x r =>
    simp only [Store.wfFrom, Bool.and_eq_true, decide_eq_true_eq] at hm ⊢
    exact ⟨⟨by omega, hm.1.2⟩, hm.2⟩

theorem Store.wfFrom_set {w : Nat} (m : Store w) (k : Nat) (v : BitVec w) :
    ∀ lo, lo ≤ k → Store.wfFrom lo m = true → Store.wfFrom lo (Store.set m k v) = true := by
  induction m with
  | nil => intro lo h _; simp only [Store.set]; split <;> simp_all [Store.wfFrom]
  | cons x r ih =>
    intro lo hl h
    obtain ⟨k', v'⟩ := x
    simp only [Store.wfFrom, Bool.and_eq_true, decide_eq_true_eq] at h
    simp only [Store.set]
    split
    · split
      · simpa [Store.wfFrom] using h
      · simp only [Store.wfFrom, Bool.and_eq_true, decide_eq_true_eq]
        exact ⟨⟨hl, by assumption⟩, ⟨by omega, h.1.2⟩, h.2⟩
    · split
      · split
        · exact Store.wfFrom_mono _ _ _ (by omega) h.2
        · simp only [Store.wfFrom, Bool.and_eq_true, decide_eq_true_eq]
          rename_i h2 h3
          subst h2
          exact ⟨⟨hl, h3⟩, h.2⟩
      · simp only [Store.wfFrom, Bool.and_eq_true, decide_eq_true_eq]
        exact ⟨h.1, ih _ (by omega) h.2⟩

/-- A write keeps the canonical form. -/
theorem Store.wf_set {w : Nat} (m : Store w) (k : Nat) (v : BitVec w) (h : Store.wf m = true) :
    Store.wf (Store.set m k v) = true := Store.wfFrom_set m k v 0 (Nat.zero_le _) h

/-- Several writes keep it. -/
theorem Store.wf_setAll {w : Nat} (l : List (Nat × BitVec w)) :
    ∀ m : Store w, Store.wf m = true → Store.wf (Store.setAll m l) = true := by
  induction l with
  | nil => intro m h; exact h
  | cons x r ih => intro m h; exact ih _ (Store.wf_set m x.1 x.2 h)

/-- Writing bytes keeps it. -/
theorem Store.wf_setBytes (bs : List Byte) :
    ∀ (m : Store 8) (a : Nat), Store.wf m = true → Store.wf (Store.setBytes m a bs) = true := by
  induction bs with
  | nil => intro m _ h; exact h
  | cons b r ih => intro m a h; exact ih _ _ (Store.wf_set m a b h)

theorem Store.wfFrom_clear {w : Nat} (lo hi : Nat) (m : Store w) :
    ∀ k, Store.wfFrom k m = true → Store.wfFrom k (Store.clear lo hi m) = true := by
  induction m with
  | nil => intro _ _; rfl
  | cons x r ih =>
    intro k h
    obtain ⟨k', v'⟩ := x
    simp only [Store.wfFrom, Bool.and_eq_true, decide_eq_true_eq] at h
    simp only [Store.clear]
    split
    · exact ih _ (Store.wfFrom_mono _ _ _ (by omega) h.2)
    · simp only [Store.wfFrom, Bool.and_eq_true, decide_eq_true_eq]
      exact ⟨h.1, ih _ h.2⟩

/-- Dropping a range keeps it. -/
theorem Store.wf_clear {w : Nat} (lo hi : Nat) (m : Store w) (h : Store.wf m = true) :
    Store.wf (Store.clear lo hi m) = true := Store.wfFrom_clear lo hi m 0 h

theorem Store.wfFrom_part {w : Nat} (lo n : Nat) (m : Store w) :
    ∀ k, Store.wfFrom k m = true → Store.wfFrom (k - lo) (Store.part m lo n) = true := by
  induction m with
  | nil => intro _ _; rfl
  | cons x r ih =>
    intro k h
    obtain ⟨k', v'⟩ := x
    simp only [Store.wfFrom, Bool.and_eq_true, decide_eq_true_eq] at h
    have hr := ih _ h.2
    simp only [Store.part] at hr ⊢
    simp only [List.filterMap_cons]
    split
    · exact Store.wfFrom_mono _ _ _ (by omega) hr
    · rename_i y hy
      split at hy
      · rename_i hl
        cases hy
        simp only [Store.wfFrom, Bool.and_eq_true, decide_eq_true_eq]
        exact ⟨⟨by omega, h.1.2⟩, Store.wfFrom_mono _ _ _ (by omega) hr⟩
      · cases hy

/-- The entries of a range, numbered from its start, are in canonical form. -/
theorem Store.wf_part {w : Nat} (m : Store w) (lo n : Nat) (h : Store.wf m = true) : Store.wf (m.part lo n) = true :=
  Store.wfFrom_mono _ _ _ (Nat.zero_le _) (Store.wfFrom_part lo n m 0 h)

/-- So are the 32-bit values that bytes make. -/
theorem Store.wf_words (m : Store 8) : Store.wf m.words = true := by
  unfold Store.words
  have : ∀ (l : Store 8) (s : Store 32), Store.wf s = true → Store.wf (l.foldl (fun s x =>
      s.set (x.1 / 4) (s.get (x.1 / 4) + BitVec.ofNat 32 (x.2.toNat * 256 ^ (x.1 % 4)))) s) = true := by
    intro l
    induction l with
    | nil => intro s h; exact h
    | cons x r ih => intro s h; exact ih _ (Store.wf_set _ _ _ h)
  exact this m [] rfl

/-- And a list of values numbered from 0. -/
theorem wf_keyed {w : Nat} (l : List (BitVec w)) : Store.wf (Machine.keyed l) = true := Store.wf_setAll _ _ rfl

/-- A read of a key outside the keys written by `setAll`. -/
theorem Store.get_setAll_ne {w : Nat} (l : List (Nat × BitVec w)) (k : Nat) (h : ∀ x ∈ l, x.1 ≠ k) :
    ∀ m : Store w, Store.get (Store.setAll m l) k = Store.get m k := by
  induction l with
  | nil => intro m; rfl
  | cons x r ih =>
    intro m
    simp only [Store.setAll]
    rw [ih (fun y hy => h y (List.mem_cons_of_mem _ hy)), Store.get_set_ne _ _ _ _ (Ne.symm (h x List.mem_cons_self))]

/-- A read of a key among those written by `setAll`, each key at most once. -/
theorem Store.get_setAll_mem {w : Nat} (l : List (Nat × BitVec w)) (hn : (l.map (·.1)).Nodup) :
    ∀ m : Store w, Store.wf m = true → ∀ x ∈ l, Store.get (Store.setAll m l) x.1 = x.2 := by
  induction l with
  | nil => intro m _ x hx; cases hx
  | cons y r ih =>
    intro m hm x hx
    simp only [Store.setAll]
    simp only [List.map_cons, List.nodup_cons] at hn
    rcases List.mem_cons.mp hx with rfl | hx
    · rw [Store.get_setAll_ne]
      · exact Store.get_set_self _ _ _ 0 hm
      · intro z hz he
        exact hn.1 (List.mem_map.mpr ⟨z, hz, he⟩)
    · exact ih hn.2 _ (Store.wf_set _ _ _ hm) x hx

/-- Bytes outside the written ones read as before. -/
theorem Store.get_setBytes_out (bs : List Byte) :
    ∀ (m : Store 8) (a k : Nat), (k < a ∨ a + bs.length ≤ k) → Store.get (Store.setBytes m a bs) k = Store.get m k := by
  induction bs with
  | nil => intros; rfl
  | cons b r ih =>
    intro m a k h
    simp only [List.length_cons] at h
    simp only [Store.setBytes]
    rw [ih _ _ _ (by omega), Store.get_set_ne _ _ _ _ (by omega)]

/-- Bytes among the written ones read as written. -/
theorem Store.get_setBytes_in (bs : List Byte) :
    ∀ (m : Store 8) (a i : Nat), Store.wf m = true → (h : i < bs.length) →
      Store.get (Store.setBytes m a bs) (a + i) = bs[i] := by
  induction bs with
  | nil => intro m a i _ h; simp at h
  | cons b r ih =>
    intro m a i hm h
    simp only [Store.setBytes]
    cases i with
    | zero =>
      rw [Store.get_setBytes_out _ _ _ _ (by omega)]
      exact Store.get_set_self _ _ _ 0 hm
    | succ j =>
      have := ih (m.set a b) (a + 1) j (Store.wf_set _ _ _ hm) (by simpa using h)
      simpa [Nat.add_assoc, Nat.add_comm 1 j] using this

/-! ## Bytes -/

theorem length_leBytes (v n : Nat) : (leBytes v n).length = n := by
  induction n generalizing v with
  | zero => rfl
  | succ n ih => simp [leBytes, ih]

/-- The value of a byte list that was written out. -/
theorem leNat_leBytes (v n : Nat) : leNat (leBytes v n) = v % 256 ^ n := by
  induction n generalizing v with
  | zero => simp [leBytes, leNat, Nat.mod_one]
  | succ n ih =>
    have h : v % (256 * 256 ^ n) = v % 256 + 256 * (v / 256 % 256 ^ n) := Nat.mod_mul
    simp [leBytes, leNat, ih, Nat.pow_succ, Nat.mul_comm (256 ^ n) 256, h]

end Sys2Proof
end

