-- ==== Sys2Proof/Laws/Ops.lean ====
section
/-! SUPPORT. What the shared operations of `Ops` can do, said once: short-latency issue, long-latency issue, waits, the
precise stop, and that each of them answers a next state. -/

namespace Sys2Proof.Machine

/-! ## Short-latency issue -/

/-- A short-latency instruction that executes and reads clean sources has its body's effect and moves on. -/
theorem runShort_reads {i : Instr} {g : Guard} {dsts srcs : List (Opd × Nat)} {adv : Bool} {s t : State}
    {body : Env → Except Bad State} {rd : Env → W32} {e : Env} (h : Executes s g dsts e)
    (hb : body e = .ok t) (hp : e.w.poisonLane srcs (rd e) = none) :
    runShort i g dsts srcs adv s body rd = .next (if adv then t.next e i else t) := by
  simp [runShort, h.env, h.guard, h.free, hb, hp]

/-- All that short-latency issue can come to. -/
theorem runShort_cases {i : Instr} {g : Guard} {dsts srcs : List (Opd × Nat)} {adv : Bool} {s t : State}
    {body : Env → Except Bad State} {rd : Env → W32} (h : runShort i g dsts srcs adv s body rd = .next t) :
    ∃ e, s.env g = some e ∧
      ((guardNever g = true ∧ t = s.next e i) ∨ t = s ∨ (∃ b, t = s.stopAt e none b) ∨
        (∃ t0, body e = .ok t0 ∧ t = if adv then t0.next e i else t0)) := by
  unfold runShort at h
  split at h
  · cases h
  · rename_i e he
    refine ⟨e, he, ?_⟩
    split at h
    · cases h; exact .inl ⟨by assumption, rfl⟩
    · split at h
      · cases h; exact .inr (.inl rfl)
      · split at h
        · cases h; exact .inr (.inr (.inl ⟨_, rfl⟩))
        · split at h <;> cases h
          · exact .inr (.inr (.inl ⟨_, rfl⟩))
          · exact .inr (.inr (.inr ⟨_, by assumption, rfl⟩))

/-- Short-latency issue never ends the run while a strand issues. -/
theorem runShort_goes (i : Instr) {g : Guard} (dsts srcs : List (Opd × Nat)) (adv : Bool) {s : State}
    (body : Env → Except Bad State) (rd : Env → W32) {e : Env} (h : s.env g = some e) :
    ∃ t, runShort i g dsts srcs adv s body rd = .next t := by
  unfold runShort
  simp only [h]
  repeat' split
  all_goals exact ⟨_, rfl⟩

/-- The same where its body answers a state for the executing strand. -/
theorem run32_reads {i : Instr} {g : Guard} {d : Opd} {srcs : List (Opd × Nat)} {s : State} {e : Env}
    {f : Wave → Nat → W32} (h : Reads s g [(d, 1)] srcs e) :
    run32 i g d srcs s f = .next ((s.setWave e.u (e.w.wr d e.part (f e.w))).next e i) := by
  unfold run32
  rw [runShort_reads (t := s.setWave e.u (e.w.wr d e.part (f e.w))) h.toExecutes rfl h.clean]
  rfl

theorem run64_reads {i : Instr} {g : Guard} {d : Opd} {srcs : List (Opd × Nat)} {s : State} {e : Env}
    {f : Wave → Nat → W64} (h : Reads s g [(d, 2)] srcs e) :
    run64 i g d srcs s f = .next ((s.setWave e.u (e.w.wrq d e.part (f e.w))).next e i) := by
  unfold run64
  rw [runShort_reads (t := s.setWave e.u (e.w.wrq d e.part (f e.w))) h.toExecutes rfl h.clean]
  rfl

theorem runPred_reads {i : Instr} {g : Guard} {pd : Fin 8} {srcs : List (Opd × Nat)} {s : State} {e : Env}
    {f : Wave → Nat → Bool} (h : Reads s g [] srcs e) :
    runPred i g pd srcs s f = .next ((s.setWave e.u (e.w.setPreds e.part pd.val (f e.w))).next e i) := by
  unfold runPred
  rw [runShort_reads (t := s.setWave e.u (e.w.setPreds e.part pd.val (f e.w))) h.toExecutes rfl h.clean]
  rfl

/-! ## Long-latency issue -/

/-- A long-latency instruction whose checks pass is issued. -/
theorem issueWith_issues {i : Instr} {g : Guard} {fs : FlagSel} {caps dsts : List (Opd × Nat)} {s t : State}
    {stall : Env → Bool} {pre : Env → Except Bad State} {post : Env → Nat → State → State} {rd : Env → W32} {e : Env}
    (h : Executes s g dsts e) (hf : e.w.flagFull e.sl (e.flag fs) = false) (hs : stall e = false)
    (hp : pre e = .ok t) (hc : e.w.poisonLane caps (rd e) = none) (hn : e.part ≠ 0) :
    issueWith i g fs caps dsts s stall pre post rd = .next (post e t.takeUid.1 (t.issued e i fs caps dsts)) := by
  have hn' : ¬e.part = 0#32 := hn
  simp [issueWith, h.env, h.guard, h.free, hf, hs, hp, hc, hn', State.issued]

/-- All that long-latency issue can come to. -/
theorem issueWith_cases {i : Instr} {g : Guard} {fs : FlagSel} {caps dsts : List (Opd × Nat)} {s t : State}
    {stall : Env → Bool} {pre : Env → Except Bad State} {post : Env → Nat → State → State} {rd : Env → W32}
    (h : issueWith i g fs caps dsts s stall pre post rd = .next t) :
    ∃ e, s.env g = some e ∧
      ((guardNever g = true ∧ t = s.next e i) ∨ t = s ∨ (∃ f b, t = s.stopAt e f b) ∨
        (∃ t0, pre e = .ok t0 ∧ (t = t0.next e i ∨
          (e.part ≠ 0 ∧ t = post e t0.takeUid.1 (t0.issued e i fs caps dsts))))) := by
  unfold issueWith at h
  split at h
  · cases h
  · rename_i e he
    refine ⟨e, he, ?_⟩
    split at h
    · cases h; exact .inl ⟨by assumption, rfl⟩
    · split at h
      · cases h; exact .inr (.inl rfl)
      · split at h
        · cases h; exact .inr (.inr (.inl ⟨_, _, rfl⟩))
        · split at h
          · cases h; exact .inr (.inr (.inl ⟨_, _, rfl⟩))
          · split at h <;> cases h
            · exact .inr (.inr (.inr ⟨_, by assumption, .inl rfl⟩))
            · exact .inr (.inr (.inr ⟨_, by assumption, .inr ⟨by assumption, rfl⟩⟩))

/-- Long-latency issue never ends the run while a strand issues. -/
theorem issueWith_goes (i : Instr) {g : Guard} (fs : FlagSel) (caps dsts : List (Opd × Nat)) {s : State}
    (stall : Env → Bool) (pre : Env → Except Bad State) (post : Env → Nat → State → State) (rd : Env → W32) {e : Env}
    (h : s.env g = some e) : ∃ t, issueWith i g fs caps dsts s stall pre post rd = .next t := by
  unfold issueWith
  simp only [h]
  repeat' split
  all_goals exact ⟨_, rfl⟩

/-! ## Waits -/

/-- A waiting instruction never ends the run while a strand issues. -/
theorem runWait_goes (i : Instr) {g : Guard} (dsts srcs : List (Opd × Nat)) {s : State}
    (body : Env → Except Bad State) {e : Env} (h : s.env g = some e) : ∃ t, runWait i g dsts srcs s body = .next t := by
  unfold runWait
  simp only [h]
  split
  · exact ⟨_, rfl⟩
  · exact runShort_goes _ _ _ _ _ _ h

/-! ## The stop of a wave and the next instruction -/

/-- Two changes of the same elements are one. -/
theorem modWhere_modWhere {α : Type} (p : Nat → Bool) (f g : Nat → α → α) : ∀ (n : Nat) (l : List α),
    modWhere p g n (modWhere p f n l) = modWhere p (fun i a => g i (f i a)) n l
  | _, [] => rfl
  | n, a :: r => by
    simp only [modWhere, modWhere_modWhere p f g (n + 1) r]
    cases p n <;> rfl

theorem SliceSt.skip_issued (x : SliceSt) (n : Nat) :
    ({ x with clause := x.clause.map (fun c => { c with young := false }) } : SliceSt).skip n = x.skip n := by
  rcases x with ⟨_, _, _, _, _, _, _, _ | c, _, _, _⟩ <;> simp [SliceSt.skip]

/-- Moving on past an instruction marks its clause as past its first issue. -/
theorem Wave.issued_next (w : Wave) (st : BitVec 8) (i : Instr) : (w.issued st).next st i = w.next st i := by
  simp only [Wave.next, Wave.skip, Wave.issued, Wave.modSlices, modWhere_modWhere, SliceSt.skip_issued]

theorem Wave.next_stop (w : Wave) (x : Option TrapReq) (st : BitVec 8) (i : Instr) :
    ({ w with stop := x } : Wave).next st i = { (w.next st i) with stop := x } := by
  let v : Wave := w.modSlices st (fun y => y.skip (encode i).length)
  show (if v.clstep && (bitsOf st).any (fun j => (v.slice j).clause.isNone) then ({ v with stop := x, halted := true } : Wave)
    else { v with stop := x }) = { (if v.clstep && (bitsOf st).any (fun j => (v.slice j).clause.isNone) then
      ({ v with halted := true } : Wave) else v) with stop := x }
  cases v.clstep && (bitsOf st).any (fun j => (v.slice j).clause.isNone) <;> rfl

/-- Two changes of one entry are one. -/
theorem Tab.modify_modify {α : Type} (k : Nat) (f g : α → α) : ∀ t : Tab α,
    Tab.modify (Tab.modify t k f) k g = Tab.modify t k (fun x => g (f x))
  | [] => rfl
  | (k', v) :: r => by
    by_cases h : k' = k <;> simp [Tab.modify, h, Tab.modify_modify k f g r]

/-- A wave that stops at an instruction and moves past it: the stop alone, and the move, say all that happens. -/
theorem State.stopAt_next (s : State) (e : Env) (f : Option Nat) (b : Bad) (i : Instr) (h : b.cls ≠ 3) :
    (s.stopAt e f b).next e i = (s.stopWave e.u (b.req f e.sl e.pc e.part)).next e i := by
  have hc : ¬((b.req f e.sl e.pc e.part).cls = 3 ∧ (b.req f e.sl e.pc e.part).code = 4) := fun x => h x.1
  simp only [State.stopAt, State.stopWave, hc, if_false, State.next, State.modWave, Tab.modify_modify]
  congr 4
  funext w
  have hn (w : Wave) (r : TrapReq) := Wave.next_stop w (some r) e.st i
  by_cases hw : w.stop.isSome = true
  · have : (w.issued e.st).stop.isSome = true := hw
    simp [hw, this, Wave.issued_next]
  · have : ¬(w.issued e.st).stop.isSome = true := hw
    simp [hw, this, hn, Wave.issued_next]

/-! ## Requests that are dropped -/

/-- Dropping the last requests of one kind leaves the others, in their order. -/
theorem keepFirst_others {α : Type} (p : α → Bool) : ∀ (n : Nat) (l : List α),
    (keepFirst p n l).filter (fun x => !p x) = l.filter (fun x => !p x)
  | _, [] => by simp [keepFirst]
  | n, a :: r => by
    cases h : p a <;> cases n <;> simp [keepFirst, h, keepFirst_others p _ r]

/-- At most n of that kind stay, and they are the first ones. -/
theorem keepFirst_kept {α : Type} (p : α → Bool) : ∀ (n : Nat) (l : List α),
    (keepFirst p n l).filter p = (l.filter p).take n
  | _, [] => by simp [keepFirst]
  | n, a :: r => by
    cases h : p a <;> cases n <;> simp [keepFirst, h, keepFirst_kept p _ r]

end Sys2Proof.Machine
end

