-- ==== Sys2Proof/Laws/Fpu.lean ====
section
/-! SUPPORT. What a checked arithmetic instruction comes to where nothing has been injected. -/

namespace Sys2Proof.Machine

/-- A checked instruction that executes, reads clean sources and passes its check in every lane delivers its result. -/
theorem runChecked_reads {i : Instr} {g : Guard} {d : Opd} {srcs : List (Opd × Nat)} {s : State} {e : Env}
    {res : Wave → Nat → W32} {bad : Wave → Nat → W32 → Option Nat} (h : Reads s g [(d, 1)] srcs e)
    (hg : s.sched.glitch = []) (hb : ∀ l ∈ bitsOf e.part, bad e.w l (res e.w l) = none) :
    runChecked i g d srcs s res bad = .next ((s.setWave e.u (e.w.wr d e.part (res e.w))).next e i) := by
  have key : runChecked i g d srcs s res bad = runShort i g [(d, 1)] srcs true s (fun e =>
      match (bitsOf e.part).find? (fun l => (bad e.w l (res e.w l ^^^ flipAt s e.u l)).isSome) with
      | some l => .error ⟨4, 1, (bad e.w l (res e.w l ^^^ flipAt s e.u l)).getD 0, l, none⟩
      | none => .ok (s.setWave e.u (e.w.wr d e.part (fun l => res e.w l ^^^ flipAt s e.u l)))) := by
    unfold runChecked; rw [h.env]; simp [hg] <;> rfl
  have hr : ∀ l, res e.w l ^^^ flipAt s e.u l = res e.w l := by intro l; simp [flipAt, hg]
  have hn : (bitsOf e.part).find? (fun l => (bad e.w l (res e.w l)).isSome) = none := by
    rw [List.find?_eq_none]; intro l hl; rw [hb l hl]; simp
  rw [key, runShort_reads (t := s.setWave e.u (e.w.wr d e.part (res e.w))) h.toExecutes ?_ h.clean]
  · rfl
  · simp only [hr, hn]

/-- The check of a value passes where it passes for each of its halves. -/
theorem badHalf_none (ty : Ty) (q : Nat → Bool) (h : ∀ n, n < (if isPair ty then 2 else 1) → q n = true) :
    badHalf ty q = none := by
  unfold badHalf
  rw [List.find?_eq_none]
  intro n hn
  simp [h n (List.mem_range.mp hn)]

end Sys2Proof.Machine
end

