-- ==== Sys2Proof/Laws/Issue.lean ====
section
/-! SUPPORT. The operands that an issued operation has captured, and what long-latency issue comes to for instructions
whose check passes. -/

namespace Sys2Proof.Machine

/-- The clean sources of the participating lanes are clean in the leader. -/
theorem poisonLane_mono {w : Wave} {srcs : List (Opd × Nat)} {p q : W32} (h : w.poisonLane srcs p = none)
    (hq : ∀ l ∈ bitsOf q, l ∈ bitsOf p) : w.poisonLane srcs q = none := by
  unfold Wave.poisonLane at h ⊢
  split at h
  · rename_i he; simp [he]
  · rename_i he
    simp only [he, Bool.false_eq_true, if_false]
    rw [List.find?_eq_none] at h ⊢
    intro l hl
    exact h l (hq l hl)

/-- Field i of a participating lane is captured as it was read. -/
theorem capture_get (w : Wave) (lanes : W32) (caps : List (Opd × Nat)) (i l : Nat) (x : Opd × Nat)
    (hx : caps[i]? = some x) (hl : lanes.getLsbD l = true) :
    (capture w lanes caps).get (32 * i + l) = w.rdk x.2 x.1 l := by
  have hl32 : l < 32 := BitVec.lt_of_getLsbD hl
  have hmem : (32 * i + l, w.rdk x.2 x.1 l) ∈ (caps.zipIdx).flatMap (fun x =>
      (bitsOf lanes).map (fun l => (32 * x.2 + l, w.rdk x.1.2 x.1.1 l))) := by
    rw [List.mem_flatMap]
    refine ⟨(x, i), ?_, ?_⟩
    · rw [List.mem_zipIdx_iff_getElem?]; exact hx
    · rw [List.mem_map]; exact ⟨l, (mem_bitsOf _ _).mpr hl, rfl⟩
  have hnd : (((caps.zipIdx).flatMap (fun x =>
      (bitsOf lanes).map (fun l => (32 * x.2 + l, w.rdk x.1.2 x.1.1 l)))).map (·.1)).Nodup := by
    rw [List.map_flatMap]
    simp only [List.map_map, Function.comp_def]
    rw [List.nodup_flatMap]
    constructor
    · intro y _
      refine List.Nodup.map_on ?_ (bitsOf_nodup lanes)
      intro a _ b _ h; omega
    · have hp : (caps.zipIdx.map (·.2)).Pairwise (· ≠ ·) := by
        rw [List.zipIdx_map_snd]; exact List.nodup_range'
      rw [List.pairwise_map] at hp
      refine hp.imp ?_
      intro a b hab
      rw [Function.onFun, List.disjoint_left]
      intro k ha hb
      rw [List.mem_map] at ha hb
      obtain ⟨p, hp, rfl⟩ := ha
      obtain ⟨q, hq, he⟩ := hb
      have h1 := BitVec.lt_of_getLsbD ((mem_bitsOf _ _).mp hp)
      have h2 := BitVec.lt_of_getLsbD ((mem_bitsOf _ _).mp hq)
      exact hab (by omega)
  exact Store.get_setAll_mem _ hnd [] rfl _ hmem

/-- The operands of the operation that an instruction starts. -/
theorem Env.op_val (e : Env) (i : Instr) (id : Nat) (f : Option Nat) (caps dsts : List (Opd × Nat)) (k l : Nat)
    (x : Opd × Nat) (hx : caps[k]? = some x) (hl : e.part.getLsbD l = true) :
    (e.op i id f caps dsts).val k l = e.w.rdk x.2 x.1 l := capture_get _ _ _ _ _ _ hx hl

/-- Long-latency issue of an instruction whose check passes and leaves the state as it is. -/
theorem issueLong_issues {i : Instr} {g : Guard} {fs : FlagSel} {caps dsts : List (Opd × Nat)} {s : State}
    {pre : Env → Except Bad State} {e : Env} (h : Issues s g fs dsts caps e) (hp : pre e = .ok s) (hn : e.part ≠ 0) :
    issueLong i g fs caps dsts s (fun _ => false) pre = .next (s.issued e i fs caps dsts) :=
  issueWith_issues h.toExecutes h.flag rfl hp h.clean hn

/-- The same for one that reads its sources in the leader alone. -/
theorem issueLong_leads {i : Instr} {g : Guard} {fs : FlagSel} {caps dsts : List (Opd × Nat)} {s : State}
    {pre : Env → Except Bad State} {e : Env} (h : LeadIssues s g fs dsts caps e) (hp : pre e = .ok s) (hn : e.part ≠ 0) :
    issueLong i g fs caps dsts s (fun _ => false) pre Env.lead = .next (s.issued e i fs caps dsts) :=
  issueWith_issues h.toExecutes h.flag rfl hp h.clean hn

/-- The path of a load or a store performs it. -/
theorem pathBad_plain {s : State} {ag : Agent} {o : Op} {a : Acc} (h : a.kind ≠ .atomic ∨ a.space ≠ .glob) :
    s.pathBad ag o a = none := by
  unfold State.pathBad; rw [if_pos h]

/-- A memory instruction whose every lane is aligned and inside its space and performed by its path, at a scope below the
system's, is issued. -/
theorem issueMem_issues {i : Instr} {g : Guard} {fs : FlagSel} {caps dsts : List (Opd × Nat)} {s : State} {e : Env}
    {a : Acc} (h : Issues s g fs dsts caps e) (ha : accOf i = some a) (hs : a.scope ≠ .sys) (hf : a.far = false)
    (hp : s.pathBad e.ag (e.op i 0 none caps dsts) a = none) (hn : e.part ≠ 0)
    (hl : ∀ l, e.part.getLsbD l = true → (e.op i 0 none caps dsts).addr l % a.n = 0 ∧
      s.outside e.w.group a ((e.op i 0 none caps dsts).addr l) = false) :
    issueMem i g fs caps dsts s = .next (s.issued e i fs caps dsts) := by
  refine issueLong_issues h ?_ hn
  have h1 : s.accBad e (e.op i 0 none caps dsts) a = none := by
    unfold State.accBad
    have e1 : (bitsOf (e.op i 0 none caps dsts).lanes).find? (fun l => (e.op i 0 none caps dsts).addr l % a.n != 0) = none := by
      rw [List.find?_eq_none]
      intro l hm
      simp [(hl l ((mem_bitsOf _ _).mp hm)).1]
    have e2 : (bitsOf (e.op i 0 none caps dsts).lanes).find? (fun l => s.outside e.w.group a ((e.op i 0 none caps dsts).addr l)
        || s.farAlias e.ag a ((e.op i 0 none caps dsts).addr l)) = none := by
      rw [List.find?_eq_none]
      intro l hm
      simp [(hl l ((mem_bitsOf _ _).mp hm)).2, State.farAlias, hf]
    simp only [e1, e2]
  have h2 : s.ceiling e a.scope 0 = .ok s := by
    unfold State.ceiling
    split
    · rfl
    · rw [if_neg]; intro hc; exact hs hc.1
  simp only [ha, h1, h2, hp, ite_self]

end Sys2Proof.Machine
end

