-- ==== Sys2Proof/Tests/Slice0.lean ====
section
/-! SUPPORT. The model's own tests: decoding from words written out, ill-formed terms, worked examples of the spec, and a
witness for the hypotheses of every statement. -/

namespace Sys2Proof.Tests

open Sys2Proof Sys2Proof.Machine

set_option Elab.async false
def decodesTo (l : List (List W32 × Instr)) : Bool :=
  l.all (fun x => match decodeWords x.1 with | .ok (i, r) => decide (i = x.2) && r.isEmpty | .error _ => false)
theorem test_decodeInt1 : decodesTo [
    ([0x00000000], .nop ⟨false, 0⟩),
    ([0x02004082], .iadd ⟨false, 0⟩ (.v 1) (.v 1) (.v 2)),
    ([0x0436EBF7], .isub ⟨false, 1⟩ (.s 3) (.v 87) (.s 31)),
    ([0x071E3C85], .imul ⟨true, 0⟩ .zero .laneix (.v 5)),
    ([0x09EA3E58, 0x12345678], .imulhS ⟨true, 7⟩ (.v 40) (.lit 0x12345678) (.s 0)),
    ([0x0AFDFD7B], .imulhN ⟨false, 7⟩ (.s 31) .sliceix .waveix),
    ([0x0C004082], .iminS ⟨false, 0⟩ (.v 1) (.v 1) (.v 2)),
    ([0x0E36EBF7], .iminN ⟨false, 1⟩ (.s 3) (.v 87) (.s 31)),
    ([0x111E3C85], .imaxS ⟨true, 0⟩ .zero .laneix (.v 5)),
    ([0x13EA3E58, 0x12345678], .imaxN ⟨true, 7⟩ (.v 40) (.lit 0x12345678) (.s 0)),
    ([0x14FDFD7B], .and ⟨false, 7⟩ (.s 31) .sliceix .waveix),
    ([0x16004082], .or ⟨false, 0⟩ (.v 1) (.v 1) (.v 2))] = true := by
  decide

theorem test_decodeInt2 : decodesTo [
    ([0x1836EBF7], .xor ⟨false, 1⟩ (.s 3) (.v 87) (.s 31)),
    ([0x1B1E3C85], .andn ⟨true, 0⟩ .zero .laneix (.v 5)),
    ([0x1DEA3E58, 0x12345678], .shl ⟨true, 7⟩ (.v 40) (.lit 0x12345678) (.s 0)),
    ([0x1EFDFD7B], .shr ⟨false, 7⟩ (.s 31) .sliceix .waveix),
    ([0x20004082], .sar ⟨false, 0⟩ (.v 1) (.v 1) (.v 2)),
    ([0x2236EBF7], .rotl ⟨false, 1⟩ (.s 3) (.v 87) (.s 31)),
    ([0x240040F8], .popc ⟨false, 0⟩ (.v 1) (.v 1)),
    ([0x2636EBF8], .clz ⟨false, 1⟩ (.s 3) (.v 87)),
    ([0x285E3CF8], .brev ⟨false, 2⟩ .zero .laneix),
    ([0x2A6A3E78, 0x12345678], .iabs ⟨false, 3⟩ (.v 40) (.lit 0x12345678)),
    ([0x2C9DFD78], .mov ⟨false, 4⟩ (.s 31) .sliceix),
    ([0x2F22457C, 0xFFFFFFFF], .sel ⟨true, 1⟩ (.v 9) (.v 10) (.lit 0xFFFFFFFF))] = true := by
  decide

theorem test_decodeInt3 : decodesTo [
    ([0x3000BB56], .iaddQ ⟨false, 0⟩ (.v 2) (.s 30) (.v 86)),
    ([0x32573E80, 0x9ABCDEF0, 0x12345678], .isubQ ⟨false, 2⟩ (.s 4) (.lit2 0x123456789ABCDEF0) (.v 0)),
    ([0x34008205], .shlQ ⟨false, 0⟩ (.v 2) (.v 4) (.v 5)),
    ([0x3600825D], .shrQ ⟨false, 0⟩ (.v 2) (.v 4) (.s 5)),
    ([0x381E027C, 0x0000001F], .sarQ ⟨false, 0⟩ .zero (.v 4) (.lit 31)),
    ([0x3A01B078], .movQ ⟨false, 0⟩ (.v 6) (.s 8)),
    ([0x8001B003], .lea ⟨false, 0⟩ (.v 6) (.s 8) (.v 3))] = true := by
  decide

theorem test_decodeFlt1 : decodesTo [
    ([0x40004082], .fadd ⟨false, 0⟩ (.v 1) (.v 1) (.v 2)),
    ([0x4236EBF7], .fsub ⟨false, 1⟩ (.s 3) (.v 87) (.s 31)),
    ([0x445E3C85], .fmul ⟨false, 2⟩ .zero .laneix (.v 5)),
    ([0x466A3E58, 0x12345678], .fmin ⟨false, 3⟩ (.v 40) (.lit 0x12345678) (.s 0)),
    ([0x489DFD7B], .fmax ⟨false, 4⟩ (.s 31) .sliceix .waveix),
    ([0x50A04082], .faddBf16x2 ⟨false, 5⟩ (.v 1) (.v 1) (.v 2)),
    ([0x52D6EBF7], .fmulBf16x2 ⟨false, 6⟩ (.s 3) (.v 87) (.s 31)),
    ([0x54FE3C85], .fminBf16x2 ⟨false, 7⟩ .zero .laneix (.v 5)),
    ([0x570A3E58, 0x12345678], .fmaxBf16x2 ⟨true, 0⟩ (.v 40) (.lit 0x12345678) (.s 0)),
    ([0x613DFD7B], .faddF16x2 ⟨true, 1⟩ (.s 31) .sliceix .waveix),
    ([0x63404082], .fmulF16x2 ⟨true, 2⟩ (.v 1) (.v 1) (.v 2)),
    ([0x6576EBF7], .fminF16x2 ⟨true, 3⟩ (.s 3) (.v 87) (.s 31))] = true := by
  decide

theorem test_decodeFlt2 : decodesTo [
    ([0x679E3C85], .fmaxF16x2 ⟨true, 4⟩ .zero .laneix (.v 5)),
    ([0xB2004103, 0x00082080], .ffma ⟨false, 0⟩ (.v 1) (.v 2) (.v 3) (.v 4) .f32 .rtz),
    ([0xB2004103, 0x01F04100], .faddFpx ⟨false, 0⟩ (.v 1) (.v 2) (.v 3) .f16x2 .rdn),
    ([0xB2004103, 0x02F04580], .fsubFpx ⟨false, 0⟩ (.v 1) (.v 2) (.v 3) .bf16x2 .rup),
    ([0xB2004103, 0x03F02200], .fmulFpx ⟨false, 0⟩ (.v 1) (.v 2) (.v 3) .f32 .rna),
    ([0xB2004178, 0x04F04000], .fabs ⟨false, 0⟩ (.v 1) (.v 2) .f16x2),
    ([0xB2004178, 0x05F04400], .fneg ⟨false, 0⟩ (.v 1) (.v 2) .bf16x2),
    ([0xB2004178, 0x08F02000], .frcp ⟨false, 0⟩ (.v 1) (.v 2) .rne),
    ([0xB2004178, 0x09F02080], .fsqrt ⟨false, 0⟩ (.v 1) (.v 2) .rtz),
    ([0xB2004178, 0x0AF02100], .frsqrt ⟨false, 0⟩ (.v 1) (.v 2) .rdn),
    ([0xB2004178, 0x0BF02180], .fexp2 ⟨false, 0⟩ (.v 1) (.v 2) .rup),
    ([0xB2004178, 0x0CF02200], .flog2 ⟨false, 0⟩ (.v 1) (.v 2) .rna)] = true := by
  decide

theorem test_decodeFlt3 : decodesTo [
    ([0xB2004178, 0x0DF02000], .frnd ⟨false, 0⟩ (.v 1) (.v 2) .rne),
    ([0xB21E0082, 0x10F02063], .fcmp ⟨false, 0⟩ (.v 1) (.v 2) .uo 3),
    ([0xB4004178, 0x00F02C48], .cvt ⟨false, 0⟩ (.v 1) (.v 2) .e4m3 .f32 .rne true),
    ([0xB4020178, 0x00F02014], .cvt ⟨false, 0⟩ (.v 8) (.v 2) .f32 .e2m1x8 .rne false),
    ([0xB4008459, 0x01F03808], .qblk ⟨false, 0⟩ (.v 2) (.v 8) (.s 1)),
    ([0xB4020159, 0x02F0200E], .dqblk ⟨false, 0⟩ (.v 8) (.v 2) (.s 1)),
    ([0xB4008459, 0x03B924E8], .cvtHad ⟨false, 0⟩ (.v 2) (.v 8) (.s 1) (.s 4) .f16 .rtz true true ⟨true, false⟩)] = true := by
  decide

theorem test_decodeCtl1 : decodesTo [
    ([0xA07FFFFF], .br ⟨false, 3⟩ (-1)),
    ([0xA20FFFFF], .call ⟨false, 0⟩ 0xFFFFF),
    ([0xB81E3C78, 0x00F00000], .regang ⟨false, 0⟩),
    ([0xB83E3C78, 0x01F00000], .wide ⟨false, 1⟩),
    ([0xB85E3C78, 0x02F00000], .endwide ⟨false, 2⟩),
    ([0xB89E3C78, 0x04F00000], .exit ⟨false, 4⟩),
    ([0xB8DE3C78, 0x06F00000], .trapret ⟨false, 6⟩),
    ([0xB8FE3C78, 0x07F00000], .ifence ⟨false, 7⟩),
    ([0xB89E3C78, 0x0CF00000], .brk ⟨false, 4⟩),
    ([0xB81E2D78, 0x03F00001], .wbase ⟨false, 0⟩ (.s 2) true),
    ([0xB81E3E78, 0x05F00000, 0x00000077], .trap ⟨false, 0⟩ (.lit 0x77)),
    ([0xB81E2D03, 0x08F08000], .icinv ⟨false, 0⟩ (.s 2) (.v 3) ⟨false, true⟩)] = true := by
  decide

theorem test_decodeCtl2 : decodesTo [
    ([0xB81E2D78, 0x09F00000], .jmpi ⟨false, 0⟩ (.s 2)),
    ([0xB81E3B78, 0x0AF00000], .ret ⟨false, 0⟩ (.s 30)),
    ([0xB81D8178, 0x0BF00000], .calli ⟨false, 0⟩ (.s 30) (.v 2)),
    ([0xB81E2D5B, 0x0DB80000], .yieldto ⟨false, 0⟩ (.s 2) (.s 3) (.s 4))] = true := by
  decide

theorem test_decodeIntx1 : decodesTo [
    ([0xB01E01D9, 0x00F00902], .icmp ⟨false, 0⟩ (.v 3) (.s 1) .s32 .lt 2),
    ([0xB09E025A, 0x00F01E87], .icmp ⟨false, 4⟩ (.v 4) (.s 2) .n64 .ge 7),
    ([0xB0004103, 0x01B81800], .imad ⟨false, 0⟩ (.v 1) (.v 2) (.v 3) (.s 4)),
    ([0xB000825E, 0x02F01800], .imulQ ⟨false, 0⟩ (.v 2) (.v 4) (.s 6)),
    ([0xB000825E, 0x03F00800], .iaddSat ⟨false, 0⟩ (.v 2) (.v 4) (.s 6) .s32),
    ([0xB000825E, 0x04F01800], .isubSat ⟨false, 0⟩ (.v 2) (.v 4) (.s 6) .n32),
    ([0xB000827C, 0x05F00800, 0x00000804], .bfe ⟨false, 0⟩ (.v 2) (.v 4) (.lit 0x804) .s32),
    ([0xB0008205, 0x06F81800, 0x00000804], .bfi ⟨false, 0⟩ (.v 2) (.v 4) (.v 5) (.lit 0x804)),
    ([0xB0008205, 0x070C1800], .fshl ⟨false, 0⟩ (.v 2) (.v 4) (.v 5) (.v 6)),
    ([0xB0008205, 0x08BC1800], .fshr ⟨false, 0⟩ (.v 2) (.v 4) (.v 5) (.s 6)),
    ([0xB01E3C78, 0x09F041D6], .pbool ⟨false, 0⟩ 8 3 5 6),
    ([0xB017FC78, 0x0AF01800], .pget ⟨false, 0⟩ (.s 7))] = true := by
  decide

theorem test_decodeIntx2 : decodesTo [
    ([0xB01E03F8, 0x0BF01800], .pset ⟨false, 0⟩ (.v 7))] = true := by
  decide

theorem test_decodeLane1 : decodesTo [
    ([0xB61E3C78, 0x00F001D2], .lany ⟨false, 0⟩ 3 2),
    ([0xB61E3C78, 0x01F00251], .lall ⟨false, 0⟩ 4 1),
    ([0xB616BC78, 0x02F003D0], .lmask ⟨false, 0⟩ (.s 2) 7),
    ([0xB6008205, 0x08F05450], .lpickIdx ⟨false, 0⟩ (.v 2) (.v 4) (.v 5) .b32 .w32),
    ([0xB6008205, 0x09F05810], .lpickUp ⟨false, 0⟩ (.v 2) (.v 4) (.v 5) .b64 .w2),
    ([0xB6008205, 0x0AF05420], .lpickDown ⟨false, 0⟩ (.v 2) (.v 4) (.v 5) .b32 .w4),
    ([0xB6008205, 0x0BF05830], .lpickXor ⟨false, 0⟩ (.v 2) (.v 4) (.v 5) .b64 .w8),
    ([0xB6008278, 0x0DF02140], .lred ⟨false, 0⟩ (.v 2) (.v 4) .max .f32 .w16),
    ([0xB68182F8, 0x0EF00858], .lscan ⟨false, 4⟩ (.v 6) (.v 5) .add .s32 .w32 true)] = true := by
  decide

theorem test_decodeMem1 : decodesTo [
    ([0xC0006E7C, 0x00F118B0, 0x00000040], .ld ⟨false, 0⟩ (.v 1) (.s 4) (.lit 0x40) ⟨⟨true, false⟩, .n32, .evf, .acq, .ten⟩),
    ([0xC01E2E03, 0x01105D4C], .st ⟨false, 0⟩ (.s 4) (.v 3) (.v 8) ⟨⟨false, false⟩, .b128, .nl1, .rel, .dev⟩),
    ([0xC0006E03, 0x02F00004], .lds ⟨false, 0⟩ (.v 1) (.s 4) (.v 3) ⟨⟨false, false⟩, .s8, .none, .rlx, .core⟩),
    ([0xC01E2E03, 0x030E1460], .sts ⟨false, 0⟩ (.s 4) (.v 3) (.v 7) ⟨⟨false, false⟩, .n16, .none, .ar, .wave⟩),
    ([0xC000AE03, 0x04F05800], .ldc ⟨false, 0⟩ (.v 2) (.s 4) (.v 3) .b64 ⟨false, false⟩),
    ([0xC000AE03, 0x05F02014], .gather ⟨false, 0⟩ (.v 2) (.s 4) (.v 3) ⟨⟨false, false⟩, .f32, .none, .rlx, .sys⟩),
    ([0xC01E2E03, 0x06F00080], .prefetch ⟨false, 0⟩ (.s 4) (.v 3) .msc),
    ([0xC2032F7C, 0x0006186E, 0x00000010], .rmw ⟨false, 0⟩ (.v 12) (.s 6) (.lit 0x10) (.v 3) ⟨⟨false, false⟩, .n32, .add, .ar, .dev, true, false⟩),
    ([0xC21E2F83, 0x010A56C1], .fold ⟨false, 0⟩ (.s 7) (.v 3) (.v 5) ⟨⟨false, false⟩, .b32, .xor, .rel, .wave, false, true⟩),
    ([0xC200AF04, 0x020C5828], .rmwCas ⟨false, 0⟩ (.v 2) (.s 6) (.v 4) (.v 6) ⟨⟨false, false⟩, .b64, .add, .acq, .clus, false, false⟩)] = true := by
  decide

theorem test_decodeSync1 : decodesTo [
    ([0xC41E3C78, 0x00F00064], .fence ⟨false, 0⟩ .ar .core),
    ([0xC41E2D78, 0x01F00005], .gatePass ⟨false, 0⟩ (.s 2) 5),
    ([0xC41E3C78, 0x02F00000], .gateWait ⟨false, 0⟩ .zero 0),
    ([0xC41E2D5B, 0x03F00000], .bobjOpen ⟨false, 0⟩ (.s 2) (.s 3)),
    ([0xC41E2D03, 0x04F00001], .bobjDue ⟨false, 0⟩ (.s 2) (.v 3) true),
    ([0xC41E2D78, 0x05F00000], .bobjMark ⟨false, 0⟩ (.s 2)),
    ([0xC41E2D5B, 0x06F00000], .bobjHold ⟨false, 0⟩ (.s 2) (.s 3)),
    ([0xC41E2D03, 0x08F00003], .emberArm ⟨false, 0⟩ (.s 2) (.v 3) 3),
    ([0xC4006DF8, 0x09F00000], .emberWait ⟨false, 0⟩ (.v 1) (.s 3)),
    ([0xC41E3C78, 0x0AF00009], .emberDisarm ⟨false, 0⟩ 9)] = true := by
  decide

theorem test_decodeTask1 : decodesTo [
    ([0xC61E015C, 0x00F10000], .spawn ⟨false, 0⟩ (.v 2) (.s 4) ⟨true, false⟩),
    ([0xC61E0178, 0x01F00000], .launch ⟨false, 0⟩ (.v 2) ⟨false, false⟩),
    ([0xC61E2E78, 0x02F05000], .await ⟨false, 0⟩ (.s 4) 5),
    ([0xC61E2E5E, 0x03F00000], .futSet ⟨false, 0⟩ (.s 4) (.s 6)),
    ([0xC61E2E78, 0x04F02000], .lockTake ⟨false, 0⟩ (.s 4) 2),
    ([0xC61E2E78, 0x05F00000], .lockGive ⟨false, 0⟩ (.s 4)),
    ([0xC600AE06, 0x06F00250], .qpush ⟨false, 0⟩ (.v 2) (.s 4) (.v 6) .prod .rel .ten ⟨false, false⟩),
    ([0xC600AE06, 0x07F0802C], .qpop ⟨false, 0⟩ (.v 2) (.s 4) (.v 6) .acq .dev ⟨false, true⟩),
    ([0xC61E2E78, 0x08F00000], .park ⟨false, 0⟩ (.s 4)),
    ([0xC8008206, 0x00F01828], .ldw ⟨false, 0⟩ (.v 2) (.v 4) (.v 6) ⟨⟨false, false⟩, .n32, .none, .acq, .clus⟩),
    ([0xC81E0206, 0x01B20848], .stw ⟨false, 0⟩ (.v 4) (.v 6) (.s 1) ⟨⟨false, false⟩, .s32, .none, .rel, .clus⟩),
    ([0xC81E3C78, 0x02F00000], .spanArrive ⟨false, 0⟩)] = true := by
  decide

theorem test_decodeTask2 : decodesTo [
    ([0xC81E3C78, 0x03F00000], .spanSync ⟨false, 0⟩),
    ([0xC81E3C78, 0x04F00000], .spanDetach ⟨false, 0⟩),
    ([0xC8006DF8, 0x05F00000], .spanPeer ⟨false, 0⟩ (.v 1) (.s 3))] = true := by
  decide

theorem test_decodeMat1 : decodesTo [
    ([0xD01E2CDA, 0x00F00000], .crewSet ⟨false, 0⟩ (.s 1) (.s 2)),
    ([0xD01E3C78, 0x01F00000], .tokTake ⟨false, 0⟩),
    ([0xD01E2CF8, 0x02F00001], .tokGive ⟨false, 0⟩ (.s 1) true),
    ([0xD01E3C78, 0x02F00000], .tokGive ⟨false, 0⟩ .zero false),
    ([0xD01E3078, 0x03F00886], .mma ⟨false, 0⟩ (.s 8) ⟨⟨false, false⟩, 4, 2, .e2m1b, true, true, false⟩),
    ([0xD01E3078, 0x04F05FE1], .mmas ⟨false, 0⟩ (.s 8) ⟨⟨false, false⟩, 47, 7, .bf16, false, false, true⟩),
    ([0xD01E3078, 0x05F04AC5], .wbload ⟨false, 0⟩ (.s 8) ⟨⟨false, false⟩, true, false, .clus, true, 3, .e2m1b, true, .s16⟩),
    ([0xD01E3C78, 0x06F00A02], .accz ⟨false, 0⟩ ⟨⟨false, false⟩, 5, .f32, .rne, false, .hi⟩),
    ([0xD01E3061, 0x07F00C81], .accld ⟨false, 0⟩ (.s 8) (.s 9) ⟨⟨false, false⟩, 6, .bf16, .rne, false, .lo⟩),
    ([0xD01E3061, 0x08F10ECC], .accst ⟨false, 0⟩ (.s 8) (.s 9) ⟨⟨true, false⟩, 7, .e4m3, .rtz, true, .all⟩)] = true := by
  decide

theorem test_decodeCopy1 : decodesTo [
    ([0xD2192E68, 0x00D85200], .cpTile ⟨false, 0⟩ (.s 12) (.s 4) (.s 16) (.s 20) ⟨⟨false, false⟩, true, false, true, .core⟩),
    ([0xD2032E10, 0x012800A5], .cpMcast ⟨false, 0⟩ (.v 12) (.s 4) (.v 16) (.v 20) ⟨⟨false, false⟩, false, false, false, .wave⟩ 0xA5),
    ([0xD2032E68, 0x02D92800], .cpOut ⟨false, 0⟩ (.v 12) (.s 4) (.s 16) (.s 20) ⟨⟨true, false⟩, false, true, false, .ten⟩),
    ([0xD2196E68, 0x03D88000], .cpGather ⟨false, 0⟩ (.s 13) (.s 4) (.s 16) (.s 20) ⟨⟨false, true⟩, false, false, false, .wave⟩)] = true := by
  decide

theorem test_decodeSys1 : decodesTo [
    ([0xE000BC78, 0x00F00019], .sget ⟨false, 0⟩ (.v 2) 0x19),
    ([0xE01E2D78, 0x01F00020], .sset ⟨false, 0⟩ (.s 2) 0x20),
    ([0xE01E2D5D, 0x02F00100], .cctl ⟨false, 0⟩ (.s 2) (.s 5) .wb ⟨false, false⟩),
    ([0xE01E3C78, 0x02F00000], .cctl ⟨false, 0⟩ .zero .zero .cinv ⟨false, false⟩),
    ([0xE01E2D5D, 0x03F00000], .tlbinv ⟨false, 0⟩ (.s 2) (.s 5) ⟨false, false⟩),
    ([0xE0004178, 0x04F00000], .probe ⟨false, 0⟩ (.v 1) (.v 2) ⟨false, false⟩),
    ([0xE0004178, 0x05F00000], .scanStart ⟨false, 0⟩ (.v 1) (.v 2) ⟨false, false⟩),
    ([0xE0004178, 0x06F00000], .scanPoll ⟨false, 0⟩ (.v 1) (.v 2) ⟨false, false⟩),
    ([0xE01E3C78, 0x07F00000], .halt ⟨false, 0⟩)] = true := by
  decide

/-! ## Witnesses: states and operands that meet the hypotheses of the statements -/

/-- A wave of core 0 that is about to execute, in a clause of some words. -/
def probe (ws : List W32) : Machine.State :=
  let s := Machine.State.reset.placeWords ws
  { s with sched := { s.sched with cur := some ⟨0, 0⟩ } }

/-- The executing strand of a state. -/
def pe (s : Machine.State) (g : Guard) : Env :=
  (s.env g).getD ⟨0, probeWave [], 0, 0, 0, 0, s.agentOf 0, 0⟩

def executesB (s : Machine.State) (g : Guard) (ds : List (Opd × Nat)) : Bool :=
  (s.env g).isSome && !guardNever g && !(pe s g).w.busy (pe s g).st ds
def readsB (s : Machine.State) (g : Guard) (ds cs : List (Opd × Nat)) : Bool :=
  executesB s g ds && ((pe s g).w.poisonLane cs (pe s g).part).isNone
def leadsB (s : Machine.State) (g : Guard) (ds cs : List (Opd × Nat)) : Bool :=
  executesB s g ds && ((pe s g).w.poisonLane cs (pe s g).lead).isNone
def quietB (s : Machine.State) (g : Guard) : Bool := (s.reportAt (pe s g).u (fun x => x.names (pe s g).st)).isNone
def flagB (s : Machine.State) (g : Guard) (fs : FlagSel) : Bool := !(pe s g).w.flagFull (pe s g).sl ((pe s g).flag fs)

theorem env_pe {s : Machine.State} {g : Guard} (h : (s.env g).isSome = true) : s.env g = some (pe s g) := by
  unfold pe
  cases hx : s.env g with
  | none => simp [hx] at h
  | some e => rfl

theorem executes_of {s : Machine.State} {g : Guard} {ds : List (Opd × Nat)} (h : executesB s g ds = true) :
    Executes s g ds (pe s g) := by
  simp only [executesB, Bool.and_eq_true, Bool.not_eq_true'] at h
  exact ⟨env_pe h.1.1, h.1.2, h.2⟩

theorem reads_of {s : Machine.State} {g : Guard} {ds cs : List (Opd × Nat)} (h : readsB s g ds cs = true) :
    Reads s g ds cs (pe s g) := by
  simp only [readsB, Bool.and_eq_true, Option.isNone_iff_eq_none] at h
  exact ⟨executes_of h.1, h.2⟩

theorem leads_of {s : Machine.State} {g : Guard} {ds cs : List (Opd × Nat)} (h : leadsB s g ds cs = true) :
    Leads s g ds cs (pe s g) := by
  simp only [leadsB, Bool.and_eq_true, Option.isNone_iff_eq_none] at h
  exact ⟨executes_of h.1, h.2⟩

theorem waits_of {s : Machine.State} {g : Guard} {cs : List (Opd × Nat)} (h : (leadsB s g [] cs && quietB s g) = true) :
    Waits s g cs (pe s g) := by
  simp only [quietB, Bool.and_eq_true, Option.isNone_iff_eq_none] at h
  exact ⟨leads_of h.1, h.2⟩

theorem issues_of {s : Machine.State} {g : Guard} {fs : FlagSel} {ds cs : List (Opd × Nat)}
    (h : (readsB s g ds cs && flagB s g fs) = true) : Issues s g fs ds cs (pe s g) := by
  simp only [flagB, Bool.and_eq_true, Bool.not_eq_true'] at h
  exact ⟨reads_of h.1, h.2⟩

theorem leadIssues_of {s : Machine.State} {g : Guard} {fs : FlagSel} {ds cs : List (Opd × Nat)}
    (h : (leadsB s g ds cs && flagB s g fs) = true) : LeadIssues s g fs ds cs (pe s g) := by
  simp only [flagB, Bool.and_eq_true, Bool.not_eq_true'] at h
  exact ⟨leads_of h.1, h.2⟩

/-- The always guard, and that of p1. -/
def ga : Guard := ⟨false, 0⟩
def g1 : Guard := ⟨false, 1⟩
def fs0 : FlagSel := ⟨false, false⟩

/-- An `iadd` is the clause's next word. -/
def s0 : Machine.State := probe [0x02004082#32, 0#32]

theorem witness_IntegerResults :
    Reads s0 ga [(.v 1, 1)] [(.v 1, 1), (.s 3, 1)] (pe s0 ga) ∧ Reads s0 g1 [(.zero, 1)] [(.lit 5, 1), (.v 87, 1)] (pe s0 g1) ∧
      Reads s0 ga [(.s 31, 1)] [(.laneix, 1)] (pe s0 ga) := 
  ⟨reads_of (by decide), reads_of (by decide), reads_of (by decide)⟩

theorem witness_ShiftPairResults :
    Reads s0 ga [(.v 1, 1)] [(.v 2, 1), (.s 3, 1)] (pe s0 ga) ∧ Reads s0 ga [(.v 2, 2)] [(.s 30, 2), (.lit 64, 1)] (pe s0 ga) ∧
      Reads s0 ga [(.v 86, 2)] [(.v 86, 2), (.lit2 1, 2)] (pe s0 ga) ∧ Reads s0 ga [(.zero, 2)] [(.s 0, 2)] (pe s0 ga) ∧
      Executes s0 g1 [(.v 1, 1)] (pe s0 g1) ∧ (pe s0 g1).w.task.poison = [] ∧ s0.env ⟨true, 0⟩ = some (pe s0 ⟨true, 0⟩) :=
  ⟨reads_of (by decide), reads_of (by decide), reads_of (by decide), reads_of (by decide), executes_of (by decide), by decide,
    env_pe (by decide)⟩

theorem witness_PredicateResults :
    Reads s0 ga [] [(.v 1, 1), (.s 3, 1)] (pe s0 ga) ∧ Reads s0 ga [] [(.v 2, 2), (.s 4, 2)] (pe s0 ga) ∧
      Executes s0 ga [] (pe s0 ga) ∧ Executes s0 ga [(.v 1, 1)] (pe s0 ga) ∧ Reads s0 ga [] [(.lit 255, 1)] (pe s0 ga) ∧
      Store.wf (pe s0 ga).w.task.preds = true :=
  ⟨reads_of (by decide), reads_of (by decide), executes_of (by decide), executes_of (by decide), reads_of (by decide), by decide⟩

theorem witness_IntxResults :
    Reads s0 ga [(.v 1, 1)] [(.v 1, 1), (.v 2, 1), (.lit 0x804, 1)] (pe s0 ga) ∧
      Reads s0 ga [(.v 2, 2)] [(.v 4, 2), (.s 6, 2)] (pe s0 ga) ∧ Reads s0 ga [(.v 1, 1)] [(.v 1, 1), (.lit 0x2020, 1)] (pe s0 ga) :=
  ⟨reads_of (by decide), reads_of (by decide), reads_of (by decide)⟩

theorem witness_CheckedArithmeticResults : s0.sched.glitch = [] ∧
    (∀ ty ∈ [Ty.f32, .f16x2, .bf16x2], Ty.isFpx ty = true ∧
      Reads s0 ga [(.v 1, 1)] [(.zero, 1), (.zero, 1), (.zero, 1)] (pe s0 ga) ∧
      Reads s0 ga [(.v 1, 1)] [(.zero, 1), (.zero, 1)] (pe s0 ga) ∧
      (∀ n, n < 2 → (fpFmt ty).shadowAdd .rne false 0 0 (halfOf ty n (fpOp3 ty (fun _ x y _ => (fpFmt ty).add .rne x y) 0 0 0)) = true ∧
        (fpFmt ty).shadowAdd .rne true 0 0 (halfOf ty n (fpOp3 ty (fun _ x y _ => (fpFmt ty).sub .rne x y) 0 0 0)) = true ∧
        (fpFmt ty).shadowMul .rne 0 0 (halfOf ty n (fpOp3 ty (fun _ x y _ => (fpFmt ty).mul .rne x y) 0 0 0)) = true ∧
        (fpFmt ty).shadowFma .rne 0 0 0 (halfOf ty n (fpOp3 ty (fun _ => (fpFmt ty).fma .rne) 0 0 0)) = true)) :=
  ⟨by decide, fun ty h => ⟨by revert ty; decide, reads_of (by decide), reads_of (by decide), by revert ty; decide⟩⟩

theorem witness_FloatUnaryResults :
    Reads s0 ga [(.v 1, 1)] [(.v 1, 1), (.s 3, 1)] (pe s0 ga) ∧ Reads s0 ga [(.v 1, 1)] [(.lit 0x7F800000, 1)] (pe s0 ga) ∧
      Reads s0 ga [] [(.v 1, 1), (.v 2, 1)] (pe s0 ga) :=
  ⟨reads_of (by decide), reads_of (by decide), reads_of (by decide)⟩

/-- f32: quiet NaN, the zeros, 1 and 2; the values of blocks at the ends of their scales. -/
theorem witness_SpecialValues :
    fF32 ∈ [fF32, fF16, fBf16] ∧ fF32.val 0x7FC00000 = .nan ∧ fF32.val 0 ≠ .nan ∧ (fF32.val 0).isZero = true ∧
      (fF32.val 0x80000000).isZero = true ∧ (fF32.val 0x3F800000).lt (fF32.val 0x40000000) = true ∧
      f32 0x7FFFFFFF = .nan ∧ (∃ m k, m ≠ 0 ∧ f32 0xBF800000 = .fin true m k) ∧ (Val.fin false 0 0).isZero = true ∧
      (Val.inf false).isFinite = false ∧ (8 : Nat) < 16 ∧ (0xFF : Nat) < 256 :=
  ⟨by decide, by decide, by decide, by decide, by decide, by decide, by decide, ⟨2 ^ 23, -23, by decide, by decide⟩, by decide,
    by decide, by decide, by decide⟩

theorem witness_ConversionResults :
    isPacked .e4m3x4 = true ∧ Reads s0 ga [(.v 1, 1)] [(.v 4, Ty.packN .e4m3x4)] (pe s0 ga) ∧
      isPacked .f32 = false ∧ Reads s0 ga [(.v 8, Ty.packN .e2m1x8)] [(.v 1, 1)] (pe s0 ga) ∧
      isPacked .e4m3 = false ∧ Reads s0 ga [(.v 1, Ty.regs .e4m3)] [(.v 2, Ty.regs .s64)] (pe s0 ga) ∧
      Reads s0 ga [(.v 2, 2)] [(.v 8, 8), (.s 1, 1)] (pe s0 ga) ∧ Reads s0 ga [(.v 80, 8)] [(.v 2, 2), (.s 1, 1)] (pe s0 ga) :=
  ⟨by decide, reads_of (by decide), by decide, reads_of (by decide), by decide, reads_of (by decide), reads_of (by decide),
    reads_of (by decide)⟩

theorem witness_LaneResults :
    Executes s0 ga [] (pe s0 ga) ∧ Executes s0 ga [(.v 1, 1)] (pe s0 ga) ∧
      Reads s0 ga [(.v 2, Ty.regs .b64)] [(.v 4, Ty.regs .b64), (.laneix, 1)] (pe s0 ga) ∧
      Reads s0 ga [(.s 1, 1)] [(.laneix, 1)] (pe s0 ga) :=
  ⟨executes_of (by decide), executes_of (by decide), reads_of (by decide), reads_of (by decide)⟩

/-- The wave of a state changed. -/
def modW (f : Wave → Wave) (s : Machine.State) : Machine.State := s.modWave 0 f

def transfersB (e : Env) (tgt : Nat → Nat) (ind : Bool) : Bool :=
  match e.w.transfer e.st (fun l => if e.part.getLsbD l then tgt l else e.pc + 4) (e.pc + 4) ind with
  | .ok _ => true
  | .error _ => false

theorem transfer_of {e : Env} {tgt : Nat → Nat} {ind : Bool} (h : transfersB e tgt ind = true) :
    ∃ w', e.w.transfer e.st (fun l => if e.part.getLsbD l then tgt l else e.pc + 4) (e.pc + 4) ind = .ok w' := by
  unfold transfersB at h
  split at h
  · exact ⟨_, ‹_›⟩
  · simp at h

/-- Four lanes of a slice of which the even ones go to 100; the same with all lanes and a stack of 8 entries. -/
theorem witness_Transfers :
    (pe s0 ga).w.task.wide = none ∧ Executes s0 ga [(.s 30, 2)] (pe s0 ga) ∧
      (∃ w', (pe s0 ga).w.transfer (pe s0 ga).st (fun l => if (pe s0 ga).part.getLsbD l then 100 else (pe s0 ga).pc + 4)
        ((pe s0 ga).pc + 4) false = .ok w') ∧
      Reads s0 ga [(.s 30, 2)] [(.lit 0x100, 2)] (pe s0 ga) ∧
      (∀ l, (pe s0 ga).part.getLsbD l = true → ((pe s0 ga).w.rdq (.lit 0x100) l).toNat % 4 = 0 ∧
        ((pe s0 ga).w.rdq (.lit 0x100) l).toNat < 2 ^ 56) ∧
      (let x := SliceSt.fresh 4
       x.mask ≠ 0 ∧ x.stack.length < 8 ∧ (100 : Nat) ≠ 8 ∧
        (∀ i, x.mask.getLsbD i = true → (if i % 2 = 0 then 100 else 8) = 100 ∨ (if i % 2 = 0 then 100 else 8) = 8) ∧
        (∃ i, x.mask.getLsbD i = true ∧ (if i % 2 = 0 then 100 else 8) = 100) ∧
        (∃ i, x.mask.getLsbD i = true ∧ (if i % 2 = 0 then 100 else 8) = 8)) ∧
      (List.replicate 8 (⟨0, 1⟩ : Path)).length ≤ 8 := by
  refine ⟨by decide, executes_of (by decide), transfer_of (by decide), reads_of (by decide), ?_, ?_, by decide⟩
  · intro l _
    show ((0x100 : W32).signExtend 64).toNat % 4 = 0 ∧ ((0x100 : W32).signExtend 64).toNat < 2 ^ 56
    decide
  · refine ⟨by decide, by decide, by decide, ?_, ⟨0, by decide⟩, ⟨1, by decide⟩⟩
    intro i _
    split <;> simp

/-- The wave in a wide region, in a trap handler, with a barrier object at 0 of its scratchpad. -/
def sWide : Machine.State := modW (fun w => { w with task := { w.task with wide := some (List.replicate 8 ⟨0xF, 0, []⟩) } }) s0
def sHandler : Machine.State := modW (fun w => { w with depth := 1 }) s0
def sObj : Machine.State := s0.putBobj 0 0 ⟨true, false, 4095, 4095, 0, 0⟩

theorem witness_GangInstructions :
    (Executes s0 ga [] (pe s0 ga) ∧ guardAlways ga = true ∧ (pe s0 ga).w.task.wide = none ∧ (pe s0 ga).part ≠ 0) ∧
      (Executes sWide ga [] (pe sWide ga) ∧ (pe sWide ga).w.task.wide = some (List.replicate 8 ⟨0xF, 0, []⟩)) ∧
      (Executes sHandler ga [] (pe sHandler ga) ∧ (pe sHandler ga).inHandler = true ∧ (pe sHandler ga).part ≠ 0) ∧
      (Reads s0 ga [] [(.lit 424, 1)] (pe s0 ga) ∧ ((424 : Int) % 8 = 0 ∧ (0 : Int) ≤ 424 ∧
        (424 : Int) + 88 ≤ ((pe s0 ga).w.task.regs + 1) * 8)) ∧
      (LeadIssues s0 ga fs0 [] [(.lit 64, 2), (.v 1, 1)] (pe s0 ga) ∧ (pe s0 ga).leader = some 0 ∧
        ((pe s0 ga).w.rdq (.lit 64) 0).toNat < 2 ^ 56 ∧ (pe s0 ga).w.rd (.v 1) 0 = 0 ∧
        LeadIssues s0 ga fs0 [] [(.lit 64, 2), (.lit 256, 1)] (pe s0 ga) ∧ (pe s0 ga).w.rd (.lit 256) 0 ≠ 0) ∧
      (Waits sObj ga [(.zero, 1), (.zero, 1), (.lit 64, 2)] (pe sObj ga) ∧ (pe sObj ga).leader = some 0 ∧
        (pe sObj ga).w.behind (pe sObj ga).sl = false ∧ (pe sObj ga).w.task.wide = none ∧
        (match sObj.transfer (pe sObj ga) (.yieldto ga .zero .zero (.lit 64)) (fun _ => 64) false with
          | .ok _ => true | .error _ => false) = true ∧
        bobjBad sObj 0 0 0 true = none ∧ ((pe sObj ga).w.rdq (.lit 64) 0).toNat % 4 = 0) :=
  ⟨⟨executes_of (by decide), by decide, by decide, by decide⟩, ⟨executes_of (by decide), by decide⟩,
    ⟨executes_of (by decide), by decide, by decide⟩, ⟨reads_of (by decide), by decide⟩,
    ⟨leadIssues_of (by decide), by decide, by decide, by decide, leadIssues_of (by decide), by decide⟩,
    ⟨waits_of (by decide), by decide, by decide, by decide, by decide, by decide, by decide⟩⟩

/-- Every slice waits at a `regang`, slice 7 at a higher address. -/
def sGang : Machine.State := modW (fun w => w.modSlicesI 0xFF (fun i x =>
  { x with wait := some .regang, pc := if i = 7 then 8 else 4 })) s0

theorem witness_StrandsMerge :
    (s0.wave 0 = some (pe s0 ga).w ∧ s0.awake (pe s0 ga).w = true ∧ (pe s0 ga).w.liveSlices.getLsbD 0 = true ∧
      ((pe s0 ga).w.slice 0).wait = none) ∧
      (sGang.wave 0 = some (pe sGang ga).w ∧ sGang.awake (pe sGang ga).w = true ∧
        (∀ i, i < 8 → (pe sGang ga).w.liveSlices.getLsbD i = true ∧ ((pe sGang ga).w.slice i).wait = some .regang ∧
          4 ≤ ((pe sGang ga).w.slice i).pc) ∧ ((pe sGang ga).w.slice 0).pc = 4 ∧ ((pe sGang ga).w.slice 7).pc = 8) ∧
      (pe s0 ga).w.task.slices.length = 8 ∧ (List.replicate 8 (⟨0xF, 0, []⟩ : WideSave)).length = 8 := by decide

/-- The root task has ended with nothing outstanding. -/
def sDone : Machine.State := modW (fun w => { w with ended := some .done }) s0

theorem witness_Exits :
    (Waits s0 ga [] (pe s0 ga) ∧ (pe s0 ga).part ≠ 0 ∧ (pe s0 ga).w.task.wide = none ∧ (pe s0 ga).inHandler = false) ∧
      (let x := { SliceSt.fresh 4 with stack := [⟨24, 1⟩, ⟨16, 4⟩, ⟨16, 8⟩] }
       x.mask &&& ~~~(0x3 : BitVec 4) ≠ 0 ∧ x.mask &&& ~~~(0xF : BitVec 4) = 0 ∧ (∃ p ∈ x.stack, p.pc = 16) ∧
        ∀ p ∈ x.stack, 16 ≤ p.pc) ∧
      ((sDone.waveAt 0 0).map (fun x => (x.1, x.2.task.root, x.2.ops, x.2.ended)) = some (0, true, [], some .done) ∧
        (pe sDone ga).w.stop = none) :=
  ⟨⟨waits_of (by decide), by decide, by decide, by decide⟩, by decide, by decide⟩

/-- The debugger stops at breakpoints; the wave waits and has stood so for 2^28 ticks. -/
def sBrk : Machine.State := modW (fun w => { w with brkstop := true }) s0
def sStall : Machine.State :=
  let s := modW (fun w => { w.modSlices 0xFF (fun x => { x with wait := some (.gate 1 0) }) with trapbase := 64 }) s0
  { s with dev := { s.dev with tick := 2 ^ 28 } }

theorem witness_TrapsAndStalls :
    (Leads s0 ga [] [(.lit 0x12345, 1)] (pe s0 ga) ∧ (pe s0 ga).leader = some 0) ∧
      (Executes sBrk ga [] (pe sBrk ga) ∧ (pe sBrk ga).part ≠ 0 ∧ (pe sBrk ga).w.brkstop = true) ∧
      (Executes s0 ga [] (pe s0 ga) ∧ (pe s0 ga).w.brkstop = false) ∧
      (s0.stalled 0 = false ∧ sStall.stalled 0 = true ∧ ((sStall.group 0).map (·.lastIssue)) = some 0 ∧
        sStall.dev.tick = 0 + 2 ^ 28) ∧
      ((sStall.wave 0).map (fun w => (w.waiting, w.trapbase, w.ended))) = some ([0], 64, none) :=
  ⟨⟨leads_of (by decide), by decide⟩, ⟨executes_of (by decide), by decide, by decide⟩, ⟨executes_of (by decide), by decide⟩,
    by decide, by decide⟩

theorem ex_ok {ε α β : Type} {x : Except ε (α × β)} (p : α → β → Bool)
    (h : (match x with | .ok (a, b) => p a b | .error _ => false) = true) : ∃ a b, x = .ok (a, b) ∧ p a b = true := by
  cases x with
  | error e => simp at h
  | ok y => exact ⟨y.1, y.2, rfl, h⟩

/-- Numbers of n bytes placed one after another. -/
def words (n : Nat) (l : List Nat) : List Byte := l.flatMap (fun x => leBytes x n)

/-- Virtual addresses 0x10000 to 0x1FFFF stand for the first 64 KiB of local memory, in which lie: an unset future at 0x40,
a free lock at 0x60, a lock of task 0x10400 at 0x80, a set future at 0xA0, an empty queue of entries of 16 bytes at 0x100, a
free future owned by the record at 0x10440, which is that of an unstarted task of 88 registers. -/
def sMem : Machine.State :=
  let s := modW (fun w => { w with task := { w.task with record := 0x10400 } }) s0
  let m1 := Store.setBytes [] 0x60 (words 8 [0, 4, 0, 0, 0x10400, 5, 0, 0, 0, 1])
  let m2 := Store.setBytes m1 0x100 (words 8 [0, 0, 0, 0, 0x4000040010])
  let m3 := Store.setBytes m2 0xC0 (words 8 [0x10440, 0])
  let m4 := Store.setBytes m3 0x440 (words 4 [0x40, 0, 0, 0, 0, 0, 0, 0, 0, 10])
  { s with
    dev := { s.dev with stackBits := 0xFF, kiln := true, firebox := true }
    mem := { s.mem with loc := m4 }
    kiln := { s.kiln with
      ctxs := [(0, { probeCtx with arena := (0x18000, 0x4000) })]
      tenants := modAt s.kiln.tenants 0 (fun x => (x.1, { x.2 with ranges := [(0, 65536)], enabled := true })) }
    clusters := [(0, ⟨[], [⟨1, 0x10000, 65536, 0, ⟨true, true, 0, false, 1, 0⟩⟩]⟩),
      (25, ⟨[], [⟨1, 0x10000, 65536, 0, ⟨true, true, 0, false, 1, 0⟩⟩]⟩)] }

def at0 (a : Nat) : Opd := .lit2 (BitVec.ofNat 64 (0x10000 + a))

/-- A load's modifiers: 32 bits, relaxed, core scope; an atomic's. -/
def mm (ty : Ty) (sc : Scope) : MemMods := ⟨fs0, ty, .none, .rlx, sc⟩
def rm (spad far : Bool) : RmwMods := ⟨fs0, .n32, .add, .rlx, .core, far, spad⟩

/-- Each lane's address, from operands that are the same in every lane. -/
theorem witness_AccessesIssue :
    s0.uncapped (pe s0 ga) .core ∧ (pe s0 ga).part ≠ 0 ∧
      (∀ l, ((pe s0 ga).w.rdq (at0 0x40) l + ((pe s0 ga).w.rd .zero l).signExtend 64).toNat % tyBytes .n32 = 0 ∧
        ((pe s0 ga).w.rdq (at0 0x40) l + ((pe s0 ga).w.rd .zero l).signExtend 64).toNat < 2 ^ 56) ∧
      (∀ l, ((pe s0 ga).w.rd (.lit 0x7FFF0) l + (pe s0 ga).w.rd .zero l).toNat % tyBytes .b128 = 0 ∧
        ((pe s0 ga).w.rd (.lit 0x7FFF0) l + (pe s0 ga).w.rd .zero l).toNat + tyBytes .b128 ≤ s0.spadSize 0) ∧
      ((0x7FFF0 : Nat) < 2 ^ 28 ∧ s0.member 0 (0x7FFF0 / 2 ^ 21) ≠ .absent ∧ 0x7FFF0 % 2 ^ 21 + 16 ≤ s0.memberSize 0) ∧
      Issues s0 ga fs0 [(.v 1, 1)] [(at0 0x40, 2), (.zero, 1)] (pe s0 ga) ∧
      Issues s0 ga fs0 [] [(at0 0x40, 2), (.zero, 1), (.v 1, 1)] (pe s0 ga) ∧
      Issues s0 ga fs0 [(.v 4, 4)] [(.lit 0x7FFF0, 1), (.zero, 1)] (pe s0 ga) ∧
      Issues s0 ga fs0 [] [(.lit 0x7FFF0, 1), (.zero, 1), (.v 4, 4)] (pe s0 ga) ∧
      ((∀ tn y at_, sMem.translate (pe sMem ga).ag 0x10040 .write ≠ .ok (.inAlias tn y, at_)) ∧
        ∀ p at_, sMem.translate (pe sMem ga).ag 0x10040 .write = .ok (p, at_) →
          sMem.atomErr (pe sMem ga).ag (.rmw ga (.v 1) (at0 0x40) .zero (.v 1) (rm false true)) p 0x10040 = none) ∧
      (rm false true).far = true ∧ (rm true false).spad = true ∧ (rm false false).spad = false ∧ (rm true false).far = false := by
  refine ⟨fun h => by simp at h, by decide, ?_, ?_, by decide, issues_of (by decide), issues_of (by decide),
    issues_of (by decide), issues_of (by decide), ?_, by decide⟩
  · intro l
    show ((0x10040 : W64) + ((0 : W32)).signExtend 64).toNat % 4 = 0 ∧ ((0x10040 : W64) + ((0 : W32)).signExtend 64).toNat < 2 ^ 56
    decide
  · intro l
    show ((0x7FFF0 : W32) + (0 : W32)).toNat % 16 = 0 ∧ ((0x7FFF0 : W32) + (0 : W32)).toNat + 16 ≤ s0.spadSize 0
    decide
  · have h : sMem.translate (pe sMem ga).ag 0x10040 .write = .ok (.loc 0x40, ⟨true, true, 0, false, 1, 0⟩) := by decide
    constructor
    · intro tn y at_
      rw [h]
      simp
    · intro p at_ hp
      rw [h] at hp
      obtain ⟨rfl, rfl⟩ := Prod.mk.inj (Except.ok.inj hp)
      decide

/-- The context's scopes are capped. -/
def sCap (strict : Bool) : Machine.State := s0.modCtx 0 (fun c => { c with cap := true, strict := strict })

/-- A state of whose wave only lane 0 is left. -/
def lane0 (s : Machine.State) : Machine.State := modW (fun w => { w with task := { w.task with slices := w.task.slices.mapIdx (fun i x =>
  if i = 0 then { x with mask := 1, exited := 0xE } else { x with mask := 0, exited := 0xF }) } }) s

/-- The addresses of `sMem` lead to a window of host memory whose path performs no atomic. -/
def sHost : Machine.State :=
  { sMem with
    dev := { sMem.dev with ports := 0xF }
    kiln := { sMem.kiln with tenants := modAt sMem.kiln.tenants 0 (fun x => (x.1, { x.2 with windows := [⟨0, 2 ^ 21, 0, 0x80⟩] })) }
    clusters := [(0, ⟨[], [⟨1, 0x10000, 65536, 2 ^ 45, ⟨true, true, 0, false, 1, 2⟩⟩]⟩)] }

/-- Lane 0 forms 1, then every lane; every lane forms 2^56; lane 0 alone does an atomic in host memory; it alone reads a mapped
line. -/
theorem witness_AccessStops :
    (Issues s0 ga fs0 [] [(.laneix, 2), (.lit 1, 1), (.v 1, 1)] (pe s0 ga) ∧ (pe s0 ga).part.getLsbD 0 = true ∧
      ((pe s0 ga).w.rdq .laneix 0 + ((pe s0 ga).w.rd (.lit 1) 0).signExtend 64).toNat % tyBytes .n32 ≠ 0) ∧
      (Issues s0 ga fs0 [] [(.lit2 (2 ^ 56), 2), (.zero, 1), (.v 1, 1)] (pe s0 ga) ∧
        (∀ l, ((pe s0 ga).w.rdq (.lit2 (2 ^ 56)) l + ((pe s0 ga).w.rd .zero l).signExtend 64).toNat = 2 ^ 56)) ∧
      (∀ strict, Issues (sCap strict) ga fs0 [(.v 1, 1)] [(at0 0x40, 2), (.zero, 1)] (pe (sCap strict) ga) ∧
        (pe (sCap strict) ga).part ≠ 0 ∧ ((sCap strict).ctx 0).map (fun c => (c.cap, c.strict)) = some (true, strict)) ∧
      (Issues (lane0 sHost) ga fs0 [(.v 1, 1)] [(at0 0x40, 2), (.zero, 1), (.v 1, 1)] (pe (lane0 sHost) ga) ∧
        (pe (lane0 sHost) ga).part = maskOf [0] ∧
        (lane0 sHost).translate (pe (lane0 sHost) ga).ag 0x10040 .write =
          .ok (.home 0 0x40 0 0x40, ⟨true, true, 0, false, 1, 2⟩) ∧
        (lane0 sHost).atomErr (pe (lane0 sHost) ga).ag (.rmw ga (.v 1) (at0 0x40) .zero (.v 1) (rm false false)) (.home 0 0x40 0 0x40)
          0x10040 = some 2) ∧
      (let s1 := lane0 sMem
       Reads s1 ga [] [(at0 0x40, 2), (.zero, 1)] (pe s1 ga) ∧ (pe s1 ga).part = maskOf [0] ∧
       s1.translate (pe s1 ga).ag 0x10040 .read = .ok (.loc 0x40, ⟨true, true, 0, false, 1, 0⟩) ∧
       s1.lostRead (pe s1 ga).ag .wave (.loc 0x40) = none ∧ (s1.cluster (pe s1 ga).ag.cluster).l2.length < l2Lines ∧
       s1.mem.msc.length + s1.mem.lines.length + ((Place.loc 0x40).sectors.flatMap s1.localLines).length + 2 < mscLines) := by
  refine ⟨⟨issues_of (by decide), by decide, by decide⟩, ⟨issues_of (by decide), ?_⟩, ?_,
    ⟨issues_of (by decide), by decide, by decide, by decide⟩, reads_of (by decide), by decide, by decide, by decide, by decide⟩
  · intro l
    show ((2 ^ 56 : W64) + ((0 : W32)).signExtend 64).toNat = 2 ^ 56
    decide
  · intro strict
    cases strict <;> exact ⟨issues_of (by decide), by decide, by decide⟩

/-- A load of every lane is outstanding, counted by flag 3. -/
def opLd : Op :=
  { id := 7, instr := .ld ga (.v 1) (.v 2) .zero (mm .n32 .core), pc := 4, lanes := 0xFFFFFFFF, todo := 0xFFFFFFFF, slices := 0xFF
    undone := 0xFF, flag := some 3, vals := [], wins := List.replicate 8 0, checked := false, depth := 0, dst := [(.v 1, 1)] }
def sOp : Machine.State := modW (fun w => { w with ops := [opLd] }) s0

/-- The same from an address that is mapped. -/
def opAt : Op := { opLd with vals := [(0, 0x10040)], lanes := 1, todo := 1 }
def sOpMem : Machine.State := modW (fun w => { w with ops := [opAt] }) sMem

theorem witness_OperationsComplete :
    ((sOp.waveAt 0 0).map (·.1) = some 0 ∧ (pe sOp ga).w.ops.find? (fun x => x.id == 7) = some opLd ∧
      opLd.undone.getLsbD 0 = true ∧ (pe sOp ga).w.mayPerform opLd 0 = true ∧ opLd.undone.getLsbD 8 = false) ∧
      (sOp.wave 0 = some (pe sOp ga).w ∧ opLd.depth = (pe sOp ga).w.depth ∧ (7 : Nat) < 8 ∧
        (pe sOp ga).w.task.slices.length = 8) ∧
      ({ opLd with undone := 0x80 } : Op).undone = maskOf [7] ∧
      (opLd.checked = false ∧ (accOf opLd.instr).map (fun a => (a.kind, sOpMem.memCheck (sOpMem.agentOf 0) 0 opAt a,
        sOpMem.lanesRefused (sOpMem.agentOf 0) 0 opAt a)) = some (.load, none, [])) ∧
      ({ opLd with instr := .icinv ga (.v 1) (.v 2) fs0 } : Op).todo ≠ 0 ∧
      ({ opLd with instr := .tlbinv ga (.v 1) (.v 2) fs0 } : Op).todo ≠ 0 := by decide +kernel

/-- Bytes of one value that are not the same, and their place at the end of the scratchpad. -/
theorem witness_ScratchpadAccess :
    ((s0.group 0).map (fun x => (Store.wf x.spad, x.launch))) = some (true, 0) ∧
      (⟨.spad, .load, .s16, .rlx, .core, false, .plain false⟩ : Acc).space = .spad ∧
      (⟨.spad, .load, .s16, .rlx, .core, false, .plain false⟩ : Acc).kind = .load ∧
      (⟨.spad, .store, .b128, .rlx, .core, false, .plain false⟩ : Acc).kind = .store := by decide

theorem witness_AtomicValues : (2 ^ 32 - 1 : Nat) < 2 ^ (8 * tyBytes .n32) ∧
    ({ opLd with instr := .rmw ga (.v 1) (.v 2) .zero (.v 3) (rm false false) } : Op).instr =
      .rmw ga (.v 1) (.v 2) .zero (.v 3) (rm false false) ∧ (rm false false).ty ≠ .f32 := by decide

theorem witness_FencesAndBarriers :
    (Waits s0 ga [] (pe s0 ga) ∧ s0.reportAt (pe s0 ga).u (fun _ => true) = none ∧
      (pe s0 ga).w.behind (pe s0 ga).sl = false ∧ s0.uncapped (pe s0 ga) .sys) ∧
      ((pe s0 ga).leader = some 0 ∧ (pe s0 ga).whole = true ∧ s0.wavesLeft 0 = 1 ∧
        ((s0.group 0).map (fun x => (x.bars[(0 : Nat)]?, x.bars[(15 : Nat)]?))) = some (some ⟨0, 0, 0⟩, some ⟨0, 0, 0⟩) ∧
        1 ≤ ((pe s0 ga).w.rd (.lit 32) 0).toNat ∧ ((pe s0 ga).w.rd (.lit 32) 0).toNat ≤ 32) ∧
      Leads s0 ga [] [(.lit 32, 1)] (pe s0 ga) ∧ Waits s0 ga [(.lit 1, 1)] (pe s0 ga) := by
  refine ⟨⟨waits_of (by decide), by decide, by decide, ?_⟩, by decide, leads_of (by decide), waits_of (by decide)⟩
  intro _ c hc
  have h : s0.ctx (pe s0 ga).ag.ctx = some probeCtx := by decide
  rw [h] at hc
  obtain rfl := Option.some.inj hc
  decide

/-- The largest counts, on an object at the end of the scratchpad; an object with the last arrival due. -/
theorem witness_BarrierObjects :
    (Leads s0 ga [] [(.lit 0x7FFF0, 1), (.lit 4095, 1)] (pe s0 ga) ∧ (pe s0 ga).leader = some 0 ∧
      (pe s0 ga).w.behind (pe s0 ga).sl = false ∧ 0x7FFF0 % 16 = 0 ∧ 0x7FFF0 + 16 ≤ s0.spadSize 0) ∧
      (Leads sObj ga [] [(.zero, 1), (.lit 0xFFFFFF, 1)] (pe sObj ga) ∧ bobjBad sObj 0 0 0 true = none ∧
        (sObj.bobj 0 0).pending + (0xFFFFFF - min (sObj.bobj 0 0).early 0xFFFFFF) < 2 ^ 24) ∧
      Waits sObj ga [(.zero, 1), (.lit 1, 1)] (pe sObj ga) ∧
      (let o : BObj := ⟨true, false, 4095, 1, 2 ^ 24 - 1, 2 ^ 24 - 1⟩
       o.arrivals ≠ 0 ∧ o.arrivals < 4096 ∧ o.init < 4096 ∧ o.pending < 2 ^ 24 ∧ o.early < 2 ^ 24 ∧ 5 ≤ o.pending ∧
        (⟨true, false, 1, 0, 0, 0⟩ : BObj).arrivals = 0 ∧ (0 : Nat) < 2 ^ 24 - 1 ∧ 0 + (2 ^ 24 - 1 - 0) < 2 ^ 24) :=
  ⟨⟨leads_of (by decide), by decide, by decide, by decide, by decide⟩, ⟨leads_of (by decide), by decide, by decide⟩,
    waits_of (by decide), by decide⟩

/-- Slot 3 has a hit; slot 2 watches a word; the strand sleeps until tick 5. -/
def sHit : Machine.State := modW (fun w => w.modEmber (fun i y => if i = 3 then ⟨some (.loc 8), true⟩ else y)) sMem
def sArmed : Machine.State := modW (fun w => w.modEmber (fun i y => if i = 2 then ⟨some (.loc 8), false⟩ else y)) s0
def sSleep : Machine.State := modW (fun w => w.modSlices 0xFF (fun x => { x with wait := some (.ember (some 5) (.v 1) 0xFFFFFFFF) })) s0

theorem witness_Ember :
    (Leads sMem ga [] [(at0 0x48, 2), (.lit 0xFFFFFFF8, 1)] (pe sMem ga) ∧ (pe sMem ga).leader = some 0 ∧
      ((pe sMem ga).w.rdq (at0 0x48) 0 + ((pe sMem ga).w.rd (.lit 0xFFFFFFF8) 0).signExtend 64).toNat = 0x10040 ∧
      sMem.translate (pe sMem ga).ag 0x10040 .read = .ok (.loc 0x40, ⟨true, true, 0, false, 1, 0⟩)) ∧
      (Executes sHit ga [(.v 1, 1)] (pe sHit ga) ∧ (pe sHit ga).w.emberHit = some 3 ∧
        (pe sHit ga).w.poisonLane [(.lit 1, 1)] (pe sHit ga).lead = none ∧ quietB sHit ga = true) ∧
      (Executes s0 ga [(.v 1, 1)] (pe s0 ga) ∧ (pe s0 ga).w.emberHit = none ∧
        ((pe s0 ga).w.slice ((bitsOf (pe s0 ga).st).headD 0)).wait = none ∧ ∀ y ∈ (pe s0 ga).w.task.ember, y.armed = none) ∧
      (Executes sArmed ga [(.v 1, 1)] (pe sArmed ga) ∧ (pe sArmed ga).w.emberHit = none ∧
        ∃ y ∈ (pe sArmed ga).w.task.ember, y.armed ≠ none) ∧
      ((sSleep.waveAt 0 0).map (·.1) = some 0 ∧ (pe sSleep ga).w.strandSlices 0 ≠ 0 ∧ sSleep.awake (pe sSleep ga).w = true ∧
        (pe sSleep ga).w.emberHit = none ∧
        ((pe sSleep ga).w.slice ((bitsOf ((pe sSleep ga).w.strandSlices 0)).headD 0)).wait =
          some (.ember (some 5) (.v 1) 0xFFFFFFFF)) :=
  ⟨⟨leads_of (by decide), by decide, by decide, by decide⟩, ⟨executes_of (by decide), by decide, by decide, by decide⟩,
    ⟨executes_of (by decide), by decide, by decide, by decide⟩, ⟨executes_of (by decide), by decide, by decide⟩, by decide⟩

theorem witness_TaskOperationsIssue :
    s0.uncapped (pe s0 ga) .ten ∧ (pe s0 g1).part = 0 ∧
      Issues s0 g1 fs0 [] [(.lit 64, 2), (.lit 0, 2)] (pe s0 g1) ∧
      (Issues s0 ga fs0 [] [(.lit 0x40, 2)] (pe s0 ga) ∧ ∀ l, ((pe s0 ga).w.rdq (.lit 0x40) l).toNat % 64 = 0) ∧
      Issues s0 ga fs0 [(.v 2, 2)] [(.lit 0x40, 2), (.lit 0x50, 2)] (pe s0 ga) ∧
      (∀ l, ((pe s0 ga).w.rdq (.lit 0x50) l).toNat % 16 = 0) := by
  refine ⟨fun h => by simp at h, by decide, issues_of (by decide), ⟨issues_of (by decide), ?_⟩, issues_of (by decide), ?_⟩
  · intro l; show ((0x40 : W32).signExtend 64).toNat % 64 = 0; decide
  · intro l; show ((0x50 : W32).signExtend 64).toNat % 16 = 0; decide

/-- One lane of the wave is active, so that a `spawn` names one record. -/
def sOne : Machine.State := modW (fun w => { w with task := { w.task with slices := w.task.slices.mapIdx (fun i x =>
  if i = 0 then { x with mask := 1, exited := 0xE } else { x with mask := 0, exited := 0xF }) } }) s0

theorem witness_TaskOperationsIssue_spawn : Issues sOne ga fs0 [] [(.lit 64, 2), (.lit 0, 2)] (pe sOne ga) ∧
    (pe sOne ga).part = maskOf [0] ∧
    (∀ l k, (pe sOne ga).part.getLsbD l = true → (pe sOne ga).part.getLsbD k = true → l = k) := by
  refine ⟨issues_of (by decide), by decide, ?_⟩
  have h : (pe sOne ga).part = 1 := by decide
  intro l k hl hk
  rw [h] at hl hk
  have e : ∀ j, (1 : W32).getLsbD j = true → j = 0 := by
    intro j hj
    have := BitVec.lt_of_getLsbD hj
    interval_cases j <;> first | rfl | simp at hj
  rw [e l hl, e k hk]

theorem witness_AwaitsComplete :
    Waits sMem ga [] (pe sMem ga) ∧ (pe sMem ga).w.task.wide = none ∧ (pe sMem ga).whole = true ∧
      (pe sMem ga).inHandler = false ∧ (pe sMem ga).w.awaitLane = some 0 ∧ (pe sMem ga).w.task.poison = [] ∧
      (∃ s1 f, sMem.waitable (pe sMem ga).ag ((pe sMem ga).w.rdq (at0 0xA0) 0).toNat = .ok (s1, f) ∧
        (f.ok && f.ready && f.kind == 0) = true) ∧
      (∃ s1 f, sMem.waitable (pe sMem ga).ag ((pe sMem ga).w.rdq (at0 0x60) 0).toNat = .ok (s1, f) ∧
        (f.ok && f.ready && f.kind == 1 && (s1.canWrite (pe sMem ga).ag 0x10060 16).isNone) = true) ∧
      (∃ s1 f, sMem.waitable (pe sMem ga).ag ((pe sMem ga).w.rdq (at0 0x40) 0).toNat = .ok (s1, f) ∧
        (f.ok && !f.ready && f.owner == 0 && !sOp.drained 0) = true) :=
  ⟨waits_of (by decide), by decide, by decide, by decide, by decide, by decide, ex_ok _ (by decide +kernel), ex_ok _ (by decide +kernel),
    ex_ok _ (by decide +kernel)⟩

/-- As `sMem` with a load outstanding; with a helper of a chain that waits for the lock at 0x80. -/
def sMemOp : Machine.State := modW (fun w => { w with ops := [opLd] }) sMem
def sHelp : Machine.State := modW (fun w => { w with chain := [⟨w.task, true, 1, 0x10080, none, false⟩] }) sMem

theorem witness_AwaitsComplete_waits : Waits sMemOp ga [] (pe sMemOp ga) ∧ sMemOp.drained (pe sMemOp ga).u = false ∧
    ∃ s1 f, sMemOp.waitable (pe sMemOp ga).ag ((pe sMemOp ga).w.rdq (at0 0x40) 0).toNat = .ok (s1, f) ∧
      (f.ok && !f.ready && f.owner == 0) = true := ⟨waits_of (by decide), by decide, ex_ok _ (by decide +kernel)⟩

theorem witness_FutureLockPark :
    (Leads sMem ga [] [(at0 0x40, 2), (.lit 7, 2)] (pe sMem ga) ∧ (pe sMem ga).w.behind (pe sMem ga).sl = false ∧
      (pe sMem ga).leader = some 0 ∧ ∃ s1 bs, sMem.obj (pe sMem ga).ag .ten 0x10040 32 = .ok (s1, bs) ∧
        (fieldAt bs 8 4 == 0 && fieldAt bs 12 4 == 0 && fieldAt bs 24 8 == 0 &&
          (s1.canWrite (pe sMem ga).ag 0x10040 32).isNone) = true) ∧
      (Leads sMem ga [] [(at0 0x80, 2)] (pe sMem ga) ∧
        ∃ s1 f, sMem.waitable (pe sMem ga).ag 0x10080 = .ok (s1, f) ∧
          (f.state == 5 && f.entry == 0 && f.owner == (pe sMem ga).w.task.record.toNat &&
            (s1.canWrite (pe sMem ga).ag 0x10080 16).isNone &&
            ((s1.release (pe sMem ga).ag .ten).lockHelpers (pe sMem ga).ag.ctx 0x10080).isEmpty) = true) ∧
      (Leads sHelp ga [] [(at0 0x80, 2)] (pe sHelp ga) ∧
        ∃ s1 f, sHelp.waitable (pe sHelp ga).ag 0x10080 = .ok (s1, f) ∧
          (f.state == 5 && f.owner == (pe sHelp ga).w.task.record.toNat &&
            !((s1.release (pe sHelp ga).ag .ten).lockHelpers (pe sHelp ga).ag.ctx 0x10080).isEmpty) = true) ∧
      (Waits sMem ga [] (pe sMem ga) ∧ sMem.drained (pe sMem ga).u = true ∧ (pe sMem ga).w.task.wide = none ∧
        ∃ s1 q, sMem.headerOf (pe sMem ga).ag 0 ((pe sMem ga).w.rdq (at0 0x100) 0).toNat = .ok (s1, q) ∧
          (q.esize == 16 && ((((s1.release (pe sMem ga).ag .ten).next (pe sMem ga) (.park ga (at0 0x100))).wave 0).map
            (fun w => w.task.root)) == some true) = true) :=
  ⟨⟨leads_of (by decide), by decide, by decide, ex_ok _ (by decide +kernel)⟩, ⟨leads_of (by decide), ex_ok _ (by decide +kernel)⟩,
    ⟨leads_of (by decide), ex_ok _ (by decide +kernel)⟩, ⟨waits_of (by decide), by decide, by decide, ex_ok _ (by decide +kernel)⟩⟩

/-- The strand stands in an `await` of an address. -/
def sWait (a : Nat) : Machine.State := modW (fun w => w.modSlices 0xFF (fun x =>
  { x with wait := some (.await false 1 (BitVec.ofNat 64 a)) })) sMem

def decides (s : Machine.State) (a : Nat) (p : Decision → Bool) : Bool :=
  match s.decideWait (pe s ga).w (s.agentOf 0) false 0 a with
  | .ok (_, d) => p d
  | .error _ => false

/-- A set future, an unset one, one whose owner can be adopted, one that is owned by the task itself. -/
theorem witness_AdoptDecides :
    (∀ a ∈ [0x100A0, 0x10040, 0x100C0, 0x10080], ((sWait a).waveAt 0 0).map (·.1) = some 0 ∧
      ((pe (sWait a) ga).w.slice ((bitsOf (pe (sWait a) ga).w.liveSlices).headD 0)).wait =
        some (.await false 1 (BitVec.ofNat 64 a)) ∧ (pe (sWait a) ga).w.awaitLane = some 0 ∧
      (sWait a).awake (pe (sWait a) ga).w = true ∧ (sWait a).drained 0 = true) ∧
      decides (sWait 0x100A0) 0x100A0 (fun d => match d with | .ready v => v | _ => false) = true ∧
      decides (sWait 0x10040) 0x10040 (fun d => d == .wait) = true ∧
      decides (sWait 0x100C0) 0x100C0 (fun d => match d with | .adopt o _ => o == 0x10440 | _ => false) = true ∧
      (match (sWait 0x10080).decideWait (pe (sWait 0x10080) ga).w ((sWait 0x10080).agentOf 0) false 0 0x10080 with
        | .error b => decide (b.cls = 6 ∧ b.code = 1) | .ok _ => false) = true ∧
      (0x10400 : Nat) ≠ 0 ∧ 0x10400 % 64 = 0 ∧ (pe sMem ga).w.task.record.toNat = 0x10400 := by decide +kernel

/-- A slot that its task has left: a task that is not its root; its root waits for the set future; a helper's wait is over. -/
def sLeft : Machine.State := modW (fun w => { w with ended := some .done, task := { w.task with root := false } }) sMem
def sBack : Machine.State := modW (fun w => { w with
  ended := some .done, task := { w.task with root := false, record := 0x10440 }
  root := some (w.task, some (false, 1, 0x100A0)) }) sMem
def sChain : Machine.State := modW (fun w => { w with ended := some .done, chain := [⟨w.task, false, 1, 0x100A0, some true, true⟩] }) sMem

/-- A Waiting task of the context, whose future is set; a `qpush` that waits for a segment of the queue at 0x100. -/
def sParked : Machine.State := { sMem with kiln := { sMem.kiln with
  parked := [⟨0, { (pe sMem ga).w.task with record := 0x10440, root := false }, 0x10100, some 0x100A0, false⟩] } }
def opPush : Op := { opLd with
  instr := .qpush ga (.v 2) (.v 4) (.v 6) .full .rlx .ten fs0, vals := [(0, 0x10100)], checked := true, todo := 1, lanes := 1 }
def sPush : Machine.State := modW (fun w => { w with ops := [opPush] }) sMem

theorem witness_SlotsAndSegments :
    ((sLeft.waveAt 0 0).map (·.1) = some 0 ∧ sLeft.drained 0 = true ∧ (pe sLeft ga).w.halted = false ∧
      (pe sLeft ga).w.ended ≠ none ∧ (pe sLeft ga).w.chain = [] ∧ (pe sLeft ga).w.exited = false ∧
      (pe sLeft ga).w.task.root = false ∧ (pe sLeft ga).w.root = none ∧ (pe sLeft ga).w.stop = none) ∧
      ((sBack.waveAt 0 0).map (·.1) = some 0 ∧ sBack.drained 0 = true ∧ (pe sBack ga).w.ended ≠ none ∧ (pe sBack ga).w.stop = none ∧
        (pe sBack ga).w.root = some ((pe sMem ga).w.task, some (false, 1, 0x100A0)) ∧
        sBack.waitReady (sBack.agentOf 0) 0x100A0 = true) ∧
      ((sChain.waveAt 0 0).map (·.1) = some 0 ∧ sChain.drained 0 = true ∧ (pe sChain ga).w.ended ≠ none ∧
        (pe sChain ga).w.chain.map (·.status) = [some true] ∧ (pe sChain ga).w.stop = none ∧ (pe sChain ga).w.depth = 0) ∧
      ((sParked.kiln.parked.find? (fun q => q.ctx == 0 && q.task.record.toNat == 0x10440)).map (·.waits) =
        some (some 0x100A0) ∧ sParked.waitReady (sParked.agentFor 0) 0x100A0 = true) ∧
      (sPush.kilnUp = true ∧ sPush.kiln.heldPushes = [] ∧ (0, 0x10100) ∈ sPush.pendingPushes ∧
        (∃ s1 q, sPush.queue (sPush.agentFor 0) 0x10100 = .ok (s1, q) ∧ (q.tail == 0 &&
          (match sPush.ctx 0 with | some c => c.arenaFree 0x18000 q.segSize | none => false) &&
          decide ((sPush.tenant 0).quotaUsed + q.segSize ≤ 2 ^ 28)) = true)) := by
  refine ⟨by decide +kernel, by decide +kernel, by decide +kernel, by decide +kernel, by decide, by decide, by decide +kernel, ex_ok _ (by decide +kernel)⟩

/-- A strand of each of two waves of the group, which are crew 0; another crew could be formed; the core's token. -/
def wave1 : Wave := { probeWave [0#32] with idx := 1, wid := 1 }
def arr (u op : Nat) : Arrival := ⟨u, op, u, ⟨fs0, if u = 0 then 0 else 1, 0, .e2m1b, false, false, false⟩, false, 0⟩
def opMma (id : Nat) : Op := { opLd with id := id, instr := .mma ga .zero (arr 0 0).mods, pc := 4, dst := [] }
def sCrew (latch : List Arrival) (formed : Bool) (token : Option (Nat × Nat)) : Machine.State :=
  let s := s0.modGroup 0 (fun x => { x with nwaves := 2, crews := [some ⟨3, latch, formed⟩, none, none, none] })
  let s1 := s.modCore 0 (fun k => { k with token := token, slots := modAt k.slots 0 (fun x =>
    { x with owner := some 0, loaded := true, k := 384, n128 := true }) })
  { s1 with kiln := { s1.kiln with waves := [(0, { (pe s0 ga).w with ops := latch.map (fun a => opMma a.op) }), (1, wave1)] } }

theorem witness_SpanInstructions :
    (Leads s0 ga [] [] (pe s0 ga) ∧ (pe s0 ga).part ≠ 0 ∧ (pe s0 ga).w.behind (pe s0 ga).sl = false ∧ (pe s0 ga).whole = true) ∧
      Waits s0 ga [] (pe s0 ga) ∧
      (Executes s0 ga [] (pe s0 ga) ∧ (s0.wavesOf 0).any (fun x => x.2.behind 0xFF) = false ∧
        (s0.group 0).map (·.detached) = some false) ∧
      Reads s0 ga [(.v 1, 1)] [(.laneix, 1)] (pe s0 ga) ∧
      (s0.memberIndex 0 0 = true ∧ s0.memberIndex 0 1 = false ∧ (s0.memberGroup 0 0).map (·.1) = some 0 ∧
        s0.memberDeparted 0 0 = false ∧ (s0.group 0).map (fun x => (x.core, x.freed, x.exited)) = some (some 0, false, false)) :=
  ⟨⟨leads_of (by decide), by decide, by decide, by decide⟩, waits_of (by decide), ⟨executes_of (by decide), by decide, by decide⟩,
    reads_of (by decide), by decide⟩

theorem witness_CrewAndToken :
    (let s := sCrew [] false none
     Leads s ga [] [(.zero, 1), (.lit 3, 1)] (pe s ga) ∧ s.crewBad 0 0 3 = false ∧ s.crewBad 0 3 0 = false ∧
     (pe s ga).leader = some 0 ∧ Waits s ga [] (pe s ga) ∧ (s.crewOf (pe s ga).w).map (·.1) = some 0 ∧
     (s.core 0).token = none ∧ (s.core 0).takers = []) ∧
      (let s := sCrew [] false (some (0, 0))
       Waits s ga [] (pe s ga) ∧ (s.core 0).token = some (0, 0) ∧ (pe s ga).w.behind (pe s ga).sl = false ∧
       Leads s ga [] [] (pe s ga) ∧ (s.crewOf (pe s ga).w).map (·.1) = some 0) ∧
      (let s := (sCrew [] false (some (0, 0))).modGroup 0 (fun x => { x with crews := modAt x.crews 1 (fun _ => some ⟨0xC, [], false⟩) })
       Leads s ga [] [(.lit 1, 1)] (pe s ga) ∧ ((pe s ga).w.rd (.lit 1) 0).toNat ≠ 0 ∧ (s.crew 0 1).isSome = true) ∧
      (let s := sCrew [] false (some (9, 0))
       Waits s ga [] (pe s ga) ∧ (s.core 0).token ≠ some (0, 0) ∧ (s.core 0).token ≠ none) :=
  ⟨⟨leads_of (by decide), by decide, by decide, by decide, waits_of (by decide), by decide, by decide, by decide⟩,
    ⟨waits_of (by decide), by decide, by decide, leads_of (by decide), by decide⟩, ⟨leads_of (by decide), by decide, by decide⟩,
    ⟨waits_of (by decide), by decide, by decide⟩⟩

def sCrewWide (latch : List Arrival) : Machine.State :=
  modW (fun w => { w with task := { w.task with wide := some (List.replicate 8 ⟨0xF, 0, []⟩) } }) (sCrew latch false none)
def wb0 : WbMods := ⟨fs0, false, false, .wave, false, 7, .e2m1b, true, .dense⟩
def acc0 (t : Fin 64) (c : Cols) : AccMods := ⟨fs0, t, .f32, .rne, false, c⟩

/-- The second member arrives with the modifiers of the first; the last tile of the group; the last weight slot. -/
theorem witness_MatrixIssues :
    (let s := sCrewWide [arr 1 5]
     LeadIssues s ga fs0 [] [(.lit 0x7E000, 1)] (pe s ga) ∧ guardAlways ga = true ∧ (pe s ga).leader = some 0 ∧
     (pe s ga).w.task.wide ≠ none ∧
     (match s.crewOf (pe s ga).w with
       | some (c, x) => decide (c = 0 ∧ ∀ y ∈ x.latch, y.mods.slot = 0 ∧ y.mods.afmt = .e2m1b ∧ y.mods.rotb = false ∧ y.sparse = false)
       | none => false) = true ∧
     0x7E000 % 256 = 0 ∧ 0x7E000 + 8192 ≤ s.spadSize 0 ∧ 15 < accUnits (s.poolOf 0)) ∧
      (LeadIssues s0 ga fs0 [] [(.zero, 1)] (pe s0 ga) ∧ s0.wbBad (pe s0 ga) .zero wb0 0 = false ∧
        s0.uncapped (pe s0 ga) wb0.fscope) ∧
      LeadIssues s0 ga fs0 [] [] (pe s0 ga) ∧
      (LeadIssues s0 ga fs0 [] [(.zero, 1), (.zero, 1)] (pe s0 ga) ∧ s0.accOpBad (pe s0 ga) (acc0 15 .hi) 0 0 = false) :=
  ⟨⟨leadIssues_of (by decide), by decide, by decide, by decide, by decide, by decide, by decide, by decide⟩,
    ⟨leadIssues_of (by decide), by decide, fun h => by simp [wb0] at h⟩, leadIssues_of (by decide), leadIssues_of (by decide), by decide⟩

/-- A formed operation that may enter; the same not yet formed; and one that is first in the array, of a slot that is clean,
bad, poisoned. -/
def sEnter : Machine.State := sCrew [arr 0 5, arr 1 6] true (some (0, 0))
def sArray (bad : Option Nat) (poison : List Nat) : Machine.State :=
  (sCrew [] false (some (0, 0))).modCore 0 (fun k => { k with
    array := [.joint 0 0 false [arr 0 5, arr 1 6], .load 0 9 wb0], slots := modAt k.slots 0 (fun x => { x with bad := bad, poison := poison }) })

theorem witness_MatrixEvents :
    ((sEnter.group 0).map (fun g => (g.core, poisonedMembers g ((sEnter.core 0).slot 0) [arr 0 5, arr 1 6])) = some (some 0, []) ∧
      (sEnter.crew 0 0) = some ⟨3, [arr 0 5, arr 1 6], true⟩ ∧ (sEnter.core 0).token = some (0, 0) ∧ (sEnter.core 0).array = [] ∧
      entryBad ((sEnter.core 0).slot 0) 0 [arr 0 5, arr 1 6] = none) ∧
      ((sCrew [arr 0 5] false (some (0, 0))).crew 0 0) = some ⟨3, [arr 0 5], false⟩ ∧
      (∀ x ∈ [((none : Option Nat), ([] : List Nat)), (some 31, []), (none, [0])],
        ((sArray x.1 x.2).core 0).array = [Entry.joint 0 0 false [arr 0 5, arr 1 6], .load 0 9 wb0]) ∧
      (∀ z ∈ [arr 0 5, arr 1 6], ((sArray none []).wave z.wave).map (fun w => w.olderThan z.op) = some false) ∧
      (((sArray (some 31) []).core 0).slot 0).bad = some 31 ∧ (((sArray none [0]).core 0).slot 0).poison ≠ [] := by decide +kernel

theorem witness_Tiles : (s0.group 0).map (fun g => Store.wf g.tiles) = some true ∧
    (Cols.first .hi ≤ 127 ∧ 127 < Cols.first .hi + Cols.count .hi) ∧ ((0 : Nat) ≠ 15 ∨ ¬(Cols.first .hi ≤ 63)) ∧
    (Val.fin true 0 0).isZero = true := by decide

/-- A layout record at 0x200 of local memory: base 0x10040, a row of 16 bytes of which 8 lie in the tensor, one dimension. -/
def sCopy : Machine.State :=
  let s := sMem
  let m := Store.setBytes s.mem.loc 0x200 (words 4 [0x10040, 0, 8, 1, 1, 1, 0, 0, 0, 0, 0, 0, 0, 0, 0, 0])
  ({ s with mem := { s.mem with loc := m } } : Machine.State).putBobj 0 0x100 ⟨true, false, 1, 1, 0, 0⟩

def cp0 (one : Bool) : CpMods := ⟨fs0, one, false, false, .wave⟩
def cpI (k : Nat) : Instr :=
  if k = 0 then .cpTile ga (.lit 0x100) (at0 0x200) .zero .zero (cp0 true)
  else if k = 1 then .cpMcast ga (.lit 0x100) (at0 0x200) .zero .zero (cp0 true) 1
  else if k = 2 then .cpOut ga .zero (at0 0x200) .zero .zero (cp0 true)
  else .cpGather ga (.lit 0x100) (at0 0x200) .zero .zero (cp0 true)
def capsOf (k : Nat) : List (Opd × Nat) :=
  [(if k = 2 then .zero else .lit 0x100, if k = 2 then 4 else 1), (at0 0x200, 2), (.zero, 4), (.zero, 1)]

theorem witness_CopiesIssue : ∀ k ∈ [0, 1, 2, 3],
    (readsB sCopy ga [] (capsOf k) && flagB sCopy ga fs0) = true ∧ (pe sCopy ga).part ≠ 0 ∧
      (sCopy.core 0).copies.length + popCount ((pe sCopy ga).copyLanes (cp0 true)) ≤ 64 ∧
      bitsOf ((pe sCopy ga).copyLanes (cp0 true)) = [0] ∧
      (match sCopy.copyCheck 0 (pe sCopy ga).ag ((pe sCopy ga).op (cpI k) 0 none (capsOf k) []) [0] with
        | .ok _ => true | .error _ => false) = true := by decide +kernel

/-- The copy of that record into the scratchpad at 0x40, with its operation. -/
def cpy : Copy :=
  { id := 3, wave := 0, op := 7, lane := 0, instr := cpI 0, box := ⟨0x10040, [8, 1, 1, 1], [0, 0, 0], [16, 1, 1, 1], [0, 0, 0, 0]⟩
    rows := [], spad := 0x40, obj := 0x100, stamp := 0, value := 0, done := 0, excess := false }
def sMove (a : Nat) : Machine.State :=
  let s := modW (fun w => { w with ops := [{ opLd with instr := cpI 0 }] }) sCopy
  s.modCore 0 (fun k => { k with copies := [{ cpy with box := { cpy.box with base := a } }] })

theorem witness_CopyMoves :
    ((sMove 0x10040).core 0).copies = [cpy] ∧ cpy.pos = some (0, 0) ∧ (cpy.step 1).pos = none ∧
      ((sMove 0x10040).wave 0).map (fun w => (w.olderThan 7, (w.ops.find? (fun o => o.id == 7)).isSome)) = some (false, true) ∧
      ({ cpy with box := { cpy.box with boxes := [512, 1, 1, 1] } } : Copy).pos = some (0, 0) ∧
      (({ cpy with box := { cpy.box with boxes := [512, 1, 1, 1] } } : Copy).step 1).pos = some (0, 1) ∧
      (match (sMove 0x10040).lineIn 0 ((sMove 0x10040).agentOf 0) cpy 0 0 with
        | .ok s1 => (s1.group 0).isSome | .error _ => false) = true ∧ (sMove 0x10040).sched.changes = none ∧
      (match (sMove 0x20000).lineIn 0 ((sMove 0x20000).agentOf 0) { cpy with box := { cpy.box with base := 0x20000 } } 0 0 with
        | .ok _ => false | .error _ => true) = true ∧
      (0x40 + 16 ≤ cpy.obj) ∧ ((sMove 0x10040).group 0).map (fun x => Store.wf x.spad) = some true ∧
      (modW (fun w => { w with ops := [opLd, { opLd with id := 8, instr := cpI 0 }] }) sCopy |>.wave 0).map
        (fun w => w.olderThan 8) = some true := by decide +kernel

theorem witness_SpecialRegisters :
    (s0.special (pe s0 ga).w 0x00 0).isSome = true ∧ sregIs64 0x00 = false ∧ Executes s0 ga [(.v 1, 1)] (pe s0 ga) ∧
      (s0.special (pe s0 ga).w 0x20 0).isSome = true ∧ sregIs64 0x20 = true ∧ Executes s0 ga [(.v 2, 2)] (pe s0 ga) ∧
      (Leads s0 ga [] [(.lit 0x40, 2)] (pe s0 ga) ∧ (pe s0 ga).w.depth ≠ 1 ∧
        codeAddrOk ((pe s0 ga).w.rdq (.lit 0x40) 0).toNat = true ∧ (pe s0 ga).leader = some 0) ∧
      Leads s0 ga [] [(.zero, 1)] (pe s0 ga) ∧ (Executes s0 ga [] (pe s0 ga) ∧ (pe s0 ga).part ≠ 0) ∧
      ((s0.ctx 0).map (·.att) = some false ∧ ((s0.modCtx 0 (fun c => { c with att := true })).ctx 0).map (·.att) = some true) :=
  ⟨by decide, by decide, executes_of (by decide), by decide, by decide, executes_of (by decide),
    ⟨leads_of (by decide), by decide, by decide, by decide⟩, leads_of (by decide), ⟨executes_of (by decide), by decide⟩, by decide⟩

theorem witness_SystemOperationsIssue :
    (LeadIssues s0 ga fs0 [] [(.lit 0x40, 2), (.lit 64, 1)] (pe s0 ga) ∧ ((pe s0 ga).w.rdq (.lit 0x40) 0).toNat < 2 ^ 56) ∧
      Issues s0 ga fs0 [(.v 1, 1)] [(.lit 0x40, 2)] (pe s0 ga) ∧
      (LeadIssues s0 ga fs0 [(.v 1, 1)] [(.lit 191, 1)] (pe s0 ga) ∧ (s0.ctx 0).map (·.mgmt) = some true ∧
        ((pe s0 ga).w.rd (.lit 191) 0).toNat ≤ 191) ∧
      (let s := s0.modCtx 0 (fun c => { c with mgmt := false })
       LeadIssues s ga fs0 [(.v 1, 1)] [(.lit 1, 1)] (pe s ga) ∧ (s.ctx 0).map (·.mgmt) = some false) ∧
      (Issues s0 ga fs0 [(.v 1, 1)] [(.v 2, 1), (.v 3, 1), (.lit 0x40, 2)] (pe s0 ga) ∧
        ((pe s0 ga).w.rdq (.lit 0x40) 0).toNat % 64 = 0) :=
  ⟨⟨leadIssues_of (by decide), by decide⟩, issues_of (by decide), ⟨leadIssues_of (by decide), by decide, by decide⟩,
    ⟨leadIssues_of (by decide), by decide⟩, ⟨issues_of (by decide), by decide⟩⟩

/-- The strand stands at the boundary of a clause at 0x10500, whose header and word lie in memory: a clause of one word that
waits for flag 5, where flag 5 is clear or not. -/
def sClause (h : Nat) (flag : Nat) : Machine.State :=
  let s := modW (fun w => w.modSlices 0xFF (fun x =>
    { x with clause := none, pc := 0x10500, flags := modAt x.flags 5 (fun _ => flag) })) sMem
  { s with mem := { s.mem with loc := Store.setBytes s.mem.loc 0x500 (words 4 [h, 0]) } }

def fetched (s : Machine.State) (p : Machine.State → W32 → Bool) : Bool :=
  match s.fetchWord (pe s ga).u (pe s ga).ag (pe s ga).pc with
  | .ok (s1, h) => p s1 h
  | .error _ => false

theorem witness_ClauseStarts :
    (∀ x ∈ [(0x020FF000, 0), (0x020FF000, 1), (0x020C0000, 0)],
      ((sClause x.1 x.2).env ga).isSome = true ∧
      ((pe (sClause x.1 x.2) ga).w.slice ((bitsOf (pe (sClause x.1 x.2) ga).st).headD 0)).clause = none ∧
      ((pe (sClause x.1 x.2) ga).w.slice ((bitsOf (pe (sClause x.1 x.2) ga).st).headD 0)).wait = none ∧
      (pe (sClause x.1 x.2) ga).act ≠ 0 ∧ (sClause x.1 x.2).awake (pe (sClause x.1 x.2) ga).w = true) ∧
      fetched (sClause 0x020FF000 0) (fun s1 h => (pe (sClause 0x020FF000 0) ga).w.waitClear 0xFF (hdrWait h) && hdrOk h
        && !hdrToken h && (s1.reportAt 0 (fun x => x.atClause 0xFF (hdrWait h))).isNone
        && (match s1.fetchWords 0 (pe (sClause 0x020FF000 0) ga).ag 0x10504 (hdrLen h) with
          | .ok (_, ws) => ws.length == hdrLen h | .error _ => false)) = true ∧
      fetched (sClause 0x020FF000 1) (fun _ h => !(pe (sClause 0x020FF000 1) ga).w.waitClear 0xFF (hdrWait h)) = true ∧
      fetched (sClause 0x020C0000 0) (fun s1 h => (pe (sClause 0x020C0000 0) ga).w.waitClear 0xFF (hdrWait h) && !hdrOk h
        && (s1.reportAt 0 (fun x => x.atClause 0xFF (hdrWait h))).isNone) = true ∧
      (let s := modW (fun w => w.modSlices 0xFF (fun x => { x with clause := none, pc := 0x20000 })) sMem
       match s.fetchWord (pe s ga).u (pe s ga).ag (pe s ga).pc with | .ok _ => false | .error _ => true) = true ∧
      (s0.env s0.guardHere).isSome = true := by decide +kernel

def req0 : TrapReq :=
  { cls := 2, code := 9, addr := 4, lane := 3, detail := 1, flag := 15, slices := 0xFF, fpc := 4, lanes := 0xFFFFFFFF, rows := 0
    lines := 0, pend := 0, lost := false }

/-- The wave is to take a trap, its park area at 0x12000; with and without a handler. -/
def sTrap (base depth : Nat) (narm : Bool) : Machine.State :=
  let s := modW (fun w => { w with stop := some req0, trapbase := base, depth := depth, narm := narm, task := { w.task with regs := 10 } }) sMem
  { s with mem := { s.mem with loc := Store.setBytes s.mem.loc 0x418 (words 8 [0x12000]) } }

def frameAt (s : Machine.State) (d : Nat) : Bool :=
  match s.frameAddr 0 d with | .ok a => (s.canWrite (s.agentOf 0) a 0x740).isNone | .error _ => false

theorem witness_TrapsTaken :
    (∀ x ∈ [(0x10500, 0, false), (0x10500, 1, true), (0, 0, false), (0x10500, 1, false), (0x10500, 2, true)],
      ((sTrap x.1 x.2.1 x.2.2).waveAt 0 0).map (·.1) = some 0 ∧ ((sTrap x.1 x.2.1 x.2.2).wave 0).map (·.stop) = some (some req0) ∧
      ((sTrap x.1 x.2.1 x.2.2).wave 0).map (·.ended) = some none ∧
      (sTrap x.1 x.2.1 x.2.2).drained 0 = true) ∧
      frameAt (sTrap 0x10500 0 false) 1 = true ∧ frameAt (sTrap 0x10500 1 true) 2 = true ∧ req0.cls < 16 := by decide +kernel

theorem witness_TrapRoundTrip :
    (let w := (pe (sTrap 0x10500 0 false) ga).w
     w.task.slices.length = 8 ∧ w.task.wide = none ∧ w.held = [] ∧ w.trapbase < 2 ^ 64 ∧
     (∀ x ∈ w.task.slices, x.pc < 2 ^ 64 ∧ x.window < 2 ^ 32 ∧ x.stack.length ≤ 8 ∧ (∀ p ∈ x.stack, p.pc < 2 ^ 64) ∧
       x.flags.length = 12 ∧ x.strand < 16 ∧ x.wait ≠ some .entered) ∧
     frameOk (regCount w.task.regs) (w.task.slices.map (fun x => if x.live then x else { x with strand := 15 })) none = true ∧
     (frameBytes w req0 ++ [0]).take (frameBytes w req0).length = frameBytes w req0) := by decide +kernel

/-! ### KILN -/

/-- A launch record: entry 0x40, tag 9, one group of one wave, 10 in REGS, the pool of the probe. -/
def recW : List Nat := [0x40, 0, 0, 0, 0, 0, 9, 1, 0xA000, 0x00041020]
def recB : List Byte := words 4 (recW ++ [0, 0, 0, 0, 0, 0])

/-- The record lies first in the ring at 0x10800 of a queue whose header, at 0x10600, says one record; a free core. -/
def sK (write : Nat) (rec_ : List Nat) : Machine.State :=
  let m := Store.setBytes (Store.setBytes sMem.mem.loc 0x608 (words 8 [1])) 0x800 (words 4 rec_)
  { sMem with
    dev := { sMem.dev with clus := 1 }
    mem := { sMem.mem with loc := m }
    kiln := { sMem.kiln with
      nextUid := 20
      ctxs := [(0, { probeCtx with
        arena := (0x40000, 0x100000), reserve := (0x200000, 0x200000)
        queues := [(0, ⟨0x10600, 0x10800, 4, 0, write, false, false⟩)] })] } }
def down (s : Machine.State) : Machine.State := { s with dev := { s.dev with kiln := false } }

def objGives (s : Machine.State) (sc : Scope) (a n : Nat) (p : Machine.State → List Byte → Bool) : Bool :=
  match s.obj (s.agentFor 0) sc a n with
  | .ok (s1, bs) => p s1 bs
  | .error _ => false

theorem witness_HostQueues :
    (∀ w ∈ [1, 17], ∃ c q, (sK w recW).ctx 0 = some c ∧ Tab.find c.queues 0 = some q ∧ c.tenant = 0 ∧
      ((sK w recW).tenant 0).enabled = true ∧ q.overrun = false ∧ q.rung = false ∧ q.read ≠ q.write ∧ q.write = w ∧
      (sK w recW).kilnUp = true ∧ (down (sK w recW)).kilnUp = false) ∧
      objGives (sK 1 recW) .sys 0x10608 8 (fun _ bs => leNat bs == 1) = true ∧
      objGives (sK 1 recW) .sys 0x10800 64 (fun s1 bs => s1.recordOk 0 bs && decide (bs = recB)) = true ∧
      objGives (sK 1 []) .sys 0x10800 64 (fun s1 bs => !s1.recordOk 0 bs) = true ∧
      (1 + 2 ^ 64 - 0) % 2 ^ 64 ≤ 2 ^ 4 ∧ 2 ^ 4 < (17 + 2 ^ 64 - 0) % 2 ^ 64 ∧ (sK 1 recW).kiln.launches.length < 4096 := by
  refine ⟨?_, by decide +kernel⟩
  intro w hw
  simp only [List.mem_cons, List.not_mem_nil, or_false] at hw
  rcases hw with rfl | rfl <;> exact ⟨_, _, rfl, rfl, by decide +kernel⟩

/-- The `launch` of lane 3 with a record that passes, or one of zeros. -/
def sSub (bs : List Byte) : Machine.State :=
  let s := modW (fun w => { w with ops := [{ opLd with instr := .launch ga (at0 0) fs0 }] }) (sK 0 recW)
  { s with kiln := { s.kiln with submits := [⟨0, opLd.id, [(3, bs)]⟩] } }
def sLast : Machine.State := (sK 0 recW).modLaunch 0 (fun x => { x with state := .completing })

theorem witness_LaunchesRun :
    (∀ x ∈ [(recB, none), (words 4 [0], some 3)], (∃ y w o, (sSub x.1).kiln.submits = [y] ∧ (sSub x.1).wave y.wave = some w ∧
        w.ops.find? (fun o => o.id == y.op) = some o ∧ (sSub x.1).badRecord ((sSub x.1).ctxNo w.group) y.recs = x.2 ∧
        (sSub x.1).kilnUp = true ∧ (sSub x.1).kiln.launches.length + y.recs.length ≤ 4096)) ∧
      (∃ x y, (sK 0 recW).launch 0 = some x ∧ x.state ≠ .completing ∧ ((sK 0 recW).releaseAll x.record.ctx).launch 0 = some y ∧
        (sK 0 recW).kilnUp = true) ∧
      (∃ x y, sLast.launch 0 = some x ∧ x.state = .completing ∧ (sLast.releaseAll x.record.ctx).launch 0 = some y ∧
        sLast.kilnUp = true ∧ x.record.tag < 2 ^ 32) ∧
      (∃ t ∈ [1], ((sK 0 recW).launchTag 0 t).isSome = true) := by
  refine ⟨?_, ⟨_, _, rfl, by decide +kernel, rfl, by decide +kernel⟩, ⟨_, _, rfl, by decide +kernel, rfl, by decide +kernel⟩,
    by decide +kernel⟩
  intro x hx
  simp only [List.mem_cons, List.not_mem_nil, or_false] at hx
  rcases hx with rfl | rfl <;> exact ⟨_, _, _, rfl, rfl, rfl, by decide +kernel⟩

/-- A launch of a group that fits core 1; one of higher priority that fits no core, with gang 0 as the victim. -/
def newLaunch (prio : Nat) : Launch := { probeLaunch with record := { Record.ofBytes recB with prio := prio }, state := .ready, placed := 0 }
def sPlace (l : Launch) (out : List Nat) : Machine.State :=
  let s := sK 0 recW
  { s with dev := { s.dev with outOfService := out }, kiln := { s.kiln with launches := s.kiln.launches ++ [(5, l)] } }
def sMark (st : GState) (marked : Bool) (tick : Nat) : Machine.State :=
  let s := modW (fun w => { w with task := { w.task with slices := w.task.slices.map (fun x => { x with clause := none }) } })
    ((sK 0 recW).modGang 0 (fun x => { x with state := st, marked := marked }))
  { s with dev := { s.dev with tick := tick } }

theorem witness_GangsMove :
    ((sPlace (newLaunch 0) []).firstFitting = some (⟨5, 0, none⟩, [(1, 0)]) ∧
      (sPlace (newLaunch 0) []).launch 5 = some (newLaunch 0) ∧ (sPlace (newLaunch 0) []).kilnUp = true ∧
      ((sPlace (newLaunch 0) []).takeMemory (newLaunch 0).record [0x40000] [0x200000]).isSome = true) ∧
      ((sK 0 recW).firstFitting = none ∧ (sK 0 recW).kilnUp = true) ∧
      (let s := (((sMark .saved false 0).modGroup 0 (fun x => { x with core := none })).modLaunch 0 (fun x => { x with state := .ready }))
       s.firstFitting.map (fun x => (x.1.gang, x.2)) = some (some 0, [(0, 0)])) ∧
      (∀ t ∈ [0, 2000000], ∃ y x, (sMark .resident false t).gang 0 = some y ∧ (sMark .resident false t).launch y.launch = some x ∧
        y.state = .resident ∧ x.record.persist = false ∧ x.record.spanKey = 0 ∧ y.marked = false ∧
        (t < 2000000 → t < y.since + 2000000) ∧ (t = 2000000 → y.since + 2000000 ≤ t)) ∧
      0 ∈ (sPlace (newLaunch 1) [1, 2, 3, 4, 5, 6, 7]).victims ∧ 0 ∉ (sK 0 recW).victims ∧
      ((sMark .resident true 0).gang 0).map (fun y => (y.state, y.marked)) = some (.resident, true) ∧
      (∀ z ∈ (sMark .resident true 0).kiln.groups, z.2.gang = 0 → ∀ w ∈ (sMark .resident true 0).wavesOf z.1,
        (sMark .resident true 0).waveStopped w.1 w.2 = true) := by
  refine ⟨by decide +kernel, by decide +kernel, by decide +kernel, ?_, by decide +kernel, by decide +kernel, by decide +kernel, by decide +kernel⟩
  intro t ht
  simp only [List.mem_cons, List.not_mem_nil, or_false] at ht
  rcases ht with rfl | rfl <;> exact ⟨_, _, rfl, rfl, by decide +kernel⟩

/-- A link is ready. -/
def linked (s : Machine.State) : Machine.State := { s with dev := { s.dev with links := 1 } }

/-- A Ready launch of span 7 with member 0, member 1 being on device 2; its placement reserved; committed. -/
def spanLaunch : Launch :=
  { newLaunch 0 with record := { (newLaunch 0).record with spanKey := 7, spanMembers := 2, spanDevices := 2 } }
def sSpan (spans : List (Nat × Span)) : Machine.State :=
  let s := sPlace spanLaunch []
  { s with kiln := { s.kiln with spans := spans } }
def planned : Span := ⟨[⟨5, 0, none, [(1, 0)], [0x40000], [0x200000]⟩], true, false, 0, [], [], 0⟩
def committed : Span := ⟨[], false, true, 0, [⟨1, 2, 32, [], [], 0, false, false, false⟩], [], 0⟩

/-- Its gang, of group 30, on core 1. -/
def sMember : Machine.State :=
  let s := sSpan [(7, committed)]
  { s with kiln := { s.kiln with
    gangs := s.kiln.gangs ++ [(31, { probeGang with launch := 5, groups := [30], cores := [1] })]
    groups := s.kiln.groups ++ [(30, { probeGroup with launch := 5, gang := 31, core := some 1 })] } }

theorem witness_SpansMove :
    ((sSpan []).kilnUp = true ∧ (sSpan []).spanLaunches 7 ≠ [] ∧ ((sSpan []).span 7).committed = false ∧
      ((sSpan []).span 7).ready = false) ∧
      (let s := sSpan [(7, planned)]
       s.kilnUp = true ∧ (s.span 7).ready = true ∧ (s.span 7).committed = false ∧ s.spanPlanned 7 = true ∧
       s.membersOk 7 [(1, 2)] = true ∧ Tab.find s.kiln.spans 7 = some (s.span 7)) ∧
      (let s := sSpan [(7, committed)]
       s.kilnUp = true ∧ Tab.find s.kiln.spans 7 = some (s.span 7) ∧ (s.span 7).committed = true) ∧
      (Tab.find sMember.kiln.spans 7 = some (sMember.span 7) ∧ (sMember.span 7).departed.contains 1 = false ∧
        (sMember.span 7).remotes = [⟨1, 2, 32, [], [], 0, false, false, false⟩] ∧
        sMember.kiln.groups.find? (fun y => sMember.spanOf y.2.launch == 7
          && ((sMember.launch y.2.launch).map (·.record.spanFirst)).getD 0 + y.2.number == 1 && !y.2.exited) = none ∧
        ((sMember.modSpan 7 id).kiln.groups.filter (fun y => (sMember.modSpan 7 id).spanOf y.2.launch == 7 && !y.2.exited)).map
          (fun y => y.1) = [30]) := by decide +kernel

/-! ### The fabric, health and the mailbox -/

def ext : Nat × Nat := (2 ^ 28, 2 ^ 28)

/-- Tenant 1 of a 900-L is enabled; it owns extents, some asked back. -/
def sExt (f : Fitting) (exts rel : List (Nat × Nat)) : Machine.State :=
  let s := Machine.State.reset
  { s with
    dev := { s.dev with fitting := f, stackBits := 0xFF }
    kiln := { s.kiln with tenants := modAt s.kiln.tenants 1 (fun x => (x.1, { x.2 with
      enabled := true, extents := exts, ranges := exts, releasing := rel })) } }
/-- Wave 0 is of tenant 1 and has an access under way. -/
def sOpen : Machine.State :=
  let s := (modW (fun w => { w with ops := [{ opLd with checked := true }] }) sMem).modCtx 0 (fun c => { c with tenant := 1 })
  { s with kiln := { s.kiln with tenants := (sExt .l900 [ext] [ext]).kiln.tenants } }

theorem witness_ExtentsAndInbound :
    (let s := sExt .l900 [] []
     s.dev.fitting = .l900 ∧ (s.tenant 1).enabled = true ∧ (2 : Nat) ^ 28 + 2 ^ 28 ≤ s.dev.populated ∧
     (∀ x ∈ s.kiln.tenants, ∀ b ∈ x.2.ranges, blocksMeet ext b = false)) ∧
      (sExt .h900 [] []).dev.fitting ≠ .l900 ∧
      (let t := (sExt .l900 [ext] []).tenant 1
       t.extents.find? (fun y => y.1 == 2 ^ 28) = some ext ∧ t.releasing.contains ext = false) ∧
      (let s := sExt .l900 [ext] [ext]
       (s.tenant 1).releasing.find? (fun y => y.1 == 2 ^ 28) = some ext ∧ s.accessesOpen 1 = false ∧ s.kiln.launches = [] ∧
       s.kiln.sessions = [] ∧ Store.wf s.mem.loc = true ∧ s.admits (s.tenant 1).pkey (2 ^ 28 + 127) 2 = true ∧
       s.admits 0 (2 ^ 28) 2 = false) ∧
      ((sOpen.tenant 1).releasing.find? (fun y => y.1 == 2 ^ 28) = some ext ∧ sOpen.accessesOpen 1 = true) := by decide +kernel

/-- Cluster 0 and the MSC hold the line at 0 of device 3, the cluster's sector dirty or not. -/
def line3 (coh : Bool) (dirty : BitVec 128) : PSector := ⟨.home 0 0 (WinKind.dest .peer 3) 0, 0, 0, coh, 0, 0, dirty, 0⟩
def sLine (coh : Bool) (dirty : BitVec 128) : Machine.State :=
  let s := s0
  { s with
    mem := { s.mem with msc := [line3 coh 0] }
    clusters := [(0, ⟨[line3 coh dirty], []⟩)]
    kiln := { s.kiln with tenants := modAt s.kiln.tenants 0 (fun x => (x.1, { x.2 with windows := [⟨0, 2 ^ 21, 0, 0x80⟩] })) } }
def sLink (x : Link) : Machine.State := { Machine.State.reset with dev := { Dev.reset with linkState := [x] } }
def sAsk : Machine.State := modW (fun w => { w with ops := [{ opLd with checked := true }] }) sMem

/-- Whether a sector is a coherent copy of the line at 0 of device 3. -/
def copy3 (z : PSector) : Bool := z.coh && z.place.line.key == (Place.home 0 0 (WinKind.dest .peer 3) 0).line.key

theorem witness_FabricEvents :
    (∀ b ∈ [false, true], (sLine b 0).clusters.any (fun c => c.2.l2.any copy3) = b ∧ (sLine b 0).mem.msc.any copy3 = b) ∧
      (∀ p ∈ [0, 1], ∃ c, (sLine true 0).kiln.ctxs = [(0, c)] ∧
        (((sLine true 0).tenant c.tenant).windows.any (fun v => v.control.getLsbD 7 && decide (v.control.toNat % 4 < 2)
          && v.control.toNat / 256 % 4096 == p)) = decide (p = 0)) ∧
      (∀ x ∈ [(⟨15, 0, false⟩ : Link), ⟨16, 0, false⟩, ⟨16, 2, false⟩, ⟨16, 3, true⟩], (sLink x).dev.linkState[0]? = some x) ∧
      Machine.State.reset.kiln.waves = [] ∧
      ((sLine true 0).cluster 0).l2[0]? = some (line3 true 0) ∧ ((sLine true 1).cluster 0).l2[0]? = some (line3 true 1) ∧
      (sLine true 0).mem.msc[0]? = some (line3 true 0) ∧
      (sAsk.waveAt 0 0).map (fun x => x.2.ops.find? (fun o => o.id == 7)) = some (some { opLd with checked := true }) ∧
      (accOf opLd.instr).isSome = true := by
  refine ⟨by decide +kernel, ?_, by decide +kernel⟩
  intro p hp
  simp only [List.mem_cons, List.not_mem_nil, or_false] at hp
  rcases hp with rfl | rfl <;> exact ⟨_, rfl, by decide +kernel⟩

/-- A request to scan core 5, waiting or running. -/
def sScan (st : Nat) (run : Bool) (spares : Nat) : Machine.State :=
  let s := Machine.State.reset
  { s with
    dev := { s.dev with clus := 1, kiln := true, spares := spares }
    cores := if run then [(5, { Core.reset with scanning := some 9 })] else []
    kiln := { s.kiln with scans := [(9, ⟨some 5, st⟩)] } }
def clk0 (spare : Nat) : Clinker := ⟨0, 0, spare, 0, 0, [], [(7, 3)], []⟩

theorem witness_HealthEvents :
    (let s := Machine.State.reset
     ({ s with dev := { s.dev with firebox := true } } : Machine.State).dev.firebox = true ∧ (s.tenant 15).enabled = false ∧
     s.dev.firebox = false ∧ (s.tenant 15).ranges = [] ∧ 64 * 0 < s.dev.populated ∧ s.dev.tick < s.dev.lastClear + 2 ^ 46 ∧
     ({ s with dev := { s.dev with tick := 2 ^ 46, kiln := true } } : Machine.State).dev.lastClear + 2 ^ 46 ≤ 2 ^ 46 ∧
     ({ s with dev := { s.dev with tick := 2 ^ 46, kiln := true } } : Machine.State).kilnUp = true ∧
     1200 ≤ s.dev.mhz - 100 ∧ s.dev.mhz - 100 ≤ s.dev.fitting.nominal) ∧
      (sMem.tenant 0).enabled = true ∧
      ((clk0 0).spare = 0 ∧ (clk0 1).spare ≠ 0) ∧
      (let s := sScan 0 false 1
       Tab.find s.kiln.scans 9 = some ⟨some 5, 0⟩ ∧ s.kilnUp = true ∧ s.scannable 5 = true) ∧
      (∀ n ∈ [0, 1], ((sScan 1 true n).cores.find? (fun c => c.2.scanning == some 9)).map (·.1) = some 5 ∧ (sScan 1 true n).dev.spares = n ∧
        Tab.find (sScan 1 true n).kiln.scans 9 = some ⟨some 5, 1⟩) := by decide +kernel

theorem witness_HealthEvents_filter (row : Nat) : (bloomBits row).all (fun b => (clk0 1).bloom.contains b) = false := by
  have h : (bloomBits row).length = 4 := by simp [bloomBits]
  match hb : bloomBits row with
  | [] => simp [hb] at h
  | a :: r => simp [clk0]

/-- A command that runs, in a state that meets more. -/
def runsB (s : Machine.State) (fn code : Nat) (seq : Byte) (pf : Bool) (needs : List Nat) (fields : List (Nat × Nat))
    (p : Machine.State → Tenant → Bool) : Bool :=
  match s.mbStart fn code seq.toNat with
  | some s1 => !needs.any s1.stopped && !needs.any s1.replacing && !(needs.contains 1 && !s1.dev.firebox) && !(pf && fn != 0) && (s1.tenant fn).clean fields && p s1 (s1.tenant fn)
  | none => false

def Meets (s : Machine.State) (fn code : Nat) (seq : Byte) (pf : Bool) (needs : List Nat) (fields : List (Nat × Nat))
    (p : Machine.State → Tenant → Bool) : Prop :=
  ∃ s1, CommandRuns s s1 fn code seq pf needs fields ∧ p s1 (s1.tenant fn) = true

theorem runs_of {s : Machine.State} {fn code : Nat} {seq : Byte} {pf : Bool} {needs : List Nat} {fields : List (Nat × Nat)}
    {p : Machine.State → Tenant → Bool} (h : runsB s fn code seq pf needs fields p = true) : Meets s fn code seq pf needs fields p := by
  unfold runsB at h
  split at h
  · rename_i s1 hs
    simp only [Bool.and_eq_true, Bool.not_eq_true'] at h
    exact ⟨s1, ⟨hs, h.1.1.1.1.1, h.1.1.1.1.2, h.1.1.1.2, h.1.1.2, h.1.2⟩, h.2⟩
  · simp at h

/-- The payload of tenant 0, whose local memory is the first 8 MiB; a queue header stands at 0x600. -/
def sCmd (pay : List (Nat × Nat × Nat)) : Machine.State :=
  let s := sK 0 recW
  let p := pay.foldl (fun m x => Store.setBytes m x.1 (leBytes x.2.2 x.2.1)) []
  { s with
    mem := { s.mem with loc := Store.setBytes s.mem.loc 0x600 (words 4 [0x10800, 0, 1, 0, 0, 0, 4, 0]) }
    kiln := { s.kiln with tenants := modAt s.kiln.tenants 0 (fun x => (x.1, { x.2 with
      ranges := [(0, 2 ^ 23)], extents := if pay.length = 3 then [(0, 2 ^ 28)] else [], policy := 0x400000, payload := p })) } }
def bare (s : Machine.State) : Machine.State := { s with kiln := { s.kiln with ctxs := [], launches := [] } }
def s900 (s : Machine.State) : Machine.State := { s with dev := { s.dev with fitting := .l900 } }
def objOk (s : Machine.State) (sc : Scope) (a : Nat) : Bool :=
  objGives s sc a 64 (fun _ bs => fieldAt bs 0 8 == 0x10800 && fieldAt bs 0x18 4 == 4 && decide (fieldAt bs 0x1C 4 < 2) && fieldAt bs 0x20 32 == 0)

theorem witness_ContextCommands_create :
    Meets (sCmd [(0x10, 8, 0x10000), (0x18, 8, 0x10000), (0x20, 8, 0x200000), (0x28, 8, 0x200000)]) 0 0x01 5 false [0]
        [(0, 0x34), (0x80, 4)] (fun (s1 : Machine.State) (t : Tenant) => t.pay 0x30 4 == 0 && t.pay 0 8 % 65536 == 0 && inBlocks t.ranges (t.pay 0 8) 65536
        && codeAddrOk (t.pay 8 8) && t.pay 0x10 8 % 65536 == 0 && t.pay 0x18 8 == 65536 && t.pay 0x20 8 % 2 ^ 21 == 0
        && t.pay 0x28 8 == 2 ^ 21 && inBlocks t.ranges (t.pay 0x20 8) (t.pay 0x28 8)
        && decide ((s1.kiln.ctxs.filter (fun c => c.2.tenant == 0)).length < t.policy.toNat / 65536 % 128)
        && (List.range 64).find? (fun n => (s1.ctx n).isNone) == some 1) := runs_of (by decide +kernel)

theorem witness_ContextCommands_others :
    (Meets (sCmd []) 0 0x02 5 false [0] [(0, 4)] (fun (s1 : Machine.State) (t : Tenant) => t.pay 0 4 == 0 &&
      (s1.ctx 0).map (·.tenant) == some 0 && s1.kiln.launches.any (fun l => l.2.record.ctx == 0))) ∧
    (Meets { sCmd [] with kiln := { (sCmd []).kiln with launches := [] } } 0 0x02 5 false [0] [(0, 4)] (fun (s1 : Machine.State) (t : Tenant) => t.pay 0 4 == 0 && !s1.kiln.launches.any (fun l => l.2.record.ctx == 0))) ∧
    (Meets (sCmd [(4, 4, 7), (8, 8, 0x10600)]) 0 0x03 5 false [0] [(0, 16)] (fun (s1 : Machine.State) (t : Tenant) =>
      t.pay 4 4 == 7 && t.pay 8 8 == 0x10600 && objOk s1 .sys 0x10600)) ∧
    (Meets (sCmd []) 0 0x04 5 false [0] [(0, 8)] (fun (_ : Machine.State) (t : Tenant) => decide (t.pay 4 4 < 8))) ∧
    (Meets (sCmd [(4, 4, 1)]) 0 0x0A 5 false [0] [(0, 8)] (fun (_ : Machine.State) (t : Tenant) => t.pay 4 4 == 1)) ∧
    (Meets (sCmd [(4, 4, 1)]) 0 0x0B 5 false [0] [(0, 16), (0x80, 4)] (fun (s1 : Machine.State) (t : Tenant) =>
      (s1.namedWave t).map (·.1) == some 0)) ∧
    (Meets (sCmd [(4, 4, 1), (16, 4, 15)]) 0 0x0C 5 false [0] [(0, 20)] (fun (s1 : Machine.State) (t : Tenant) =>
      (s1.namedWave t).map (·.1) == some 0 && t.pay 0x10 4 == 15)) :=
  ⟨runs_of (by decide +kernel), runs_of (by decide +kernel), runs_of (by decide +kernel), runs_of (by decide +kernel),
    runs_of (by decide +kernel), runs_of (by decide +kernel), runs_of (by decide +kernel)⟩

/-- A session for an inbox within an extent; its end. -/
theorem witness_ContextCommands_sessions :
    (Meets (s900 (sCmd [(0, 4, 63), (4, 4, 0), (8, 8, 0x10600)])) 0 0x12 5 false [0] [(0, 16)] (fun (s1 : Machine.State) (t : Tenant) => s1.dev.fitting == .l900 && t.pay 0 4 == 63 && (s1.session 63).isNone
        && t.pay 8 8 == 0x10600 && objOk s1 .ten 0x10600 && t.extents == [(0, 2 ^ 28)]
        && (match s1.translate (s1.agentFor 0) 0x10600 .read, s1.translate (s1.agentFor 0) 0x10800 .read with
          | .ok (.loc p, _), .ok (.loc r, _) => inBlocks [(0, 2 ^ 28)] p 64 && inBlocks [(0, 2 ^ 28)] r (256 * 2 ^ 4)
          | _, _ => false))) ∧
    (Meets (let s := s900 (sCmd []); { s with kiln := { s.kiln with sessions := [(0, ⟨0, 0, 0, 0, 4, 0, 0, false, 0, none, 0⟩)] } })
      0 0x13 5 false [0] [(0, 4)] (fun (s1 : Machine.State) (t : Tenant) => s1.dev.fitting == .l900
        && (s1.session (t.pay 0 4)).map (·.tenant) == some 0)) :=
  ⟨runs_of (by decide +kernel), runs_of (by decide +kernel)⟩

/-- The commands of the PF, and of FIREBOX. -/
theorem witness_DeviceCommands :
    (Meets (sCmd [(8, 8, 36), (0x50, 8, 0x1000)]) 0 0x05 5 false [0, 1] [(0, 0x58), (0x80, 8)] (fun (_ : Machine.State) (t : Tenant) => t.pay 8 8 == 36 && inBlocks t.ranges (t.pay 0 8) 36 && inBlocks t.ranges (t.pay 0x50 8) 4627
        && decide (t.kernels.length < 256) && decide (nextImage t.kernels + 36 ≤ registryBase + 2 ^ 31))) ∧
    (Meets (sCmd [(4, 4, 31), (8, 8, 0x200000), (0x10, 8, 0x200000), (0x20, 4, 0x80)]) 0 0x06 5 true [0] [(0, 0x28)] (fun (s1 : Machine.State) (t : Tenant) => t.pay 0x24 4 == 0 && windowDescOk (s1.tenant 0).windows (t.pay 4 4) (t.pay 8 8)
        (t.pay 0x10 8) (t.pay 0x18 8) (t.pay 0x20 4))) ∧
    (Meets (sCmd [(0, 4, 15), (0x14, 4, 14)]) 0 0x07 5 false [0] [(0, 4), (8, 32)] (fun (_ : Machine.State) (t : Tenant) => t.pay 0x20 8 == 0 && t.pay 0x14 4 == 14)) ∧
    (Meets (sCmd [(0, 4, 15), (8, 8, 0x200000), (0x10, 4, 1), (0x14, 4, 4110)]) 0 0x07 5 false [0] [(0, 4), (8, 32)] (fun (_ : Machine.State) (t : Tenant) =>
      t.pay 0x14 4 == 4110 && t.pay 8 8 == 2 ^ 21 && t.pay 0x10 4 == 1 && inBlocks t.ranges (2 ^ 21) (2 ^ 21))) ∧
    (Meets (sCmd [(8, 8, 2 ^ 21), (0x10, 4, 1)]) 0 0x08 5 true [0] [(0, 0x14)] (fun (s1 : Machine.State) (t : Tenant) =>
      rangeOk (t.pay 0 8) (t.pay 8 8) && decide (t.pay 0 8 + t.pay 8 8 ≤ s1.dev.populated) && t.pay 0x10 4 == 1)) ∧
    (Meets (sCmd [(8, 8, 2 ^ 21)]) 0 0x08 5 true [0] [(0, 0x14)] (fun (_ : Machine.State) (t : Tenant) =>
      rangeOk (t.pay 0 8) (t.pay 8 8) && t.pay 0x10 4 == 0)) ∧
    (Meets (sCmd [(0, 4, 15), (4, 4, 0x7F0007 - 0x3F0000)]) 0 0x09 5 true [0] [(0, 8)] (fun (_ : Machine.State) (t : Tenant) =>
      decide (t.pay 4 4 < 2 ^ 23) && t.pay 4 4 / 8 % 2 ^ 13 == 0 && decide (t.pay 4 4 / 65536 % 128 ≤ 64))) :=
  ⟨runs_of (by decide +kernel), runs_of (by decide +kernel), runs_of (by decide +kernel), runs_of (by decide +kernel),
    runs_of (by decide +kernel), runs_of (by decide +kernel), runs_of (by decide +kernel)⟩

theorem witness_DeviceCommands_ranges :
    (Meets (sCmd [(4, 4, 1), (8, 8, 2 ^ 23), (0x10, 8, 2 ^ 21), (0, 4, 0)]) 0 0x14 5 true [0] [(0, 0x18)] (fun (s1 : Machine.State) (t : Tenant) => t.pay 4 4 == 1 && rangeOk (t.pay 8 8) (t.pay 0x10 8) && t.ranges.length == 1
        && s1.kiln.tenants.all (fun y => y.2.ranges.all (fun r => !blocksMeet (t.pay 8 8, t.pay 0x10 8) r)))) ∧
    (Meets (sCmd [(0x10, 8, 2 ^ 23)]) 0 0x14 5 true [0] [(0, 0x18)] (fun (_ : Machine.State) (t : Tenant) =>
      t.pay 4 4 == 0 && t.ranges.contains (t.pay 8 8, t.pay 0x10 8) && !t.extents.contains (t.pay 8 8, t.pay 0x10 8))) ∧
    (Meets (bare (sCmd [(0, 4, 4095)])) 0 0x15 5 true [0] [(0, 4)] (fun (s1 : Machine.State) (t : Tenant) =>
      t.pay 0 4 == 4095 && s1.dev.links == 0 && !s1.dev.trained && s1.kiln.ctxs.isEmpty)) ∧
    (Meets (let s := bare (sCmd []); { s with dev := { s.dev with links := 1 } }) 0 0x15 5 true [0] [(0, 4)] (fun (s1 : Machine.State) (_ : Tenant) => s1.dev.links != 0)) ∧
    (Meets (let s := bare (sCmd []); { s with dev := { s.dev with trained := true } }) 0 0x15 5 true [0] [(0, 4)]
      (fun (s1 : Machine.State) (_ : Tenant) => s1.dev.links == 0 && s1.dev.trained)) ∧
    (Meets (sCmd [(4, 4, 3)]) 0 0x16 5 true [0, 1] [(0, 0x14)] (fun (_ : Machine.State) (t : Tenant) =>
      t.pay 4 4 == 3 && t.pay 0x10 4 == 0)) ∧
    (Meets (sCmd [(0x10, 4, 1)]) 0 0x16 5 true [0, 1] [(0, 0x14)] (fun (_ : Machine.State) (t : Tenant) =>
      t.pay 0x10 4 == 1 && inBlocks t.ranges (t.pay 8 8) 2592)) ∧
    (∃ s1, (sCmd []).mbStart 0 0x20 5 = some s1 ∧ (!s1.stopped 0 && !s1.replacing 0) = true) ∧
    (0x20 ∉ commandCodes ∧ ((sCmd []).tenant 0).enabled = true ∧ ((sCmd []).tenant 0).busy = false) :=
  ⟨runs_of (by decide +kernel), runs_of (by decide +kernel), runs_of (by decide +kernel), runs_of (by decide +kernel),
    runs_of (by decide +kernel), runs_of (by decide +kernel), runs_of (by decide +kernel), ⟨_, rfl, by decide +kernel⟩, by decide +kernel⟩

/-- FIREBOX holds a new image of FLUE controller 3 or none; an activation of it runs. -/
def sFirm (staged : Option W64) (a : Option Activation) (tick : Nat) : Machine.State :=
  let s := sCmd [(0, 4, 0x13)]
  { s with dev := { s.dev.modFirmware 0x13 (fun x => { x with staged := staged }) with activation := a, tick := tick } }
def act0 (dl : Option Nat) (old : Bool) : Activation := ⟨0x13, 0, 5, dl, old, none⟩

theorem witness_FirmwareReplaced :
    (Meets (sCmd [(0, 4, 0x27), (0x10, 8, 4096)]) 0 0x10 5 true [0, 1] [(0, 4), (8, 16)] (fun (_ : Machine.State) (t : Tenant) => controllerOk (t.pay 0 4) && t.pay 0x10 8 != 0 && inBlocks t.ranges (t.pay 8 8) (t.pay 0x10 8))) ∧
    (Meets (sFirm (some 2) none 0) 0 0x11 5 true [0, 1] [(0, 4), (0x80, 8)] (fun (s1 : Machine.State) (t : Tenant) =>
      controllerOk (t.pay 0 4) && !s1.stopped (t.pay 0 4) && s1.dev.activation.isNone && (s1.dev.firmwareOf (t.pay 0 4)).staged.isSome)) ∧
    (Meets (sFirm none none 0) 0 0x11 5 true [0, 1] [(0, 4), (0x80, 8)] (fun (s1 : Machine.State) (t : Tenant) =>
      controllerOk (t.pay 0 4) && !s1.stopped (t.pay 0 4) && (s1.dev.firmwareOf (t.pay 0 4)).staged.isNone)) ∧
    ((sFirm none none 0).tenant 0).busy = false ∧ (sFirm none none 0).dev.activation = none ∧
    (sFirm (some 2) (some (act0 none false)) 0).dev.activation = some (act0 none false) ∧
    (∀ x ∈ [(100, false), (100, true), (101, false), (101, true)],
      (sFirm (some 2) (some (act0 (some 100) x.2)) x.1).dev.activation = some (act0 (some 100) x.2) ∧
      (sFirm (some 2) (some (act0 (some 100) x.2)) x.1).dev.tick = x.1 ∧
      ((sFirm (some 2) (some (act0 (some 100) x.2)) x.1).dev.firmwareOf 0x13).staged = some 2 ∧
      ((sFirm (some 2) (some (act0 (some 100) x.2)) x.1).dev.firmwareOf 0x13).version = 0) :=
  ⟨runs_of (by decide +kernel), runs_of (by decide +kernel), runs_of (by decide +kernel), by decide +kernel⟩

/-! ### The clauses that the witnesses above leave -/

/-- The same object while changes of one clock are held. -/
def sHeld : Machine.State := { sObj with sched := { sObj.sched with changes := some [.post 0 0 5] } }

theorem witness_BarrierObjects_clock : sObj.sched.changes = none ∧ sHeld.sched.changes = some [.post 0 0 5] ∧
    Leads sHeld ga [] [(.zero, 1), (.lit 0xFFFFFA, 1)] (pe sHeld ga) ∧ (pe sHeld ga).w.behind (pe sHeld ga).sl = false ∧
    bobjBad sHeld 0 0 0 true = none ∧
    (sHeld.bobjNow 0 0).pending + (0xFFFFFA - min (sHeld.bobjNow 0 0).early 0xFFFFFA) < 2 ^ 24 :=
  ⟨by decide, by decide, leads_of (by decide), by decide, by decide, by decide⟩

/-- What an `await` or `lock.take` of an address meets. -/
def awaits (s : Machine.State) (a : Nat) (p : Waitable → Bool) : Bool :=
  match s.waitable (pe s ga).ag a with
  | .ok (s1, f) => f.ok && p f && (match s1.futureClean (pe s ga).ag 0 a f with | .ok _ => true | .error _ => false)
      && (s1.canWrite (pe s ga).ag ((pe s ga).w.task.record.toNat + 0x20) 16).isNone && (s1.canWrite (pe s ga).ag a 16).isNone
  | .error _ => false

/-- The lock at 0x60 is taken, by no task. -/
def sLocked (s : Machine.State) : Machine.State := { s with mem := { s.mem with loc := Store.setBytes s.mem.loc 0x68 (leBytes 5 4) } }

theorem witness_AwaitsComplete_cases :
    awaits sMem 0x100A0 (fun f => f.ready && f.kind == 0) = true ∧ awaits sMem 0x10060 (fun f => f.ready && f.kind == 1) = true ∧
      (awaits sMem 0x10040 (fun f => !f.ready && f.owner == 0) = true ∧ sMem.drained 0 = true) ∧
      (awaits sMemOp 0x10040 (fun f => !f.ready && f.owner == 0) = true ∧ sMemOp.drained 0 = false) ∧
      awaits (sLocked sMem) 0x10060 (fun f => !f.ready && f.owner == 0 && f.kind == 1) = true ∧
      awaits (sLocked sMemOp) 0x10060 (fun f => !f.ready && f.owner == 0 && f.kind == 1) = true ∧
      Waits (sLocked sMem) ga [] (pe (sLocked sMem) ga) ∧ Waits (sLocked sMemOp) ga [] (pe (sLocked sMemOp) ga) := by
  refine ⟨by decide +kernel, by decide +kernel, ⟨by decide +kernel, by decide +kernel⟩, ⟨by decide +kernel, by decide +kernel⟩,
    by decide +kernel, by decide +kernel, waits_of (by decide), waits_of (by decide)⟩

theorem witness_FutureLockPark_record : sMem.canWrite (pe sMem ga).ag ((pe sMem ga).w.task.record.toNat + 0x20) 32 = none := by
  decide +kernel

/-- The wave has taken the unstarted task at 0x10440. -/
def sClaim : Machine.State := modW (fun w => { w with adopting := some ⟨0x10440, false, 1, 0x100C0, none, false⟩ }) (sWait 0x100C0)

theorem witness_AdoptDecides_claimed :
    (pe sClaim ga).w.adopting = some ⟨0x10440, false, 1, 0x100C0, none, false⟩ ∧ (pe (sWait 0x100C0) ga).w.adopting = none ∧
      (∃ s1 r, sClaim.taskRec (sClaim.agentOf 0) 0x10440 = .ok (s1, r) ∧
        (r.shapeOk && codeAddrOk r.entry && s1.kiln.parked.isEmpty) = true) ∧
      (Tab.keys sClaim.kiln.waves).Pairwise (· < ·) ∧ sClaim.drained 0 = true ∧ (sClaim.waveAt 0 0).isSome = true ∧
      ((pe sClaim ga).w.slice ((bitsOf (pe sClaim ga).w.liveSlices).headD 0)).wait = some (.await false 1 0x100C0) ∧
      (pe sClaim ga).w.awaitLane = some 0 ∧ sClaim.awake (pe sClaim ga).w = true :=
  ⟨by decide +kernel, by decide +kernel, ex_ok _ (by decide +kernel), by decide +kernel⟩

theorem witness_AdoptDecides_waits :
    (∃ s1 d, (sWait 0x100C0).decideWait (pe (sWait 0x100C0) ga).w ((sWait 0x100C0).agentOf 0) false 0 0x100C0 = .ok (s1, d) ∧
      (match d with | .adopt o r => o == 0x10440 && r.shapeOk && codeAddrOk r.entry && s1.kiln.parked.isEmpty | _ => false) = true) ∧
      (sMem.decideOwner (pe sMem ga).w (sMem.agentOf 0) 0 ⟨0x10440, 0, 0⟩).toOption.map (fun x => match x.2 with
        | .adopt o _ => o | _ => 0) = some 0x10440 :=
  ⟨ex_ok _ (by decide +kernel), by decide +kernel⟩

/-- A chain of helpers; a record in another state; a slot that is too small. -/
def sChained (n : Nat) : Machine.State := modW (fun w => { w with chain := (List.range n).map (fun i =>
  ⟨{ w.task with record := BitVec.ofNat 64 (0x10500 + 64 * i) }, false, 1, 0x10040, none, false⟩) }) sMem
def sSmallest : Machine.State := modW (fun w => { w with alloc := 80 }) sMem
def sState (s : Machine.State) (v : Nat) : Machine.State :=
  { s with mem := { s.mem with loc := Store.setBytes s.mem.loc 0x460 (leBytes v 4) } }
def decidesOwner (s : Machine.State) (o : Nat) (p : Machine.State → TaskRec → Bool) : Bool :=
  !((pe s ga).w.task.record.toNat :: (pe s ga).w.chain.map (fun h => h.task.record.toNat)).contains o &&
    (match s.taskRec (s.agentOf 0) o with
    | .ok (s1, r) => decide (r.state / 2 ^ 14 = 0 ∧ r.shape / 1024 = 0) && p s1 r
    | .error _ => false)

theorem witness_AdoptDecides_owners :
    ((pe sMem ga).w.task.record.toNat :: (pe (sChained 4) ga).w.chain.map (fun h => h.task.record.toNat))[4]? = some 0x105C0 ∧
      (match (sChained 4).decideOwner (pe (sChained 4) ga).w ((sChained 4).agentOf 0) 0 ⟨0x105C0, 0, 0⟩ with
        | .error b => b.cls == 6 && b.code == 1 && b.detail == 4 | .ok _ => false) = true ∧
      decidesOwner (sChained 4) 0x10440 (fun s1 r => r.st == 0 && s1.fits (pe (sChained 4) ga).w 0x10440 r) = true ∧
      decidesOwner (sChained 3) 0x10440 (fun s1 r => r.st == 0 && s1.fits (pe (sChained 3) ga).w 0x10440 r && s1.takeable 0 0x10440 r) =
        true ∧
      decidesOwner sSmallest 0x10440 (fun s1 r => r.st == 0 && !s1.fits (pe sSmallest ga).w 0x10440 r) = true ∧
      decidesOwner (sState sMem 6) 0x10440 (fun _ r => r.st == 6) = true ∧
      decidesOwner (sState sMem 3) 0x10440 (fun _ r => r.st == 3) = true ∧
      (match (sState sMem 9).taskRec (sMem.agentOf 0) 0x10440 with | .ok (_, r) => decide (8 ≤ r.st) | .error _ => false) = true := by
  refine ⟨by decide +kernel, by decide +kernel, by decide +kernel, by decide +kernel, by decide +kernel, by decide +kernel,
    by decide +kernel, by decide +kernel⟩

/-- The queue at 0x100 has one segment, at 0x700, from its index `first` on. -/
def withSeg (s : Machine.State) (first pop push : Nat) : Machine.State :=
  let m := Store.setBytes s.mem.loc 0x100 (words 8 [0x10700, 0x10700, pop, push])
  { s with mem := { s.mem with loc := Store.setBytes m 0x700 (words 8 [0, first, 0, 0, 0, 0, 0, 0, 0x10440, 10]) } }

/-- A slot that takes tasks from that queue, whose head entry is the unstarted task at 0x10440. -/
def sDisp : Machine.State := withSeg (modW (fun w => { w with queue := some 0x10100 }) sLeft) 0 0 1

/-- The same, with a root that waits for the unset future, that was parked, and where the task at the head has been taken already or
is too large. -/
def sAside (y : Option (Bool × Fin 8 × W64)) : Machine.State := modW (fun w => { w with root := some ((pe sMem ga).w.task, y) }) sDisp
def sTaken : Machine.State := { sDisp with mem := { sDisp.mem with loc := Store.setBytes sDisp.mem.loc 0x460 (leBytes 3 4) } }
def sSmall : Machine.State := modW (fun w => { w with alloc := 80 }) sDisp

/-- What the slot finds at the head of that queue. -/
def headIs (s : Machine.State) (p : Machine.State → TaskRec → Bool) : Bool :=
  match s.headEntry (s.agentOf 0) 0x10100 with
  | .ok (s1, _, some h) => h.state % 4 == 2 && h.owner == 0x10440 && (match s1.taskRec (s.agentOf 0) h.owner with
    | .ok (s2, r) => p s2 r
    | .error _ => false)
  | _ => false

/-- A slot whose root was parked, with an empty queue; one whose root's wait was over, though its future is unset again. -/
def sIdle : Machine.State := modW (fun w => { w with
  ended := some .parked, queue := some 0x10100, root := some (w.task, none) }) sMem
def sReady : Machine.State := modW (fun w => { w with
  ended := some .waiting, rootReady := true, root := some (w.task, some (false, 1, 0x10040)) }) sMem

/-- As `sChain`, the helper's wait being undecided. -/
def sUnset : Machine.State := modW (fun w => { w with ended := some .done, chain := [⟨w.task, false, 1, 0x100A0, none, false⟩] }) sMem

/-- What a slot gives its root back after. -/
def rootBack (s : Machine.State) : Bool :=
  match (s.putState (s.agentOf 0) 0x10400 0 1).wave 0 with
  | some w1 => (match w1.root with
    | some (k, _) => (match (s.putState (s.agentOf 0) 0x10400 0 1).readImage (s.agentOf 0) k [] with
      | (s2, t, l) => l.isEmpty && !s.badState (s.agentOf 0) 0x10400 && s2.imageOk (s.agentOf 0) k t) && k.record == 0x10400
    | none => false)
  | none => false

/-- What a helper runs again after: the wave with its task and no other, and what it waits for. -/
def helperBack (s : Machine.State) (p : Machine.State → Wave → Bool) : Bool :=
  let ag := s.agentOf 0
  let s2 := (s.leaveWaits 0).release ag .ten
  let s3 := s2.putState ag 0x10400 0 1
  match (s3.wave 0).map (·.chain) with
  | some [h3] => (match s3.readImage ag h3.task [] with
    | (s4, t, l) => l.isEmpty && !s2.badState ag 0x10400 && s4.imageOk ag h3.task t &&
      (let s5 := (s4.modWave 0 (fun w => { w with task := t.still, chain := [], ended := none })).acquire ag .ten
       match s5.wave 0 with
       | some w5 => w5.ended.isNone && p s5 w5
       | none => false))
  | _ => false

theorem witness_SlotsAndSegments_aside :
    (∀ y ∈ [none, some (false, 1, (0x10040 : W64))], (pe (sAside y) ga).w.root = some ((pe sMem ga).w.task, y) ∧
      (pe (sAside y) ga).w.rootReady = false ∧ (sAside y).waitReady ((sAside y).agentOf 0) 0x10040 = false ∧
      ((sAside y).queue ((sAside y).agentOf 0) 0x10100).toOption.map (fun x => x.2.pop != x.2.push) = some true ∧
      headIs (sAside y) (fun s2 r => s2.takeable 0 0x10440 r && s2.fits (pe (sAside y) ga).w 0x10440 r) = true) ∧
      headIs sTaken (fun s2 r => !s2.takeable 0 0x10440 r && r.st != 4) = true ∧
      headIs sSmall (fun s2 r => s2.takeable 0 0x10440 r && !s2.fits (pe sSmall ga).w 0x10440 r) = true := by
  refine ⟨by decide +kernel, by decide +kernel, by decide +kernel⟩

theorem witness_SlotsAndSegments_tasks :
    ((sDisp.waveAt 0 0).map (·.1) = some 0 ∧ sDisp.drained 0 = true ∧ (pe sDisp ga).w.ended ≠ none ∧ (pe sDisp ga).w.chain = [] ∧
      (pe sDisp ga).w.root = none ∧ (pe sDisp ga).w.queue = some 0x10100 ∧
      (match sDisp.headEntry (sDisp.agentOf 0) 0x10100 with
        | .ok (s1, _, some h) => h.state % 4 == 2 && h.owner == 0x10440 && (match s1.taskRec (sDisp.agentOf 0) h.owner with
          | .ok (s2, r) => s2.takeable 0 h.owner r && s2.fits (pe sDisp ga).w h.owner r
          | .error _ => false)
        | _ => false) = true) ∧
      (rootBack sBack = true ∧ rootBack sIdle = true ∧ rootBack sReady = true ∧ (pe sIdle ga).w.ended ≠ none ∧
        (pe sReady ga).w.ended ≠ none ∧ (pe sReady ga).w.rootReady = true) ∧
      ((sIdle.queue (sIdle.agentOf 0) 0x10100).toOption.map (fun x => (x.2.pop, x.2.push)) = some (0, 0)) ∧
      helperBack sChain (fun _ _ => true) = true ∧ (pe sChain ga).w.adopting = none ∧
      (helperBack sUnset (fun s w => w.pending.isEmpty && (match s.decideWait w (s.agentOf w.group) false (w.awaitLane.getD 0) 0x100A0 with
        | .ok (_, .ready v) => v | _ => false)) = true ∧ (pe sUnset ga).w.chain.map (·.status) = [none]) := by
  refine ⟨by decide +kernel, by decide +kernel, by decide +kernel, by decide +kernel, by decide +kernel⟩

/-- A Waiting task whose wait was over, though its future is unset. -/
def sPast : Machine.State := { sMem with kiln := { sMem.kiln with
  parked := [⟨0, { (pe sMem ga).w.task with record := 0x10440, root := false }, 0x10100, some 0x10040, true⟩] } }

/-- A push that waits, and one that KILN holds, for a queue whose tail segment is full. -/
def sFullHeld : Machine.State := { withSeg sMem 0 0x3F 0x40 with
  kiln := { sMem.kiln with heldPushes := [⟨0, 0x10100, 0x10440, true⟩] } }

/-- The same where every entry has been popped. -/
def sPopped : Machine.State := { withSeg sMem 0 0x40 0x40 with
  kiln := { sMem.kiln with heldPushes := [⟨0, 0x10100, 0x10440, true⟩] } }

/-- What a SEGMENT_LINK of 0x18000 to a queue with a full tail meets. -/
def linksAt (s : Machine.State) (spent : Bool) : Bool :=
  match s.queue (s.agentFor 0) 0x10100, s.ctx 0 with
  | .ok (s1, q), some c => (match s1.segment (s.agentFor 0) q.tail with
    | .ok (_, _, first) => q.tail != 0 && decide (q.per ≤ q.push - first)
        && (decide (q.head = q.tail ∧ q.per ≤ q.pop - first) == spent) && c.arenaFree 0x18000 q.segSize && decide ((s.tenant 0).quotaUsed + q.segSize ≤ 2 ^ 28)
    | .error _ => false)
  | _, _ => false

theorem witness_SlotsAndSegments_segments :
    ((sPast.kiln.parked.find? (fun q => q.ctx == 0 && q.task.record.toNat == 0x10440)).map (fun p => (p.waits, p.past)) =
      some (some 0x10040, true)) ∧
      (sFullHeld.kilnUp = true ∧ sFullHeld.kiln.heldPushes.any (fun h => h.ctx == 0 && h.queue.toNat == 0x10100) = true ∧
        linksAt sFullHeld false = true ∧ linksAt sPopped true = true) := by
  refine ⟨by decide +kernel, by decide +kernel⟩

/-- A gang of two groups whose second is not in the tables. -/
def sTwo : Machine.State := s0.modLaunch 0 (fun x => { x with record := { x.record with gang := 2 } })

theorem witness_SpanInstructions_gone : sTwo.memberIndex 0 1 = true ∧ sTwo.memberGroup 0 1 = none ∧
    sTwo.memberRemote 0 1 = none ∧ sTwo.memberDeparted 0 1 = false ∧ sTwo.memberDeparted 0 1 = false ∧
    (sTwo.group 0).map (·.core) = some (some 0) := by decide

theorem witness_CrewAndToken_turn :
    (sCrew [] false none).sched.changes = none ∧ (sCrew [] false (some (0, 0))).sched.changes = none ∧
      (let s := sCrew [] false (some (9, 0))
       (s.crewOf (pe s ga).w).map (·.1) = some 0 ∧ (s.core 0).token ≠ none) ∧
      (let s := (sCrew [] false none).modCore 0 (fun k => { k with takers := [(0, 0, 1), (0, 1, 0)] })
       (s.core 0).token = none ∧ (s.core 0).takers = [(0, 0, 1), (0, 1, 0)] ∧ (s.core 0).takers ≠ []) := by decide +kernel

theorem witness_MatrixEvents_due :
    firsts [arr 0 5, arr 1 6] = [arr 0 5, arr 1 6] ∧ firsts [arr 0 5, arr 1 6, arr 0 7] = [arr 0 5, arr 1 6] ∧
    ([arr 0 5, arr 1 6].map (·.wave)).Nodup ∧
    entryBad ((sEnter.core 0).slotDue 0) 0 [arr 0 5, arr 1 6] = none ∧ (sEnter.group 0).map (fun g =>
      (g.core, poisonedMembers g ((sEnter.core 0).slotDue 0) [arr 0 5, arr 1 6])) = some (some 0, []) ∧
      ((sEnter.core 0).array.filter (fun y => match y with | .joint .. => true | _ => false)).length < 4 := by decide +kernel

theorem witness_CopiesIssue_boxes : ∀ k ∈ [0, 1, 2, 3], (pe sCopy ga).w.behind (pe sCopy ga).sl = false ∧ (sCopy.core 0).copies.length < 64 ∧
    (match sCopy.copyCheck 0 (pe sCopy ga).ag ((pe sCopy ga).op (cpI k) 0 none (capsOf k) []) [0] with
      | .ok t => (match (t.issued (pe sCopy ga) (cpI k) fs0 (capsOf k) []).copyBox 0 (pe sCopy ga).ag
          ((pe sCopy ga).op (cpI k) t.takeUid.1 none (capsOf k) []) 0 with
        | .ok _ => true | .error _ => false)
      | .error _ => false) = true := by decide +kernel

theorem witness_CopiesIssue_uncapped : (cp0 true).acq = false ∧ ∀ t : Machine.State, t.uncapped (pe sCopy ga) (cp0 true).fscope :=
  ⟨rfl, fun _ h => by simp [cp0] at h⟩

theorem witness_SystemOperationsIssue_probe :
    (Executes s0 ga [(.v 1, 1)] (pe s0 ga) ∧ (pe s0 ga).part ≠ 0 ∧ (pe s0 ga).w.flagFull (pe s0 ga).sl ((pe s0 ga).flag fs0) = false) ∧
      (LeadIssues s0 ga fs0 [(.v 1, 1)] [(.v 2, 1), (.v 3, 1), (.lit 0x40, 2)] (pe s0 ga) ∧
        (pe s0 ga).w.poisonLane [(.v 2, 1)] (pe s0 ga).part = none) :=
  ⟨⟨executes_of (by decide), by decide, by decide⟩, leadIssues_of (by decide), by decide⟩

/-- What the slices of a strand at its clause say. -/
theorem witness_ClauseStarts_pcs :
    fetched (sClause 0x020FF000 0) (fun s1 _ => match s1.wave 0 with
      | some w => (bitsOf (pe (sClause 0x020FF000 0) ga).st).all (fun i => (w.slice i).pc == 0x10500)
      | none => false) = true ∧ (pe (sClause 0x020FF000 0) ga).pc = 0x10500 := by decide +kernel

theorem witness_TrapsTaken_frames :
    (∀ x ∈ [(0, false), (1, true)], (match (sTrap 0x10500 x.1 x.2).frameAddr 0 (x.1 + 1) with
      | .ok a => ((sTrap 0x10500 x.1 x.2).canWrite ((sTrap 0x10500 x.1 x.2).agentOf 0) a 0x800).isNone
      | .error _ => false) = true) ∧
      (pe (sTrap 0x10500 0 false) ga).w.chain.length ≤ 4 := by decide +kernel

/-- A wave in its handler, whose frame names its task and no helper and else reads as zeros; the counts that the device keeps; what
is to be issued again, and what is outstanding. -/
def sFrame (flag : Nat) (again ops : List Op) : Machine.State :=
  let save : TrapSave := ⟨[], [], [], [], List.replicate 8 (List.replicate 12 flag), again⟩
  let s := sTrap 0x10500 1 true
  { s with mem := { s.mem with
             loc := Store.setBytes (Store.setBytes s.mem.loc 0x4C1C (leBytes (if again.isEmpty then 0 else 2) 4)) 0x4C40 (leBytes 0x10400 8) }
           kiln := { s.kiln with waves := s.kiln.waves.map (fun x => (x.1, { x.2 with saves := [save], ops := ops })) } }

/-- What a `trapret` finds. -/
def returns (s : Machine.State) (p : Wave → Bool) : Bool :=
  match s.wave 0, s.frameAddr 0 1 with
  | some w, .ok a => (match s.obj (s.agentOf w.group) .wave a 0x740 with
    | .ok (s1, bs) => (s1.wave 0 == some w) && frameChain bs == (0x10400, []) && (s1.chainOf (s.agentOf w.group) w.chain []).isSome
        && (match w.fromFrame s1.kiln.nextUid bs none with | some w' => w.depth == 1 && p w' | none => false)
    | .error _ => false)
  | _, _ => false

/-- Whether an operation that a return issues again has a destination of one that the handler has outstanding. -/
def clashes (old : List Op) (w : Wave) : Bool := (w.ops.drop old.length).any (fun o => o.clashes old)

theorem witness_TrapRoundTrip_returns : returns (sFrame 63 [] []) (fun w => w.flagsFit && !clashes [] w) = true ∧
    returns (sFrame 64 [] [opLd]) (fun w => !w.flagsFit) = true ∧ (sFrame 64 [] [opLd]).drained 0 = false ∧
    (pe (sFrame 63 [] []) ga).w.task.record = 0x10400 := by
  refine ⟨by decide +kernel, ?_⟩
  refine ⟨by decide +kernel, by decide +kernel, by decide +kernel⟩

theorem witness_TrapRoundTrip_again :
    returns (sFrame 0 [opLd] [{ opLd with id := 8, dst := [(.v 2, 1)] }]) (fun w => w.flagsFit && w.ops.length == 2
      && !clashes [{ opLd with id := 8, dst := [(.v 2, 1)] }] w) = true ∧
    returns (sFrame 0 [opLd] [{ opLd with id := 8 }]) (fun w => w.flagsFit && clashes [{ opLd with id := 8 }] w) = true := by
  refine ⟨by decide +kernel, by decide +kernel⟩

theorem witness_SpansMove_key : spanIdOf 0 7 = 7 ∧
    ((sSpan []).keyFits 0 ((sSpan []).tenant 0).pkey = true ∧ (sSpan []).keyFits 0 (((sSpan []).tenant 0).pkey + 1) = false ∧
      (sSpan []).keyFits 5 0 = false) ∧ (sSpan [(7, planned)]).keyFits 0 ((sSpan []).tenant 0).pkey = true ∧
    (sSpan [(7, committed)]).keyFits 0 ((sSpan []).tenant 0).pkey = true ∧
    sMember.keyFits 0 ((sSpan []).tenant 0).pkey = true ∧
    (∀ l ∈ [[], [(7, planned)], [(7, committed)]], (linked (sSpan l)).dev.links ≠ 0 ∧ (linked (sSpan l)).spanDevices 7 = 2 ∧
      (linked (sSpan l)).keyFits 0 ((sSpan []).tenant 0).pkey = true) ∧ (sSpan []).dev.links = 0 ∧
    ((sSpan [(7, planned)]).spanLaunches 7).all (fun y => y.2.placed == 0) = true ∧
    (let s : Machine.State := { sMember with dev := { sMember.dev with activation := some ⟨0, 0, 5, some 9, false, none⟩ } }
     s.kilnUp = false ∧ s.dev.kiln = true) := by decide +kernel

/-- As many live launches as there may be. -/
def full (s : Machine.State) : Machine.State := { s with kiln := { s.kiln with launches := List.replicate 4096 (0, probeLaunch) } }

theorem witness_HostQueues_full : 4096 ≤ (full (sK 1 recW)).kiln.launches.length ∧ (full (sK 1 recW)).kilnUp = true ∧
    ((full (sK 1 recW)).ctx 0).isSome = true := ⟨Nat.le_of_eq (List.length_replicate ..).symm, by decide +kernel, by decide +kernel⟩

/-- The `launch` of lane 3 alone; a second one behind it. -/
def sSub1 : Machine.State :=
  let s := modW (fun w => { w with ops := [{ opLd with instr := .launch ga (at0 0) fs0, lanes := 8, todo := 8 }] }) (sK 0 recW)
  { s with kiln := { s.kiln with submits := [⟨0, opLd.id, [(3, words 4 [0])]⟩, ⟨0, 9, [(0, recB)]⟩] } }

theorem witness_LaunchesRun_cases :
    (((sSub recB).wave 0).bind (fun w => w.ops.find? (fun o => o.id == 7))).map (fun o => decide (1 < popCount o.lanes)) = some true ∧
      (sSub1.kilnUp = true ∧ sSub1.kiln.launches.length < 4096 ∧
        (((sSub1.wave 0).bind (fun w => w.ops.find? (fun o => o.id == 7))).map (fun o => popCount o.lanes)) = some 1 ∧
        sSub1.badRecord 0 [(3, words 4 [0])] = some 3) ∧
      (sSub1.kiln.submits[(1 : Nat)]?.map (·.wave) = some 0 ∧ (sSub1.kiln.submits.take 1).any (fun z => z.wave == 0) = true) ∧
      (full sSub1).kiln.submits[(0 : Nat)]?.map (·.op) = some 7 :=
  ⟨by decide +kernel, ⟨by decide +kernel, by decide +kernel, by decide +kernel, by decide +kernel⟩, ⟨by decide +kernel, by decide +kernel⟩,
    by decide +kernel⟩

/-- The gang is of a span over two devices, marked or not. -/
def sSpanGang (marked : Bool) : Machine.State :=
  (sMark .resident marked 0).modLaunch 0 (fun x => { x with record := { x.record with spanKey := 7, spanMembers := 2, spanDevices := 2 } })

theorem witness_GangsMove_span :
    (∀ b ∈ [false, true], (sSpanGang b).together 0 = [0] ∧ ((sSpanGang b).gang 0).map (fun z => (z.marked, z.state)) = some (b, .resident) ∧
      ((sSpanGang b).launch 0).map (fun x => decide (x.record.spanKey ≠ 0 ∧ 1 < x.record.spanDevices)) = some true ∧
      (sSpanGang b).kilnUp = true) ∧
      (sMark .resident true 0).together 0 = [0] ∧ (sMark .resident false 0).together 0 = [0] ∧
      ((sMark .resident false 0).gang 0).map (·.marked) = some false ∧
      (∀ z ∈ (sSpanGang true).kiln.groups, ∀ w ∈ (sSpanGang true).wavesOf z.1, (sSpanGang true).waveStopped w.1 w.2 = true) := by
  refine ⟨by decide +kernel, by decide +kernel, by decide +kernel, by decide +kernel, by decide +kernel⟩

/-- A packet's launch names the extent. -/
def sNamed : Machine.State :=
  let s := (sMem.modCtx 0 (fun c => { c with tenant := 1 })).modLaunch 0 (fun x => { x with source := .packet 0x40000 [2 ^ 28] })
  { s with kiln := { s.kiln with tenants := (sExt .l900 [ext] [ext]).kiln.tenants } }

/-- Memory of device 3 in which something has been written. -/
def sHome : Machine.State := { s0 with mem := { s0.mem with homes := [(8195, Store.setBytes [] 0x10 [5, 7])] } }

theorem witness_ExtentsAndInbound_ways :
    (linked (sExt .l900 [ext] [ext])).dev.busUp = true ∧ (sExt .l900 [ext] [ext]).dev.busUp = false ∧
      (let s := linked (sExt .l900 [ext] [ext])
       s.admits (s.tenant 1).pkey (2 ^ 28 + 127) 2 = true ∧ Store.wf s.mem.loc = true) ∧
      ((sNamed.tenant 1).releasing.find? (fun y => y.1 == 2 ^ 28) = some ext ∧ sNamed.kiln.launches.map (·.2.source) =
        [.packet 0x40000 [2 ^ 28]] ∧ (sNamed.ctx 0).map (·.tenant) = some 1 ∧ sNamed.kiln.launches.map (·.2.record.ctx) = [0]) ∧
      (let s := linked (sSpanGang false)
       let k : SpanMsg := ⟨(s.tenant 0).pkey, 0, 7⟩
       (s.spanOfKey k).map (·.1) = [0] ∧ s.spanOfKey { k with pkey := k.pkey + 1 } = [] ∧ s.spanOfKey { k with ctx := 1 } = [] ∧
       s.inMember k 0 = some 0 ∧ s.inMember k 1 = none ∧ 0 + 4 ≤ s.spadSize 0) ∧
      (let s := sExt .l900 [] []
       ((s.tenant 1).away.filter (fun z => z.1 == 8195)).length < 1024 ∧ (∀ x ∈ s.kiln.tenants, x.2.away = []) ∧
       homeKey (WinKind.dest .peer 3) = 8195) ∧
      (let s := s0.modTenant 1 (fun t => { t with away := [(8195, ext)] })
       (s.tenant 1).away.find? (fun y => y.1 == homeKey (WinKind.dest .peer 3) && y.2.1 == 2 ^ 28) = some (8195, ext)) ∧
      (Tab.find (sHome.mem.homes) 8195).map Store.wf = some true := by
  refine ⟨by decide +kernel, by decide +kernel, by decide +kernel, by decide +kernel, by decide +kernel, by decide +kernel, by decide +kernel, by decide +kernel⟩

theorem witness_FabricEvents_held :
    (let s : Machine.State := { sLine true 0 with clusters := [] }
     s.mem.msc.any copy3 = true ∧ s.clusters.isEmpty = true) ∧
      (sOpMem.waveAt 0 0).map (fun x => x.2.ops.find? (fun o => o.id == 7)) = some (some opAt) ∧
      (accOf opAt.instr).map (fun a => (a.kind, sOpMem.memCheck (sOpMem.agentOf 0) 0 opAt a)) = some (.load, none) ∧
      (let x := line3 true 1
       ((sLine true 1).cluster 0).l2[0]? = some x ∧ x.dirty ≠ 0 ∧ x.place.isHome = true ∧ (sLine true 1).viral x.ctx = false) := by
  refine ⟨by decide +kernel, by decide +kernel, by decide +kernel, by decide +kernel⟩

theorem witness_HealthEvents_more :
    (let s : Machine.State := { Machine.State.reset with dev := { Dev.reset with activation := some ⟨1, 0, 5, some 9, false, none⟩ } }
     s.replacing 1 = true ∧ Machine.State.reset.replacing 1 = false) ∧
    (∀ c ∈ [0, 1, 0x13, 0x20, 0x27, 0x30, 0x37], ((Machine.State.reset.dev).firmwareOf c).stopped = false) ∧
      (let s : Machine.State := { Machine.State.reset with dev := { Dev.reset with devSet := true } }
       s.dev.devSet = true ∧ (s.dev.linkState[(15 : Nat)]?).any (fun l => l.out) = false ∧ s.dev.devSet ≠ Machine.State.reset.dev.devSet) ∧
      (let s := sExt .l900 [ext] []
       let t : Machine.State := { s with
         dev := { s.dev with firebox := true }
         kiln := { s.kiln with tenants := modAt s.kiln.tenants 1 (fun x => (x.1, { x.2 with enabled := false })) } }
       t.dev.firebox = true ∧ (t.tenant 1).enabled = false ∧ (t.tenant 1).ranges = [ext]) ∧
      (s0.waveAt 0 0).map (fun x => decide (511 < x.2.alloc)) = some true ∧ 64 * 8191 < s0.spadSize 0 := by
  refine ⟨by decide +kernel, by decide +kernel, by decide +kernel, by decide +kernel, by decide +kernel, by decide +kernel⟩

/-- The policy lets the tenant's contexts manage the device. -/
def mgmt (s : Machine.State) : Machine.State :=
  { s with kiln := { s.kiln with tenants := modAt s.kiln.tenants 0 (fun x => (x.1, { x.2 with policy := 0x400004 })) } }

theorem witness_ContextCommands_flags :
    (Meets (mgmt (sCmd [(0x10, 8, 0x10000), (0x18, 8, 0x10000), (0x20, 8, 0x200000), (0x28, 8, 0x200000), (0x30, 4, 1)])) 0 0x01 5 false [0]
        [(0, 0x34), (0x80, 4)] (fun (s1 : Machine.State) (t : Tenant) => t.pay 0x30 4 == 1 && t.policy.getLsbD 2 && t.pay 0x18 8 == 65536
        && inBlocks t.ranges (t.pay 0x20 8) (t.pay 0x28 8)
        && decide ((s1.kiln.ctxs.filter (fun c => c.2.tenant == 0)).length < t.policy.toNat / 65536 % 128))) ∧
      (Meets (sCmd []) 0 0x0A 5 false [0] [(0, 8)] (fun (s1 : Machine.State) (t : Tenant) => t.pay 4 4 == 0 && (s1.ctx 0).isSome)) ∧
      (Meets (s900 (sCmd [(0, 4, 63), (4, 4, 0), (8, 8, 0x10600)])) 0 0x12 5 false [0] [(0, 16)] (fun (s1 : Machine.State) (t : Tenant) =>
        let local_ (a : Nat) : Option Nat := match s1.translate (s1.agentFor 0) a .read with | .ok (.loc p, _) => some p | _ => none
        (local_ 0x10600).any (fun p => t.extents.find? (fun b => inBlocks [b] p 64
          && [0x10800, 0x11000].all (fun a => (local_ a).any (fun r => inBlocks [b] r 1))) == some (0, 2 ^ 28)))) :=
  ⟨runs_of (by decide +kernel), runs_of (by decide +kernel), runs_of (by decide +kernel)⟩

/-- Stack 0, in which the tenant's memory begins, is not ready. -/
def noStack (s : Machine.State) : Machine.State := { s with dev := { s.dev with stackBits := 0 } }

theorem witness_DeviceCommands_readable :
    (Meets (sCmd [(8, 8, 36), (0x50, 8, 0x1000)]) 0 0x05 5 false [0, 1] [(0, 0x58), (0x80, 8)] (fun (s1 : Machine.State) (t : Tenant) =>
      s1.readable (t.pay 0 8) (t.pay 8 8) && s1.readable (t.pay 0x50 8) 4627
        && !s1.rangeWaits (t.pay 0 8) (t.pay 8 8) && !s1.rangeWaits (t.pay 0x50 8) 4627)) ∧
      (Meets (sCmd [(0x10, 4, 1)]) 0 0x16 5 true [0, 1] [(0, 0x14)] (fun (s1 : Machine.State) (t : Tenant) =>
        s1.readable (t.pay 8 8) 2592 && !s1.rangeWaits (t.pay 8 8) 2592)) ∧
      (Meets (sCmd []) 0 0x15 5 true [0] [(0, 4)] (fun (s1 : Machine.State) (_ : Tenant) => !s1.kiln.ctxs.isEmpty && s1.dev.links == 0)) ∧
      (let s : Machine.State := (sCmd []).modTenant 0 (fun t => { t with busy := true })
       (s.tenant 0).busy = true) ∧
      ((bare (sCmd [])).tenant 0).windows.length = 32 :=
  ⟨runs_of (by decide +kernel), runs_of (by decide +kernel), runs_of (by decide +kernel), by decide +kernel, by decide +kernel⟩

theorem witness_FirmwareReplaced_readable :
    (Meets (sCmd [(0, 4, 0x27), (0x10, 8, 4096)]) 0 0x10 5 true [0, 1] [(0, 4), (8, 16)] (fun (s1 : Machine.State) (t : Tenant) =>
      s1.readable (t.pay 8 8) (t.pay 0x10 8) && !s1.rangeWaits (t.pay 8 8) (t.pay 0x10 8))) ∧
      (Meets (noStack (sCmd [(0, 4, 0x27), (0x10, 8, 4096)])) 0 0x10 5 true [0, 1] [(0, 4), (8, 16)] (fun (s1 : Machine.State) (t : Tenant) =>
        !s1.readable (t.pay 8 8) (t.pay 0x10 8))) ∧
      (let s : Machine.State := { sFirm none none 101 with dev := { (sFirm none none 101).dev with
         activation := some { act0 (some 100) true with controller := 0x20 } } }
       s.dev.activation.map (fun a => (a.controller, a.old, a.deadline)) = some (0x20, true, some 100) ∧ s.dev.tick = 101) :=
  ⟨runs_of (by decide +kernel), runs_of (by decide +kernel), by decide +kernel⟩

theorem witness_StoreFrames_room :
    (match sMem.storePlace (sMem.agentOf 0) 0x10040 with
      | .ok (p, at_) => decide (p = .loc 0x40) && decide (p.off + 64 ≤ 128) && !p.isHome && at_.pol == 0 && !at_.coh
      | .error _ => false) = true ∧ (sMem.cluster (sMem.agentOf 0).cluster).l2.length < l2Lines := by decide +kernel

/-! ### The machine as a whole -/

theorem witness_DestinationsWritten : ((87 : Nat) < 88 ∧ (31 : Nat) < 32) ∧ ((1 : W32).getLsbD 0 = true ∧ (1 : W32).getLsbD 1 = false) ∧ (86 : Nat) ≠ 87 ∧
    (2 : Nat) % 2 = 0 ∧ (∀ j, j < 2 → (12 : W32).getLsbD (4 * 0 + j) = false) ∧ (12 : W32).getLsbD (4 * 0 + 2) = true := by decide

theorem canonical_of {s : Machine.State} (h : (s.mem.wf && s.kiln.waves.all (fun x => x.2.wf) && s.kiln.groups.all (fun x => x.2.wf)
    && s.kiln.parked.all (fun x => x.task.wf) && decide ((Tab.keys s.kiln.waves).Pairwise (· < ·))) = true) : s.canonical := by
  simp only [Bool.and_eq_true, List.all_eq_true, decide_eq_true_eq] at h
  exact ⟨h.1.1.1.1, h.1.1.1.2, h.1.1.2, h.1.2, h.2⟩

def nextB (i : Instr) (s : Machine.State) : Bool := match exec i s with | .next _ => true | _ => false
theorem next_of {i : Instr} {s : Machine.State} (h : nextB i s = true) : ∃ t, exec i s = .next t := by
  unfold nextB at h
  split at h
  · exact ⟨_, ‹_›⟩
  · simp at h

/-- One instruction of each of the three shapes. -/
theorem witness_RegisterFrames :
    s0.canonical ∧ s0.sched.cur = some ⟨0, 0⟩ ∧ (s0.wave 0).isSome = true ∧
      (∀ i ∈ [Instr.iadd ga (.v 1) (.v 1) (.v 2), .icmp ga (.v 3) (.s 1) .s32 .lt 2, .ld ga (.v 1) (.v 2) .zero (mm .n32 .core)],
        ∃ t, exec i s0 = .next t) ∧
      writesOf (.iadd ga (.v 1) (.v 1) (.v 2)) = some (.v 1, 1) ∧ writesPredOf (.icmp ga (.v 3) (.s 1) .s32 .lt 2) = some 2 ∧
      accOf (.ld ga (.v 1) (.v 2) .zero (mm .n32 .core)) ≠ none := by
  refine ⟨canonical_of (by decide), by decide, by decide, ?_, by decide⟩
  intro i hi
  simp only [List.mem_cons, List.not_mem_nil, or_false] at hi
  rcases hi with rfl | rfl | rfl <;> exact next_of (by decide +kernel)

theorem witness_StoreFrames :
    (match sMem.translate (sMem.agentOf 0) 0x10040 .write with
      | .ok (p, at_) => decide (p = .loc 0x40) && decide (p.off + 64 ≤ 128) && !p.isHome && at_.pol == 0
      | .error _ => false) = true ∧ Store.wf sMem.mem.loc = true ∧ (Place.loc 0x40).off ≤ 0x40 ∧
      sMem.l2Find (sMem.agentOf 0).cluster (Place.loc 0x40).sector = none := by decide +kernel

/-- The never code; and the guard of a predicate that is false in every lane. -/
theorem witness_NothingWithoutLanes :
    ((s0.env ⟨true, 0⟩).isSome = true ∧ guardNever ⟨true, 0⟩ = true ∧ guardCode (.iadd ⟨true, 0⟩ (.v 1) (.v 1) (.v 2)) = 8 + 0 ∧
      (Instr.iadd ⟨true, 0⟩ (.v 1) (.v 1) (.v 2)).wf = true) ∧
      s0.canonical ∧ (s0.env g1).isSome = true ∧ (pe s0 g1).part = 0 ∧
      (∀ i ∈ [Instr.iadd g1 (.v 1) (.v 1) (.v 2), .gateWait g1 (.lit 2) 1],
        guardCode i = 0 + 1 ∧ i.wf = true ∧ actsWithoutLanes i = false ∧ (needsWhole i = true → (pe s0 g1).whole = true) ∧
        (isReporting i = true → (pe s0 g1).w.pending = [])) ∧
      (∀ ds, (pe s0 g1).w.busy (pe s0 g1).st ds = false) ∧ (∀ f, (pe s0 g1).w.flagFull (pe s0 g1).sl f = false) := by
  refine ⟨by decide, canonical_of (by decide), by decide, by decide, by decide, ?_, ?_⟩
  · intro ds
    have h : (pe s0 g1).w.ops = [] := by decide
    simp [Wave.busy, h]
  · intro f
    have h : ∀ i ∈ bitsOf (pe s0 g1).sl, ((pe s0 g1).w.slice i).flags = List.replicate 12 0 := by decide
    cases f with
    | none => rfl
    | some n =>
      simp only [Wave.flagFull, List.any_eq_false]
      intro i hi
      have hz : (List.replicate 12 0).getD n 0 = 0 := by
        rw [List.getD_eq_getElem?_getD, List.getElem?_replicate]
        split <;> rfl
      rw [SliceSt.count, h i hi, hz]
      decide

theorem witness_EncodeDecode : (Instr.icmp ⟨true, 7⟩ (.lit2 0x100000002) (.v 86) .n64 .ge 7).wf = true ∧
    (Instr.icmp ⟨true, 7⟩ (.lit2 0x100000002) (.v 86) .n64 .ge 7).isEvent = false := by decide

/-- A word that decodes, one that does not, a clause boundary, no strand. -/
def sStep (ws : Option (List W32)) : Machine.State :=
  match ws with
  | some ws => Machine.State.reset.placeWords ws
  | none => modW (fun w => w.modSlices 0xFF (fun x => { x with clause := none })) (Machine.State.reset.placeWords [0])

/-- As its partition sees it. -/
def sLook (ws : Option (List W32)) : Machine.State :=
  ({ sStep ws with sched := { (sStep ws).sched with agenda := [], held := false } } : Machine.State).noteSlots 0 0

theorem witness_StepRunsDecoded :
    (∀ ws ∈ [some [0x02004082#32], some [0xFFFFFFFF#32], none], (sStep ws).sched.agenda = [.issue 0 0] ∧
      (sLook ws).pick 0 0 = some ⟨0, 0⟩ ∧
      ((((sLook ws).markIssue ⟨0, 0⟩).endSlot 0 0).withCur ⟨0, 0⟩).wordsOf ⟨0, 0⟩ = ws) ∧
      decodesTo [([0x02004082#32], .iadd ⟨false, 0⟩ (.v 1) (.v 1) (.v 2))] = true ∧
      (match decodeWords [0xFFFFFFFF#32] with | .ok _ => false | .error _ => true) = true ∧
      (Machine.State.reset.noteSlots 0 0).pick 0 0 = none ∧
      ({ Machine.State.reset with sched := { Machine.State.reset.sched with agenda := [.issue 0 0] } } : Machine.State).sched.agenda
        = [.issue 0 0] := by decide +kernel

theorem witness_StepGoesOn : Machine.State.reset.canonical ∧ s0.canonical ∧ (∃ t, step s0 = .next t) :=
  ⟨canonical_of (by decide), canonical_of (by decide), by
    have h : (match step s0 with | .next _ => true | _ => false) = true := by decide
    split at h
    · exact ⟨_, ‹_›⟩
    · simp at h⟩
theorem witness_CanonicalKept : s0.canonical ∧ (∃ t, step s0 = .next t) := witness_StepGoesOn.2

/-! ### Packets: what KILN reads, and a packet whose MAC is that of its bytes -/

/-- An inbox with one packet of zeros but for its version, and one that is too far ahead. -/
def sess (write : Nat) (key : Option (BitVec 256)) : Session := ⟨0, 0, 0x10600, 0x10800, 4, 0, write, false, 0, key, 0⟩
def pkHead : List Byte := leBytes 0x01000000 8 ++ leBytes 1 8 ++ List.replicate 0xD0 0
def sPk (write : Nat) (key : Option (BitVec 256)) : Machine.State :=
  let s := sK 1 (0x01000000 :: 0 :: 1 :: [])
  { s with kiln := { s.kiln with
    sessions := [(0, sess write key)]
    tenants := modAt s.kiln.tenants 0 (fun x => (x.1, { x.2 with kernels := [⟨0, registryBase, words 4 [0, 0, 0xA000, 0x00041020]⟩] })) } }

theorem witness_PacketsLaunch :
    ((sPk 1 none).session 0 = some (sess 1 none) ∧ (sPk 1 (some 5)).session 0 = some (sess 1 (some 5)) ∧
      (sPk 1 (some 5)).kilnUp = true ∧ (sPk 1 (some 5)).dev.firebox = true ∧
      (sess 1 (some 5)).overrun = false ∧ (sess 1 (some 5)).read ≠ (sess 1 (some 5)).write) ∧
      objGives (sPk 1 none) .ten 0x10608 8 (fun _ bs => leNat bs == 1) = true ∧
      objGives (sPk 1 (some 5)) .ten 0x10800 256 (fun _ bs => bs.length == 256 && headerOk (sess 1 (some 5)) 0 bs
        && bs.take 0xE0 == pkHead) = true ∧ (sPk 1 (some 5)).kiln.launches.length < 4096 ∧
      ({ Machine.State.reset with dev := { Dev.reset with firebox := false } } : Machine.State).dev.firebox = false ∧
      2 ^ 4 < (17 + 2 ^ 64 - 0) % 2 ^ 64 := by decide +kernel

/-- The bytes of a packet that passes: its MAC is the one that the session's key gives. -/
def pkBytes : List Byte := pkHead ++ leBytes (Config.kmac 5 pkHead).toNat 32

theorem packet_take {h m : List Byte} (hl : h.length = 0xE0) : (h ++ m).take 0xE0 = h := List.take_left' hl
theorem packet_drop {h m : List Byte} (hl : h.length = 0xE0) : (h ++ m).drop 0xE0 = m := List.drop_left' hl
theorem packet_mac (b : BitVec 256) : leNat ((leBytes b.toNat 32).take 32) = b.toNat := by
  rw [List.take_of_length_le (by simp [length_leBytes]), leNat_leBytes]
  exact Nat.mod_eq_of_lt (by simpa using b.isLt)

theorem witness_PacketsLaunch_passes : ∃ k ws, (sPk 1 (some 5)).checkPacket 0 (sess 1 (some 5)) pkBytes = some (k, ws) := by
  have hl : pkHead.length = 0xE0 := by decide +kernel
  have hm : macOk (sess 1 (some 5)) pkBytes = true := by
    have h1 : pkBytes.take 0xE0 = pkHead := packet_take hl
    have h2 : fieldAt pkBytes 0xE0 32 = (Config.kmac 5 pkHead).toNat := by
      rw [fieldAt, pkBytes, packet_drop hl]
      exact packet_mac _
    simp only [macOk, sess, h1, h2, BitVec.ofNat_toNat, BitVec.setWidth_eq, beq_self_eq_true]
  have hf : ∀ off n, off + n ≤ 0xE0 → fieldAt pkBytes off n = fieldAt pkHead off n := by
    intro off n h
    rw [fieldAt, fieldAt, pkBytes, List.drop_append_of_le_length (by omega), List.take_append_of_le_length (by simp; omega)]
  have hh : headerOk (sess 1 (some 5)) 0 pkBytes = true := by
    simp only [headerOk, hf _ _ (show 0 + 4 ≤ 0xE0 by decide), hf _ _ (show 4 + 4 ≤ 0xE0 by decide),
      hf _ _ (show 0x50 + 4 ≤ 0xE0 by decide), hf _ _ (show 0x54 + 4 ≤ 0xE0 by decide), hf _ _ (show 0x5C + 4 ≤ 0xE0 by decide)]
    decide +kernel
  have hw : packetWords pkBytes = packetWords pkHead := by
    unfold packetWords
    apply List.map_congr_left
    intro i hi
    exact hf _ _ (by have := List.mem_range.mp hi; omega)
  have hp : (match kernelWith ((sPk 1 (some 5)).tenant 0).kernels (fieldAt pkHead 0x10 64) with
      | none => false
      | some _ => ((packetWords pkHead).map (resolve ((sPk 1 (some 5)).tenant 0).extents)).all Option.isSome) = true := by decide +kernel
  have hq : decide (fieldAt pkHead 8 8 ≤ (sess 1 (some 5)).seq) = false := by decide +kernel
  have ht : (sess 1 (some 5)).tenant = 0 := rfl
  simp only [Machine.State.checkPacket, hm, hh, hw, hf _ _ (show 8 + 8 ≤ 0xE0 by decide), hf _ _ (show 0x10 + 64 ≤ 0xE0 by decide), hq]
  rw [ht]
  generalize kernelWith ((sPk 1 (some 5)).tenant 0).kernels (fieldAt pkHead 0x10 64) = o at hp ⊢
  cases o with
  | none => exact absurd hp (by decide)
  | some k =>
    simp only [Bool.not_true, Bool.false_or, Bool.false_eq_true, if_false, hp, if_true]
    exact ⟨_, _, rfl⟩

/-! ## WellFormed: an ill-formed term for each check -/

def allIll (l : List Instr) : Bool := l.all (fun i => !i.wf)
def allWell (l : List Instr) : Bool := l.all (fun i => i.wf)

/-- Operands that do not fit their shape: a pair of literals or a literal where no such operand may stand, an odd register of a
pair, a register that does not begin a quad or a group, a destination that is no register, an unused operand that is named. -/
theorem test_illOperands : allIll [
    .iadd ga (.lit 1) (.v 0) (.v 0), .iadd ga .laneix (.v 0) (.v 0), .iadd ga (.v 0) (.lit2 1) (.v 0), .iadd ga (.v 0) (.v 0) (.lit2 1),
    .mov ga (.v 0) (.lit2 1), .iaddQ ga (.v 1) (.v 2) (.v 4), .iaddQ ga (.v 2) (.v 3) (.v 4), .iaddQ ga (.s 2) (.v 2) (.s 5),
    .shlQ ga (.v 2) (.v 4) (.lit2 1), .movQ ga .laneix (.v 2), .imulQ ga (.v 2) (.v 87) (.v 4), .imad ga (.v 1) (.v 1) (.v 1) (.lit2 5),
    .qblk ga (.v 2) (.v 4) (.v 1), .qblk ga (.v 2) (.s 8) (.v 1), .dqblk ga (.v 9) (.v 2) (.v 1), .cvtHad ga (.v 1) (.v 2) (.v 3) (.v 5) .f32 .rne false false fs0,
    .ld ga (.v 1) (.v 2) .zero (mm .b128 .core), .cpOut ga (.v 2) (.v 2) (.v 4) .zero (cp0 true), .cpTile ga (.lit 3) (.v 2) (.v 4) .zero (cp0 true),
    .cpTile ga .zero (.v 2) (.v 5) .zero (cp0 true), .sget ga (.v 1) 0x20, .sset ga (.v 3) 0x20, .cctl ga (.v 2) .zero .cinv fs0,
    .gatePass ga (.v 1) 0, .gateWait ga (.v 1) 0, .tokGive ga (.v 1) false, .calli ga (.v 1) (.v 2), .jmpi ga (.s 7),
    .cvt ga (.v 1) (.v 5) .e4m3x4 .f32 .rne false, .cvt ga (.v 3) (.v 5) .f32 .e2m1x8 .rne false] = true := by decide

/-- Modifiers that an entry does not take. -/
theorem test_illModifiers : allIll [
    .icmp ga (.v 1) (.v 2) .f32 .lt 2, .icmp ga (.v 1) (.v 2) .s32 .uo 2, .icmp ga (.v 1) (.v 2) .s32 .ord 2, .iaddSat ga (.v 1) (.v 2) (.v 3) .s64,
    .bfe ga (.v 1) (.v 2) (.v 3) .b32, .ffma ga (.v 1) (.v 2) (.v 3) (.v 4) .f16 .rne, .fabs ga (.v 1) (.v 2) .e4m3x4,
    .cvt ga (.v 1) (.v 5) .f32 .b32 .rne false, .cvt ga (.v 1) (.v 5) .f16x2 .bf16x2 .rne false, .cvt ga (.v 1) (.v 5) .e2m1b .f32 .rne false,
    .cvtHad ga (.v 1) (.v 2) (.v 3) (.v 4) .e2m1 .rne false false fs0, .lpickIdx ga (.v 1) (.v 2) (.v 3) .s32 .w32,
    .lred ga (.v 1) (.v 2) .add .b32 .w32, .lred ga (.v 1) (.v 2) .xor .s32 .w32, .lscan ga (.v 1) (.v 2) .min .s64 .w32 true,
    .ld ga (.v 1) (.v 2) .zero (mm .e4m3 .core), .ld ga (.v 1) (.v 2) .zero { mm .n32 .core with order := .rel },
    .st ga (.v 2) .zero (.v 1) { mm .n32 .core with order := .acq }, .lds ga (.v 1) (.v 2) .zero { mm .n32 .core with hint := .evf },
    .sts ga (.v 2) .zero (.v 1) { mm .n32 .core with hint := .nl1 }, .ldw ga (.v 1) (.v 2) .zero { mm .n32 .core with hint := .evf },
    .ldc ga (.v 4) (.v 2) .zero .b128 fs0, .gather ga (.v 4) (.v 2) .zero (mm .b128 .core), .rmw ga (.v 1) (.v 2) .zero (.v 3) (rm true true),
    .rmw ga (.v 1) (.v 2) .zero (.v 3) { rm false false with ty := .f16 }, .rmw ga (.v 1) (.v 2) .zero (.v 3) { rm false false with op := .exch },
    .fold ga (.v 2) .zero (.v 3) { rm false false with order := .acq }, .rmwCas ga (.v 1) (.v 2) .zero (.v 3) { rm false false with ty := .s32 },
    .rmwCas ga (.v 1) (.v 2) (.v 3) (.v 3) { rm false false with ty := .b32, op := .xor }, .fence ga .rlx .core,
    .qpush ga .zero (.v 2) (.v 4) .full .acq .core fs0, .qpop ga .zero (.v 2) (.v 4) .rel .core fs0, .accz ga { acc0 0 .all with aty := .f16 },
    .accld ga (.v 1) (.v 2) { acc0 0 .all with rnd := .rtz }, .accld ga (.v 1) (.v 2) { acc0 0 .all with sat := true }] = true := by decide

/-- The neighbours of those terms that have an encoding. -/
theorem test_wellFormed : allWell [
    .iadd ga .zero .laneix (.lit 1), .iaddQ ga (.v 86) (.s 30) (.lit2 1), .qblk ga (.v 2) (.v 80) (.v 1), .ld ga (.v 84) (.v 2) .zero (mm .b128 .core),
    .gatePass ga .zero 0, .gatePass ga (.v 1) 15, .icmp ga (.v 2) (.v 4) .n64 .ge 7, .cvt ga (.v 1) (.v 84) .e4m3x4 .f32 .rne false,
    .cvt ga (.v 80) (.v 5) .f32 .e2m1x8 .rne false, .rmw ga (.v 1) (.v 2) .zero (.v 3) (rm true false), .fence ga .ar .sys,
    .rmwCas ga (.v 4) (.v 2) (.v 4) (.v 8) { rm false false with ty := .b128 }, .sget ga (.v 2) 0x20] = true := by decide

/-! ## Words that decode to no instruction, each refused by name (R394 to R399) -/

def refused (l : List (List W32 × Reject)) : Bool :=
  l.all (fun x => match decodeWords x.1 with | .ok _ => false | .error r => decide (r = x.2))

/-- A reserved major opcode, a reserved sub-opcode, code 121 as a destination, codes 126 and 125 of a 32-bit source, an odd
register of a pair, a literal word past the end of the clause, a second word past it, a named operand of `nop`, a reserved
type, a branch that is not last. -/
theorem test_refused : refused [
    ([0xFE000000], .major 0x7F), ([0xB0000000, 0xFFF00000], .sub 0x58 0xFF), ([0x021E4082], .operand 0), ([0x02007F02], .operand 1),
    ([0x020040FD, 0, 0], .operand 2), ([0x30004104], .operand 0), ([0x02007E02], .literalPastEnd), ([0xB0004103], .wordPastEnd),
    ([0x00000001], .operand 2), ([0xB01E01D9, 0x00F06102], .modifier 10), ([0xA0000001, 0x00000000], .transferNotLast)] = true := by
  decide

/-! ### Clauses over rounding, strands and accesses -/

theorem witness_SpecialValues_round :
    ((fF32 ∈ [fF32, fF16, fBf16, fE4m3, fE5m2, fE2m1, fE3m5] ∧ fF32.signed = true) ∧
      fE3m5 ∈ [fF32, fF16, fBf16, fE4m3, fE5m2, fE2m1, fE3m5] ∧ (5 : Nat) ≠ 0) ∧
      f32 0x40400000 = .fin false (3 * 2 ^ 22) (-22) ∧ (3 * 2 ^ 22 : Nat) ≠ 0 := by decide

/-- Lanes that go to 16, 4, 8 and 4; with 6 and with 7 entries on the stack. -/
def fourWays (i : Nat) : Nat := [16, 4, 8, 4].getD i 0
def sliceOn (n : Nat) : SliceSt := { SliceSt.fresh 4 with stack := List.replicate n ⟨0, 1⟩ }

theorem witness_Transfers_ways :
    ((sliceOn 6).mask ≠ 0 ∧ ([4, 8, 16] : List Nat).Pairwise (· < ·) ∧
      (∀ a, a ∈ [4, 8, 16] ↔ ∃ i, (sliceOn 6).mask.getLsbD i = true ∧ fourWays (0 + i) = a) ∧
      (sliceOn 6).stack.length + 2 ≤ 8 ∧ 8 < (sliceOn 7).stack.length + 2) ∧
      (pe s0 ga).w.task.slices.length = 8 ∧ ∃ w', (pe s0 ga).w.transfer (pe s0 ga).st (fun l =>
        if (pe s0 ga).part.getLsbD l then (if l < 4 then 100 else 200) else (pe s0 ga).pc + 4) ((pe s0 ga).pc + 4) true = .ok w' := by
  refine ⟨⟨by decide, by decide, ?_, by decide, by decide⟩, by decide, transfer_of (by decide)⟩
  intro a
  constructor
  · intro h
    simp only [List.mem_cons, List.not_mem_nil, or_false] at h
    rcases h with rfl | rfl | rfl
    · exact ⟨1, by decide, by decide⟩
    · exact ⟨2, by decide, by decide⟩
    · exact ⟨0, by decide, by decide⟩
  · rintro ⟨i, hi, rfl⟩
    have : i < 4 := BitVec.lt_of_getLsbD hi
    interval_cases i <;> decide

/-- Every slice waits at a `wide`, at one address or at two. -/
def sWides (last : Nat) : Machine.State := modW (fun w => w.modSlicesI 0xFF (fun i x =>
  { x with wait := some .wide, pc := if i = 7 then last else 4 })) s0

theorem witness_StrandsMerge_wide : ∀ last ∈ [4, 12], (sWides last).wave 0 = some (pe (sWides last) ga).w ∧
    (sWides last).awake (pe (sWides last) ga).w = true ∧ (∀ i, i < 8 → (pe (sWides last) ga).w.liveSlices.getLsbD i = true ∧
      ((pe (sWides last) ga).w.slice i).wait = some .wide ∧ 4 ≤ ((pe (sWides last) ga).w.slice i).pc) ∧
    ((pe (sWides last) ga).w.slice 0).pc = 4 ∧ ((pe (sWides last) ga).w.slice 7).pc = last := by decide

/-- The first lane of an executing strand whose address has a fault. -/
def firstLane (e : Env) (q : Nat → Bool) (l : Nat) : Bool :=
  e.part.getLsbD l && q l && (List.range l).all (fun j => !(e.part.getLsbD j && q j))

theorem first_of {e : Env} {q : Nat → Bool} {l : Nat} (h : firstLane e q l = true) :
    e.part.getLsbD l = true ∧ q l = true ∧ ∀ j, j < l → e.part.getLsbD j = true → ¬q j = true := by
  simp only [firstLane, Bool.and_eq_true, List.all_eq_true, List.mem_range, Bool.not_eq_true', Bool.and_eq_false_iff] at h
  refine ⟨h.1.1, h.1.2, fun j hj hp => ?_⟩
  rcases h.2 j hj with h2 | h2
  · simp [hp] at h2
  · simp [h2]

/-- The operands of the accesses: two of a 64-bit address, two of a 32-bit one, three of each, and those of `rmw.cas`. -/
def forms64 (b : Opd) : List (List (Opd × Nat)) :=
  [[(.laneix, 2), (b, 1)], [(.laneix, 2), (b, 1), (.v 1, 1)], [(.laneix, 2), (.v 3, 1), (.v 1, 1)]]
def forms32 (a b : Opd) : List (List (Opd × Nat)) :=
  [[(a, 1), (b, 1)], [(a, 1), (b, 1), (.v 1, 1)], [(a, 1), (.v 3, 1), (.v 1, 1)]]

/-- Lane 1 is the first that forms a misaligned address, lane 0 the first outside a space. -/
theorem witness_AccessStops_lanes :
    (∀ cs ∈ forms64 .zero ++ forms32 .laneix .zero ++ forms64 (.lit 1), ∀ ds ∈ [[], [((.v 1 : Opd), 1)]],
      (readsB s0 ga ds cs && flagB s0 ga fs0) = true) ∧
      firstLane (pe s0 ga) (fun j => ((pe s0 ga).w.rdq .laneix j + ((pe s0 ga).w.rd .zero j).signExtend 64).toNat % tyBytes .n32 != 0) 1
        = true ∧
      firstLane (pe s0 ga) (fun j => ((pe s0 ga).w.rd .laneix j + (pe s0 ga).w.rd .zero j).toNat % tyBytes .n32 != 0) 1 = true ∧
      firstLane (pe s0 ga) (fun j => ((pe s0 ga).w.rdq .laneix ((pe s0 ga).leader.getD 0) +
        ((pe s0 ga).w.rd (.lit 1) j).signExtend 64).toNat % tyBytes .n32 != 0) 0 = true ∧
      firstLane (pe s0 ga) (fun j => ((pe s0 ga).w.rdq .laneix j).toNat % tyBytes .n32 != 0) 1 = true := by decide

def lanesAll (e : Env) (q : Nat → Bool) : Bool := (List.range 32).all (fun j => !e.part.getLsbD j || q j)

theorem all_of {e : Env} {q : Nat → Bool} (h : lanesAll e q = true) : ∀ j, e.part.getLsbD j = true → q j = true := by
  intro j hj
  have hlt : j < 32 := BitVec.lt_of_getLsbD hj
  simp only [lanesAll, List.all_eq_true, List.mem_range] at h
  simpa [hj] using h j hlt

/-- The addresses of `sMem` lead to a line of its region 3. -/
def sAlias : Machine.State :=
  { sMem with
    kiln := { sMem.kiln with tenants := modAt sMem.kiln.tenants 0 (fun x => (x.1, { x.2 with
      ranges := [(0, 2 ^ 26)], regions := List.replicate 3 ⟨0, 0, 0, 0⟩ ++ [⟨0x01000000, 1, 0x100E, 0x961⟩] })) }
    clusters := [(0, ⟨[], [⟨1, 0x10000, 65536, 0x130000000000, ⟨true, true, 0, false, 1, 0⟩⟩]⟩)] }

theorem ok_all {ε α β : Type} {x : Except ε (α × β)} (p : α → β → Bool)
    (h : (match x with | .ok (a, b) => p a b | .error _ => true) = true) : ∀ a b, x = .ok (a, b) → p a b = true := by
  rintro a b rfl
  exact h

/-- Every lane forms 2^56; the first byte past the scratchpad; an address past all members, that of no member, and one past the end
of a member; an address in GLAZE space. -/
theorem witness_AccessStops_outside :
    (∀ cs ∈ [[((.lit2 (2 ^ 56) : Opd), 2), (.zero, 1)], [(.lit2 (2 ^ 56), 2), (.zero, 1), (.v 1, 1)], [(.lit2 (2 ^ 56), 2), (.v 3, 1), (.v 1, 1)],
        [(.lit 0x80000, 1), (.zero, 1)], [(.lit 0x80000, 1), (.zero, 1), (.v 1, 1)], [(.lit 0x80000, 1), (.v 3, 1), (.v 1, 1)]],
        ∀ ds ∈ [[], [((.v 1 : Opd), 1)]], (readsB s0 ga ds cs && flagB s0 ga fs0) = true) ∧
      (let x (j : Nat) : Nat := ((pe s0 ga).w.rdq (.lit2 (2 ^ 56)) j + ((pe s0 ga).w.rd .zero j).signExtend 64).toNat
       lanesAll (pe s0 ga) (fun j => x j % 4 == 0) = true ∧ firstLane (pe s0 ga) (fun j => decide (2 ^ 56 ≤ x j)) 0 = true) ∧
      (let x (j : Nat) : Nat := ((pe s0 ga).w.rd (.lit 0x80000) j + (pe s0 ga).w.rd .zero j).toNat
       lanesAll (pe s0 ga) (fun j => x j % 4 == 0) = true ∧
       firstLane (pe s0 ga) (fun j => decide (s0.spadSize (pe s0 ga).w.group < x j + 4)) 0 = true ∧
       firstLane (pe s0 ga) (fun j => decide (s0.memberSize (pe s0 ga).w.group < x j % 2 ^ 21 + 4)) 0 = true) ∧
      (2 ^ 28 ≤ ((pe s0 ga).w.rd (.lit 0x10000000) 0).toNat ∧ s0.member 0 (0x200000 / 2 ^ 21) = .absent) ∧
      (rm false false).spad = false ∧ (rm true false).spad = true ∧ (rm true false).far = false := by decide

theorem witness_AccessStops_alias : Issues sAlias ga fs0 [(.v 1, 1)] [(at0 0x40, 2), (.zero, 1), (.v 1, 1)] (pe sAlias ga) ∧
    (rm false true).far = true ∧ (∃ tn y at_, sAlias.translate (pe sAlias ga).ag 0x10040 .write = .ok (.inAlias tn y, at_)) ∧
    firstLane (pe sAlias ga) (fun j => ((pe sAlias ga).w.rdq (at0 0x40) j + ((pe sAlias ga).w.rd .zero j).signExtend 64).toNat == 0x10040) 0
      = true := by
  refine ⟨issues_of (by decide), by decide, ⟨0, 0x030000000040, ⟨true, true, 0, false, 1, 0⟩, by decide +kernel⟩, by decide⟩

/-- The scope cap over mapped memory. -/
def sCapM (strict : Bool) : Machine.State := sMem.modCtx 0 (fun c => { c with cap := true, strict := strict })

theorem witness_AccessStops_capped : ∀ strict ∈ [false, true],
    ((pe (sCapM strict) ga).part ≠ 0 ∧ ((sCapM strict).ctx (pe (sCapM strict) ga).ag.ctx).map (fun c => (c.cap, c.strict)) =
      some (true, strict)) ∧
    (∀ cs ∈ [[(at0 0x40, 2), (.zero, 1)], [(at0 0x40, 2), (.zero, 1), (.v 1, 1)], [(at0 0x40, 2), (.v 3, 1), (.v 1, 1)],
        [(.lit 0x40, 1), (.zero, 1)], [(.lit 0x40, 1), (.zero, 1), (.v 1, 1)], [(.lit 0x40, 1), (.v 3, 1), (.v 1, 1)]],
        ∀ ds ∈ [[], [((.v 1 : Opd), 1)]], (readsB (sCapM strict) ga ds cs && flagB (sCapM strict) ga fs0) = true) ∧
    lanesAll (pe (sCapM strict) ga) (fun j =>
      let x := ((pe (sCapM strict) ga).w.rdq (at0 0x40) j + ((pe (sCapM strict) ga).w.rd .zero j).signExtend 64).toNat
      x == 0x10040 && x % 4 == 0 && decide (x < 2 ^ 56)) = true ∧
    lanesAll (pe (sCapM strict) ga) (fun j =>
      let x := ((pe (sCapM strict) ga).w.rd (.lit 0x40) j + (pe (sCapM strict) ga).w.rd .zero j).toNat
      x % 4 == 0 && decide (x + 4 ≤ (sCapM strict).spadSize (pe (sCapM strict) ga).w.group) && decide (x < 2 ^ 28)
        && decide (x % 2 ^ 21 + 4 ≤ (sCapM strict).memberSize (pe (sCapM strict) ga).w.group)) = true ∧
    ((sCapM strict).member (pe (sCapM strict) ga).w.group (0x40 / 2 ^ 21) != .absent) = true ∧
    (match (sCapM strict).translate (pe (sCapM strict) ga).ag 0x10040 .write with
      | .ok (p, _) => ((sCapM strict).atomErr (pe (sCapM strict) ga).ag (.rmw ga (.v 1) (at0 0x40) .zero (.v 1)
          { rm false true with scope := .sys }) p 0x10040).isNone && (match p with | .inAlias _ _ => false | _ => true)
      | .error _ => true) = true ∧
    (leadsB (sCapM strict) ga [] [] && quietB (sCapM strict) ga) = true ∧
    (sCapM strict).reportAt (pe (sCapM strict) ga).u (fun _ => true) = none ∧
    (pe (sCapM strict) ga).w.behind (pe (sCapM strict) ga).sl = false := by decide +kernel

/-- Every lane does an atomic that the path to host memory does not perform. -/
theorem witness_AccessStops_path :
    (∀ cs ∈ [[(at0 0x40, 2), (.zero, 1), (.v 1, 1)], [(at0 0x40, 2), (.v 3, 1), (.v 1, 1)]], ∀ ds ∈ [[], [((.v 1 : Opd), 1)]],
      (readsB sHost ga ds cs && flagB sHost ga fs0) = true) ∧
    lanesAll (pe sHost ga) (fun j =>
      let x := ((pe sHost ga).w.rdq (at0 0x40) j + ((pe sHost ga).w.rd .zero j).signExtend 64).toNat
      x == 0x10040 && x % 4 == 0 && decide (x < 2 ^ 56)) = true ∧ (pe sHost ga).part.getLsbD 0 = true ∧
    sHost.translate (pe sHost ga).ag 0x10040 .write = .ok (.home 0 0x40 0 0x40, ⟨true, true, 0, false, 1, 2⟩) ∧
    (∀ i ∈ [Instr.rmw ga (.v 1) (at0 0x40) .zero (.v 1) (rm false false), .fold ga (at0 0x40) .zero (.v 1) (rm false false),
      .rmwCas ga (.v 1) (at0 0x40) (.v 3) (.v 1) (rm false false)],
      sHost.atomErr (pe sHost ga).ag i (.home 0 0x40 0 0x40) 0x10040 = some 2) ∧ (rm false false).far = false := by
  refine ⟨by decide, by decide, by decide, by decide, by decide, by decide⟩

/-! ### Clauses over single precision, queues and controllers -/

theorem witness_AtomicValues_f32 : ({ rm false false with ty := .f32 } : RmwMods).ty = .f32 ∧
    (0x3F800000 : Nat) < 2 ^ (8 * tyBytes .f32) := by decide

theorem witness_HostQueues_index :
    objGives (sK 1 recW) .sys 0x10608 8 (fun _ bs => decide ((leNat bs + 2 ^ 64 - 0) % 2 ^ 64 ≤ 2 ^ 4)) = true ∧
      (let s := sK 1 recW
       objGives { s with mem := { s.mem with loc := Store.setBytes s.mem.loc 0x608 (leBytes 17 8) } } .sys 0x10608 8
         (fun _ bs => decide (2 ^ 4 < (leNat bs + 2 ^ 64 - 0) % 2 ^ 64))) = true := by decide +kernel

/-- The controller of stack 0 is being replaced, or that of a link. -/
def replacing (c : Nat) (s : Machine.State) : Machine.State :=
  { s with dev := { s.dev with activation := some ⟨c, 0, 5, some 100, false, none⟩ } }

/-- Gang 0 has a save area at 0x4000. -/
def areas (s : Machine.State) : Machine.State := s.modGang 0 (fun x => { x with saveAreas := [0x4000] })

theorem witness_GangsMove_areas :
    (let s := areas (((sMark .saved false 0).modGroup 0 (fun x => { x with core := none })).modLaunch 0 (fun x => { x with state := .ready }))
     s.gangWaits 0 = false ∧ ((List.range 8).any (fun k => (replacing (0x20 + k) s).gangWaits 0)) = true ∧
       (replacing 0x20 s).kilnUp = true) ∧
      (let s := areas (sMark .resident true 0)
       (∀ z ∈ s.kiln.groups, s.areaWaits z.1 = false) ∧
         ((List.range 8).any (fun k => (replacing (0x20 + k) s).kiln.groups.any (fun z => (replacing (0x20 + k) s).areaWaits z.1))) = true) := by
  decide +kernel

theorem witness_SpansMove_areas :
    (let x := (sSpan [(7, planned)]).span 7
     x.reserved.any (fun p => p.gang.any (fun g => (sSpan [(7, planned)]).gangWaits g)) = false) ∧
    (let x : Span := { planned with reserved := [⟨5, 0, some 0, [(1, 0)], [], []⟩] }
     (List.range 8).any (fun k => x.reserved.any (fun p => p.gang.any (fun g => (replacing (0x20 + k) (areas (sSpan [(7, x)]))).gangWaits g))) = true) := by
  decide +kernel

theorem witness_ExtentsAndInbound_links :
    (linked s0).linkWaits = false ∧ (replacing 0x10 (linked s0)).linkWaits = true ∧
      (replacing 0x10 (linked s0)).arrivalWaits (.readLocal 0 0 1) = true ∧
      (replacing 0x10 (linked sHost)).arrivalWaits (.readLocal 0 0 1) = false := by decide +kernel

theorem witness_FirmwareReplaced_kiln :
    (let s : Machine.State := { sFirm none none 101 with dev := { (sFirm none none 101).dev with
       activation := some { act0 none false with controller := 0 } } }
     s.dev.activation.map (fun a => (a.controller, a.deadline)) = some (0, none)) ∧ (replacing 0 sMem).kilnUp = false := by decide +kernel

theorem witness_StoreFrames_stack : sMem.dev.stackBits.getLsbD (stackOf 0x40) = true := by decide

theorem witness_DestinationsWritten_pairs : (pe s0 ga).w.task.wf = true ∧ (0xC : W32).getLsbD (0 / 4 * 4 + 2) = true ∧
    (∀ j, j < 2 → (0xC : W32).getLsbD (0 / 4 * 4 + j) = false) ∧ (30 : Nat) % 2 = 0 := by decide

/-- A held lock in host memory, in a context in viral mode. -/
def sVLock : Machine.State :=
  let s := sHost.modCtx 0 (fun c => { c with viral := true })
  { s with mem := { s.mem with homes := [(0, Store.setBytes [] 0x80 (words 8 [0x10400, 5]))] } }

theorem witness_FutureLockPark_viral : Leads sVLock ga [] [(at0 0x80, 2)] (pe sVLock ga) ∧
    (pe sVLock ga).w.behind (pe sVLock ga).sl = false ∧ (pe sVLock ga).leader = some 0 ∧
    ∃ s1 f, sVLock.waitable (pe sVLock ga).ag 0x10080 = .ok (s1, f) ∧
      (f.state == 5 && f.entry == 0 && f.owner == (pe sVLock ga).w.task.record.toNat &&
        (s1.canWrite (pe sVLock ga).ag 0x10080 16).isNone && (s1.release (pe sVLock ga).ag .ten).discards (pe sVLock ga).ag 0x10080) = true :=
  ⟨leads_of (by decide), by decide, by decide, ex_ok _ (by decide +kernel)⟩

/-! ## The spec's worked examples -/

/-- R158: the worked conversions of 0.3, 2.5, −0.2 and 500.0. -/
theorem test_conversions :
    (let c (x : W32) (f : Fmt) (r : Rnd) : Nat := f.conv r false (f32 x)
     [c 0x3E99999A fBf16 .rne, c 0x3E99999A fE4m3 .rne, c 0x3E99999A fE5m2 .rne, c 0x3E99999A fE3m5 .rup, c 0x3E99999A fE2m1 .rne,
       c 0x40200000 fE2m1 .rne, c 0x40200000 fE2m1 .rna, c 0xBE4CCCCD fE2m1 .rne, c 0xBE4CCCCD fE2m1 .rdn, c 0x43FA0000 fE4m3 .rne,
       c 0x43FA0000 fE5m2 .rne, c 0x43FA0000 fE2m1 .rne]) =
      [0x3E9A, 0x2A, 0x35, 0x27, 0x1, 0x4, 0x5, 0x8, 0x9, 0x7E, 0x60, 0x7] := by decide

/-- R17: the stacks of two addresses. -/
theorem test_stacks : stackOf 0x0000012345678000 = 3 ∧ stackOf 0x0000012345679000 = 2 := by decide

/-- R53: a group with 3 register, 4 scratchpad and 6 accumulator units and 7 waves takes 496 KiB. -/
theorem test_saveSize : saveSize { probeRecord with waves := 7, pool := 0x00030604 } = 496 * 1024 := by decide

/-- R121: row 200 of region 3. -/
def regs3 : List Region := List.replicate 3 ⟨0, 0, 0, 0⟩ ++ [⟨0x01000000, 1, 0x100E, 0x961⟩]
theorem test_glazedLine : bandBase ⟨0x01000000, 1, 0x100E, 0x961⟩ 200 = 0x0100C000 ∧ aliasPlane regs3 0x13000000C800 = some 0x0100C600 ∧
    aliasPlane regs3 (0x13000000C800 + 192) = some 0x0100F180 := by decide

/-- R161: block 0 of a row of band scale 1.0. -/
theorem test_quantBlock : quantBlock ([0x3F600000, 0xC0200000, 0x3E000000, 0, 0x3FA00000, 0, 0, 0x3EE00000].map f32) (fBf16.val 0x3F80)
    = (0x36, [0x4, 0xF, 0x1, 0x0, 0x5, 0x0, 0x0, 0x2]) := by decide +kernel

/-- R163: the finaliser on 1, from the last product that the spec's example gives: 0x5692161DBD2F29DE XOR itself >> 31. The
example's own last line has two digits exchanged (log 37). -/
theorem test_flips : (0x5692161DBD2F29DE ^^^ (0x5692161DBD2F29DE >>> 31) : W64) = mix64 1 ∧ flips 0x961 2400 = 0x100B05E5 := by decide

/-- R240: lanes 0 and 1 of the transform of 1.0 in every lane. -/
theorem test_hadamard : (hadamard false 0x100B055E (List.replicate 32 0x3F800000)).take 2 = [0x3FA00000, 0xBF400000] := by decide +kernel

/-- R166: an element whose group sums are 2^-16 and zeros, band scales 2.0 and 0.5, on 1.0; and 12 sums of 16 of a half-rate
`mmas` (the example of chapter 14: 384). -/
theorem test_accumulate :
    groupSum [(.fin false 1 (-16)), .fin false 4096 0, .fin true 4096 0] = 0x37800000 ∧
      accumulate 0x3F800000 (0x37800000 :: List.replicate 11 0) false (fBf16.val 0x4000) (fBf16.val 0x3F00) = 0x3F800080 ∧
      accumulate 0 (List.replicate 12 0x41800000) true (fBf16.val 0x4000) (fBf16.val 0x3F00) = 0x43C00000 := by decide +kernel

/-- R177: images of 128 columns of e2m1b, dense and at 16:32. -/
theorem test_imageSizes : (planesOf .e2m1b 384 .dense).size 128 = 30736 ∧ (planesOf .e2m1b 384 .s16).size 128 = 24592 := by decide

/-! ## One step on a small state -/

/-- What an instruction leaves in a register of a lane. -/
def leaves (i : Instr) (s : Machine.State) (r l : Nat) : Option W32 :=
  match exec i s with
  | .next t => (t.wave 0).map (fun w => w.vreg r l)
  | _ => none

/-- v1, v2, v3 of each lane. -/
def sVal (x y z : W32) : Machine.State := modW (fun w =>
  ((w.wr (.v 1) 0xFFFFFFFF (fun _ => x)).wr (.v 2) 0xFFFFFFFF (fun _ => y)).wr (.v 3) 0xFFFFFFFF (fun _ => z)) s0

/-- R227, R228: the spec's examples. -/
theorem test_fields : leaves (.bfe ga (.v 4) (.v 1) (.lit 0x804) .n32) (sVal 0xF50 0 0) 4 0 = some 0xF5 ∧
    leaves (.bfe ga (.v 4) (.v 1) (.lit 0x804) .s32) (sVal 0xF50 0 0) 4 31 = some 0xFFFFFFF5 := by decide
theorem test_funnels : leaves (.fshl ga (.v 4) (.v 1) (.v 2) (.v 3)) (sVal 0x12345678 0x9ABCDEF0 8) 4 0 = some 0x3456789A ∧
    leaves (.fshr ga (.v 4) (.v 1) (.v 2) (.v 3)) (sVal 0x12345678 0x9ABCDEF0 8) 4 5 = some 0x789ABCDE := by decide

/-- R215: sums wrap, a product's high word is that of the signed or of the unsigned product; the source may be the destination. -/
theorem test_wraps : leaves (.iadd ga (.v 1) (.v 1) (.v 1)) (sVal 0x80000001 0 0) 1 7 = some 2 ∧
    leaves (.isub ga (.v 4) (.zero) (.v 1)) (sVal 1 0 0) 4 7 = some 0xFFFFFFFF := by decide
theorem test_highWords : leaves (.imulhS ga (.v 4) (.v 1) (.v 2)) (sVal 0xFFFFFFFF 0xFFFFFFFF 0) 4 0 = some 0 ∧
    leaves (.imulhN ga (.v 4) (.v 1) (.v 2)) (sVal 0xFFFFFFFF 0xFFFFFFFF 0) 4 0 = some 0xFFFFFFFE := by decide
theorem test_minSigned : leaves (.iminS ga (.v 4) (.v 1) (.v 2)) (sVal 0xFFFFFFFF 1 0) 4 0 = some 0xFFFFFFFF ∧
    leaves (.iminN ga (.v 4) (.v 1) (.v 2)) (sVal 0xFFFFFFFF 1 0) 4 0 = some 1 := by decide

/-- R230, R155: 1.0 + 1.0, and rounding to even of 1 + 2^-24. -/
theorem test_fadd : leaves (.fadd ga (.v 4) (.v 1) (.v 1)) (sVal 0x3F800000 0 0) 4 0 = some 0x40000000 ∧
    leaves (.fadd ga (.v 4) (.v 1) (.v 2)) (sVal 0x3F800000 0x33800000 0) 4 0 = some 0x3F800000 := by decide +kernel

/-- R245: the spec's example of a scan: two slices, v5 = lane + 1, lane 3 not participating. -/
def sScan2 : Machine.State := modW (fun w =>
  { (((w.wr (.v 5) 0xFF (fun l => BitVec.ofNat 32 (l + 1))).setPreds 0xF7 4 (fun _ => true)).modSlices 0xFC (fun x => { x with strand := 2 })) with
    idx := 0 }) s0
theorem test_scan : (List.range 9).map (leaves (.lscan ⟨false, 4⟩ (.v 6) (.v 5) .add .s32 .w32 false) sScan2 6) =
    [some 1, some 3, some 6, some 0, some 11, some 17, some 24, some 32, some 0] ∧
    (List.range 9).map (leaves (.lscan ⟨false, 4⟩ (.v 6) (.v 5) .add .s32 .w32 true) sScan2 6) =
    [some 0, some 1, some 3, some 0, some 6, some 11, some 17, some 24, some 0] := by decide +kernel

/-- R47, R194: the pc of a strand whose guard is false in every lane moves on, past a literal word. -/
def pcAfter (s : Machine.State) : Option Nat := match step s with | .next t => (t.wave 0).map (fun w => (w.slice 0).pc) | _ => none
theorem test_pc : pcAfter (Machine.State.reset.withFetchWord 32 0x02004082) = some 8 ∧
    pcAfter (Machine.State.reset.placeWords [0x0236EBFC, 5, 0]) = some 12 := by decide

/-- The first instruction after reset: `withFetchWord` and the decoder agree on it. -/
theorem test_fetch : decodeTableWord 32 0x02004082 = some (.iadd ⟨false, 0⟩ (.v 1) (.v 1) (.v 2)) ∧
    decodeTableWord 64 0x00F00902B01E01D9 = some (.icmp ⟨false, 0⟩ (.v 3) (.s 1) .s32 .lt 2) := by decide

/-- A task whose every slice stands in `lock.take`, with a pending path. -/
def taskArea : TaskCtx :=
  let t := (probeWave [0#32]).task
  { t with
    record := 0x10400, scal := Store.setAll [] [(3, 7)], preds := Store.setAll [] [(9, 0x22)]
    slices := t.slices.map (fun x => { x with
      clause := none, pc := 0x123456789, window := 8, mask := 5, exited := 2, stack := [⟨0x44, 8⟩]
      flags := [1, 2, 3, 4, 5, 6, 7, 8, 9, 10, 11, 63], wait := some (.await true 3 0x10060) }) }

/-- What a park area holds of a slice is read back, with the chain (R83). -/
theorem test_parkArea : keptSlice (taskArea.waveBytes [0x10440]) (taskArea.slice 5) 5 = taskArea.slice 5 ∧
    chainAt (taskArea.waveBytes [0x10440]) = [0x10440] := by decide +kernel

end Sys2Proof.Tests
end

/-! PROOFS. What the operand writes of R46 and R47 leave behind: a vector destination lane by lane, a scalar destination
slice by slice, pairs, and predicate 0. -/

namespace Sys2Proof

/-- A read of a written key, where the keys written are told apart by what they are the keys of. -/
theorem Store.get_setAll_map {α : Type} {w : Nat} (m : Store w) (hm : Store.wf m = true) (key : α → Nat) (val : α → BitVec w)
    {l : List α} (hl : l.Nodup) (hinj : ∀ a ∈ l, ∀ b ∈ l, key a = key b → a = b) {a : α} (ha : a ∈ l) :
    Store.get (Store.setAll m (l.map (fun x => (key x, val x)))) (key a) = val a := by
  have hkeys : ((l.map (fun x => (key x, val x))).map (·.1)).Nodup := by
    rw [List.map_map]
    exact hl.map_on hinj
  exact Store.get_setAll_mem _ hkeys m hm _ (List.mem_map_of_mem (f := fun x => (key x, val x)) ha)

end Sys2Proof

namespace Sys2Proof.Machine

theorem lt_of_mem_bitsOf {w : Nat} {m : BitVec w} {i : Nat} (h : i ∈ bitsOf m) : i < w :=
  BitVec.lt_of_getLsbD ((mem_bitsOf m i).mp h)

/-! ## The lanes that write a scalar (R46) -/

/-- A lane writes a scalar where it is the one found in its own slice. -/
theorem mem_scalarLanes_iff_find (lanes : W32) (l : Nat) :
    l ∈ scalarLanes lanes ↔ (bitsOf lanes).find? (fun x => sliceOf x == sliceOf l) = some l := by
  simp only [scalarLanes, List.mem_filterMap, List.mem_range]
  constructor
  · rintro ⟨i, -, hfind⟩
    have hslice : sliceOf l = i := by simpa using List.find?_some hfind
    exact hslice ▸ hfind
  · intro hfind
    have hlt : l < 32 := lt_of_mem_bitsOf (List.mem_of_find?_eq_some hfind)
    exact ⟨sliceOf l, by unfold sliceOf; omega, hfind⟩

/-- They are the lowest of the writing lanes in each slice. -/
theorem mem_scalarLanes (lanes : W32) (l : Nat) :
    l ∈ scalarLanes lanes ↔
      lanes.getLsbD l = true ∧ ∀ j, j < l → sliceOf j = sliceOf l → lanes.getLsbD j = false := by
  rw [mem_scalarLanes_iff_find, bitsOf, List.find?_filter, List.find?_range_eq_some]
  simp only [beq_self_eq_true, and_true, List.mem_range, decide_eq_true_eq, Bool.not_eq_true', decide_eq_false_iff_not,
    not_and, beq_iff_eq]
  constructor
  · rintro ⟨hl, -, hlow⟩
    exact ⟨hl, fun j hj hs => Bool.eq_false_iff.mpr fun hb => hlow j hj hb hs⟩
  · rintro ⟨hl, hlow⟩
    exact ⟨hl, BitVec.lt_of_getLsbD hl, fun j hj hb hs => Bool.eq_false_iff.mp (hlow j hj hs) hb⟩

/-- No two of them are of one slice. -/
theorem scalarLanes_slice_inj {lanes : W32} {a b : Nat} (ha : a ∈ scalarLanes lanes) (hb : b ∈ scalarLanes lanes)
    (h : sliceOf a = sliceOf b) : a = b := by
  rw [mem_scalarLanes_iff_find] at ha hb
  rw [h, hb] at ha
  exact (Option.some.inj ha).symm

theorem scalarLanes_nodup (lanes : W32) : (scalarLanes lanes).Nodup := by
  refine List.Nodup.filterMap (fun i i' l hi hi' => ?_) List.nodup_range
  have hl : sliceOf l = i := by simpa using List.find?_some hi
  have hl' : sliceOf l = i' := by simpa using List.find?_some hi'
  exact hl.symm.trans hl'

/-- The lane k of slice i writes a scalar where it writes and no lower lane of the slice does. -/
theorem lane_mem_scalarLanes {lanes : W32} {i k : Nat} (hk : k < 4) (hw : lanes.getLsbD (4 * i + k) = true)
    (hlow : ∀ j, j < k → lanes.getLsbD (4 * i + j) = false) : 4 * i + k ∈ scalarLanes lanes := by
  rw [mem_scalarLanes]
  refine ⟨hw, fun j hj hs => ?_⟩
  unfold sliceOf at hs
  have hji : j = 4 * i + (j - 4 * i) := by omega
  rw [hji]
  exact hlow _ (by omega)

/-! ## One register of a destination -/

section
variable (w : Wave) (lanes : W32) (f : Nat → W32)

@[simp] theorem Wave.phys_wrPart (o : Opd) (i n l : Nat) : (w.wrPart o i lanes f).phys n l = w.phys n l := by
  cases o <;> rfl

@[simp] theorem Wave.wr_zero : w.wr .zero lanes f = w := rfl

@[simp] theorem Wave.scal_wrPart_v (n : Fin 88) (i : Nat) : (w.wrPart (.v n) i lanes f).task.scal = w.task.scal := rfl

@[simp] theorem Wave.preds_wrPart (o : Opd) (i : Nat) : (w.wrPart o i lanes f).task.preds = w.task.preds := by
  cases o <;> rfl

theorem TaskCtx.wf_iff (t : TaskCtx) :
    t.wf = true ↔ Store.wf t.vregs = true ∧ Store.wf t.scal = true ∧ Store.wf t.preds = true := by
  simp only [TaskCtx.wf, Bool.and_eq_true, and_assoc]

/-- Writing a register keeps the canonical form. -/
theorem Wave.wf_wrPart (o : Opd) (i : Nat) (h : w.task.wf = true) : (w.wrPart o i lanes f).task.wf = true := by
  rw [TaskCtx.wf_iff] at h ⊢
  obtain ⟨hv, hs, hp⟩ := h
  cases o with
  | v n => exact ⟨Store.wf_setAll _ _ hv, hs, hp⟩
  | s n => exact ⟨hv, Store.wf_setAll _ _ hs, hp⟩
  | _ => exact ⟨hv, hs, hp⟩

variable {w}

/-- R44: a vector register written in some lanes takes its value in those and no other. -/
theorem Wave.vreg_wrPart_v_self (n : Fin 88) (i : Nat) {l : Nat} (hl : l < 32) (h : w.task.wf = true) :
    (w.wrPart (.v n) i lanes f).vreg (n + i) l = if lanes.getLsbD l then f l else w.vreg (n + i) l := by
  obtain ⟨hv, -, -⟩ := (TaskCtx.wf_iff _).mp h
  rw [Wave.vreg, Wave.phys_wrPart, Wave.vreg]
  split
  · next hw =>
    refine Store.get_setAll_map _ hv (fun a => 32 * w.phys (n + i) a + a) f (bitsOf_nodup lanes) ?_
      ((mem_bitsOf lanes l).mpr hw)
    intro a ha b hb hab
    have := lt_of_mem_bitsOf ha
    have := lt_of_mem_bitsOf hb
    omega
  · next hw =>
    refine Store.get_setAll_ne _ _ (fun x hx hkey => hw ?_) _
    obtain ⟨a, ha, rfl⟩ := List.mem_map.mp hx
    have := lt_of_mem_bitsOf ha
    have hal : a = l := by dsimp only at hkey; omega
    exact hal ▸ (mem_bitsOf lanes a).mp ha

/-- The other vector registers are as they were: a lane's window is one, so two codes of it reach two registers. -/
theorem Wave.vreg_wrPart_v_ne (n : Fin 88) (i : Nat) {r l : Nat} (hl : l < 32) (hr : r ≠ n + i) :
    (w.wrPart (.v n) i lanes f).vreg r l = w.vreg r l := by
  rw [Wave.vreg, Wave.phys_wrPart, Wave.vreg]
  refine Store.get_setAll_ne _ _ (fun x hx hkey => hr ?_) _
  obtain ⟨a, ha, rfl⟩ := List.mem_map.mp hx
  have := lt_of_mem_bitsOf ha
  have hal : a = l := by dsimp only at hkey; omega
  subst hal
  dsimp only [Wave.phys] at hkey
  omega

/-- R46: a scalar takes the value of a lane that writes scalars, in the slice of that lane. -/
theorem Wave.sreg_wrPart_s_self (n : Fin 32) (i : Nat) {l : Nat} (hl : l ∈ scalarLanes lanes) (h : w.task.wf = true) :
    (w.wrPart (.s n) i lanes f).sreg (n + i) (sliceOf l) = f l := by
  obtain ⟨-, hs, -⟩ := (TaskCtx.wf_iff _).mp h
  refine Store.get_setAll_map _ hs (fun a => 32 * sliceOf a + (n + i)) f (scalarLanes_nodup lanes) ?_ hl
  intro a ha b hb hab
  exact scalarLanes_slice_inj ha hb (by omega)

/-- A scalar keeps its value in a slice of which no lane writes. -/
theorem Wave.sreg_wrPart_s_idle (n : Fin 32) (i : Nat) {j : Nat} (hj : ∀ l, sliceOf l = j → lanes.getLsbD l = false) :
    (w.wrPart (.s n) i lanes f).sreg (n + i) j = w.sreg (n + i) j := by
  refine Store.get_setAll_ne _ _ (fun x hx hkey => ?_) _
  obtain ⟨a, ha, rfl⟩ := List.mem_map.mp hx
  have haj : sliceOf a = j := by dsimp only at hkey; omega
  obtain ⟨hw, -⟩ := (mem_scalarLanes lanes a).mp ha
  exact Bool.eq_false_iff.mp (hj a haj) hw

/-- The other scalars are as they were. -/
theorem Wave.sreg_wrPart_s_ne (n : Fin 32) (i : Nat) {r j : Nat} (hi : n + i < 32) (hr : r < 32) (hne : r ≠ n + i) :
    (w.wrPart (.s n) i lanes f).sreg r j = w.sreg r j := by
  refine Store.get_setAll_ne _ _ (fun x hx hkey => hne ?_) _
  obtain ⟨a, -, rfl⟩ := List.mem_map.mp hx
  dsimp only at hkey
  omega

end

/-! ## Pairs (R5, R196) -/

/-- A value is its two words, the high one first. -/
theorem wordOf_append (x : W64) : wordOf x 1 ++ wordOf x 0 = x := by
  apply BitVec.eq_of_toNat_eq
  simp only [wordOf, BitVec.toNat_append, BitVec.toNat_setWidth, BitVec.toNat_ushiftRight]
  rw [← Nat.shiftLeft_add_eq_or_of_lt (Nat.mod_lt _ (by decide))]
  have := x.isLt
  simp only [Nat.shiftLeft_eq, Nat.shiftRight_eq_div_pow]
  omega

theorem Wave.wrq_eq (w : Wave) (o : Opd) (lanes : W32) (f : Nat → W64) :
    w.wrq o lanes f = (w.wrPart o 0 lanes (fun l => wordOf (f l) 0)).wrPart o 1 lanes (fun l => wordOf (f l) 1) := rfl

/-- A vector pair reads back what a lane wrote to it. -/
theorem Wave.rdq_wrq_v (w : Wave) (n : Fin 88) (lanes : W32) (f : Nat → W64) {l : Nat} (hl : l < 32)
    (h : w.task.wf = true) (hw : lanes.getLsbD l = true) : (w.wrq (.v n) lanes f).rdq (.v n) l = f l := by
  have hlow : (w.wrq (.v n) lanes f).vreg n l = wordOf (f l) 0 := by
    rw [Wave.wrq_eq, Wave.vreg_wrPart_v_ne _ _ _ _ hl (by omega)]
    exact (Wave.vreg_wrPart_v_self _ _ n 0 hl h).trans (if_pos hw)
  have hhigh : (w.wrq (.v n) lanes f).vreg (n + 1) l = wordOf (f l) 1 := by
    rw [Wave.wrq_eq, Wave.vreg_wrPart_v_self _ _ _ _ hl (Wave.wf_wrPart _ _ _ _ _ h), if_pos hw]
  rw [Wave.rdq, hlow, hhigh, wordOf_append]

/-- A scalar pair reads back, in each lane of a slice, what the lowest writing lane of the slice wrote to it. -/
theorem Wave.rdq_wrq_s (w : Wave) (m : Fin 32) (lanes : W32) (f : Nat → W64) {l a : Nat} (hm : m.val % 2 = 0)
    (h : w.task.wf = true) (ha : a ∈ scalarLanes lanes) (hla : sliceOf l = sliceOf a) :
    (w.wrq (.s m) lanes f).rdq (.s m) l = f a := by
  have hlow : (w.wrq (.s m) lanes f).sreg m (sliceOf a) = wordOf (f a) 0 := by
    rw [Wave.wrq_eq, Wave.sreg_wrPart_s_ne _ _ _ _ (by omega) (by omega) (by omega)]
    exact Wave.sreg_wrPart_s_self _ _ m 0 ha h
  have hhigh : (w.wrq (.s m) lanes f).sreg (m + 1) (sliceOf a) = wordOf (f a) 1 := by
    rw [Wave.wrq_eq, Wave.sreg_wrPart_s_self _ _ _ _ ha (Wave.wf_wrPart _ _ _ _ _ h)]
  rw [Wave.rdq, hla, hlow, hhigh, wordOf_append]

/-! ## Predicate 0 (R47) -/

@[simp] theorem Wave.pred_zero (w : Wave) (l : Nat) : w.pred l 0 = true := rfl

@[simp] theorem Wave.setPred_zero (w : Wave) (l : Nat) (v : Bool) : w.setPred l 0 v = w := if_pos rfl

@[simp] theorem Wave.setPreds_zero (w : Wave) (lanes : W32) (f : Nat → Bool) : w.setPreds lanes 0 f = w :=
  List.foldl_fixed' (fun l => w.setPred_zero l (f l)) _

/-! ## The obligation -/

/-- Settles O51: a write is read back register by register, the writing lane of a scalar being the lowest of its slice. -/
theorem destinationsWritten : Obligations.DestinationsWritten := by
  unfold Obligations.DestinationsWritten
  intro w lanes n r hn m hm l hl hwf
  refine ⟨fun f => ⟨?_, ?_, ?_, ?_, ?_, ?_, ?_, ?_⟩, fun f => ⟨?_, ?_⟩, ⟨w.pred_zero l, w.setPreds_zero lanes⟩, rfl,
    fun _ => rfl, rfl⟩
  · exact Wave.vreg_wrPart_v_self lanes f ⟨n, hn⟩ 0 hl hwf
  · exact fun hr => Wave.vreg_wrPart_v_ne lanes f ⟨n, hn⟩ 0 hl hr
  · exact w.scal_wrPart_v lanes f ⟨n, hn⟩ 0
  · exact w.preds_wrPart lanes f (.v ⟨n, hn⟩) 0
  · intro i _ hidle
    refine Wave.sreg_wrPart_s_idle lanes f ⟨m, hm⟩ 0 (fun a ha => ?_)
    have hai : a = 4 * i + a % 4 := by unfold sliceOf at ha; omega
    exact hai ▸ hidle (a % 4) (Nat.mod_lt _ (by decide))
  · intro i k _ hk hw hlow
    have hslice : sliceOf (4 * i + k) = i := by unfold sliceOf; omega
    have hread := Wave.sreg_wrPart_s_self lanes f ⟨m, hm⟩ 0 (lane_mem_scalarLanes hk hw hlow) hwf
    rwa [hslice] at hread
  · exact fun i _ hr hne => Wave.sreg_wrPart_s_ne lanes f ⟨m, hm⟩ 0 hm hr hne
  · exact w.wr_zero lanes f
  · exact w.rdq_wrq_v ⟨n, hn⟩ lanes f hl hwf
  · rw [Nat.mul_comm (l / 4) 4]
    intro heven k hk hw hlow
    exact w.rdq_wrq_s ⟨m, hm⟩ lanes f heven hwf (lane_mem_scalarLanes hk hw hlow) (by unfold sliceOf; omega)

end Sys2Proof.Machine

/-! PROOFS. R194 and R212: the guard that an instruction's first word names, and that an instruction under the never code,
or one of which no lane participates, does nothing but pass. -/

namespace Sys2Proof

/-- The guard of an instruction (R192); an event has none, and counts as unguarded. -/
def Instr.guard : Instr → Guard
  | .nop g | .iadd g _ _ _ | .isub g _ _ _ | .imul g _ _ _ | .imulhS g _ _ _ | .imulhN g _ _ _ | .iminS g _ _ _
  | .iminN g _ _ _ | .imaxS g _ _ _ | .imaxN g _ _ _ | .and g _ _ _ | .or g _ _ _ | .xor g _ _ _ | .andn g _ _ _
  | .shl g _ _ _ | .shr g _ _ _ | .sar g _ _ _ | .rotl g _ _ _ | .popc g _ _ | .clz g _ _ | .brev g _ _ | .iabs g _ _
  | .mov g _ _ | .sel g _ _ _ | .iaddQ g _ _ _ | .isubQ g _ _ _ | .shlQ g _ _ _ | .shrQ g _ _ _ | .sarQ g _ _ _
  | .movQ g _ _ | .fadd g _ _ _ | .fsub g _ _ _ | .fmul g _ _ _ | .fmin g _ _ _ | .fmax g _ _ _ | .faddBf16x2 g _ _ _
  | .fmulBf16x2 g _ _ _ | .fminBf16x2 g _ _ _ | .fmaxBf16x2 g _ _ _ | .faddF16x2 g _ _ _ | .fmulF16x2 g _ _ _
  | .fminF16x2 g _ _ _ | .fmaxF16x2 g _ _ _ | .lea g _ _ _ | .br g _ | .call g _ | .icmp g _ _ _ _ _ | .imad g _ _ _ _
  | .imulQ g _ _ _ | .iaddSat g _ _ _ _ | .isubSat g _ _ _ _ | .bfe g _ _ _ _ | .bfi g _ _ _ _ | .fshl g _ _ _ _
  | .fshr g _ _ _ _ | .pbool g _ _ _ _ | .pget g _ | .pset g _ | .ffma g _ _ _ _ _ _ | .faddFpx g _ _ _ _ _
  | .fsubFpx g _ _ _ _ _ | .fmulFpx g _ _ _ _ _ | .fabs g _ _ _ | .fneg g _ _ _ | .frcp g _ _ _ | .fsqrt g _ _ _
  | .frsqrt g _ _ _ | .fexp2 g _ _ _ | .flog2 g _ _ _ | .frnd g _ _ _ | .fcmp g _ _ _ _ | .cvt g _ _ _ _ _ _
  | .qblk g _ _ _ | .dqblk g _ _ _ | .cvtHad g _ _ _ _ _ _ _ _ _ | .lany g _ _ | .lall g _ _ | .lmask g _ _
  | .lpickIdx g _ _ _ _ _ | .lpickUp g _ _ _ _ _ | .lpickDown g _ _ _ _ _ | .lpickXor g _ _ _ _ _ | .lred g _ _ _ _ _
  | .lscan g _ _ _ _ _ _ | .regang g | .wide g | .endwide g | .wbase g _ _ | .exit g | .trap g _ | .trapret g | .ifence g
  | .icinv g _ _ _ | .jmpi g _ | .ret g _ | .calli g _ _ | .brk g | .yieldto g _ _ _ | .ld g _ _ _ _ | .st g _ _ _ _
  | .lds g _ _ _ _ | .sts g _ _ _ _ | .ldc g _ _ _ _ _ | .gather g _ _ _ _ | .prefetch g _ _ _ | .rmw g _ _ _ _ _
  | .fold g _ _ _ _ | .rmwCas g _ _ _ _ _ | .fence g _ _ | .gatePass g _ _ | .gateWait g _ _ | .bobjOpen g _ _
  | .bobjDue g _ _ _ | .bobjMark g _ | .bobjHold g _ _ | .emberArm g _ _ _ | .emberWait g _ _ | .emberDisarm g _
  | .spawn g _ _ _ | .launch g _ _ | .await g _ _ | .futSet g _ _ | .lockTake g _ _ | .lockGive g _ | .qpush g _ _ _ _ _ _ _
  | .qpop g _ _ _ _ _ _ | .park g _ | .ldw g _ _ _ _ | .stw g _ _ _ _ | .spanArrive g | .spanSync g | .spanDetach g
  | .spanPeer g _ _ | .crewSet g _ _ | .tokTake g | .tokGive g _ _ | .mma g _ _ | .mmas g _ _ | .wbload g _ _ | .accz g _
  | .accld g _ _ _ | .accst g _ _ _ | .cpTile g _ _ _ _ _ | .cpMcast g _ _ _ _ _ _ | .cpOut g _ _ _ _ _
  | .cpGather g _ _ _ _ _ | .sget g _ _ | .sset g _ _ | .cctl g _ _ _ _ | .tlbinv g _ _ _ | .probe g _ _ _
  | .scanStart g _ _ _ | .scanPoll g _ _ _ | .halt g => g
  | _ => ⟨false, 0⟩

/-! ## The guard field of the first word (R192) -/

theorem Opd.code_lt (o : Opd) : o.code < 128 := by
  cases o <;> simp only [Opd.code] <;> omega

theorem Guard.code_lt (g : Guard) : g.code < 16 := by
  obtain ⟨neg, p⟩ := g
  cases neg <;> simp only [Guard.code, fl] <;> simp <;> omega

theorem Guard.code_inj {g g' : Guard} (h : g.code = g'.code) : g = g' := by
  obtain ⟨neg, p⟩ := g
  obtain ⟨neg', p'⟩ := g'
  cases neg <;> cases neg' <;> simp [Guard.code, fl] at h ⊢ <;> omega

/-- Bits 24 to 21 of a word put together of an opcode, a guard and 21 bits of operands. -/
theorem guardField_of_parts (op x : Nat) (g : Guard) (hx : x < 2 ^ 21) :
    ((BitVec.ofNat 32 (op * 2 ^ 25 + g.code * 2 ^ 21 + x)).extractLsb' 21 4).toNat = g.code := by
  have hg := g.code_lt
  rw [BitVec.extractLsb'_toNat, BitVec.toNat_ofNat, Nat.shiftRight_eq_div_pow]
  norm_num at hx ⊢
  omega

theorem guardField_word0 (op d a b : Nat) (g : Guard) (hd : d < 128) (ha : a < 128) (hb : b < 128) :
    ((word0 op g d a b).extractLsb' 21 4).toNat = g.code := by
  have hsplit : op * 2 ^ 25 + g.code * 2 ^ 21 + d * 2 ^ 14 + a * 2 ^ 7 + b
      = op * 2 ^ 25 + g.code * 2 ^ 21 + (d * 2 ^ 14 + a * 2 ^ 7 + b) := by omega
  rw [word0, hsplit]
  exact guardField_of_parts op _ g (by omega)

theorem guardField_encA (op : Nat) (g : Guard) (d a b : Opd) :
    (((encA op g d a b).headD 0).extractLsb' 21 4).toNat = g.code :=
  guardField_word0 op _ _ _ g d.code_lt a.code_lt b.code_lt

theorem guardField_encE (op sub m : Nat) (g : Guard) (d a b c : Opd) :
    (((encE op sub g d a b c m).headD 0).extractLsb' 21 4).toNat = g.code :=
  guardField_word0 op _ _ _ g d.code_lt a.code_lt b.code_lt

namespace Machine

theorem guardCode_eq (i : Instr) (h : i.isEvent = false) : guardCode i = i.guard.code := by
  cases i with
  | nop g => exact guardField_word0 0 0 0 0 g (by decide) (by decide) (by decide)
  | br g off => exact guardField_of_parts 0x50 off.toNat g off.isLt
  | call g off => exact guardField_of_parts 0x51 off.toNat g off.isLt
  | iadd | isub | imul | imulhS | imulhN | iminS | iminN | imaxS | imaxN | and | or | xor | andn | shl | shr | sar | rotl
  | popc | clz | brev | iabs | mov | sel | iaddQ | isubQ | shlQ | shrQ | sarQ | movQ | fadd | fsub | fmul | fmin | fmax
  | faddBf16x2 | fmulBf16x2 | fminBf16x2 | fmaxBf16x2 | faddF16x2 | fmulF16x2 | fminF16x2 | fmaxF16x2 | lea =>
    exact guardField_encA ..
  | icmp | imad | imulQ | iaddSat | isubSat | bfe | bfi | fshl | fshr | pbool | pget | pset | ffma | faddFpx | fsubFpx
  | fmulFpx | fabs | fneg | frcp | fsqrt | frsqrt | fexp2 | flog2 | frnd | fcmp | cvt | qblk | dqblk | cvtHad | lany | lall
  | lmask | lpickIdx | lpickUp | lpickDown | lpickXor | lred | lscan | regang | wide | endwide | wbase | exit | trap | trapret
  | ifence | icinv | jmpi | ret | calli | brk | yieldto | ld | st | lds | sts | ldc | gather | prefetch | rmw | fold | rmwCas
  | fence | gatePass | gateWait | bobjOpen | bobjDue | bobjMark | bobjHold | emberArm | emberWait | emberDisarm | spawn
  | launch | await | futSet | lockTake | lockGive | qpush | qpop | park | ldw | stw | spanArrive | spanSync | spanDetach
  | spanPeer | crewSet | tokTake | tokGive | mma | mmas | wbload | accz | accld | accst | cpTile | cpMcast | cpOut | cpGather
  | sget | sset | cctl | tlbinv | probe | scanStart | scanPoll | halt => exact guardField_encE ..
  | _ => cases h

end Machine
end Sys2Proof

namespace Sys2Proof.Machine

/-! ## No lane -/

@[simp] theorem bitsOf_zero (w : Nat) : bitsOf 0#w = [] := (bitsOf_eq_nil 0).mpr rfl

section
variable (w : Wave)

@[simp] theorem Wave.poisonLane_none (srcs : List (Opd × Nat)) : w.poisonLane srcs 0#32 = none := by
  simp only [Wave.poisonLane, bitsOf_zero, List.find?_nil, ite_self]

@[simp] theorem Wave.poisonWritten_none (n : Nat) : w.poisonWritten n 0#32 = w.task.poison := by
  refine List.filter_eq_self.mpr fun a _ => ?_
  exact List.any_eq_true.mpr ⟨0, by decide, by simp⟩

theorem scalarLanes_zero : scalarLanes 0#32 = [] := by
  simp [scalarLanes]

/-- A destination written in no lane is as it was. -/
@[simp] theorem Wave.wrPart_none (o : Opd) (i : Nat) (f : Nat → W32) : w.wrPart o i 0#32 f = w := by
  cases o with
  | v n => simp only [Wave.wrPart, bitsOf_zero, List.map_nil, Store.setAll, Wave.poisonWritten_none]
  | s n => simp only [Wave.wrPart, scalarLanes_zero, List.map_nil, Store.setAll]
  | _ => rfl

@[simp] theorem Wave.wrN_none (o : Opd) (f : Nat → Nat → W32) (k : Nat) : w.wrN o 0#32 f k = w := by
  induction k with
  | zero => rfl
  | succ k ih => rw [Wave.wrN, ih, Wave.wrPart_none]

@[simp] theorem Wave.wr_none (o : Opd) (f : Nat → W32) : w.wr o 0#32 f = w := w.wrPart_none o 0 f

@[simp] theorem Wave.wrq_none (o : Opd) (f : Nat → W64) : w.wrq o 0#32 f = w := w.wrN_none ..

@[simp] theorem Wave.wrk_none (k : Nat) (o : Opd) (f : Nat → W128) : w.wrk k o 0#32 f = w := w.wrN_none ..

@[simp] theorem Wave.setPreds_none (p : Nat) (f : Nat → Bool) : w.setPreds 0#32 p f = w := by
  rw [Wave.setPreds, bitsOf_zero, List.foldl_nil]

theorem modWhere_id {α : Type} (p : Nat → Bool) : ∀ (n : Nat) (l : List α), modWhere p (fun _ a => a) n l = l
  | _, [] => rfl
  | n, a :: r => by rw [modWhere, ite_self, modWhere_id p (n + 1) r]

theorem Wave.modSlicesI_id (sl : BitVec 8) : w.modSlicesI sl (fun _ x => x) = w := by
  rw [Wave.modSlicesI, modWhere_id]

end

/-! ## A wave put back as it stands -/

theorem Tab.mem_keys_of_find {α : Type} {t : Tab α} {k : Nat} {v : α} (h : Tab.find t k = some v) : k ∈ Tab.keys t := by
  induction t with
  | nil => cases h
  | cons x r ih =>
    obtain ⟨k', v'⟩ := x
    rw [Tab.find] at h
    split at h
    · next hkk => exact hkk ▸ List.mem_cons_self
    · exact List.mem_cons_of_mem _ (ih h)

/-- A value put where it stands already leaves a table of rising keys as it is. -/
theorem Tab.put_of_find {α : Type} {t : Tab α} {k : Nat} {v : α} (hk : (Tab.keys t).Pairwise (· < ·))
    (h : Tab.find t k = some v) : Tab.put t k v = t := by
  induction t with
  | nil => cases h
  | cons x r ih =>
    obtain ⟨k', v'⟩ := x
    obtain ⟨hlow, hr⟩ := List.pairwise_cons.mp hk
    by_cases hkk : k' = k
    · subst hkk
      simp only [Tab.find, if_true, Option.some.injEq] at h
      simp [Tab.put, h]
    · rw [Tab.find, if_neg hkk] at h
      have hlt : k' < k := hlow k (Tab.mem_keys_of_find h)
      rw [Tab.put, if_neg (by omega), if_neg (by omega), ih hr h]

theorem State.setWave_eq_self {s : State} {u : Nat} {w : Wave} (hs : s.canonical) (h : s.wave u = some w) :
    s.setWave u w = s := by
  rw [State.setWave, Tab.put_of_find hs.keys h]

theorem State.wave_of_env {s : State} {g : Guard} {e : Env} (h : s.env g = some e) : s.wave e.u = some e.w := by
  unfold State.env at h
  split at h
  · cases h
  · split at h
    · cases h
    · next hw =>
      split at h
      · cases h
      · cases h
        exact hw

/-! ## Under the never code (R194) -/

section
variable {i : Instr} {g : Guard} {s : State} {e : Env}

theorem runShort_never {dsts srcs : List (Opd × Nat)} {adv : Bool} {body : Env → Except Bad State} {rd : Env → W32}
    (he : s.env g = some e) (hn : guardNever g = true) :
    runShort i g dsts srcs adv s body rd = .next (s.next e i) := by
  simp [runShort, he, hn]

theorem runWait_never {dsts srcs : List (Opd × Nat)} {body : Env → Except Bad State} (he : s.env g = some e)
    (hn : guardNever g = true) : runWait i g dsts srcs s body = .next (s.next e i) := by
  simp only [runWait, he, hn, if_true]
  exact runShort_never he hn

theorem runMma_never {a : Opd} {m : MmaMods} {sparse : Bool} (he : s.env g = some e) (hn : guardNever g = true) :
    runMma i g a m sparse s = .next (s.next e i) := by
  simp [runMma, he, hn]

theorem execPark_never {a : Opd} (he : s.env g = some e) (hn : guardNever g = true) :
    execPark g a s = .next (s.next e (.park g a)) := by
  simp only [execPark, he, hn, Bool.not_true, Bool.false_and, Bool.false_eq_true, if_false]
  exact runWait_never he hn

end

/-! ## A strand that has nothing to do -/

/-- The guard is not the never code, but the strand has no participating lane and nothing to wait for: no destination
outstanding, room in every flag (R40, R43, R212). -/
structure Vacant (s : State) (g : Guard) (e : Env) : Prop where
  guard : guardNever g = false
  part : e.part = 0#32
  free : ∀ ds, e.w.busy e.st ds = false
  room : ∀ f, e.w.flagFull e.sl f = false
  stored : s.setWave e.u e.w = s

/-- The strand whose turn it is has nothing to do under a guard: it is the never code (R194), or no lane participates (R212). -/
structure Idle (s : State) (g : Guard) (e : Env) : Prop where
  env : s.env g = some e
  vacant : guardNever g = false → Vacant s g e

theorem Vacant.leader {s : State} {g : Guard} {e : Env} (v : Vacant s g e) : e.leader = none := by
  rw [Env.leader, v.part, bitsOf_zero, List.head?_nil]

theorem Vacant.lead {s : State} {g : Guard} {e : Env} (v : Vacant s g e) : e.lead = 0#32 := by
  rw [Env.lead, v.leader]
  rfl

/-- With no participating lane the scope ceiling is not met. -/
theorem Vacant.ceiling {s : State} {g : Guard} {e : Env} (v : Vacant s g e) (t : State) (sc : Scope) (n : Nat) :
    t.ceiling e sc n = .ok t := by
  unfold State.ceiling
  split
  · rfl
  · rw [if_neg (fun h => h.2.2 v.part)]

/-- With no participating lane an ordering instruction orders nothing (R212). -/
theorem Idle.not_ordered {s : State} {g : Guard} {e : Env} (h : Idle s g e) : e.ordered g = false := by
  cases hn : guardNever g with
  | true => simp [Env.ordered, hn]
  | false => simp [Env.ordered, (h.vacant hn).part]

section
variable {i : Instr} {g : Guard} {s : State} {e : Env}

/-! ## The shared operations of a strand that has nothing to do -/

/-- Short-latency issue: where no lane participates, the body does nothing, or, of an instruction that moves on by itself, only
that. -/
theorem runShort_idle {dsts srcs : List (Opd × Nat)} {adv : Bool} {body : Env → Except Bad State} {rd : Env → W32}
    (h : Idle s g e) (hb : Vacant s g e → body e = .ok (if adv then s else s.next e i)) (hr : Vacant s g e → rd e = 0#32) :
    runShort i g dsts srcs adv s body rd = .next (s.next e i) := by
  cases hn : guardNever g with
  | true => exact runShort_never h.env hn
  | false =>
    have v := h.vacant hn
    simp only [runShort, h.env, hn, v.free, hb v, hr v, Wave.poisonLane_none]
    cases adv <;> rfl

/-- A short-latency instruction that changes its own wave alone, and that not where no lane participates. -/
theorem runShort_setWave_idle {dsts srcs : List (Opd × Nat)} {f : Env → Wave} (h : Idle s g e)
    (hf : e.part = 0#32 → f e = e.w) :
    runShort i g dsts srcs true s (fun e => .ok (s.setWave e.u (f e))) = .next (s.next e i) :=
  runShort_idle h (fun v => by rw [if_pos rfl, hf v.part, v.stored]) Vacant.part

theorem run32_idle {d : Opd} {srcs : List (Opd × Nat)} {f : Wave → Nat → W32} (h : Idle s g e) :
    run32 i g d srcs s f = .next (s.next e i) :=
  runShort_setWave_idle h fun hp => by rw [hp, Wave.wr_none]

theorem runMinmax_idle {d a b : Opd} {ty : Ty} {mx : Bool} (h : Idle s g e) :
    runMinmax i g d a b ty mx s = .next (s.next e i) := run32_idle h

theorem run64_idle {d : Opd} {srcs : List (Opd × Nat)} {f : Wave → Nat → W64} (h : Idle s g e) :
    run64 i g d srcs s f = .next (s.next e i) :=
  runShort_setWave_idle h fun hp => by rw [hp, Wave.wrq_none]

theorem runPred_idle {pd : Fin 8} {srcs : List (Opd × Nat)} {f : Wave → Nat → Bool} (h : Idle s g e) :
    runPred i g pd srcs s f = .next (s.next e i) :=
  runShort_setWave_idle h fun hp => by rw [hp, Wave.setPreds_none]

theorem runPick_idle {d a b : Opd} {ty : Ty} {seg : Seg} {src : Nat → Nat → Nat → Nat} (h : Idle s g e) :
    runPick i g d a b ty seg s src = .next (s.next e i) :=
  runShort_setWave_idle h fun hp => by rw [hp, Wave.wrk_none]

/-- The soft errors that a checked instruction uses up are those of its participating lanes. -/
theorem runChecked_idle {d : Opd} {srcs : List (Opd × Nat)} {res : Wave → Nat → W32} {bad : Wave → Nat → W32 → Option Nat}
    (h : Idle s g e) : runChecked i g d srcs s res bad = .next (s.next e i) := by
  have hkeep (v : Vacant s g e) :
      s.sched.glitch.filter (fun x => !(x.wave == e.u && e.part.getLsbD x.lane)) = s.sched.glitch :=
    List.filter_eq_self.mpr fun x _ => by simp [v.part]
  cases hn : guardNever g with
  | true =>
    simp only [runChecked, h.env, hn, Bool.true_or, if_true]
    exact runShort_never h.env hn
  | false =>
    simp only [runChecked, h.env, hkeep (h.vacant hn), ite_self]
    exact runShort_idle h (fun v => by simp [v.part, v.stored]) Vacant.part

theorem runAdd_idle {d a b : Opd} {ty : Ty} {rnd : Rnd} (h : Idle s g e) :
    runAdd i g d a b ty rnd s = .next (s.next e i) := runChecked_idle h

theorem runSub_idle {d a b : Opd} {ty : Ty} {rnd : Rnd} (h : Idle s g e) :
    runSub i g d a b ty rnd s = .next (s.next e i) := runChecked_idle h

theorem runMul_idle {d a b : Opd} {ty : Ty} {rnd : Rnd} (h : Idle s g e) :
    runMul i g d a b ty rnd s = .next (s.next e i) := runChecked_idle h

/-- Long-latency issue: where no lane participates it completes at once. -/
theorem issueWith_idle {fs : FlagSel} {caps dsts : List (Opd × Nat)} {stall : Env → Bool} {pre : Env → Except Bad State}
    {post : Env → Nat → State → State} {rd : Env → W32} (h : Idle s g e) (hs : Vacant s g e → stall e = false)
    (hp : Vacant s g e → pre e = .ok s) (hr : Vacant s g e → rd e = 0#32) :
    issueWith i g fs caps dsts s stall pre post rd = .next (s.next e i) := by
  cases hn : guardNever g with
  | true => simp [issueWith, h.env, hn]
  | false =>
    have v := h.vacant hn
    simp [issueWith, h.env, hn, v.free, v.room, hs v, hp v, hr v, v.part]

theorem issueLong_idle {fs : FlagSel} {caps dsts : List (Opd × Nat)} {pre : Env → Except Bad State} {rd : Env → W32}
    (h : Idle s g e) (hp : Vacant s g e → pre e = .ok s) (hr : Vacant s g e → rd e = 0#32) :
    issueLong i g fs caps dsts s (fun _ => false) pre rd = .next (s.next e i) :=
  issueWith_idle h (fun _ => rfl) hp hr

/-- No lane's address is misaligned, outside its space, or on a path that does not perform atomics. -/
theorem issueMem_idle {fs : FlagSel} {caps dsts : List (Opd × Nat)} (h : Idle s g e) :
    issueMem i g fs caps dsts s = .next (s.next e i) := by
  refine issueLong_idle h (fun v => ?_) Vacant.part
  have hlanes : bitsOf (e.op i 0 none caps dsts).lanes = [] := by
    rw [show (e.op i 0 none caps dsts).lanes = e.part from rfl, v.part, bitsOf_zero]
  cases ha : accOf i with
  | none => rfl
  | some a => simp [State.accBad, State.pathBad, hlanes, v.ceiling]

/-- No lane makes a copy. -/
theorem issueCopy_idle {m : CpMods} {caps : List (Opd × Nat)} (h : Idle s g e) :
    issueCopy i g m caps s = .next (s.next e i) := by
  have hlanes (v : Vacant s g e) : e.copyLanes m = 0#32 := by
    rw [Env.copyLanes, v.lead, v.part, ite_self]
  refine issueWith_idle h (fun v => ?_) (fun v => ?_) hlanes
  · simp [v.part]
  · simp [v.part, hlanes v, State.copyCheck, v.ceiling]

/-- No error of the wave pends, so that a reporting point reports none (R383). -/
theorem State.reportAt_none {u : Nat} {w : Wave} (hw : s.wave u = some w) (hp : w.pending = []) (q : AsyncErr → Bool) :
    s.reportAt u q = none := by
  simp [State.reportAt, hw, hp]

theorem State.reportHere_none {g : Guard} (he : s.env g = some e) (hp : e.w.pending = []) (q : AsyncErr → Bool) :
    s.reportHere e q = none := by
  rw [State.reportHere, State.reportAt_none (State.wave_of_env he) hp, Option.map_none]

/-- The reporting point of an instruction, which the never code passes over. -/
theorem Idle.report_none (h : Idle s g e) (hq : guardNever g = false → e.w.pending = []) (q : AsyncErr → Bool) :
    (if guardNever g then none else s.reportHere e q) = none := by
  cases hn : guardNever g with
  | true => rfl
  | false => exact State.reportHere_none h.env (hq hn) q

theorem runWait_idle {dsts srcs : List (Opd × Nat)} {body : Env → Except Bad State} (h : Idle s g e)
    (hq : guardNever g = false → e.w.pending = []) (hb : Vacant s g e → body e = .ok (s.next e i)) :
    runWait i g dsts srcs s body = .next (s.next e i) := by
  simp only [runWait, h.env, h.report_none hq]
  exact runShort_idle h hb Vacant.lead

theorem runOrdered_idle {dsts srcs : List (Opd × Nat)} {body : Env → Except Bad State} (h : Idle s g e)
    (hb : Vacant s g e → body e = .ok s) : runOrdered i g dsts srcs true s body = .next (s.next e i) := by
  simp only [runOrdered, h.env, h.not_ordered]
  exact runShort_idle h hb Vacant.lead

theorem runWaitOrdered_idle {srcs : List (Opd × Nat)} {body : Env → Except Bad State} (h : Idle s g e)
    (hq : guardNever g = false → e.w.pending = []) (hb : Vacant s g e → body e = .ok (s.next e i)) :
    runWaitOrdered i g srcs s body = .next (s.next e i) := by
  simp only [runWaitOrdered, h.env, h.not_ordered]
  exact runWait_idle h hq hb

end

/-! ## Instructions with checks or branches of their own -/

section
variable {g : Guard} {s : State} {e : Env}

theorem execCvt_idle {d a : Opd} {dty sty : Ty} {rnd : Rnd} {sat : Bool} (h : Idle s g e) :
    execCvt g d a dty sty rnd sat s = .next (s.next e (.cvt g d a dty sty rnd sat)) := by
  unfold execCvt
  split
  · exact runShort_setWave_idle h fun hp => by rw [hp, Wave.wr_none]
  · split
    · exact runShort_setWave_idle h fun hp => by rw [hp, Wave.wrN_none]
    · exact runShort_setWave_idle h fun hp => by rw [hp, Wave.wrk_none]

/-- A special register that does not exist is not asked for. -/
theorem execSget_idle {d : Opd} {r : Byte} (h : Idle s g e) : execSget g d r s = .next (s.next e (.sget g d r)) := by
  refine runShort_idle h (fun v => ?_) Vacant.part
  simp [v.part, v.stored]

theorem execPset_idle {a : Opd} (h : Idle s g e) : execPset g a s = .next (s.next e (.pset g a)) :=
  runShort_setWave_idle h fun hp => by
    rw [hp]
    exact List.foldl_fixed' (fun p => e.w.setPreds_none p _) _

/-- No slice has a participating lane from which its window would come. -/
theorem execWbase_idle {a : Opd} {add : Bool} (h : Idle s g e) :
    execWbase g a add s = .next (s.next e (.wbase g a add)) := by
  refine runShort_idle h (fun v => ?_) Vacant.part
  have hwin (k : Nat) : newWindow e a add k = none := by
    rw [newWindow, v.part, bitsOf_zero, List.find?_nil, Option.map_none]
  have hbad : (List.range 8).find? (fun _ => false) = none := List.find?_eq_none.mpr fun _ _ => Bool.false_ne_true
  simp only [hwin, hbad, Wave.modSlicesI_id, v.stored, if_true]

theorem execFence_idle {o : Order} {sc : Scope} (h : Idle s g e) (hq : guardNever g = false → e.w.pending = []) :
    execFence g o sc s = .next (s.next e (.fence g o sc)) := by
  simp only [execFence, h.env, h.report_none hq]
  exact runOrdered_idle h fun v => by simp [v.ceiling, v.part]

theorem execSpanDetach_idle (h : Idle s g e) : execSpanDetach g s = .next (s.next e (.spanDetach g)) := by
  have hgo : (!guardNever g && e.part != 0 && (s.wavesOf e.w.group).any (fun x => x.2.behind 0xFF)) = false := by
    cases hn : guardNever g with
    | true => rfl
    | false => simp [(h.vacant hn).part]
  simp only [execSpanDetach, h.env, hgo]
  exact runShort_idle h (fun v => by simp [v.part]) Vacant.part

/-- The count of a named barrier is asked for in the leader, of which there is none (R273, R402). -/
theorem Vacant.gateCount (v : Vacant s g e) (hw : e.whole = true) (a : Opd) (bar : Fin 16) :
    s.gateCount e a bar = .ok none := by
  simp [State.gateCount, hw, v.leader]

end

/-! ## An instruction that only passes -/

/-- The strand whose turn it is has nothing to do at an instruction: that is under the never code, or none of its lanes
participates, it is not one that acts all the same, the whole wave executes it where it asks that, and no error pends where it is
a reporting point. -/
structure Passes (s : State) (e : Env) (i : Instr) : Prop extends Idle s i.guard e where
  acts : guardNever i.guard = false → actsWithoutLanes i = false
  whole : guardNever i.guard = false → needsWhole i = true → e.whole = true
  quiet : guardNever i.guard = false → isReporting i = true → e.w.pending = []

theorem Passes.never {s : State} {e : Env} {i : Instr} (h : Passes s e i) (ha : actsWithoutLanes i = true) :
    guardNever i.guard = true := by
  by_contra hn
  exact Bool.noConfusion (ha.symm.trans (h.acts (Bool.eq_false_iff.mpr hn)))

theorem exec_passes {s : State} {e : Env} {i : Instr} (hi : i.isEvent = false) (h : Passes s e i) :
    exec i s = .next (s.next e i) := by
  have idle := h.toIdle
  unfold exec
  cases i with
  -- a result in each participating lane
  | iadd | isub | imul | imulhS | imulhN | iminS | iminN | imaxS | imaxN | and | or | xor | andn | shl | shr | sar | rotl
  | popc | clz | brev | iabs | mov | imad | iaddSat | isubSat | bfe | bfi | fshl | fshr | pget | fabs | fneg | frcp | fsqrt
  | frsqrt | fexp2 | flog2 | frnd | spanPeer =>
    exact run32_idle idle
  | fmin | fmax | fminBf16x2 | fmaxBf16x2 | fminF16x2 | fmaxF16x2 => exact runMinmax_idle idle
  | iaddQ | isubQ | shlQ | shrQ | sarQ | movQ | lea | imulQ => exact run64_idle idle
  | icmp | pbool | fcmp => exact runPred_idle idle
  | fadd | faddBf16x2 | faddF16x2 | faddFpx => exact runAdd_idle idle
  | fsub | fsubFpx => exact runSub_idle idle
  | fmul | fmulBf16x2 | fmulF16x2 | fmulFpx => exact runMul_idle idle
  | ffma => exact runChecked_idle idle
  | lpickIdx | lpickUp | lpickDown | lpickXor => exact runPick_idle idle
  | lany | lall => exact runShort_setWave_idle idle fun hp => by rw [hp, Wave.setPreds_none]
  | lmask | lred | lscan => exact runShort_setWave_idle idle fun hp => by rw [hp, Wave.wr_none]
  | qblk => exact runShort_setWave_idle idle fun hp => by rw [hp, Wave.wrq_none]
  | dqblk => exact runShort_setWave_idle idle fun hp => by rw [hp, Wave.wrN_none]
  | cvt => exact execCvt_idle idle
  | sget => exact execSget_idle idle
  | pset => exact execPset_idle idle
  | wbase => exact execWbase_idle idle
  -- no result: nothing is done without a lane, or without a leader
  | nop => exact runShort_idle idle (fun _ => rfl) Vacant.part
  | brk | ifence | emberDisarm | prefetch | trapret | halt =>
    exact runShort_idle idle (fun v => by simp [v.part]) Vacant.part
  | trap | emberArm | crewSet | sset => exact runShort_idle idle (fun v => by simp [v.leader]) Vacant.lead
  | spanDetach => exact execSpanDetach_idle idle
  -- instructions that order what precedes them
  | fence => exact execFence_idle idle (h.quiet · rfl)
  | bobjOpen | bobjDue | bobjMark | futSet | lockGive | tokGive => exact runOrdered_idle idle fun v => by simp [v.leader]
  | gatePass => exact runOrdered_idle idle fun v => by simp [v.gateCount (h.whole v.guard rfl)]
  | spanArrive => exact runOrdered_idle idle fun v => by simp [h.whole v.guard rfl, v.part]
  -- waiting instructions
  | exit | tokTake => exact runWait_idle idle (h.quiet · rfl) fun v => by simp [v.part]
  | emberWait => exact runWait_idle idle (h.quiet · rfl) fun v => by simp [v.leader]
  | yieldto | bobjHold => exact runWaitOrdered_idle idle (h.quiet · rfl) fun v => by simp [v.leader]
  | gateWait => exact runWaitOrdered_idle idle (h.quiet · rfl) fun v => by simp [v.gateCount (h.whole v.guard rfl)]
  | spanSync => exact runWaitOrdered_idle idle (h.quiet · rfl) fun v => by simp [h.whole v.guard rfl, v.part]
  -- long-latency instructions
  | ld | st | lds | sts | ldc | gather | rmw | fold | rmwCas | ldw | stw => exact issueMem_idle idle
  | cpTile | cpMcast | cpOut | cpGather => exact issueCopy_idle idle
  | spawn | launch => exact issueLong_idle idle (fun _ => rfl) Vacant.part
  | probe => exact issueLong_idle idle (fun _ => rfl) (fun _ => rfl)
  | qpush | qpop => exact issueLong_idle idle (fun v => by simp [Env.badLane, v.part]) Vacant.part
  | cvtHad | cctl | tlbinv => exact issueLong_idle idle (fun v => by simp [v.leader]) Vacant.lead
  | scanStart | scanPoll => exact issueLong_idle idle (fun v => by simp [State.scanBad, v.leader]) Vacant.lead
  | icinv | wbload | accz | accld | accst =>
    exact issueWith_idle idle (fun _ => rfl) (fun v => by simp [v.leader]) Vacant.lead
  -- those that act without lanes pass under the never code alone
  | sel | br | call | jmpi | ret | calli | regang | wide | endwide => exact runShort_never idle.env (h.never rfl)
  | await | lockTake => exact runWait_never idle.env (h.never rfl)
  | park => exact execPark_never idle.env (h.never rfl)
  | mma | mmas => exact runMma_never idle.env (h.never rfl)
  | _ => cases hi

/-! ## The obligation -/

theorem guard_eq_of_guardCode {i : Instr} {g : Guard} (hi : i.isEvent = false)
    (h : guardCode i = (if g.neg then 8 else 0) + g.p.val) : i.guard = g :=
  Guard.code_inj ((guardCode_eq i hi).symm.trans h)

theorem Passes.of_never {s : State} {e : Env} {i : Instr} (he : s.env i.guard = some e) (hn : guardNever i.guard = true) :
    Passes s e i := by
  have hno {p : Prop} (h : guardNever i.guard = false) : p := Bool.noConfusion (hn.symm.trans h)
  exact ⟨⟨he, hno⟩, hno, hno, hno⟩

/-- Predicate 0 is true in every lane, so that a guard on it is always or never true (R47, R194). -/
theorem Wave.guard_eq (w : Wave) (g : Guard) (l : Nat) :
    w.guard g l = (if g.p = 0 then !g.neg else (w.task.preds.get l).getLsbD g.p != g.neg) := by
  split
  · next hp => rw [Wave.guard, hp, Fin.val_zero, Wave.pred_zero, Bool.true_bne]
  · next hp =>
    have hval : (g.p.val == 0) = false := beq_false_of_ne (fun h => hp (Fin.ext h))
    rw [Wave.guard, Wave.pred, hval, Bool.false_or]

/-- Settles O54: both halves are one lemma about an instruction that only passes, whose cases are the instructions. -/
theorem nothingWithoutLanes : Obligations.NothingWithoutLanes := by
  unfold Obligations.NothingWithoutLanes
  refine ⟨Wave.guard_eq, fun s g e i _ hi hcode he => ?_⟩
  obtain rfl := guard_eq_of_guardCode hi hcode
  refine ⟨fun hn => exec_passes hi (.of_never he hn), fun hs hpart hacts hwhole hquiet hfree hroom => exec_passes hi ?_⟩
  have hstored : s.setWave e.u e.w = s := State.setWave_eq_self hs (State.wave_of_env he)
  exact ⟨⟨he, fun hg => ⟨hg, hpart, hfree, hroom, hstored⟩⟩, fun _ => hacts, fun _ => hwhole, fun _ => hquiet⟩

end Sys2Proof.Machine

/-! PROOFS. The results of the integer and bit instructions (R215 to R219, R226 to R228): what each function of the model
computes, and that an instruction which executes and reads clean sources gives it. -/

namespace Sys2Proof.Machine

/-! ## Sums, products and differences of words (R215, R217) -/

section
variable {n : Nat} (x y : BitVec n)

theorem sub_eq_ofInt : x - y = BitVec.ofInt n (x.toNat - y.toNat) := by
  rw [sub_eq_add_neg, sub_eq_add_neg, BitVec.ofInt_add, BitVec.ofInt_neg, BitVec.ofInt_natCast, BitVec.ofInt_natCast,
    BitVec.ofNat_toNat, BitVec.ofNat_toNat, BitVec.setWidth_eq, BitVec.setWidth_eq]

theorem mul_eq_ofNat : x * y = BitVec.ofNat n (x.toNat * y.toNat) := rfl

theorem ofNat_natAbs_toInt :
    BitVec.ofNat n x.toInt.natAbs = if x.toInt < 0 then BitVec.ofInt n (-x.toInt) else x := by
  rw [← BitVec.ofInt_natCast]
  split
  · next h => rw [Int.ofNat_natAbs_of_nonpos h.le]
  · next h => rw [Int.natAbs_of_nonneg (not_lt.mp h), BitVec.ofInt_toInt]

/-- An address is a pair plus a signed offset (R217). -/
theorem add_signExtend_eq_ofInt (x : W64) (y : W32) : x + y.signExtend 64 = BitVec.ofInt 64 (x.toNat + y.toInt) := by
  rw [BitVec.ofInt_add, BitVec.ofInt_natCast, BitVec.ofNat_toNat, BitVec.setWidth_eq, BitVec.signExtend]

theorem mul_add_eq_ofNat (z : BitVec n) : x * y + z = BitVec.ofNat n (x.toNat * y.toNat + z.toNat) := by
  rw [BitVec.ofNat_add, mul_eq_ofNat, BitVec.ofNat_toNat, BitVec.setWidth_eq]

/-! ## Shifts by any count (R216) -/

variable (k : Nat)

theorem shlBy_eq_ofNat : shlBy x k = BitVec.ofNat n (x.toNat * 2 ^ k) := by
  apply BitVec.eq_of_toNat_eq
  rw [shlBy, BitVec.toNat_ofNat]
  split
  · rw [BitVec.toNat_shiftLeft, Nat.shiftLeft_eq]
  · next h => exact (Nat.mod_eq_zero_of_dvd ((Nat.pow_dvd_pow 2 (not_lt.mp h)).mul_left _)).symm

theorem ushiftRight_eq_ofNat : x >>> k = BitVec.ofNat n (x.toNat / 2 ^ k) := by
  rw [← Nat.shiftRight_eq_div_pow, ← BitVec.toNat_ushiftRight, BitVec.ofNat_toNat, BitVec.setWidth_eq]

theorem sshiftRight_eq_ofInt : x.sshiftRight k = BitVec.ofInt n (x.toInt / (2 ^ k : Nat)) := by
  rw [BitVec.sshiftRight, Int.shiftRight_eq_div_pow]

end

theorem rotl32_eq (x : W32) (n : Nat) :
    rotl32 x n = if n % 32 = 0 then x
      else BitVec.ofNat 32 (x.toNat * 2 ^ (n % 32)) ||| BitVec.ofNat 32 (x.toNat / 2 ^ (32 - n % 32)) := by
  rw [rotl32]
  split
  · next h =>
    rw [h, BitVec.shiftLeft_zero]
    exact BitVec.or_zero
  · rw [← shlBy_eq_ofNat, ← ushiftRight_eq_ofNat, shlBy, if_pos (Nat.mod_lt _ (by decide))]

/-! ## Counting and reversing bits (R215) -/

theorem popCount_eq_countP {n : Nat} (x : BitVec n) : popCount x = (List.range n).countP (fun i => x.getLsbD i) :=
  List.countP_eq_length_filter.symm

/-- The count of leading zeros names the highest set bit. -/
theorem leadingZeros_of_ne_zero {x : W32} (h : x ≠ 0) :
    leadingZeros x < 32 ∧ x.getLsbD (31 - leadingZeros x) = true ∧
      ∀ i, 31 - leadingZeros x < i → x.getLsbD i = false := by
  have hx : x.toNat ≠ 0 := fun h0 => h (BitVec.eq_of_toNat_eq h0)
  have hlog : x.toNat.log2 < 32 := (Nat.log2_lt hx).mpr x.isLt
  have hclz : leadingZeros x = 31 - x.toNat.log2 := if_neg h
  have hpos : 31 - leadingZeros x = x.toNat.log2 := by omega
  rw [hpos]
  exact ⟨by omega, Nat.testBit_log2 hx, fun i hi => Nat.testBit_lt_two_pow ((Nat.log2_lt hx).mp hi)⟩

theorem getLsbD_bitReverse (x : W32) {i : Nat} (hi : i < 32) : (bitReverse x).getLsbD i = x.getLsbD (31 - i) := by
  rw [bitReverse, getLsbD_maskOf _ _ hi, Bool.eq_iff_iff, decide_eq_true_eq, List.mem_map]
  constructor
  · rintro ⟨k, hk, rfl⟩
    have hk32 := lt_of_mem_bitsOf hk
    rw [Nat.sub_sub_self (by omega)]
    exact (mem_bitsOf x k).mp hk
  · exact fun h => ⟨31 - i, (mem_bitsOf x _).mpr h, by omega⟩

/-! ## Saturation, fields and funnel shifts (R226 to R228) -/

theorem sat32_eq {ty : Ty} (hty : ty = .s32 ∨ ty = .n32) (r : Int) :
    sat32 ty r = BitVec.ofInt 32 (if ty = .s32 then min (max r (-2 ^ 31)) (2 ^ 31 - 1) else min (max r 0) (2 ^ 32 - 1)) := by
  obtain rfl | rfl := hty
  · rfl
  · rfl

/-- A word as the integer of its type. -/
theorem intOf_word {ty : Ty} (hty : ty = .s32 ∨ ty = .n32) (w : Wave) (o : Opd) (l : Nat) :
    intOf ty w o l = if ty = .s32 then (w.rd o l).toInt else ((w.rd o l).toNat : Int) := by
  obtain rfl | rfl := hty
  · rfl
  · rfl

/-- A register pair of two words as a number, the high one first. -/
theorem toNat_append_words (a b : W32) : (a ++ b).toNat = a.toNat * 2 ^ 32 + b.toNat := by
  rw [BitVec.toNat_append, ← Nat.shiftLeft_add_eq_or_of_lt b.isLt, Nat.shiftLeft_eq]

theorem funnelLeft_eq_ofNat (a b : W32) (k : Nat) :
    (((a ++ b) <<< k) >>> 32).setWidth 32 =
      BitVec.ofNat 32 ((a.toNat * 2 ^ 32 + b.toNat) * 2 ^ k % 2 ^ 64 / 2 ^ 32) := by
  rw [← BitVec.ofNat_toNat, BitVec.toNat_ushiftRight, BitVec.toNat_shiftLeft, toNat_append_words, Nat.shiftLeft_eq,
    Nat.shiftRight_eq_div_pow]

theorem funnelRight_eq_ofNat (a b : W32) (k : Nat) :
    ((a ++ b) >>> k).setWidth 32 = BitVec.ofNat 32 ((a.toNat * 2 ^ 32 + b.toNat) / 2 ^ k) := by
  rw [← BitVec.ofNat_toNat, BitVec.toNat_ushiftRight, toNat_append_words, Nat.shiftRight_eq_div_pow]

/-- The mask of a field of n bits at position p. -/
theorem getLsbD_fieldMask (p n : Nat) {i : Nat} (hi : i < 32) :
    (BitVec.ofNat 32 ((2 ^ n - 1) * 2 ^ p)).getLsbD i = decide (p ≤ i ∧ i < p + n) := by
  rw [BitVec.getLsbD_ofNat, Nat.mul_comm, Nat.testBit_two_pow_mul, Nat.testBit_two_pow_sub_one, Bool.eq_iff_iff]
  simp only [Bool.and_eq_true, decide_eq_true_eq]
  omega

theorem getLsbD_bitInsert (base field pw : W32) {i : Nat} (hi : i < 32) :
    (bitInsert base field pw).getLsbD i =
      if (fieldPos pw).1 ≤ i ∧ i < (fieldPos pw).1 + (fieldPos pw).2 then field.getLsbD (i - (fieldPos pw).1)
      else base.getLsbD i := by
  simp only [bitInsert, BitVec.getLsbD_or, BitVec.getLsbD_and, BitVec.getLsbD_not, getLsbD_fieldMask _ _ hi,
    BitVec.getLsbD_shiftLeft]
  split
  · next h => simp [hi, h]
  · next h => simp [hi, h]

theorem truncS_eq_bmod (x : Int) {n : Nat} (hn : n ≠ 0) : truncS x n = x.bmod (2 ^ n) := by
  obtain ⟨m, rfl⟩ := Nat.exists_eq_add_one_of_ne_zero hn
  have hhalf : (((2 ^ (m + 1) : Nat) : Int) + 1) / 2 = (2 ^ m : Nat) := by omega
  rw [truncS, Int.bmod, hhalf]
  rfl

theorem bitField_of_empty (signed : Bool) (x pw : W32) (hn : (fieldPos pw).2 = 0) : bitField signed x pw = 0 := if_pos hn

/-- A field that is not empty is its bits cut out, extended to the word. -/
theorem bitField_eq_extract (signed : Bool) (x pw : W32) (hn : (fieldPos pw).2 ≠ 0) :
    bitField signed x pw = if signed then (x.extractLsb' (fieldPos pw).1 (fieldPos pw).2).signExtend 32
      else (x.extractLsb' (fieldPos pw).1 (fieldPos pw).2).setWidth 32 := by
  have hcut : x.toNat / 2 ^ (fieldPos pw).1 % 2 ^ (fieldPos pw).2 = (x.extractLsb' (fieldPos pw).1 (fieldPos pw).2).toNat := by
    rw [BitVec.extractLsb'_toNat, Nat.shiftRight_eq_div_pow]
  simp only [bitField, if_neg hn, hcut]
  rw [truncS_eq_bmod _ hn, ← BitVec.toInt_eq_toNat_bmod, BitVec.ofNat_toNat, BitVec.signExtend]

theorem getLsbD_bitField (signed : Bool) (x pw : W32) (hn : (fieldPos pw).2 ≠ 0) {i : Nat} (hi : i < 32) :
    (bitField signed x pw).getLsbD i = if i < (fieldPos pw).2 then x.getLsbD ((fieldPos pw).1 + i)
      else signed && x.getLsbD ((fieldPos pw).1 + (fieldPos pw).2 - 1) := by
  rw [bitField_eq_extract signed x pw hn]
  cases signed with
  | false => simp [hi]
  | true =>
    have hpos : 1 ≤ (fieldPos pw).2 := Nat.one_le_iff_ne_zero.mpr hn
    have htop : (fieldPos pw).2 - 1 < (fieldPos pw).2 := by omega
    rw [if_pos rfl, BitVec.getLsbD_signExtend, BitVec.msb_eq_getLsbD_last]
    simp only [BitVec.getLsbD_extractLsb', hi, htop, decide_true, Bool.true_and, Nat.add_sub_assoc hpos]
    split
    · next h => simp [h]
    · rfl

/-! ## What an instruction with a result gives -/

section
variable {s : State} {g : Guard} {e : Env} {i : Instr} {srcs : List (Opd × Nat)}

theorem Wave.busy_nil (w : Wave) (sl : BitVec 8) : w.busy sl [] = false := by
  simp [Wave.busy]

/-- An instruction that reads no register reads no poison. -/
theorem Executes.reads {dsts : List (Opd × Nat)} (h : Executes s g dsts e) : Reads s g dsts [] e := by
  refine ⟨h, ?_⟩
  simp [Wave.poisonLane]

theorem gives32_of_run32 {d : Opd} {f : Wave → Nat → W32} {r : Nat → W32} (h : Reads s g [(d, 1)] srcs e)
    (hi : exec i s = run32 i g d srcs s f) (hr : ∀ l, f e.w l = r l) : Gives32 s e i d r := by
  rw [Gives32, hi, run32_reads h, funext hr]

theorem gives64_of_run64 {d : Opd} {f : Wave → Nat → W64} {r : Nat → W64} (h : Reads s g [(d, 2)] srcs e)
    (hi : exec i s = run64 i g d srcs s f) (hr : ∀ l, f e.w l = r l) : Gives64 s e i d r := by
  rw [Gives64, hi, run64_reads h, funext hr]

theorem givesPred_of_runPred {pd : Fin 8} {f : Wave → Nat → Bool} {r : Nat → Bool} (h : Reads s g [] srcs e)
    (hi : exec i s = runPred i g pd srcs s f) (hr : ∀ l, f e.w l = r l) : GivesPred s e i pd r := by
  rw [GivesPred, hi, runPred_reads h, funext hr]

/-- A short-latency instruction whose body only changes its own wave. -/
theorem exec_setWave {dsts : List (Opd × Nat)} {f : Env → Wave} (h : Reads s g dsts srcs e)
    (hi : exec i s = runShort i g dsts srcs true s (fun e => .ok (s.setWave e.u (f e)))) :
    exec i s = .next ((s.setWave e.u (f e)).next e i) :=
  hi.trans (runShort_reads h.toExecutes rfl h.clean)

end

/-! ## Integer results -/

/-- Settles O1: each instruction's function of the model is the one of R215, by the laws above. -/
theorem integerResults : Obligations.IntegerResults := by
  unfold Obligations.IntegerResults
  refine ⟨fun s g d a b e h => ?_, fun s g d a e h => ?_⟩
  · exact ⟨gives32_of_run32 h (exec_iadd g d a b s) fun l => BitVec.add_def (e.w.rd a l) (e.w.rd b l),
      gives32_of_run32 h (exec_isub g d a b s) fun l => sub_eq_ofInt (e.w.rd a l) (e.w.rd b l),
      gives32_of_run32 h (exec_imul g d a b s) fun l => mul_eq_ofNat (e.w.rd a l) (e.w.rd b l),
      gives32_of_run32 h (exec_imulhS g d a b s) fun _ => rfl,
      gives32_of_run32 h (exec_imulhN g d a b s) fun _ => rfl,
      gives32_of_run32 h (exec_iminS g d a b s) fun _ => rfl,
      gives32_of_run32 h (exec_imaxS g d a b s) fun _ => rfl,
      gives32_of_run32 h (exec_iminN g d a b s) fun _ => rfl,
      gives32_of_run32 h (exec_imaxN g d a b s) fun _ => rfl,
      gives32_of_run32 h (exec_and g d a b s) fun _ => rfl,
      gives32_of_run32 h (exec_or g d a b s) fun _ => rfl,
      gives32_of_run32 h (exec_xor g d a b s) fun _ => rfl,
      gives32_of_run32 h (exec_andn g d a b s) fun _ => rfl⟩
  · refine ⟨gives32_of_run32 h (exec_popc g d a s) fun l => congrArg _ (popCount_eq_countP (e.w.rd a l)),
      ⟨_, gives32_of_run32 h (exec_clz g d a s) fun _ => rfl, fun l => ⟨fun hz => ?_, fun hnz => ?_⟩⟩,
      ⟨_, gives32_of_run32 h (exec_brev g d a s) fun _ => rfl, fun l i => getLsbD_bitReverse (e.w.rd a l)⟩,
      gives32_of_run32 h (exec_iabs g d a s) fun l => ofNat_natAbs_toInt (e.w.rd a l),
      gives32_of_run32 h (exec_mov g d a s) fun _ => rfl⟩
    · exact congrArg (BitVec.ofNat 32) (if_pos hz)
    · obtain ⟨hlt, hbits⟩ := leadingZeros_of_ne_zero (x := e.w.rd a l) hnz
      have hval : (BitVec.ofNat 32 (leadingZeros (e.w.rd a l))).toNat = leadingZeros (e.w.rd a l) :=
        Nat.mod_eq_of_lt (by omega)
      dsimp only
      rw [hval]
      exact ⟨hlt, hbits⟩

/-- Settles O2: `sel` reads no poison where the task holds none; the others are functions of their sources. -/
theorem shiftPairResults : Obligations.ShiftPairResults := by
  unfold Obligations.ShiftPairResults
  refine ⟨fun s g d a b e => ⟨fun h => ?_, fun h => ?_⟩,
    fun s g d a b e => ⟨fun h => ?_, fun h => ?_, fun h => ?_, fun h hp => ?_, fun he => ?_⟩⟩
  · exact ⟨gives32_of_run32 h (exec_shl g d a b s) fun l => shlBy_eq_ofNat (e.w.rd a l) _,
      gives32_of_run32 h (exec_shr g d a b s) fun l => ushiftRight_eq_ofNat (e.w.rd a l) _,
      gives32_of_run32 h (exec_sar g d a b s) fun l => sshiftRight_eq_ofInt (e.w.rd a l) _,
      gives32_of_run32 h (exec_rotl g d a b s) fun l => rotl32_eq (e.w.rd a l) _⟩
  · exact ⟨gives64_of_run64 h (exec_shlQ g d a b s) fun l => shlBy_eq_ofNat (e.w.rdq a l) _,
      gives64_of_run64 h (exec_shrQ g d a b s) fun l => ushiftRight_eq_ofNat (e.w.rdq a l) _,
      gives64_of_run64 h (exec_sarQ g d a b s) fun l => sshiftRight_eq_ofInt (e.w.rdq a l) _⟩
  · exact ⟨gives64_of_run64 h (exec_iaddQ g d a b s) fun l => BitVec.add_def (e.w.rdq a l) (e.w.rdq b l),
      gives64_of_run64 h (exec_isubQ g d a b s) fun l => sub_eq_ofInt (e.w.rdq a l) (e.w.rdq b l)⟩
  · exact gives64_of_run64 h (exec_movQ g d a s) fun _ => rfl
  · exact gives64_of_run64 h (exec_lea g d a b s) fun l => add_signExtend_eq_ofInt (e.w.rdq a l) (e.w.rd b l)
  · have hclean (srcs : List (Opd × Nat)) (lanes : W32) : e.w.poisonLane srcs lanes = none := by
      rw [Wave.poisonLane, hp, List.isEmpty_nil, if_pos rfl]
    rw [exec_sel, execSel]
    refine runShort_reads h ?_ (hclean _ _)
    simp only [hclean, Option.orElse_none]
  · cases hn : guardNever g with
    | true => exact (exec_nop g s).trans (runShort_never he hn)
    | false =>
      have h : Reads s g [] [] e := Executes.reads ⟨he, hn, e.w.busy_nil e.st⟩
      exact (exec_nop g s).trans (runShort_reads h.toExecutes rfl h.clean)

/-! ## Group INTX -/

/-- Settles O4: sums and products wrap or saturate, and a field is said bit by bit. -/
theorem intxResults : Obligations.IntxResults := by
  unfold Obligations.IntxResults
  intro s g d a b c ty e
  refine ⟨fun h => ?_, fun h => ?_, fun hty h => ⟨?_, ?_, ?_⟩⟩
  · exact ⟨gives32_of_run32 h (exec_imad g d a b c s) fun l => mul_add_eq_ofNat (e.w.rd a l) (e.w.rd b l) (e.w.rd c l),
      gives32_of_run32 h (exec_fshl g d a b c s) fun l => funnelLeft_eq_ofNat (e.w.rd a l) (e.w.rd b l) _,
      gives32_of_run32 h (exec_fshr g d a b c s) fun l => funnelRight_eq_ofNat (e.w.rd a l) (e.w.rd b l) _,
      _, gives32_of_run32 h (exec_bfi g d a b c s) fun _ => rfl,
      fun l i => getLsbD_bitInsert (e.w.rd a l) (e.w.rd b l) (e.w.rd c l)⟩
  · exact gives64_of_run64 h (exec_imulQ g d a b s) fun l => mul_eq_ofNat (e.w.rdq a l) (e.w.rdq b l)
  · exact gives32_of_run32 h (exec_iaddSat g d a b ty s) fun l => by rw [sat32_eq hty, intOf_word hty, intOf_word hty]
  · exact gives32_of_run32 h (exec_isubSat g d a b ty s) fun l => by rw [sat32_eq hty, intOf_word hty, intOf_word hty]
  · exact ⟨_, gives32_of_run32 h (exec_bfe g d a b ty s) fun _ => rfl, fun l =>
      ⟨bitField_of_empty (ty == .s32) (e.w.rd a l) (e.w.rd b l),
        fun hn i => getLsbD_bitField (ty == .s32) (e.w.rd a l) (e.w.rd b l) hn⟩⟩

end Sys2Proof.Machine

/-! PROOFS. The compare and predicate instructions (R225, R229): a predicate written in some lanes reads back there, and the
rest of the wave's registers stay. -/

namespace Sys2Proof.Machine

/-! ## A predicate read after a write (R47) -/

/-- A byte with one bit set or cleared. -/
theorem getLsbD_setBit (x : Byte) (p : Nat) (v : Bool) {q : Nat} (hq : q < 8) :
    (if v then x ||| BitVec.ofNat 8 (2 ^ p) else x &&& ~~~BitVec.ofNat 8 (2 ^ p)).getLsbD q =
      if p = q then v else x.getLsbD q := by
  have hbit : (BitVec.ofNat 8 (2 ^ p)).getLsbD q = decide (p = q) := by
    rw [BitVec.getLsbD_ofNat, Nat.testBit_two_pow, decide_eq_true hq, Bool.true_and]
  cases v with
  | true =>
    rw [if_pos rfl, BitVec.getLsbD_or, hbit]
    split
    · next h => rw [decide_eq_true h, Bool.or_true]
    · next h => rw [decide_eq_false h, Bool.or_false]
  | false =>
    rw [if_neg Bool.false_ne_true, BitVec.getLsbD_and, BitVec.getLsbD_not, hbit, decide_eq_true hq, Bool.true_and]
    split
    · next h => rw [decide_eq_true h, Bool.not_true, Bool.and_false]
    · next h => rw [decide_eq_false h, Bool.not_false, Bool.and_true]

section
variable {w : Wave}

theorem Wave.wf_preds_setPred (l p : Nat) (v : Bool) (h : Store.wf w.task.preds = true) :
    Store.wf (w.setPred l p v).task.preds = true := by
  rw [Wave.setPred]
  split
  · exact h
  · exact Store.wf_set _ _ _ h

/-- A predicate written in a lane reads back there; p0 ignores the write, and the others are as they were. -/
theorem Wave.pred_setPred (a p : Nat) (v : Bool) (h : Store.wf w.task.preds = true) (l : Nat) {q : Nat} (hq : q < 8) :
    (w.setPred a p v).pred l q = if l = a ∧ q = p ∧ q ≠ 0 then v else w.pred l q := by
  by_cases hp : p = 0
  · subst hp
    rw [Wave.setPred_zero, if_neg (by omega)]
  · by_cases hq0 : q = 0
    · subst hq0
      simp
    · rw [Wave.setPred, if_neg hp, Wave.pred, Wave.pred, beq_false_of_ne hq0, Bool.false_or, Bool.false_or]
      by_cases hl : l = a
      · subst hl
        rw [Store.get_set_self _ _ _ 0 h, getLsbD_setBit _ _ _ hq]
        simp [hq0, eq_comm]
      · rw [Store.get_set_ne _ _ _ _ hl, if_neg (fun hx => hl hx.1)]

theorem Wave.wf_preds_setPreds (lanes : W32) (p : Nat) (f : Nat → Bool) (h : Store.wf w.task.preds = true) :
    Store.wf (w.setPreds lanes p f).task.preds = true :=
  List.foldlRecOn (motive := fun w : Wave => Store.wf w.task.preds = true) _ _ h
    fun _ hb l _ => Wave.wf_preds_setPred l p (f l) hb

theorem Wave.pred_foldl_setPred (p : Nat) (f : Nat → Bool) (l : Nat) {q : Nat} (hq : q < 8) (ls : List Nat) :
    ∀ w : Wave, Store.wf w.task.preds = true → (ls.foldl (fun w l => w.setPred l p (f l)) w).pred l q =
      if l ∈ ls ∧ q = p ∧ q ≠ 0 then f l else w.pred l q := by
  induction ls with
  | nil => simp
  | cons a r ih =>
    intro w h
    rw [List.foldl_cons, ih _ (Wave.wf_preds_setPred a p (f a) h), Wave.pred_setPred a p (f a) h l hq]
    by_cases hw : q = p ∧ q ≠ 0
    · simp only [and_iff_left hw, List.mem_cons]
      by_cases hl : l = a <;> simp [hl]
    · simp only [hw, and_false, if_false]

theorem Wave.pred_setPreds (lanes : W32) (p : Nat) (f : Nat → Bool) (h : Store.wf w.task.preds = true) (l : Nat) {q : Nat}
    (hq : q < 8) : (w.setPreds lanes p f).pred l q =
      if q = p ∧ lanes.getLsbD l = true ∧ q ≠ 0 then f l else w.pred l q := by
  rw [Wave.setPreds, Wave.pred_foldl_setPred p f l hq _ w h]
  exact if_congr ((and_congr_left' (mem_bitsOf lanes l)).trans and_left_comm) rfl rfl

/-- `pset` writes the predicates one after another, each in the same lanes. -/
theorem Wave.pred_foldl_setPreds (lanes : W32) (f : Nat → Nat → Bool) (l : Nat) {q : Nat} (hq : q < 8) (ps : List Nat) :
    ∀ w : Wave, Store.wf w.task.preds = true → (ps.foldl (fun w p => w.setPreds lanes p (f p)) w).pred l q =
      if q ∈ ps ∧ lanes.getLsbD l = true ∧ q ≠ 0 then f q l else w.pred l q := by
  induction ps with
  | nil => simp
  | cons p r ih =>
    intro w h
    rw [List.foldl_cons, ih _ (Wave.wf_preds_setPreds lanes p (f p) h), Wave.pred_setPreds lanes p (f p) h l hq]
    by_cases hw : lanes.getLsbD l = true ∧ q ≠ 0
    · simp only [and_iff_left hw, List.mem_cons]
      by_cases hp : q = p <;> simp [hp]
    · simp only [hw, and_false, if_false]

end

/-- Writing predicates leaves the registers alone. -/
theorem Wave.regs_setPred (w : Wave) (l p : Nat) (v : Bool) :
    ((w.setPred l p v).task.vregs, (w.setPred l p v).task.scal) = (w.task.vregs, w.task.scal) := by
  rw [Wave.setPred]
  split <;> rfl

theorem Wave.regs_setPreds (w : Wave) (lanes : W32) (p : Nat) (f : Nat → Bool) :
    ((w.setPreds lanes p f).task.vregs, (w.setPreds lanes p f).task.scal) = (w.task.vregs, w.task.scal) :=
  List.foldlRecOn (motive := fun v : Wave => (v.task.vregs, v.task.scal) = (w.task.vregs, w.task.scal)) _ _ rfl
    fun v hv l _ => (v.regs_setPred l p (f l)).trans hv

theorem Wave.regs_foldl_setPreds (w : Wave) (lanes : W32) (f : Nat → Nat → Bool) (ps : List Nat) :
    ((ps.foldl (fun v p => v.setPreds lanes p (f p)) w).task.vregs,
      (ps.foldl (fun v p => v.setPreds lanes p (f p)) w).task.scal) = (w.task.vregs, w.task.scal) :=
  List.foldlRecOn (motive := fun v : Wave => (v.task.vregs, v.task.scal) = (w.task.vregs, w.task.scal)) _ _ rfl
    fun v hv p _ => (v.regs_setPreds lanes p (f p)).trans hv

/-- The predicates of a lane as a word, p0 reading 1. -/
theorem getLsbD_maskOf_preds (w : Wave) (l i : Nat) :
    (maskOf ((List.range 8).filter (fun p => w.pred l p)) : W32).getLsbD i = (decide (i < 8) && w.pred l i) := by
  by_cases hi : i < 32
  · rw [getLsbD_maskOf _ _ hi, Bool.eq_iff_iff, decide_eq_true_eq, List.mem_filter, List.mem_range, Bool.and_eq_true,
      decide_eq_true_eq]
  · rw [BitVec.getLsbD_of_ge _ _ (not_lt.mp hi), decide_eq_false (by omega), Bool.false_and]

/-- `icmp` compares its operands as the integers of their type. -/
theorem icmp_gives {s : State} {g : Guard} {a b : Opd} {ty : Ty} {c : Cond} {pd : Fin 8} {e : Env}
    (h : Reads s g [] [(a, Ty.regs ty), (b, Ty.regs ty)] e) :
    GivesPred s e (.icmp g a b ty c pd) pd (fun l => Cond.onInt c (intOf ty e.w a l) (intOf ty e.w b l)) :=
  givesPred_of_runPred h (exec_icmp g a b ty c pd s) fun _ => rfl

/-- Settles O3: `pset` is a write of eight predicates in the same lanes, read back one at a time. -/
theorem predicateResults : Obligations.PredicateResults := by
  unfold Obligations.PredicateResults
  intro s g d a b ty c pa pb pd tt e
  refine ⟨?_, ?_, fun h => ?_, fun h => ?_, fun h hwf => ?_⟩
  · rintro (rfl | rfl) h <;> exact icmp_gives h
  · rintro (rfl | rfl) h <;> exact icmp_gives h
  · refine givesPred_of_runPred h.reads (exec_pbool g tt pa pb pd s) fun l => ?_
    rw [Bool.toNat, Bool.toNat, Bool.cond_eq_ite, Bool.cond_eq_ite]
  · exact ⟨_, gives32_of_run32 h.reads (exec_pget g d s) fun _ => rfl, fun l i => getLsbD_maskOf_preds e.w l i⟩
  · obtain ⟨hv, hs⟩ := Prod.mk.inj (e.w.regs_foldl_setPreds e.part (fun p l => (e.w.rd a l).getLsbD p) (List.range 8))
    refine ⟨_, exec_setWave h (exec_pset g a s), hv, hs, fun l p _ hp => ?_⟩
    rw [Wave.pred_foldl_setPreds e.part (fun p l => (e.w.rd a l).getLsbD p) l hp _ e.w hwf]
    simp only [List.mem_range, hp, true_and]

end Sys2Proof.Machine

/-! PROOFS. Votes, shuffles, reductions and scans over the participating lanes of a strand (R241 to R245). -/

namespace Sys2Proof.Machine

theorem Seg.width_pos (seg : Seg) : 0 < Seg.width seg := by
  cases seg <;> decide

/-- Two lanes are of one segment exactly if their segments start at the same lane. -/
theorem segLanes_eq_filter_base (part : W32) (seg : Seg) (l : Nat) :
    segLanes part seg l =
      (bitsOf part).filter (fun k => k / Seg.width seg * Seg.width seg == l / Seg.width seg * Seg.width seg) := by
  refine List.filter_congr fun k _ => ?_
  rw [Bool.eq_iff_iff, beq_iff_eq, beq_iff_eq, Nat.mul_left_inj (Seg.width_pos seg).ne']

/-- The lanes that a scan combines: those below the lane, and the lane itself in an inclusive scan. -/
theorem scanned_eq (excl : Bool) (k l : Nat) :
    (if excl then decide (k < l) else decide (k ≤ l)) = (decide (k < l) || (!excl && k == l)) := by
  rw [Bool.eq_iff_iff]
  cases excl with
  | true => simp
  | false => simp [Nat.le_iff_lt_or_eq]

theorem getLsbD_maskOf_filter_bitsOf (m : W32) (p : Nat → Bool) {l : Nat} (hl : l < 32) :
    (maskOf ((bitsOf m).filter p) : W32).getLsbD l = (m.getLsbD l && p l) := by
  rw [getLsbD_maskOf _ _ hl, Bool.eq_iff_iff, decide_eq_true_eq, List.mem_filter, mem_bitsOf, Bool.and_eq_true]

/-- A shuffle takes each participating lane's value from the lane that its source function names, or 0 where that lane does
not participate. -/
theorem runPick_reads {s : State} {g : Guard} {d a b : Opd} {ty : Ty} {seg : Seg} {e : Env} {i : Instr}
    {src : Nat → Nat → Nat → Nat} {lane : Nat → Nat} (h : Reads s g [(d, Ty.regs ty)] [(a, Ty.regs ty), (b, 1)] e)
    (hi : exec i s = runPick i g d a b ty seg s src)
    (hlane : ∀ l, src l (Seg.width seg) (e.w.rd b l).toNat = lane l) :
    exec i s = .next ((s.setWave e.u (e.w.wrk (Ty.regs ty) d e.part
      (fun l => if e.part.getLsbD (lane l) then e.w.rdk (Ty.regs ty) a (lane l) else 0))).next e i) := by
  rw [exec_setWave h hi]
  simp only [hlane]

/-- Settles O9: the segments of the statement are those of the model. -/
theorem laneResults : Obligations.LaneResults := by
  unfold Obligations.LaneResults
  intro s g d a b ty seg op excl ps pd e base lanes n w pick
  have hlanes (l : Nat) : segLanes e.part seg l = lanes l := segLanes_eq_filter_base e.part seg l
  refine ⟨fun h => ⟨?_, ?_⟩, fun h => ?_, fun h => ⟨?_, ?_, ?_, ?_⟩, fun h => ⟨?_, ?_⟩⟩
  · rw [GivesPred, exec_setWave h.reads (exec_lany g ps pd s), ← List.any_eq]
  · rw [GivesPred, exec_setWave h.reads (exec_lall g ps pd s), ← List.all_eq]
  · exact ⟨_, exec_setWave h.reads (exec_lmask g d ps s), fun l hl => getLsbD_maskOf_filter_bitsOf e.part _ hl⟩
  · rintro _ rfl
    exact runPick_reads h (exec_lpickIdx g d a b ty seg s) fun _ => rfl
  · rintro _ rfl
    refine runPick_reads h (exec_lpickUp g d a b ty seg s) fun l => if_congr (or_congr Iff.rfl ?_) rfl rfl
    simp only [base, n]
    omega
  · rintro _ rfl
    exact runPick_reads h (exec_lpickDown g d a b ty seg s) fun _ => rfl
  · rintro _ rfl
    exact runPick_reads h (exec_lpickXor g d a b ty seg s) fun _ => rfl
  · rw [Gives32, exec_setWave h (exec_lred g d a op ty seg s)]
    simp only [hlanes]
  · rw [Gives32, exec_setWave h (exec_lscan g d a op ty seg excl s)]
    simp only [hlanes, scanned_eq]

end Sys2Proof.Machine

/-! PROOFS. The stops by `trap` and `brk`, and of a stalled group (R252, R253, R435). -/

namespace Sys2Proof.Machine

/-- `trap` completes, and its wave stops with the leader's code. -/
theorem exec_trap_leads {s : State} {g : Guard} {a : Opd} {e : Env} {l : Nat} (h : Leads s g [] [(a, 1)] e)
    (hl : e.leader = some l) :
    exec (.trap g a) s = .next ((s.stopWave e.u
      (Bad.req ⟨0, (e.w.rd a l).toNat % 65536, 0, l, none⟩ none e.sl e.pc e.part)).next e (.trap g a)) := by
  rw [← State.stopAt_next s e none _ (.trap g a) (by simp), exec_trap, execTrap]
  exact runShort_reads h.toExecutes (by simp only [hl]) h.clean

/-- `brk` completes, and its wave stops for a trap of class 1 where no debugger asks for it. -/
theorem exec_brk_traps {s : State} {g : Guard} {e : Env} (h : Executes s g [] e) (hp : e.part ≠ 0) (hb : e.w.brkstop = false) :
    exec (.brk g) s =
      .next ((s.stopWave e.u (Bad.req ⟨1, 0, 0, 0xFF, none⟩ none e.sl e.pc e.part)).next e (.brk g)) := by
  rw [← State.stopAt_next s e none _ (.brk g) (by decide), exec_brk, execBrk]
  exact runShort_reads h (by simp only [if_neg hp, hb, Bool.false_eq_true, if_false]) h.reads.clean

/-- A waiting wave of a stalled group, whose root task does not wait by R99, traps in its waits. -/
theorem State.stallWave_waiting (s : State) {u : Nat} {w : Wave} {n : Nat} {rest : List Nat} (hw : w.waiting = n :: rest)
    (ht : w.trapbase ≠ 0) (he : w.ended = none) :
    let sl := (n :: rest).foldl (fun m k => m ||| w.strandSlices k) (0 : BitVec 8)
    s.stallWave u w = s.stopWave u (Bad.req ⟨6, 5, 0, 0xFF, none⟩ none sl (w.slice n).pc (w.activeLanes sl)) := by
  have hroot : w.rootWaits = none := by simp [Wave.rootWaits, he]
  simp [State.stallWave, ht, hroot, he, hw]

theorem execStallDetect_idle {s : State} {g : Nat} {x : Group} (hx : s.group g = some x)
    (h : s.stalled g = false ∨ s.dev.tick < x.lastIssue + 2 ^ 28) : execStallDetect g s = .next s := by
  have hc : (!s.stalled g) = true ∨ s.dev.tick < x.lastIssue + stallTicks := by
    rwa [Bool.not_eq_true']
  simp only [execStallDetect, hx, if_pos hc]

theorem execStallDetect_found {s : State} {g : Nat} {x : Group} (hx : s.group g = some x) (hs : s.stalled g = true)
    (ht : x.lastIssue + 2 ^ 28 ≤ s.dev.tick) :
    execStallDetect g s = .next ((s.wavesOf g).foldl (fun s y => s.stallWave y.1 y.2)
      ((s.modGroup g (fun y => { y with lastIssue := s.dev.tick })).modLaunch x.launch (fun l => { l with stall := true }))) := by
  have hc : ¬((!s.stalled g) = true ∨ s.dev.tick < x.lastIssue + stallTicks) := by
    simpa [hs, stallTicks] using ht
  simp only [execStallDetect, hx, if_neg hc]

/-- Settles O14: the cause of `trap` or `brk` is precise, and the wave stops behind it. -/
theorem trapsAndStalls : Obligations.TrapsAndStalls := by
  unfold Obligations.TrapsAndStalls
  refine ⟨fun s g a e l => ⟨fun h hl => ?_, fun h hp hb => ?_, fun h hp hb => ?_⟩, fun s g x hx => ⟨?_, ?_, ?_⟩⟩
  · exact ⟨_, exec_trap_leads h hl, rfl, rfl, rfl, rfl, rfl, rfl, rfl⟩
  · rw [exec_brk, execBrk]
    exact runShort_reads h (by simp only [if_neg hp, hb, if_true]) h.reads.clean
  · exact ⟨_, exec_brk_traps h hp hb, rfl, rfl, rfl, rfl⟩
  · exact fun h => (exec_stallDetect g s).trans (execStallDetect_idle hx h)
  · exact fun hs ht => (exec_stallDetect g s).trans (execStallDetect_found hx hs ht)
  · exact fun u w n rest hw ht he => ⟨_, s.stallWave_waiting hw ht he, rfl, rfl, rfl⟩

end Sys2Proof.Machine

/-! PROOFS. EMBER slots (R77, R78, R276 to R278): arming and disarming, each way a wait of a leader ends or goes on, and the
timeout of a strand that sleeps. -/

namespace Sys2Proof.Machine

theorem Env.part_ne_zero {e : Env} {l : Nat} (hl : e.leader = some l) : e.part ≠ 0 := by
  intro hp
  rw [Env.leader, hp, (bitsOf_eq_nil 0).mpr rfl, List.head?_nil] at hl
  cases hl

/-- A waiting instruction that executes with no error to report and reads clean sources has its body's effect. -/
theorem runWait_reads {i : Instr} {g : Guard} {dsts srcs : List (Opd × Nat)} {s t : State} {body : Env → Except Bad State}
    {e : Env} (h : Executes s g dsts e) (hq : s.reportAt e.u (fun x => x.names e.st) = none) (hb : body e = .ok t)
    (hp : e.w.poisonLane srcs e.lead = none) : runWait i g dsts srcs s body = .next t := by
  have hreport : s.reportHere e (fun x => x.names e.st) = none := by rw [State.reportHere, hq, Option.map_none]
  simp only [runWait, h.env, hreport, ite_self]
  exact runShort_reads h hb hp

/-! ## Arming and disarming (R276, R278) -/

section
variable {s : State} {g : Guard} {e : Env} {l : Nat} (hl : e.leader = some l)
include hl

/-- The armed slot watches the 8-byte word that holds the physical address found. -/
theorem exec_emberArm_translated {a b : Opd} {k : Fin 4} {x : Nat} {p : Place} {at_ : Attr}
    (h : Leads s g [] [(a, 2), (b, 1)] e) (hx : (e.w.rdq a l + (e.w.rd b l).signExtend 64).toNat = x) (hlt : x < 2 ^ 56)
    (ht : s.translate e.ag x .read = .ok (p, at_)) :
    exec (.emberArm g a b k) s = .next (((s.tlbFill e.ag x).modWave e.u (fun w =>
      w.modEmber (fun i y => if i = k.val then ⟨some (p.back (p.addr % 8)), false⟩ else y))).next e (.emberArm g a b k)) := by
  rw [exec_emberArm, execEmberArm]
  exact runShort_reads h.toExecutes (by simp only [hl, hx, if_neg (Nat.not_le.mpr hlt), ht]) h.clean

theorem exec_emberDisarm_executes {mask : BitVec 4} (h : Executes s g [] e) :
    exec (.emberDisarm g mask) s = .next ((s.modWave e.u (fun w =>
      w.modEmber (fun i y => if mask.getLsbD i then ⟨none, false⟩ else y))).next e (.emberDisarm g mask)) := by
  rw [exec_emberDisarm, execEmberDisarm]
  exact runShort_reads h (by simp only [if_neg (Env.part_ne_zero hl)]) h.reads.clean

end

/-! ## Waiting (R78, R277) -/

section
variable {s : State} {g : Guard} {d a : Opd} {e : Env} {l : Nat} (hl : e.leader = some l) (h : Executes s g [(d, 1)] e)
  (hp : e.w.poisonLane [(a, 1)] e.lead = none) (hq : s.reportAt e.u (fun x => x.names e.st) = none)
include hl h hp hq

/-- A hit ends the wait with the slot's number. -/
theorem exec_emberWait_hit {i : Nat} (hi : e.w.emberHit = some i) :
    exec (.emberWait g d a) s = .next ((s.setWave e.u (e.w.emberTake i d e.part)).next e (.emberWait g d a)) := by
  rw [exec_emberWait, execEmberWait]
  exact runWait_reads h hq (by simp only [hl, hi]) hp

variable (hno : e.w.emberHit = none) (hw : (e.w.slice ((bitsOf e.st).headD 0)).wait = none) {n : Nat}
  (hn : (e.w.rd a l).toNat = n)
include hno hw hn

/-- Without a hit, a wait that has no time to pass, or nothing to end it, returns 4 at once. -/
theorem exec_emberWait_returns (hend : n = 0 ∨ (n = 0xFFFFFFFF ∧ ∀ y ∈ e.w.task.ember, y.armed = none)) :
    exec (.emberWait g d a) s = .next ((s.setWave e.u (e.w.wr d e.part (fun _ => 4))).next e (.emberWait g d a)) := by
  have hcond : n = 0 ∨ (n = 0xFFFFFFFF ∧ e.w.task.ember.all (fun y => y.armed.isNone) = true) := by
    simpa only [List.all_eq_true, Option.isNone_iff_eq_none] using hend
  rw [exec_emberWait, execEmberWait]
  exact runWait_reads h hq (by simp only [hl, hno, hw, hn, beq_iff_eq, if_pos hcond]) hp

theorem exec_emberWait_sleeps_until (hzero : n ≠ 0) (hever : n ≠ 0xFFFFFFFF) :
    exec (.emberWait g d a) s = .next (s.waitIn e (.ember (some (s.dev.tick + n)) d e.part)) := by
  rw [exec_emberWait, execEmberWait]
  exact runWait_reads h hq
    (by simp only [hl, hno, hw, hn, beq_iff_eq, hzero, hever, false_and, or_self, if_false]) hp

/-- Without a timeout, a strand sleeps where a slot is armed that can wake it. -/
theorem exec_emberWait_sleeps_on (hever : n = 0xFFFFFFFF) (harmed : ∃ y ∈ e.w.task.ember, y.armed ≠ none) :
    exec (.emberWait g d a) s = .next (s.waitIn e (.ember none d e.part)) := by
  have hzero : n ≠ 0 := by omega
  have hsome : ¬e.w.task.ember.all (fun y => y.armed.isNone) = true := by
    simpa only [List.all_eq_true, Option.isNone_iff_eq_none, not_forall, exists_prop] using harmed
  have hcond : ¬(n = 0 ∨ (n = 0xFFFFFFFF ∧ e.w.task.ember.all (fun y => y.armed.isNone) = true)) :=
    not_or.mpr ⟨hzero, fun hall => hsome hall.2⟩
  rw [exec_emberWait, execEmberWait]
  exact runWait_reads h hq (by simp only [hl, hno, hw, hn, beq_iff_eq, if_neg hcond, if_pos hever]) hp

end

/-! ## The timeout (R78, R436) -/

section
variable {s : State} {core wid strand u tick : Nat} {w : Wave} {d : Opd} {lanes : W32} (hw : s.waveAt core wid = some (u, w))
  (hwait : (w.slice ((bitsOf (w.strandSlices strand)).headD 0)).wait = some (.ember (some tick) d lanes))
include hw hwait

theorem exec_emberTimeout_passed (hst : w.strandSlices strand ≠ 0) (ha : s.awake w = true) (hno : w.emberHit = none)
    (hfree : w.busy (w.strandSlices strand) [(d, 1)] = false) (ht : tick ≤ s.dev.tick) :
    exec (.emberTimeout core wid strand) s =
      .next (s.modWave u (fun w' => (w'.wr d lanes (fun _ => 4)).resume (w.strandSlices strand))) := by
  have hgo : w.strandSlices strand ≠ 0 ∧ s.awake w = true ∧ tick ≤ s.dev.tick ∧ w.emberHit.isNone = true ∧
      (!w.busy (w.strandSlices strand) [(d, 1)]) = true :=
    ⟨hst, ha, ht, by rw [hno, Option.isNone_none], by rw [hfree, Bool.not_false]⟩
  simp only [exec_emberTimeout, execEmberTimeout, hw, hwait, if_pos hgo]

theorem exec_emberTimeout_early (ht : s.dev.tick < tick) : exec (.emberTimeout core wid strand) s = .next s := by
  simp only [exec_emberTimeout, execEmberTimeout, hw, hwait, Nat.not_le.mpr ht, false_and, and_false, if_false]

end

/-! ## The obligation -/

/-- Settles O22: each clause is the lemma on its instruction; a wait is told by its hit, its time and the slots armed. -/
theorem ember : Obligations.Ember := by
  unfold Obligations.Ember
  refine ⟨fun s g d a b k mask e l p at_ hl => ⟨fun h hlt ht => ?arm, fun h => ?disarm, fun h hp hq => ⟨fun i hi => ?hit,
    fun hno hw => ⟨fun hn => ?zero, fun hn0 hnf => ?timed, fun hn => ⟨fun hnone => ?unarmed, fun harmed => ?endless⟩⟩⟩⟩,
    fun s core wid strand u tick w d lanes hw hst hwait ha hno hfree => ⟨fun ht => ?passed, fun ht => ?early⟩⟩
  case arm => exact exec_emberArm_translated hl h rfl hlt ht
  case disarm => exact exec_emberDisarm_executes hl h
  case hit => exact exec_emberWait_hit hl h hp hq hi
  case zero => exact exec_emberWait_returns hl h hp hq hno hw rfl (.inl hn)
  case timed => exact exec_emberWait_sleeps_until hl h hp hq hno hw rfl hn0 hnf
  case unarmed => exact exec_emberWait_returns hl h hp hq hno hw rfl (.inr ⟨hn, hnone⟩)
  case endless => exact exec_emberWait_sleeps_on hl h hp hq hno hw rfl hn harmed
  case passed => exact exec_emberTimeout_passed hw hwait hst ha hno hfree ht
  case early => exact exec_emberTimeout_early hw hwait ht

end Sys2Proof.Machine

/-! PROOFS. The encoder and the decoder agree (R187 to R203): the fields of the instruction words and of each modifier
record read back, a row of the encoding tables accepts the operands and modifiers of a well-formed instruction, and the
words of the instruction are all that the decoder takes. -/

namespace Sys2Proof

set_option Elab.async false

/-! ## Fields of a number -/

/-- A field of a number that is written as what stands above the field, the field, and what stands below. -/
theorem bits_eq {w lo n x low : Nat} (hi : Nat) (hw : w = hi * 2 ^ (lo + n) + x * 2 ^ lo + low) (hlow : low < 2 ^ lo)
    (hx : x < 2 ^ n) : bits w lo n = x := by
  have hsum : w = low + 2 ^ lo * (x + 2 ^ n * hi) := by rw [hw, Nat.pow_add]; ring
  rw [bits, hsum, Nat.add_mul_div_left _ _ (Nat.two_pow_pos lo), Nat.div_eq_of_lt hlow, Nat.zero_add,
    Nat.add_mul_mod_self_left, Nat.mod_eq_of_lt hx]

theorem fl_eq (b : Bool) (i : Nat) : fl b i = b.toNat * 2 ^ i := by
  cases b <;> simp [fl]

theorem toNat_beq_one (b : Bool) : (b.toNat == 1) = b := by
  cases b <;> rfl

/-! ## Codes -/

theorem Guard.ofCode_code (g : Guard) : Guard.ofCode g.code = g := by
  obtain ⟨neg, p⟩ := g
  revert neg p
  decide

theorem Ty.code_lt (t : Ty) : t.code < 24 := by cases t <;> decide
theorem Rnd.code_le (r : Rnd) : r.code ≤ 4 := by cases r <;> decide
theorem Order.code_lt (o : Order) : o.code < 4 := by cases o <;> decide
theorem Scope.code_le (s : Scope) : s.code ≤ 5 := by cases s <;> decide
theorem Cond.code_lt (c : Cond) : c.code < 8 := by cases c <;> decide
theorem LaneOp.code_le (o : LaneOp) : o.code ≤ 5 := by cases o <;> decide
theorem RmwOp.code_le (o : RmwOp) : o.code ≤ 6 := by cases o <;> decide
theorem Seg.code_pos (s : Seg) : 1 ≤ s.code := by cases s <;> decide
theorem Seg.code_le (s : Seg) : s.code ≤ 5 := by cases s <;> decide
theorem Hint.code_le (h : Hint) : h.code ≤ 2 := by cases h <;> decide
theorem QForm.code_le (f : QForm) : f.code ≤ 2 := by cases f <;> decide
theorem MFmt.code_le (f : MFmt) : f.code ≤ 4 := by cases f <;> decide
theorem AccTy.code_le (t : AccTy) : t.code ≤ 4 := by cases t <;> decide
theorem Cols.code_le (c : Cols) : c.code ≤ 2 := by cases c <;> decide
theorem BForm.code_le (f : BForm) : f.code ≤ 2 := by cases f <;> decide
theorem CctlOp.code_le (o : CctlOp) : o.code ≤ 2 := by cases o <;> decide

@[simp] theorem Ty.ofCode_code (t : Ty) : Ty.ofCode t.code = t := by cases t <;> rfl
@[simp] theorem Rnd.ofCode_code (r : Rnd) : Rnd.ofCode r.code = r := by cases r <;> rfl
@[simp] theorem Order.ofCode_code (o : Order) : Order.ofCode o.code = o := by cases o <;> rfl
@[simp] theorem Scope.ofCode_code (s : Scope) : Scope.ofCode s.code = s := by cases s <;> rfl
@[simp] theorem Cond.ofCode_code (c : Cond) : Cond.ofCode c.code = c := by cases c <;> rfl
@[simp] theorem LaneOp.ofCode_code (o : LaneOp) : LaneOp.ofCode o.code = o := by cases o <;> rfl
@[simp] theorem RmwOp.ofCode_code (o : RmwOp) : RmwOp.ofCode o.code = o := by cases o <;> rfl
@[simp] theorem Seg.ofCode_code (s : Seg) : Seg.ofCode s.code = s := by cases s <;> rfl
@[simp] theorem Hint.ofCode_code (h : Hint) : Hint.ofCode h.code = h := by cases h <;> rfl
@[simp] theorem QForm.ofCode_code (f : QForm) : QForm.ofCode f.code = f := by cases f <;> rfl
@[simp] theorem MFmt.ofCode_code (f : MFmt) : MFmt.ofCode f.code = f := by cases f <;> rfl
@[simp] theorem AccTy.ofCode_code (t : AccTy) : AccTy.ofCode t.code = t := by cases t <;> rfl
@[simp] theorem Cols.ofCode_code (c : Cols) : Cols.ofCode c.code = c := by cases c <;> rfl
@[simp] theorem BForm.ofCode_code (f : BForm) : BForm.ofCode f.code = f := by cases f <;> rfl
@[simp] theorem CctlOp.ofCode_code (o : CctlOp) : CctlOp.ofCode o.code = o := by cases o <;> rfl

/-! ## Operands and their literal words -/

/-- A code calls for as many words as its operand brings. -/
theorem litCount_code (o : Opd) : litCount o.code = o.words.length := by
  cases o with
  | v n => simp [Opd.code, Opd.words, litCount, show n.val ≠ 124 by omega, show n.val ≠ 125 by omega]
  | s n => simp [Opd.code, Opd.words, litCount, show 88 + n.val ≠ 124 by omega, show 88 + n.val ≠ 125 by omega]
  | _ => rfl

theorem Opd.words_length_le (o : Opd) : o.words.length ≤ 2 := by
  cases o <;> simp [Opd.words]

theorem opdOf_code (o : Opd) : opdOf o.code o.words = some o := by
  cases o with
  | v n => simp [opdOf, Opd.code]
  | s n => simp [opdOf, Opd.code, show 88 + n.val < 120 by omega]
  | lit w => rfl
  | lit2 w =>
    have hjoin : w.extractLsb' 32 32 ++ w.extractLsb' 0 32 = w := by
      refine BitVec.eq_of_getLsbD_eq fun i hi => ?_
      rw [BitVec.getLsbD_append]
      by_cases hlow : i < 32
      · simp [hlow]
      · simp only [hlow, if_false, BitVec.getLsbD_extractLsb']
        have hsum : 32 + (i - 32) = i := by omega
        have hlt : i - 32 < 32 := by omega
        simp [hsum, hlt]
    simp [opdOf, Opd.code, Opd.words, hjoin]
  | _ => rfl

/-- A destination, and the d field of a copy, brings no literal word. -/
def Shape.wordless : Shape → Bool
  | .r32 | .r64 => false
  | _ => true

theorem Shape.words_eq_nil {sh : Shape} {o : Opd} (hsh : sh.wordless = true) (h : sh.ok o = true) : o.words = [] := by
  cases o with
  | lit w => cases sh <;> simp_all [Shape.ok, Shape.wordless]
  | lit2 w => cases sh <;> simp_all [Shape.ok, Shape.wordless]
  | _ => rfl

/-! ## Rows -/

/-- A row accepts its operands and its modifiers. -/
def Row.takes (r : Row) (d a b c : Opd) : Bool :=
  r.d.ok d && r.a.ok a && r.b.ok b && r.c.ok c && r.fields.all (·.2)

theorem badMod_eq_none {l : List (Nat × Bool)} (h : l.all (·.2) = true) : badMod l = none := by
  induction l with
  | nil => rfl
  | cons x rest ih =>
    obtain ⟨lo, ok⟩ := x
    simp only [List.all_cons, Bool.and_eq_true] at h
    simp only [badMod, h.1, ih h.2]

theorem finish_words {r : Row} {g : Guard} {d a b c : Opd} (hd : r.d.wordless = true) (h : r.takes d a b c = true) :
    finish r g d.code a.code b.code c.code (a.words ++ b.words ++ c.words) = .ok (r.make g d a b c, []) := by
  simp only [Row.takes, Bool.and_eq_true] at h
  obtain ⟨⟨⟨⟨hdok, ha⟩, hb⟩, hc⟩, hf⟩ := h
  have hopd : opdOf d.code [] = some d := by rw [← Shape.words_eq_nil hd hdok]; exact opdOf_code d
  have hlen : ¬(a.words ++ b.words ++ c.words).length < a.words.length + b.words.length + c.words.length := by
    simp only [List.length_append]; omega
  have hrest : (a.words ++ b.words ++ c.words).drop (a.words.length + b.words.length + c.words.length) = [] :=
    List.drop_eq_nil_of_le (by simp only [List.length_append]; omega)
  have hwa : (a.words ++ b.words ++ c.words).take a.words.length = a.words := by
    rw [List.append_assoc, List.take_left]
  have hwb : ((a.words ++ b.words ++ c.words).drop a.words.length).take b.words.length = b.words := by
    rw [List.append_assoc, List.drop_left, List.take_left]
  have hwc : ((a.words ++ b.words ++ c.words).drop (a.words.length + b.words.length)).take c.words.length = c.words := by
    rw [← List.length_append, List.drop_left, List.take_length]
  simp only [finish, litCount_code, if_neg hlen, hrest, hwa, hwb, hwc, hopd, opdOf_code, badField, fieldOk, hdok, ha, hb, hc,
    badMod_eq_none hf, List.isEmpty_nil, Bool.not_true, Bool.and_false, Bool.false_eq_true, if_false, Option.getD_some]

/-! ## The words of an instruction -/

theorem word0_fields {op : Nat} (g : Guard) {d a b : Nat} (hop : op < 128) (hd : d < 128) (ha : a < 128) (hb : b < 128) :
    bits (word0 op g d a b).toNat 25 7 = op ∧ bits (word0 op g d a b).toNat 21 4 = g.code ∧
      bits (word0 op g d a b).toNat 14 7 = d ∧ bits (word0 op g d a b).toNat 7 7 = a ∧
      bits (word0 op g d a b).toNat 0 7 = b := by
  have hg := g.code_lt
  have hw : (word0 op g d a b).toNat = op * 2 ^ 25 + g.code * 2 ^ 21 + d * 2 ^ 14 + a * 2 ^ 7 + b := by
    rw [word0, BitVec.toNat_ofNat]; omega
  rw [hw]
  simp only [bits]
  omega

theorem word1_fields {sub c m : Nat} (hsub : sub < 256) (hc : c < 128) (hm : m < 2 ^ 17) :
    bits (word1 sub c m).toNat 24 8 = sub ∧ bits (word1 sub c m).toNat 17 7 = c ∧ bits (word1 sub c m).toNat 0 17 = m := by
  have hw : (word1 sub c m).toNat = sub * 2 ^ 24 + c * 2 ^ 17 + m := by
    rw [word1, BitVec.toNat_ofNat]; omega
  rw [hw]
  exact ⟨bits_eq (low := c * 2 ^ 17 + m) 0 (by omega) (by omega) hsub, bits_eq sub rfl hm hc,
    bits_eq (low := 0) (sub * 2 ^ 7 + c) (by omega) (by decide) hm⟩

/-- The words of an instruction decode to it and no word is left, and they are all of its words, 1 to 8 of them. -/
def RoundTrips (i : Instr) : Prop :=
  decodeWords (encode i) = .ok (i, []) ∧ instrWords (encode i) = (encode i).length ∧ 1 ≤ (encode i).length ∧
    (encode i).length ≤ 8

theorem isE_bound {op : Nat} (h : isE op = true) : 0x58 ≤ op ∧ op < 128 := by
  simp only [isE, Bool.or_eq_true, decide_eq_true_eq, beq_iff_eq] at h
  omega

/-- What an E-form word is decoded as: the finish of its row. -/
theorem decodeWords_of_isE {w0 w1 : W32} {ws : List W32} {r : Row} (hop : isE (bits w0.toNat 25 7) = true)
    (hr : rowE (bits w0.toNat 25 7) (bits w1.toNat 24 8) (bits w1.toNat 0 17) = some r) :
    decodeWords (w0 :: w1 :: ws) = finish r (Guard.ofCode (bits w0.toNat 21 4)) (bits w0.toNat 14 7) (bits w0.toNat 7 7)
      (bits w0.toNat 0 7) (bits w1.toNat 17 7) ws := by
  obtain ⟨hlow, -⟩ := isE_bound hop
  have hn0 : bits w0.toNat 25 7 ≠ 0 := by omega
  have hnb : ¬(bits w0.toNat 25 7 = 0x50 ∨ bits w0.toNat 25 7 = 0x51) := by omega
  simp only [decodeWords, if_neg hn0, if_neg hnb, if_pos hop, hr]

theorem instrWords_of_isE {w0 w1 : W32} {ws : List W32} (hop : isE (bits w0.toNat 25 7) = true) :
    instrWords (w0 :: w1 :: ws) = 2 + (litCount (bits w0.toNat 7 7) + litCount (bits w0.toNat 0 7)) +
      litCount (bits w1.toNat 17 7) := by
  obtain ⟨hlow, -⟩ := isE_bound hop
  have hn : ¬(bits w0.toNat 25 7 = 0 ∨ bits w0.toNat 25 7 = 0x50 ∨ bits w0.toNat 25 7 = 0x51) := by omega
  simp only [instrWords, if_neg hn, if_pos hop]

/-- The E form: a row of its major opcode takes the operands and the modifiers, and makes the instruction. -/
theorem roundTrips_encE {i : Instr} {op sub m : Nat} {g : Guard} {d a b c : Opd} {r : Row}
    (he : encode i = encE op sub g d a b c m := by rfl) (hr : rowE op sub m = some r := by rfl)
    (hd : r.d.wordless = true := by rfl) (hop : isE op = true := by rfl) (hsub : sub < 256 := by decide)
    (hm : m < 2 ^ 17 := by decide) (hi : r.make g d a b c = i := by rfl) (ht : r.takes d a b c = true) : RoundTrips i := by
  obtain ⟨-, hhigh⟩ := isE_bound hop
  obtain ⟨eop, eg, ed, ea, eb⟩ := word0_fields g hhigh d.code_lt a.code_lt b.code_lt
  obtain ⟨esub, ec, em⟩ := word1_fields hsub c.code_lt hm
  have ha := a.words_length_le
  have hb := b.words_length_le
  have hc := c.words_length_le
  have hisE : isE (bits (word0 op g d.code a.code b.code).toNat 25 7) = true := by rw [eop, hop]
  rw [RoundTrips, he, encE]
  refine ⟨?_, ?_, by simp, ?_⟩
  · rw [decodeWords_of_isE hisE (by rw [eop, esub, em, hr]), eg, ed, ea, eb, ec, Guard.ofCode_code, finish_words hd ht, hi]
  · rw [instrWords_of_isE hisE, ea, eb, ec, litCount_code, litCount_code, litCount_code]
    simp only [List.length_cons, List.length_append]
    omega
  · simp only [List.length_cons, List.length_append]
    omega

/-- The A form. -/
theorem roundTrips_encA {i : Instr} {op : Nat} {g : Guard} {d a b : Opd} {r : Row}
    (he : encode i = encA op g d a b := by rfl) (hr : rowA op = some r := by rfl) (hd : r.d.wordless = true := by rfl)
    (hop : isE op = false := by rfl) (hrange : op < 128 ∧ op ≠ 0 ∧ op ≠ 0x50 ∧ op ≠ 0x51 := by decide)
    (hi : r.make g d a b .zero = i := by rfl) (ht : r.takes d a b .zero = true) : RoundTrips i := by
  obtain ⟨hhigh, hn0, hn1, hn2⟩ := hrange
  obtain ⟨eop, eg, ed, ea, eb⟩ := word0_fields g hhigh d.code_lt a.code_lt b.code_lt
  have ha := a.words_length_le
  have hb := b.words_length_le
  have hfin : finish r g d.code a.code b.code 120 (a.words ++ b.words) = .ok (r.make g d a b .zero, []) := by
    have hwords := finish_words (g := g) hd ht
    rwa [show Opd.zero.words = [] from rfl, List.append_nil] at hwords
  rw [RoundTrips, he, encA]
  refine ⟨?_, ?_, ?_, ?_⟩
  · simp only [decodeWords, eop, eg, ed, ea, eb, hn0, hn1, hn2, or_self, if_false, hop, Bool.false_eq_true, hr,
      Guard.ofCode_code]
    rw [hfin, hi]
  · simp only [instrWords, eop, ea, eb, hn0, hn1, hn2, or_self, if_false, hop, Bool.false_eq_true, litCount_code,
    List.length_cons,
      List.length_append]
    omega
  · simp
  · simp only [List.length_cons, List.length_append]
    omega

theorem roundTrips_nop (g : Guard) : RoundTrips (.nop g) := by
  obtain ⟨eop, eg, ed, ea, eb⟩ := word0_fields (op := 0) (d := 0) (a := 0) (b := 0) g (by decide) (by decide) (by decide)
    (by decide)
  have he : encode (.nop g) = [word0 0 g 0 0 0] := rfl
  refine ⟨?_, ?_, Nat.le_refl 1, Nat.le_of_ble_eq_true rfl⟩
  · rw [he]
    simp [decodeWords, eop, eg, ed, ea, eb, Guard.ofCode_code]
  · rw [he]
    simp [instrWords, eop]

/-- The B form (R202). -/
theorem roundTrips_encB {i : Instr} {op : Nat} {g : Guard} {off : BitVec 21}
    (he : encode i = [BitVec.ofNat 32 (op * 2 ^ 25 + g.code * 2 ^ 21 + off.toNat)])
    (hi : (op = 0x50 ∧ i = .br g off) ∨ (op = 0x51 ∧ i = .call g off)) : RoundTrips i := by
  have hg := g.code_lt
  have hoff := off.isLt
  have hop : op < 128 ∧ op ≠ 0 ∧ (op = 0x50 ∨ op = 0x51) := by
    rcases hi with ⟨h, _⟩ | ⟨h, _⟩ <;> omega
  obtain ⟨hlt, hn0, hb⟩ := hop
  have hw : (BitVec.ofNat 32 (op * 2 ^ 25 + g.code * 2 ^ 21 + off.toNat)).toNat = op * 2 ^ 25 + g.code * 2 ^ 21 + off.toNat
      := by
    rw [BitVec.toNat_ofNat]; omega
  have eop : bits (op * 2 ^ 25 + g.code * 2 ^ 21 + off.toNat) 25 7 = op := by simp only [bits]; omega
  have eg : bits (op * 2 ^ 25 + g.code * 2 ^ 21 + off.toNat) 21 4 = g.code := by simp only [bits]; omega
  have eoff : bits (op * 2 ^ 25 + g.code * 2 ^ 21 + off.toNat) 0 21 = off.toNat := by simp only [bits]; omega
  rw [RoundTrips, he]
  refine ⟨?_, ?_, Nat.le_refl 1, Nat.le_of_ble_eq_true rfl⟩
  · simp only [decodeWords, hw, eop, eg, eoff, hn0, hb, if_true, if_false, List.isEmpty_nil, Bool.not_true, Bool.false_eq_true,
      Guard.ofCode_code, BitVec.ofNat_toNat, BitVec.setWidth_eq]
    rcases hi with ⟨rfl, rfl⟩ | ⟨rfl, rfl⟩ <;> rfl
  · simp only [instrWords, hw, eop, hn0, hb, false_or, if_true, List.length_singleton]

/-! ## What a row asks of a modifier field -/

section
variable (m lo n : Nat)

@[simp] theorem fld_snd (p : Nat → Bool) : (fld m lo n p).2 = p (bits m lo n) := rfl
@[simp] theorem res_snd : (res m lo n).2 = (bits m lo n == 0) := rfl
@[simp] theorem fTy_snd (p : Ty → Bool) : (fTy m lo p).2 = (decide (bits m lo 5 < 24) && p (tyAt m lo)) := rfl
@[simp] theorem fRnd_snd : (fRnd m lo).2 = decide (bits m lo 3 ≤ 4) := rfl
@[simp] theorem fOrd_snd (p : Order → Bool) : (fOrd m p).2 = p (ordAt m) := rfl
@[simp] theorem fScope_snd : (fScope m lo).2 = decide (bits m lo 3 ≤ 5) := rfl
@[simp] theorem fSeg_snd : (fSeg m).2 = (decide (1 ≤ bits m 4 3) && decide (bits m 4 3 ≤ 5)) := rfl
@[simp] theorem laneCombo_snd : (laneCombo m).2 = (decide (6 ≤ bits m 7 3) || !laneTy (tyAt m 10) ||
    laneTyOk (LaneOp.ofCode (bits m 7 3)) (tyAt m 10)) := rfl
@[simp] theorem rmwCombo_snd : (rmwCombo m).2 = (decide (7 ≤ bits m 7 3) || !rmwTy (tyAt m 10) ||
    rmwTyOk (RmwOp.ofCode (bits m 7 3)) (tyAt m 10)) := rfl
@[simp] theorem cvtCombo_snd : (cvtCombo m).2 = (decide (24 ≤ bits m 10 5) || decide (24 ≤ bits m 0 5) ||
    cvtPairOk (tyAt m 10) (tyAt m 0)) := rfl
@[simp] theorem farSpad_snd : (farSpad m).2 = !(bit m 1 && bit m 0) := rfl

end

@[simp] theorem Shape.ok_un_zero : Shape.un.ok .zero = true := rfl

/-- The types of a field and a value of it, where the codes stand there. -/
theorem tyAt_eq {m lo : Nat} {t : Ty} (h : bits m lo 5 = t.code) : tyAt m lo = t := by rw [tyAt, h, Ty.ofCode_code]
theorem rndAt_eq {m lo : Nat} {r : Rnd} (h : bits m lo 3 = r.code) : rndAt m lo = r := by rw [rndAt, h, Rnd.ofCode_code]
theorem ordAt_eq {m : Nat} {o : Order} (h : bits m 5 2 = o.code) : ordAt m = o := by rw [ordAt, h, Order.ofCode_code]
theorem scopeAt_eq {m lo : Nat} {s : Scope} (h : bits m lo 3 = s.code) : scopeAt m lo = s := by
  rw [scopeAt, h, Scope.ofCode_code]
theorem segAt_eq {m : Nat} {s : Seg} (h : bits m 4 3 = s.code) : segAt m = s := by rw [segAt, h, Seg.ofCode_code]
theorem pAt_eq {m lo : Nat} {p : Fin 8} (h : bits m lo 3 = p.val) : pAt m lo = p := by
  rw [pAt, h]; exact Fin.ext (Nat.mod_eq_of_lt p.isLt)
theorem bit_eq {m i : Nat} {b : Bool} (h : bits m i 1 = b.toNat) : bit m i = b := by rw [bit, h, toNat_beq_one]

/-! ## Rows whose modifiers are constants -/

section
variable {d a b c : Opd} {sd sa sb sc : Shape} {fields : List (Nat × Bool)} {last : Bool}
  {make : Guard → Opd → Opd → Opd → Opd → Instr}

theorem takes_dabc (hf : fields.all (·.2) = true := by rfl) (hw : (sd.ok d && sa.ok a && sb.ok b && sc.ok c) = true) :
    (Row.mk sd sa sb sc fields last make).takes d a b c = true := by
  simp only [Row.takes, hw, hf, Bool.and_self]

theorem takes_dab (hf : fields.all (·.2) = true := by rfl) (hw : (sd.ok d && sa.ok a && sb.ok b) = true) :
    (Row.mk sd sa sb .un fields last make).takes d a b .zero = true := by
  simp only [Row.takes, hw, hf, Shape.ok_un_zero, Bool.and_self]

theorem takes_da (hf : fields.all (·.2) = true := by rfl) (hw : (sd.ok d && sa.ok a) = true) :
    (Row.mk sd sa .un .un fields last make).takes d a .zero .zero = true := by
  simp only [Row.takes, hw, hf, Shape.ok_un_zero, Bool.and_self]

theorem takes_d (hf : fields.all (·.2) = true := by rfl) (hw : sd.ok d = true) :
    (Row.mk sd .un .un .un fields last make).takes d .zero .zero .zero = true := by
  simp only [Row.takes, hw, hf, Shape.ok_un_zero, Bool.and_self]

theorem takes_abc (hf : fields.all (·.2) = true := by rfl) (hw : (sa.ok a && sb.ok b && sc.ok c) = true) :
    (Row.mk .un sa sb sc fields last make).takes .zero a b c = true := by
  simp only [Row.takes, Shape.ok_un_zero, Bool.true_and, hw, hf, Bool.and_self]

theorem takes_ab (hf : fields.all (·.2) = true := by rfl) (hw : (sa.ok a && sb.ok b) = true) :
    (Row.mk .un sa sb .un fields last make).takes .zero a b .zero = true := by
  simp only [Row.takes, Shape.ok_un_zero, Bool.true_and, hw, hf, Bool.and_self]

theorem takes_a (hf : fields.all (·.2) = true := by rfl) (hw : sa.ok a = true) :
    (Row.mk .un sa .un .un fields last make).takes .zero a .zero .zero = true := by
  simp only [Row.takes, Shape.ok_un_zero, hw, hf, Bool.and_self]

theorem takes_none (hf : fields.all (·.2) = true := by rfl) :
    (Row.mk .un .un .un .un fields last make).takes .zero .zero .zero .zero = true := by
  simp only [Row.takes, Shape.ok_un_zero, hf, Bool.and_self]

end

/-! ## Operand fields that an entry does not use -/

theorem and_un_and {x y : Bool} (h : (x && y) = true) : (x && Shape.un.ok .zero && y) = true := by
  rw [Shape.ok_un_zero, Bool.and_true, h]

theorem and_un {x : Bool} (h : x = true) : (x && Shape.un.ok .zero) = true := by
  rw [Shape.ok_un_zero, Bool.and_true, h]

theorem and_un_un {x : Bool} (h : x = true) : (x && Shape.un.ok .zero && Shape.un.ok .zero && isTy .f32 .f32) = true := by
  rw [Shape.ok_un_zero, Bool.and_true, Bool.and_true, h]
  rfl

/-! ## Modifiers of one kind -/

theorem FlagSel.mods_eq (fs : FlagSel) : fs.mods = fs.b.toNat * 2 ^ 16 + fs.nf.toNat * 2 ^ 15 := by
  rw [FlagSel.mods, fl_eq, fl_eq]

/-- The flag selector stands above the other modifiers of a long-latency instruction (R193). -/
theorem flagMods {m x : Nat} {fs : FlagSel} (hm : m = fs.mods + x) (hx : x < 2 ^ 15) :
    m < 2 ^ 17 ∧ FlagSel.ofMods m = fs ∧ ∀ lo n, lo + n ≤ 15 → bits m lo n = bits x lo n := by
  have hb := Bool.toNat_lt fs.b
  have hnf := Bool.toNat_lt fs.nf
  rw [FlagSel.mods_eq] at hm
  refine ⟨by omega, ?_, fun lo n hle => ?_⟩
  · rw [FlagSel.ofMods, bit_eq (b := fs.b) (by simp only [bits]; omega), bit_eq (b := fs.nf) (by simp only [bits]; omega)]
  · obtain ⟨k, hk⟩ := Nat.exists_eq_add_of_le hle
    have hsplit : m = x + 2 ^ lo * (2 ^ n * (2 ^ k * (fs.b.toNat * 2 + fs.nf.toNat))) := by
      rw [← Nat.mul_assoc, ← Nat.mul_assoc, ← Nat.pow_add, ← Nat.pow_add, ← hk]
      omega
    rw [bits, bits, hsplit, Nat.add_mul_div_left _ _ (Nat.two_pow_pos lo), Nat.add_mul_mod_self_left]

/-- Modifiers that are a flag selector alone. -/
theorem flagOnly (fs : FlagSel) :
    fs.mods < 2 ^ 17 ∧ FlagSel.ofMods fs.mods = fs ∧ ∀ lo n, lo + n ≤ 15 → bits fs.mods lo n = 0 := by
  obtain ⟨hlt, hfs, hlow⟩ := flagMods (m := fs.mods) (x := 0) (fs := fs) rfl (by decide)
  exact ⟨hlt, hfs, fun lo n hle => by rw [hlow lo n hle, bits, Nat.zero_div, Nat.zero_mod]⟩

/-- Modifiers that are a type and a rounding. -/
theorem tyRndMods {m : Nat} {ty : Ty} {rnd : Rnd} (hm : m = ty.code * 2 ^ 10 + rnd.code * 2 ^ 7) :
    m < 2 ^ 17 ∧ bits m 10 5 = ty.code ∧ bits m 7 3 = rnd.code ∧ bits m 15 2 = 0 ∧ bits m 4 3 = 0 ∧ bits m 3 4 = 0 ∧
      bits m 3 1 = 0 ∧ bits m 0 3 = 0 := by
  have ht := ty.code_lt
  have hr := rnd.code_le
  simp only [bits]
  omega

/-- Modifiers that are a type alone. -/
theorem tyMods {m : Nat} {ty : Ty} (hm : m = ty.code * 2 ^ 10) :
    m < 2 ^ 17 ∧ bits m 10 5 = ty.code ∧ bits m 7 3 = 0 ∧ bits m 15 2 = 0 ∧ bits m 4 3 = 0 ∧ bits m 3 4 = 0 ∧
      bits m 3 1 = 0 ∧ bits m 0 3 = 0 := tyRndMods (rnd := .rne) (by rw [hm, Rnd.code, Nat.zero_mul, Nat.add_zero])

section
variable {i : Instr} {op sub m : Nat} {g : Guard} {d a b c : Opd}

/-! ## Group INTX (R224) -/

theorem roundTrips_icmp {ty : Ty} {co : Cond} {pd : Fin 8} (hw : ((ty == .s32 || ty == .n32 || ty == .s64 || ty == .n64) &&
    ty.src.ok a && ty.src.ok b && co != .uo && co != .ord) = true) :
    RoundTrips (.icmp g a b ty co pd) := by
  obtain ⟨m, hm⟩ : ∃ m, m = ty.code * 2 ^ 10 + co.code * 2 ^ 7 + pd.val := ⟨_, rfl⟩
  have hty := ty.code_lt
  have hco := co.code_lt
  have ety : bits m 10 5 = ty.code := by simp only [bits]; omega
  have eco : bits m 7 3 = co.code := by simp only [bits]; omega
  have epd : bits m 0 3 = pd.val := by simp only [bits]; omega
  have eres : bits m 15 2 = 0 ∧ bits m 3 4 = 0 := by simp only [bits]; omega
  simp only [Bool.and_eq_true, bne_iff_ne] at hw
  obtain ⟨⟨⟨⟨htype, ha⟩, hb⟩, huo⟩, hord⟩ := hw
  have hcond : co.code ≤ 5 := by cases co <;> simp_all [Cond.code]
  refine roundTrips_encE (m := m) (he := by rw [hm]; rfl) (hm := by omega) (hi := ?_) (ht := ?_)
  · simp [tyAt_eq ety, eco, pAt_eq epd]
  · simp [Row.takes, tyAt_eq ety, ety, eco, eres, hty, cmpTy, htype, ha, hb, hcond]

theorem roundTrips_pbool (tt : BitVec 4) (pa pb pd : Fin 8) : RoundTrips (.pbool g tt pa pb pd) := by
  obtain ⟨m, hm⟩ : ∃ m, m = tt.toNat * 2 ^ 11 + pa.val * 2 ^ 7 + pb.val * 2 ^ 4 + pd.val := ⟨_, rfl⟩
  have htt := tt.isLt
  have ett : bits m 11 4 = tt.toNat := by simp only [bits]; omega
  have epa : bits m 7 3 = pa.val := by simp only [bits]; omega
  have epb : bits m 4 3 = pb.val := by simp only [bits]; omega
  have epd : bits m 0 3 = pd.val := by simp only [bits]; omega
  have eres : bits m 15 2 = 0 ∧ bits m 10 1 = 0 ∧ bits m 3 1 = 0 := by simp only [bits]; omega
  refine roundTrips_encE (m := m) (he := by rw [hm]; rfl) (hm := by omega) (hi := ?_) (ht := ?_)
  · simp [ett, pAt_eq epa, pAt_eq epb, pAt_eq epd]
  · simp [Row.takes, eres]

/-- A saturating sum or difference, or a field, of one of the types that they take. -/
theorem roundTrips_sat {ty : Ty} {make : Guard → Opd → Opd → Opd → Opd → Instr} (hm : m = ty.code * 2 ^ 10)
    (hw : (wf3 d a b && (ty == .s32 || ty == .n32)) = true) (he : encode i = encE 0x58 sub g d a b .zero m)
    (hr : rowE 0x58 sub m = some ⟨.w32, .r32, .r32, .un, [res m 15 2, fTy m 10 satTy, res m 7 3, res m 3 4, res m 0 3], false,
    make⟩)
    (hsub : sub < 256) (hi : tyAt m 10 = ty → make g d a b .zero = i) : RoundTrips i := by
  obtain ⟨hlt, ety, e7, e15, -, e3, -, e0⟩ := tyMods hm
  simp only [wf3, Bool.and_eq_true] at hw
  obtain ⟨⟨⟨hd, ha⟩, hb⟩, ht⟩ := hw
  exact roundTrips_encE (he := he) (hr := hr) (hsub := hsub) (hm := hlt) (hi := hi (tyAt_eq ety))
    (ht := by simp [Row.takes, tyAt_eq ety, satTy, e15, ety, e7, e3, e0, ty.code_lt, hd, ha, hb, ht])

/-! ## Group FPX (R230) -/

/-- An operation on one of the types that its row takes, under a rounding. -/
theorem roundTrips_fpx {ty : Ty} {rnd : Rnd} {sb sc : Shape} {p : Ty → Bool} {make : Guard → Opd → Opd → Opd → Opd → Instr}
    (hm : m = ty.code * 2 ^ 10 + rnd.code * 2 ^ 7) (hw : (wf2 d a && sb.ok b && sc.ok c && p ty) = true)
    (he : encode i = encE 0x59 sub g d a b c m)
    (hr : rowE 0x59 sub m = some ⟨.w32, .r32, sb, sc, [res m 15 2, fTy m 10 p, fRnd m 7, res m 4 3, res m 3 1, res m 0 3],
    false, make⟩)
    (hsub : sub < 256) (hi : tyAt m 10 = ty → rndAt m 7 = rnd → make g d a b c = i) : RoundTrips i := by
  obtain ⟨hlt, ety, ernd, e15, e4, -, e3, e0⟩ := tyRndMods hm
  simp only [wf2, Bool.and_eq_true] at hw
  obtain ⟨⟨⟨⟨hd, ha⟩, hb⟩, hc⟩, ht⟩ := hw
  exact roundTrips_encE (he := he) (hr := hr) (hsub := hsub) (hm := hlt) (hi := hi (tyAt_eq ety) (rndAt_eq ernd))
    (ht := by simp [Row.takes, tyAt_eq ety, ety, ernd, e15, e4, e3, e0, ty.code_lt, rnd.code_le, hd, ha, hb, hc, ht])

/-- An operation on a type, without a rounding. -/
theorem roundTrips_fpxTy {ty : Ty} {make : Guard → Opd → Opd → Opd → Opd → Instr} (hm : m = ty.code * 2 ^ 10)
    (hw : (wf2 d a && ty.isFpx) = true) (he : encode i = encE 0x59 sub g d a .zero .zero m)
    (hr : rowE 0x59 sub m = some ⟨.w32, .r32, .un, .un,
      [res m 15 2, fTy m 10 Ty.isFpx, res m 7 3, res m 4 3, res m 3 1, res m 0 3], false, make⟩)
    (hsub : sub < 256) (hi : tyAt m 10 = ty → make g d a .zero .zero = i) : RoundTrips i := by
  obtain ⟨hlt, ety, e7, e15, e4, -, e3, e0⟩ := tyMods hm
  simp only [wf2, Bool.and_eq_true] at hw
  obtain ⟨⟨hd, ha⟩, ht⟩ := hw
  exact roundTrips_encE (he := he) (hr := hr) (hsub := hsub) (hm := hlt) (hi := hi (tyAt_eq ety))
    (ht := by simp [Row.takes, tyAt_eq ety, ety, e7, e15, e4, e3, e0, ty.code_lt, hd, ha, ht])

theorem roundTrips_fcmp {co : Cond} {pd : Fin 8} (hw : (Shape.r32.ok a && Shape.r32.ok b) = true) :
    RoundTrips (.fcmp g a b co pd) := by
  obtain ⟨m, hm⟩ : ∃ m, m = 8 * 2 ^ 10 + co.code * 2 ^ 4 + pd.val := ⟨_, rfl⟩
  have hco := co.code_lt
  have ety : bits m 10 5 = Ty.f32.code := by simp only [bits, Ty.code]; omega
  have eco : bits m 4 3 = co.code := by simp only [bits]; omega
  have epd : bits m 0 3 = pd.val := by simp only [bits]; omega
  have eres : bits m 15 2 = 0 ∧ bits m 7 3 = 0 ∧ bits m 3 1 = 0 := by simp only [bits]; omega
  simp only [Bool.and_eq_true] at hw
  refine roundTrips_encE (m := m) (he := by rw [hm]; rfl) (hm := by omega) (hi := ?_) (ht := ?_)
  · simp [eco, pAt_eq epd]
  · simp [Row.takes, tyAt_eq ety, ety, eres, isTy, Ty.code_lt, hw]

/-! ## Group CVT (R234 to R240) -/

theorem Shape.wordless_cvtShapes (dty sty : Ty) : (cvtShapes dty sty).1.wordless = true := by
  revert dty sty
  intro dty sty
  cases dty <;> cases sty <;> rfl

theorem roundTrips_cvt {dty sty : Ty} {rnd : Rnd} {sat : Bool} (hw : (cvtPairOk dty sty && (cvtShapes dty sty).1.ok d &&
    (cvtShapes dty sty).2.ok a) = true) :
    RoundTrips (.cvt g d a dty sty rnd sat) := by
  obtain ⟨m, hm⟩ : ∃ m, m = dty.code * 2 ^ 10 + rnd.code * 2 ^ 7 + fl sat 6 + sty.code := ⟨_, rfl⟩
  have hdty := dty.code_lt
  have hsty := sty.code_lt
  have hrnd := rnd.code_le
  have hsat := Bool.toNat_lt sat
  have hm' := hm
  rw [fl_eq] at hm'
  have edty : bits m 10 5 = dty.code := by simp only [bits]; omega
  have esty : bits m 0 5 = sty.code := by simp only [bits]; omega
  have ernd : bits m 7 3 = rnd.code := by simp only [bits]; omega
  have esat : bits m 6 1 = sat.toNat := by simp only [bits]; omega
  have eres : bits m 16 1 = 0 ∧ bits m 15 1 = 0 ∧ bits m 5 1 = 0 := by simp only [bits]; omega
  simp only [Bool.and_eq_true] at hw
  obtain ⟨⟨hpair, hd⟩, ha⟩ := hw
  refine roundTrips_encE (m := m) (he := by rw [hm]; rfl) (hd := ?_) (hm := by omega) (hi := ?_) (ht := ?_)
  · exact Shape.wordless_cvtShapes _ _
  · simp [tyAt_eq edty, tyAt_eq esty, rndAt_eq ernd, bit_eq esat]
  · simp [Row.takes, tyAt_eq edty, tyAt_eq esty, edty, esty, ernd, eres, hdty, hsty, hrnd, hpair, hd, ha]

theorem roundTrips_cvtHad {dty : Ty} {rnd : Rnd} {sat inv : Bool} {fs : FlagSel}
    (hw : (wf3 d a b && Shape.r64.ok c && dty.isHad) = true) : RoundTrips (.cvtHad g d a b c dty rnd sat inv fs) := by
  obtain ⟨m, hm⟩ : ∃ m, m = fs.mods + dty.code * 2 ^ 10 + rnd.code * 2 ^ 7 + fl sat 6 + fl inv 5 + 8 := ⟨_, rfl⟩
  obtain ⟨x, hx⟩ : ∃ x, x = dty.code * 2 ^ 10 + rnd.code * 2 ^ 7 + sat.toNat * 2 ^ 6 + inv.toNat * 2 ^ 5 + 8 := ⟨_, rfl⟩
  have hdty := dty.code_lt
  have hrnd := rnd.code_le
  have hsat := Bool.toNat_lt sat
  have hinv := Bool.toNat_lt inv
  obtain ⟨hlt, hfs, hlow⟩ := flagMods (m := m) (x := x) (fs := fs) (by rw [hm, hx, fl_eq, fl_eq]; omega) (by omega)
  have edty : bits m 10 5 = dty.code := by rw [hlow 10 5 (by decide)]; simp only [bits]; omega
  have esty : bits m 0 5 = Ty.f32.code := by rw [hlow 0 5 (by decide)]; simp only [bits, Ty.code]; omega
  have ernd : bits m 7 3 = rnd.code := by rw [hlow 7 3 (by decide)]; simp only [bits]; omega
  have esat : bits m 6 1 = sat.toNat := by rw [hlow 6 1 (by decide)]; simp only [bits]; omega
  have einv : bits m 5 1 = inv.toNat := by rw [hlow 5 1 (by decide)]; simp only [bits]; omega
  simp only [wf3, Bool.and_eq_true] at hw
  obtain ⟨⟨⟨⟨hd, ha⟩, hb⟩, hc⟩, hhad⟩ := hw
  refine roundTrips_encE (m := m) (he := by rw [hm]; rfl) (hm := hlt) (hi := ?_) (ht := ?_)
  · simp [tyAt_eq edty, rndAt_eq ernd, bit_eq esat, bit_eq einv, hfs]
  · simp [Row.takes, tyAt_eq edty, tyAt_eq esty, edty, esty, ernd, isTy, hdty, hrnd, Ty.code_lt, hd, ha, hb, hc, hhad]

/-! ## Group LANE (R241) -/

/-- Modifiers of a vote: the source and the destination predicate, segments of the whole. -/
theorem roundTrips_vote {ps pd : Fin 8} {sd : Shape} {rest : List (Nat × Bool)} {make : Guard → Opd → Opd → Opd → Opd → Instr}
    (hm : m = ps.val * 2 ^ 7 + 5 * 2 ^ 4 + pd.val) (hsd : sd.ok d = true)
    (he : encode i = encE 0x5B sub g d .zero .zero .zero m)
    (hr : rowE 0x5B sub m = some ⟨sd, .un, .un, .un, [res m 15 2, res m 10 5, fld m 4 3 (· == 5), res m 3 1] ++ rest, false,
    make⟩)
    (hsub : sub < 256) (hd : sd.wordless = true) (hrest : bits m 0 3 = pd.val → rest.all (·.2) = true)
    (hi : pAt m 7 = ps → pAt m 0 = pd → make g d .zero .zero .zero = i) : RoundTrips i := by
  have eps : bits m 7 3 = ps.val := by simp only [bits]; omega
  have epd : bits m 0 3 = pd.val := by simp only [bits]; omega
  have eres : bits m 15 2 = 0 ∧ bits m 10 5 = 0 ∧ bits m 4 3 = 5 ∧ bits m 3 1 = 0 := by simp only [bits]; omega
  refine roundTrips_encE (he := he) (hr := hr) (hsub := hsub) (hd := hd) (hm := by omega) (hi := hi (pAt_eq eps) (pAt_eq epd))
    (ht := ?_)
  simp [Row.takes, eres, hsd, -List.all_eq_true, hrest epd]

/-- Modifiers of a shuffle: a type and a segment width. -/
theorem roundTrips_lpick {ty : Ty} {sg : Seg} {make : Guard → Opd → Opd → Opd → Opd → Instr}
    (hm : m = ty.code * 2 ^ 10 + sg.code * 2 ^ 4)
    (hw : ((ty == .b32 || ty == .b64) && ty.dst.ok d && ty.src.ok a && Shape.r32.ok b) = true)
    (he : encode i = encE 0x5B sub g d a b .zero m)
    (hr : rowE 0x5B sub m = some ⟨(tyAt m 10).dst, (tyAt m 10).src, .r32, .un,
      [res m 15 2, fTy m 10 pickTy, res m 7 3, fSeg m, res m 3 1, res m 0 3], false, make⟩)
    (hsub : sub < 256) (hi : tyAt m 10 = ty → segAt m = sg → make g d a b .zero = i) : RoundTrips i := by
  have hty := ty.code_lt
  have hpos := sg.code_pos
  have hle := sg.code_le
  have ety : bits m 10 5 = ty.code := by simp only [bits]; omega
  have esg : bits m 4 3 = sg.code := by simp only [bits]; omega
  have eres : bits m 15 2 = 0 ∧ bits m 7 3 = 0 ∧ bits m 3 1 = 0 ∧ bits m 0 3 = 0 := by simp only [bits]; omega
  simp only [Bool.and_eq_true] at hw
  obtain ⟨⟨⟨ht, hd⟩, ha⟩, hb⟩ := hw
  have hdst : ty.dst.wordless = true := by cases ty <;> rfl
  refine roundTrips_encE (he := he) (hr := hr) (hsub := hsub) (hd := by rw [tyAt_eq ety]; exact hdst) (hm := by omega)
    (hi := hi (tyAt_eq ety) (segAt_eq esg)) (ht := ?_)
  simp [Row.takes, tyAt_eq ety, ety, esg, eres, hty, hpos, hle, pickTy, ht, hd, ha, hb]

theorem laneTy_of_laneTyOk {o : LaneOp} {t : Ty} (h : laneTyOk o t = true) : laneTy t = true := by
  cases o <;> simp_all [laneTy, laneTyOk]

/-- Modifiers of a reduction or scan: a type, an operation that takes it, a segment width and the form of the scan. -/
theorem laneMods {ty : Ty} {o : LaneOp} {sg : Seg} {ex : Bool}
    (hm : m = ty.code * 2 ^ 10 + o.code * 2 ^ 7 + sg.code * 2 ^ 4 + fl ex 3) :
    m < 2 ^ 17 ∧ bits m 10 5 = ty.code ∧ bits m 7 3 = o.code ∧ bits m 4 3 = sg.code ∧ bits m 3 1 = ex.toNat ∧ bits m 15 2 = 0 ∧
      bits m 0 3 = 0 := by
  have hty := ty.code_lt
  have ho := o.code_le
  have hle := sg.code_le
  have hex := Bool.toNat_lt ex
  rw [fl_eq] at hm
  exact ⟨by omega, by simp only [bits]; omega, by simp only [bits]; omega, by simp only [bits]; omega,
    by simp only [bits]; omega, by simp only [bits]; omega, by simp only [bits]; omega⟩

theorem roundTrips_lred {o : LaneOp} {ty : Ty} {sg : Seg} (hw : (wf2 d a && laneTyOk o ty) = true) :
    RoundTrips (.lred g d a o ty sg) := by
  obtain ⟨m, hm⟩ : ∃ m, m = ty.code * 2 ^ 10 + o.code * 2 ^ 7 + sg.code * 2 ^ 4 := ⟨_, rfl⟩
  obtain ⟨hlt, ety, eo, esg, e3, e15, e0⟩ := laneMods (m := m) (ty := ty) (o := o) (sg := sg) (ex := false)
    (by rw [hm, fl_eq, Bool.toNat_false, Nat.zero_mul, Nat.add_zero])
  simp only [wf2, Bool.and_eq_true] at hw
  obtain ⟨⟨hd, ha⟩, hok⟩ := hw
  refine roundTrips_encE (m := m) (he := by rw [hm]; rfl) (hm := hlt) (hi := ?_) (ht := ?_)
  · simp [tyAt_eq ety, segAt_eq esg, eo]
  · simp [Row.takes, tyAt_eq ety, ety, eo, esg, e3, e15, e0, Ty.code_lt, LaneOp.code_le, Seg.code_pos, Seg.code_le,
      laneTy_of_laneTyOk hok, hd, ha, hok]

theorem roundTrips_lscan {o : LaneOp} {ty : Ty} {sg : Seg} {ex : Bool} (hw : (wf2 d a && laneTyOk o ty) = true) :
    RoundTrips (.lscan g d a o ty sg ex) := by
  obtain ⟨m, hm⟩ : ∃ m, m = ty.code * 2 ^ 10 + o.code * 2 ^ 7 + sg.code * 2 ^ 4 + fl ex 3 := ⟨_, rfl⟩
  obtain ⟨hlt, ety, eo, esg, eex, e15, e0⟩ := laneMods hm
  simp only [wf2, Bool.and_eq_true] at hw
  obtain ⟨⟨hd, ha⟩, hok⟩ := hw
  refine roundTrips_encE (m := m) (he := by rw [hm]; rfl) (hm := hlt) (hi := ?_) (ht := ?_)
  · simp [tyAt_eq ety, segAt_eq esg, eo, bit_eq eex]
  · simp [Row.takes, tyAt_eq ety, ety, eo, esg, e15, e0, Ty.code_lt, LaneOp.code_le, Seg.code_pos, Seg.code_le,
      laneTy_of_laneTyOk hok, hd, ha, hok]

/-! ## Group CTRL (R247) -/

theorem roundTrips_wbase {add : Bool} (ha : Shape.r32.ok a = true) : RoundTrips (.wbase g a add) := by
  cases add <;> exact roundTrips_encE (ht := by simp [Row.takes, fl, bits, ha])

/-! ## Groups MEM and SPAN (R261, R288) -/

/-- The modifiers of a load or store. -/
theorem memMods {k : MemMods} (hm : m = k.mods) :
    m < 2 ^ 17 ∧ MemMods.ofMods m = k ∧ tyAt m 10 = k.ty ∧ ordAt m = k.order ∧ bits m 10 5 < 24 ∧ bits m 9 1 = 0 ∧
      bits m 7 2 = k.hint.code ∧ bits m 7 3 = k.hint.code ∧ bits m 2 3 ≤ 5 ∧ bits m 0 2 = 0 := by
  obtain ⟨fs, ty, hint, order, scope⟩ := k
  have hb := Bool.toNat_lt fs.b
  have hnf := Bool.toNat_lt fs.nf
  have hty := ty.code_lt
  have hhint := hint.code_le
  have horder := order.code_lt
  have hscope := scope.code_le
  rw [MemMods.mods, FlagSel.mods_eq] at hm
  dsimp only at hm
  have eb : bits m 16 1 = fs.b.toNat := by simp only [bits]; omega
  have enf : bits m 15 1 = fs.nf.toNat := by simp only [bits]; omega
  have ety : bits m 10 5 = ty.code := by simp only [bits]; omega
  have ehint : bits m 7 2 = hint.code := by simp only [bits]; omega
  have eorder : bits m 5 2 = order.code := by simp only [bits]; omega
  have escope : bits m 2 3 = scope.code := by simp only [bits]; omega
  refine ⟨by omega, ?_, tyAt_eq ety, ordAt_eq eorder, by omega, by simp only [bits]; omega, ehint, by simp only [bits]; omega,
    by omega, by simp only [bits]; omega⟩
  simp only [MemMods.ofMods, FlagSel.ofMods, bit_eq eb, bit_eq enf, tyAt_eq ety, ehint, ordAt_eq eorder, scopeAt_eq escope,
    Hint.ofCode_code]

theorem Ty.wordless_dst (t : Ty) : t.dst.wordless = true := by cases t <;> rfl

/-- A load: its address of the shape that its space has, its destination of its type. -/
theorem roundTrips_load {k : MemMods} {sa : Shape} {fields : List (Nat × Bool)} {make : Guard → Opd → Opd → Opd → Opd → Instr}
    (hm : m = k.mods) (hw : (k.ty.dst.ok d && sa.ok a && Shape.r32.ok b) = true) (he : encode i = encE op sub g d a b .zero m)
    (hr : rowE op sub m = some ⟨(tyAt m 10).dst, sa, .r32, .un, fields, false, make⟩) (hop : isE op = true) (hsub : sub < 256)
    (hf : fields.all (·.2) = true) (hi : MemMods.ofMods m = k → make g d a b .zero = i) : RoundTrips i := by
  obtain ⟨hlt, hk, ety, -⟩ := memMods hm
  simp only [Bool.and_eq_true] at hw
  obtain ⟨⟨hd, ha⟩, hb⟩ := hw
  refine roundTrips_encE (he := he) (hr := hr) (hop := hop) (hsub := hsub) (hd := Ty.wordless_dst _) (hm := hlt) (hi := hi hk)
    (ht := ?_)
  simp only [Row.takes, ety, hd, ha, hb, hf, Shape.ok_un_zero, Bool.and_self]

/-- A store: its address of the shape that its space has, its source of its type. -/
theorem roundTrips_store {k : MemMods} {sa : Shape} {fields : List (Nat × Bool)} {make : Guard → Opd → Opd → Opd → Opd → Instr}
    (hm : m = k.mods) (hw : (sa.ok a && Shape.r32.ok b && k.ty.src.ok c) = true) (he : encode i = encE op sub g .zero a b c m)
    (hr : rowE op sub m = some ⟨.un, sa, .r32, (tyAt m 10).src, fields, false, make⟩) (hop : isE op = true) (hsub : sub < 256)
    (hf : fields.all (·.2) = true) (hi : MemMods.ofMods m = k → make g .zero a b c = i) : RoundTrips i := by
  obtain ⟨hlt, hk, ety, -⟩ := memMods hm
  simp only [Bool.and_eq_true] at hw
  obtain ⟨⟨ha, hb⟩, hc⟩ := hw
  refine roundTrips_encE (he := he) (hr := hr) (hop := hop) (hsub := hsub) (hd := rfl) (hm := hlt) (hi := hi hk) (ht := ?_)
  simp only [Row.takes, ety, ha, hb, hc, hf, Shape.ok_un_zero, Bool.and_self]

section
variable {k : MemMods}

theorem roundTrips_ld (hw : wfLd .r64 d a b k = true) : RoundTrips (.ld g d a b k) := by
  obtain ⟨m, hm⟩ : ∃ m, m = k.mods := ⟨_, rfl⟩
  obtain ⟨-, -, ety, eord, hty, e9, ehint, -, hscope, e0⟩ := memMods hm
  simp only [wfLd, Bool.and_eq_true] at hw
  obtain ⟨⟨hopds, hmem⟩, hord⟩ := hw
  refine roundTrips_load hm (by simpa only [Bool.and_eq_true] using hopds) (by rw [hm]; rfl) rfl rfl (by decide) ?_
    (fun h => by rw [h])
  simp [ety, eord, hty, e9, ehint, hscope, e0, hmem, hord, Hint.code_le]

theorem roundTrips_gather (hw : (wfLd .r64 d a b k && k.ty != .b128) = true) : RoundTrips (.gather g d a b k) := by
  obtain ⟨m, hm⟩ : ∃ m, m = k.mods := ⟨_, rfl⟩
  obtain ⟨-, -, ety, eord, hty, e9, ehint, -, hscope, e0⟩ := memMods hm
  simp only [wfLd, Bool.and_eq_true] at hw
  obtain ⟨⟨⟨hopds, hmem⟩, hord⟩, hnarrow⟩ := hw
  refine roundTrips_load hm (by simpa only [Bool.and_eq_true] using hopds) (by rw [hm]; rfl) rfl rfl (by decide) ?_
    (fun h => by rw [h])
  simp [ety, eord, hty, e9, ehint, hscope, e0, mem64Ty, hmem, hord, hnarrow, Hint.code_le, -bne_iff_ne]

theorem hint_code_of_none {h : Hint} (hn : (h == .none) = true) : h.code = 0 := by
  rw [beq_iff_eq.mp hn]; rfl

theorem roundTrips_lds (hw : (wfLd .r32 d a b k && k.hint == .none) = true) : RoundTrips (.lds g d a b k) := by
  obtain ⟨m, hm⟩ : ∃ m, m = k.mods := ⟨_, rfl⟩
  obtain ⟨-, -, ety, eord, hty, e9, ehint, -, hscope, e0⟩ := memMods hm
  simp only [wfLd, Bool.and_eq_true] at hw
  obtain ⟨⟨⟨hopds, hmem⟩, hord⟩, hnone⟩ := hw
  refine roundTrips_load hm (by simpa only [Bool.and_eq_true] using hopds) (by rw [hm]; rfl) rfl rfl (by decide) ?_
    (fun h => by rw [h])
  simp [ety, eord, hty, e9, ehint, hscope, e0, hmem, hord, hint_code_of_none hnone]

theorem roundTrips_ldw (hw : (wfLd .r32 d a b k && k.hint == .none) = true) : RoundTrips (.ldw g d a b k) := by
  obtain ⟨m, hm⟩ : ∃ m, m = k.mods := ⟨_, rfl⟩
  obtain ⟨-, -, ety, eord, hty, -, -, ehint, hscope, e0⟩ := memMods hm
  simp only [wfLd, Bool.and_eq_true] at hw
  obtain ⟨⟨⟨hopds, hmem⟩, hord⟩, hnone⟩ := hw
  refine roundTrips_load hm (by simpa only [Bool.and_eq_true] using hopds) (by rw [hm]; rfl) rfl rfl (by decide) ?_
    (fun h => by rw [h])
  simp [ety, eord, hty, ehint, hscope, e0, hmem, hord, hint_code_of_none hnone]

theorem roundTrips_st (hw : wfSt .r64 a b c k = true) : RoundTrips (.st g a b c k) := by
  obtain ⟨m, hm⟩ : ∃ m, m = k.mods := ⟨_, rfl⟩
  obtain ⟨-, -, ety, eord, hty, e9, ehint, -, hscope, e0⟩ := memMods hm
  simp only [wfSt, Bool.and_eq_true] at hw
  obtain ⟨⟨hopds, hmem⟩, hord⟩ := hw
  refine roundTrips_store hm (by simpa only [Bool.and_eq_true] using hopds) (by rw [hm]; rfl) rfl rfl (by decide) ?_
    (fun h => by rw [h])
  simp [ety, eord, hty, e9, ehint, hscope, e0, hmem, hord, Hint.code_le]

theorem roundTrips_sts (hw : (wfSt .r32 a b c k && k.hint == .none) = true) : RoundTrips (.sts g a b c k) := by
  obtain ⟨m, hm⟩ : ∃ m, m = k.mods := ⟨_, rfl⟩
  obtain ⟨-, -, ety, eord, hty, e9, ehint, -, hscope, e0⟩ := memMods hm
  simp only [wfSt, Bool.and_eq_true] at hw
  obtain ⟨⟨⟨hopds, hmem⟩, hord⟩, hnone⟩ := hw
  refine roundTrips_store hm (by simpa only [Bool.and_eq_true] using hopds) (by rw [hm]; rfl) rfl rfl (by decide) ?_
    (fun h => by rw [h])
  simp [ety, eord, hty, e9, ehint, hscope, e0, hmem, hord, hint_code_of_none hnone]

theorem roundTrips_stw (hw : (wfSt .r32 a b c k && k.hint == .none) = true) : RoundTrips (.stw g a b c k) := by
  obtain ⟨m, hm⟩ : ∃ m, m = k.mods := ⟨_, rfl⟩
  obtain ⟨-, -, ety, eord, hty, -, -, ehint, hscope, e0⟩ := memMods hm
  simp only [wfSt, Bool.and_eq_true] at hw
  obtain ⟨⟨⟨hopds, hmem⟩, hord⟩, hnone⟩ := hw
  refine roundTrips_store hm (by simpa only [Bool.and_eq_true] using hopds) (by rw [hm]; rfl) rfl rfl (by decide) ?_
    (fun h => by rw [h])
  simp [ety, eord, hty, ehint, hscope, e0, hmem, hord, hint_code_of_none hnone]

end

theorem roundTrips_ldc {ty : Ty} {fs : FlagSel} (hw : (ty.isMem && ty != .b128 && ty.dst.ok d && Shape.r64.ok a &&
    Shape.r32.ok b) = true) : RoundTrips (.ldc g d a b ty fs) := by
  obtain ⟨m, hm⟩ : ∃ m, m = fs.mods + ty.code * 2 ^ 10 := ⟨_, rfl⟩
  have hty := ty.code_lt
  obtain ⟨hlt, hfs, hlow⟩ := flagMods hm (by omega)
  obtain ⟨-, ety, -⟩ := tyMods (ty := ty) rfl
  have ety' : bits m 10 5 = ty.code := by rw [hlow 10 5 (by decide), ety]
  have eres : bits m 9 1 = 0 ∧ bits m 7 2 = 0 ∧ bits m 5 2 = 0 ∧ bits m 2 3 = 0 ∧ bits m 0 2 = 0 := by
    rw [hlow 9 1 (by decide), hlow 7 2 (by decide), hlow 5 2 (by decide), hlow 2 3 (by decide), hlow 0 2 (by decide)]
    simp only [bits]
    omega
  simp only [Bool.and_eq_true] at hw
  obtain ⟨⟨⟨⟨hmem, hnarrow⟩, hd⟩, ha⟩, hb⟩ := hw
  refine roundTrips_encE (m := m) (he := by rw [hm]; rfl) (hd := Ty.wordless_dst _) (hm := hlt) (hi := ?_) (ht := ?_)
  · simp only [tyAt_eq ety', hfs]
  · simp [Row.takes, tyAt_eq ety', ety', hty, eres, mem64Ty, hmem, hnarrow, hd, ha, hb, -bne_iff_ne]

theorem roundTrips_prefetch {lvl : PfLevel} (hw : (Shape.r64.ok a && Shape.r32.ok b) = true) :
    RoundTrips (.prefetch g a b lvl) := by
  simp only [Bool.and_eq_true] at hw
  cases lvl <;> exact roundTrips_encE (ht := by simp [Row.takes, fl, bits, hw])

/-! ## Group RMW (R267, R268) -/

theorem rmwTy_of_rmwTyOk {o : RmwOp} {t : Ty} (h : rmwTyOk o t = true) : rmwTy t = true := by
  cases o <;> simp_all [rmwTy, rmwTyOk]

/-- The modifiers of an atomic. -/
theorem rmwMods {k : RmwMods} (hm : m = k.mods) :
    m < 2 ^ 17 ∧ RmwMods.ofMods m = k ∧ tyAt m 10 = k.ty ∧ bits m 7 3 = k.op.code ∧ ordAt m = k.order ∧ bit m 1 = k.far ∧
      bit m 0 = k.spad ∧ bits m 10 5 < 24 ∧ bits m 2 3 ≤ 5 := by
  obtain ⟨fs, ty, o, order, scope, far, spad⟩ := k
  have hb := Bool.toNat_lt fs.b
  have hnf := Bool.toNat_lt fs.nf
  have hty := ty.code_lt
  have ho := o.code_le
  have horder := order.code_lt
  have hscope := scope.code_le
  have hfar := Bool.toNat_lt far
  have hspad := Bool.toNat_lt spad
  rw [RmwMods.mods, FlagSel.mods_eq, fl_eq, fl_eq] at hm
  dsimp only at hm
  have eb : bits m 16 1 = fs.b.toNat := by simp only [bits]; omega
  have enf : bits m 15 1 = fs.nf.toNat := by simp only [bits]; omega
  have ety : bits m 10 5 = ty.code := by simp only [bits]; omega
  have eo : bits m 7 3 = o.code := by simp only [bits]; omega
  have eorder : bits m 5 2 = order.code := by simp only [bits]; omega
  have escope : bits m 2 3 = scope.code := by simp only [bits]; omega
  have efar : bits m 1 1 = far.toNat := by simp only [bits]; omega
  have espad : bits m 0 1 = spad.toNat := by simp only [bits]; omega
  refine ⟨by omega, ?_, tyAt_eq ety, eo, ordAt_eq eorder, bit_eq efar, bit_eq espad, by omega, by omega⟩
  simp only [RmwMods.ofMods, FlagSel.ofMods, bit_eq eb, bit_eq enf, tyAt_eq ety, eo, ordAt_eq eorder, scopeAt_eq escope,
    bit_eq efar, bit_eq espad, RmwOp.ofCode_code]

section
variable {k : RmwMods}

theorem roundTrips_rmw (hw : (wfRmw a k && rmwTyOk k.op k.ty && k.ty.dst.ok d && Shape.r32.ok b && k.ty.src.ok c) = true) :
    RoundTrips (.rmw g d a b c k) := by
  obtain ⟨m, hm⟩ : ∃ m, m = k.mods := ⟨_, rfl⟩
  obtain ⟨hlt, hk, ety, eo, -, efar, espad, hty, hscope⟩ := rmwMods hm
  simp only [wfRmw, Bool.and_eq_true] at hw
  obtain ⟨⟨⟨⟨⟨ha, hboth⟩, hok⟩, hd⟩, hb⟩, hc⟩ := hw
  refine roundTrips_encE (m := m) (he := by rw [hm]; rfl) (hd := Ty.wordless_dst _) (hm := hlt) (hi := by simp only [hk])
    (ht := ?_)
  simp only [Row.takes, List.all_cons, List.all_nil, fTy_snd, fld_snd, fScope_snd, farSpad_snd, rmwCombo_snd, ety, eo, efar,
    espad,
    RmwOp.ofCode_code, rmwTy_of_rmwTyOk hok, hok, ha, hb, hc, hd, hboth, decide_eq_true hty, decide_eq_true hscope,
    decide_eq_true k.op.code_le, Bool.or_true, Bool.and_self]

theorem roundTrips_fold (hw : (wfRmw a k && rmwTyOk k.op k.ty && Shape.r32.ok b && k.ty.src.ok c &&
    (k.order == .rlx || k.order == .rel)) = true) : RoundTrips (.fold g a b c k) := by
  obtain ⟨m, hm⟩ : ∃ m, m = k.mods := ⟨_, rfl⟩
  obtain ⟨hlt, hk, ety, eo, eord, efar, espad, hty, hscope⟩ := rmwMods hm
  simp only [wfRmw, Bool.and_eq_true] at hw
  obtain ⟨⟨⟨⟨⟨ha, hboth⟩, hok⟩, hb⟩, hc⟩, hrel⟩ := hw
  refine roundTrips_encE (m := m) (he := by rw [hm]; rfl) (hm := hlt) (hi := by simp only [hk]) (ht := ?_)
  simp only [Row.takes, List.all_cons, List.all_nil, fTy_snd, fld_snd, fScope_snd, farSpad_snd, rmwCombo_snd, fOrd_snd, ety,
    eo, efar,
    espad, eord, Order.isRel, RmwOp.ofCode_code, rmwTy_of_rmwTyOk hok, hok, ha, hb, hc, hboth, hrel, decide_eq_true hty,
    decide_eq_true hscope, decide_eq_true k.op.code_le, Shape.ok_un_zero, Bool.or_true, Bool.and_self]

theorem roundTrips_rmwCas (hw : (wfRmw a k && k.op == .add && (k.ty == .b32 || k.ty == .b64 || k.ty == .b128) &&
    k.ty.dst.ok d && k.ty.src.ok b &&
      k.ty.src.ok c) = true) : RoundTrips (.rmwCas g d a b c k) := by
  obtain ⟨m, hm⟩ : ∃ m, m = k.mods := ⟨_, rfl⟩
  obtain ⟨hlt, hk, ety, eo, -, efar, espad, hty, hscope⟩ := rmwMods hm
  simp only [wfRmw, Bool.and_eq_true] at hw
  obtain ⟨⟨⟨⟨⟨⟨ha, hboth⟩, hadd⟩, hcas⟩, hd⟩, hb⟩, hc⟩ := hw
  have eadd : bits m 7 3 = 0 := by rw [eo, beq_iff_eq.mp hadd]; rfl
  refine roundTrips_encE (m := m) (he := by rw [hm]; rfl) (hd := Ty.wordless_dst _) (hm := hlt) (hi := by simp only [hk])
    (ht := ?_)
  simp only [Row.takes, List.all_cons, List.all_nil, fTy_snd, res_snd, fScope_snd, farSpad_snd, ety, eadd, efar, espad, casTy,
    hcas, ha,
    hb, hc, hd, hboth, decide_eq_true hty, decide_eq_true hscope, beq_self_eq_true, Bool.and_self]

end

/-! ## Group SYNC (R271) -/

theorem roundTrips_fence {o : Order} {sc : Scope} (hw : (o != .rlx) = true) : RoundTrips (.fence g o sc) := by
  obtain ⟨m, hm⟩ : ∃ m, m = o.code * 2 ^ 5 + sc.code * 2 ^ 2 := ⟨_, rfl⟩
  have ho := o.code_lt
  have hsc := sc.code_le
  have eo : bits m 5 2 = o.code := by simp only [bits]; omega
  have esc : bits m 2 3 = sc.code := by simp only [bits]; omega
  have eres : bits m 7 10 = 0 ∧ bits m 0 2 = 0 := by simp only [bits]; omega
  have hne : (o != .rlx) = true := hw
  refine roundTrips_encE (m := m) (he := by rw [hm]; rfl) (hm := by omega) (hi := ?_) (ht := ?_)
  · simp only [ordAt_eq eo, scopeAt_eq esc]
  · simp [Row.takes, ordAt_eq eo, esc, hsc, eres, hne, -bne_iff_ne]

/-- An instruction on a named barrier takes a count where the barrier is not b0. -/
theorem roundTrips_gate {bar : Fin 16} {make : Guard → Opd → Opd → Opd → Opd → Instr} (hm : m = bar.val)
    (hw : (if bar.val = 0 then Shape.un.ok a else Shape.r32.ok a) = true)
    (he : encode i = encE 0x62 sub g .zero a .zero .zero m)
    (hr : rowE 0x62 sub m = some ⟨.un, if bits m 0 4 = 0 then .un else .r32, .un, .un, [res m 7 10, res m 5 2, res m 4 1],
    false, make⟩)
    (hsub : sub < 256) (hi : Fin.ofNat 16 (bits m 0 4) = bar → make g .zero a .zero .zero = i) : RoundTrips i := by
  have ebar : bits m 0 4 = bar.val := by simp only [bits]; omega
  have eres : bits m 7 10 = 0 ∧ bits m 5 2 = 0 ∧ bits m 4 1 = 0 := by simp only [bits]; omega
  have ha : (if bar.val = 0 then Shape.un else Shape.r32).ok a = true := by rw [← hw]; split <;> rfl
  refine roundTrips_encE (he := he) (hr := hr) (hsub := hsub) (hm := by omega) (ht := ?_)
    (hi := hi (by rw [ebar]; exact Fin.ext (Nat.mod_eq_of_lt bar.isLt)))
  simp only [Row.takes, List.all_cons, List.all_nil, res_snd, ebar, eres, ha, Shape.ok_un_zero, beq_self_eq_true, Bool.and_self]

theorem roundTrips_bobjDue {mark : Bool} (hw : (Shape.r32.ok a && Shape.r32.ok b) = true) :
    RoundTrips (.bobjDue g a b mark) := by
  simp only [Bool.and_eq_true] at hw
  cases mark <;> exact roundTrips_encE (ht := by simp [Row.takes, fl, bits, hw])

theorem roundTrips_emberArm {k : Fin 4} (hw : (Shape.r64.ok a && Shape.r32.ok b) = true) : RoundTrips (.emberArm g a b k) := by
  have ek : bits k.val 0 2 = k.val := by simp only [bits]; omega
  have eres : bits k.val 7 10 = 0 ∧ bits k.val 5 2 = 0 ∧ bits k.val 2 3 = 0 := by simp only [bits]; omega
  simp only [Bool.and_eq_true] at hw
  exact roundTrips_encE (m := k.val) (hm := by omega) (hi := by simp [ek]) (ht := by simp [Row.takes, eres, hw])

theorem roundTrips_emberDisarm {mask : BitVec 4} : RoundTrips (.emberDisarm g mask) := by
  have hmask := mask.isLt
  have emask : bits mask.toNat 0 4 = mask.toNat := by simp only [bits]; omega
  have eres : bits mask.toNat 7 10 = 0 ∧ bits mask.toNat 5 2 = 0 ∧ bits mask.toNat 4 1 = 0 := by simp only [bits]; omega
  exact roundTrips_encE (m := mask.toNat) (hm := by omega) (hi := by simp [emask]) (ht := by simp [Row.takes, eres])

/-! ## Group TASK (R279) -/

/-- A wait for a waitable names the predicate that it writes. -/
theorem roundTrips_await {pd : Fin 8} {make : Guard → Opd → Opd → Opd → Opd → Instr} (hm : m = pd.val * 2 ^ 12)
    (hw : Shape.r64.ok a = true) (he : encode i = encE 0x63 sub g .zero a .zero .zero m)
    (hr : rowE 0x63 sub m = some ⟨.un, .r64, .un, .un,
      [res m 16 1, res m 15 1, res m 10 2, res m 8 2, res m 7 1, res m 5 2, res m 2 3, res m 0 2], false, make⟩)
    (hsub : sub < 256) (hi : pAt m 12 = pd → make g .zero a .zero .zero = i) : RoundTrips i := by
  have epd : bits m 12 3 = pd.val := by simp only [bits]; omega
  have ehigh : bits m 16 1 = 0 ∧ bits m 15 1 = 0 ∧ bits m 10 2 = 0 ∧ bits m 8 2 = 0 := by simp only [bits]; omega
  have elow : bits m 7 1 = 0 ∧ bits m 5 2 = 0 ∧ bits m 2 3 = 0 ∧ bits m 0 2 = 0 := by simp only [bits]; omega
  refine roundTrips_encE (he := he) (hr := hr) (hsub := hsub) (hm := by omega) (hi := hi (pAt_eq epd)) (ht := ?_)
  simp [Row.takes, ehigh, elow, hw]

/-- The modifiers of a queue operation. -/
theorem queueMods {form : QForm} {o : Order} {sc : Scope} {fs : FlagSel}
    (hm : m = fs.mods + form.code * 2 ^ 8 + o.code * 2 ^ 5 + sc.code * 2 ^ 2) :
    m < 2 ^ 17 ∧ FlagSel.ofMods m = fs ∧ bits m 8 2 = form.code ∧ ordAt m = o ∧ scopeAt m 2 = sc ∧ bits m 2 3 ≤ 5 ∧
      bits m 12 3 = 0 ∧ bits m 10 2 = 0 ∧ bits m 7 1 = 0 ∧ bits m 0 2 = 0 := by
  have hform := form.code_le
  have ho := o.code_lt
  have hsc := sc.code_le
  obtain ⟨x, hx⟩ : ∃ x, x = form.code * 2 ^ 8 + o.code * 2 ^ 5 + sc.code * 2 ^ 2 := ⟨_, rfl⟩
  obtain ⟨hlt, hfs, hlow⟩ := flagMods (m := m) (x := x) (fs := fs) (by omega) (by omega)
  have eform : bits m 8 2 = form.code := by rw [hlow 8 2 (by decide)]; simp only [bits]; omega
  have eo : bits m 5 2 = o.code := by rw [hlow 5 2 (by decide)]; simp only [bits]; omega
  have esc : bits m 2 3 = sc.code := by rw [hlow 2 3 (by decide)]; simp only [bits]; omega
  refine ⟨hlt, hfs, eform, ordAt_eq eo, scopeAt_eq esc, by omega, ?_⟩
  rw [hlow 12 3 (by decide), hlow 10 2 (by decide), hlow 7 1 (by decide), hlow 0 2 (by decide)]
  simp only [bits]
  omega

theorem QForm.code_eq_one {f : QForm} : f.code = 1 ↔ f = .rsv := by cases f <;> simp [QForm.code]

theorem roundTrips_qpush {form : QForm} {o : Order} {sc : Scope} {fs : FlagSel}
    (hw : (Shape.w64.ok d && Shape.r64.ok a && (if form = .rsv then Shape.un.ok b else Shape.r64.ok b) &&
      (o == .rlx || o == .rel)) = true) : RoundTrips (.qpush g d a b form o sc fs) := by
  obtain ⟨m, hm⟩ : ∃ m, m = fs.mods + form.code * 2 ^ 8 + o.code * 2 ^ 5 + sc.code * 2 ^ 2 := ⟨_, rfl⟩
  obtain ⟨hlt, hfs, eform, eo, esc, hsc, e12, e10, e7, e0⟩ := queueMods hm
  simp only [Bool.and_eq_true] at hw
  obtain ⟨⟨⟨hd, ha⟩, hb⟩, hrel⟩ := hw
  have hb' : (if form.code = 1 then Shape.un else Shape.r64).ok b = true := by
    simp only [QForm.code_eq_one]
    rw [← hb]
    split <;> rfl
  refine roundTrips_encE (m := m) (he := by rw [hm]; rfl) (hm := hlt) (hi := ?_) (ht := ?_)
  · simp only [eform, eo, esc, hfs, QForm.ofCode_code]
  · simp only [Row.takes, List.all_cons, List.all_nil, res_snd, fld_snd, fOrd_snd, fScope_snd, eform, eo, e12, e10, e7, e0,
    Order.isRel,
      hd, ha, hb', hrel, decide_eq_true hsc, decide_eq_true form.code_le, Shape.ok_un_zero, beq_self_eq_true, Bool.and_self]

theorem roundTrips_qpop {o : Order} {sc : Scope} {fs : FlagSel} (hw : (Shape.w64.ok d && Shape.r64.ok a && Shape.r64.ok b &&
    (o == .rlx || o == .acq)) = true) :
    RoundTrips (.qpop g d a b o sc fs) := by
  obtain ⟨m, hm⟩ : ∃ m, m = fs.mods + o.code * 2 ^ 5 + sc.code * 2 ^ 2 := ⟨_, rfl⟩
  obtain ⟨hlt, hfs, eform, eo, esc, hsc, e12, e10, e7, e0⟩ := queueMods (m := m) (form := .full) (o := o) (sc := sc) (fs := fs)
    (by rw [hm, QForm.code, Nat.zero_mul, Nat.add_zero])
  have e8 : bits m 8 2 = 0 := eform
  simp only [Bool.and_eq_true] at hw
  obtain ⟨⟨⟨hd, ha⟩, hb⟩, hacq⟩ := hw
  refine roundTrips_encE (m := m) (he := by rw [hm]; rfl) (hm := hlt) (hi := ?_) (ht := ?_)
  · simp only [eo, esc, hfs]
  · simp only [Row.takes, List.all_cons, List.all_nil, res_snd, fOrd_snd, fScope_snd, e8, eo, e12, e10, e7, e0, Order.isAcq,
      hd, ha, hb, hacq, decide_eq_true hsc, Shape.ok_un_zero, beq_self_eq_true, Bool.and_self]

/-! ## Group MAT (R294) -/

theorem roundTrips_tokGive {pass : Bool} (hw : (if pass then Shape.r32.ok a else Shape.un.ok a) = true) :
    RoundTrips (.tokGive g a pass) := by
  cases pass <;> exact roundTrips_encE (ht := by simpa [Row.takes, fl, bits, bit] using hw)

/-- The modifiers of a matrix product. -/
theorem mmaMods {k : MmaMods} (hm : m = k.mods) : m < 2 ^ 17 ∧ MmaMods.ofMods m = k ∧ bits m 3 3 ≤ 4 := by
  obtain ⟨fs, tile, slot, afmt, rota, rotb, half⟩ := k
  have hb := Bool.toNat_lt fs.b
  have hnf := Bool.toNat_lt fs.nf
  have hafmt := afmt.code_le
  have hrota := Bool.toNat_lt rota
  have hrotb := Bool.toNat_lt rotb
  have hhalf := Bool.toNat_lt half
  rw [MmaMods.mods, FlagSel.mods_eq, fl_eq, fl_eq, fl_eq] at hm
  dsimp only at hm
  have eb : bits m 16 1 = fs.b.toNat := by simp only [bits]; omega
  have enf : bits m 15 1 = fs.nf.toNat := by simp only [bits]; omega
  have etile : bits m 9 6 = tile.val := by simp only [bits]; omega
  have eslot : bits m 6 3 = slot.val := by simp only [bits]; omega
  have eafmt : bits m 3 3 = afmt.code := by simp only [bits]; omega
  have erota : bits m 2 1 = rota.toNat := by simp only [bits]; omega
  have erotb : bits m 1 1 = rotb.toNat := by simp only [bits]; omega
  have ehalf : bits m 0 1 = half.toNat := by simp only [bits]; omega
  refine ⟨by omega, ?_, by omega⟩
  simp [MmaMods.ofMods, FlagSel.ofMods, bit_eq eb, bit_eq enf, etile, eslot, eafmt, bit_eq erota, bit_eq erotb, bit_eq ehalf]

theorem roundTrips_mma {k : MmaMods} (ha : Shape.r32.ok a = true) : RoundTrips (.mma g a k) := by
  obtain ⟨m, hm⟩ : ∃ m, m = k.mods := ⟨_, rfl⟩
  obtain ⟨hlt, hk, hfmt⟩ := mmaMods hm
  exact roundTrips_encE (m := m) (he := by rw [hm]; rfl) (hm := hlt) (hi := by simp only [hk]) (ht := by simp [Row.takes, ha,
    hfmt])

theorem roundTrips_mmas {k : MmaMods} (ha : Shape.r32.ok a = true) : RoundTrips (.mmas g a k) := by
  obtain ⟨m, hm⟩ : ∃ m, m = k.mods := ⟨_, rfl⟩
  obtain ⟨hlt, hk, hfmt⟩ := mmaMods hm
  exact roundTrips_encE (m := m) (he := by rw [hm]; rfl) (hm := hlt) (hi := by simp only [hk]) (ht := by simp [Row.takes, ha,
    hfmt])

theorem roundTrips_wbload {k : WbMods} (ha : Shape.r32.ok a = true) : RoundTrips (.wbload g a k) := by
  obtain ⟨m, hm⟩ : ∃ m, m = k.mods := ⟨_, rfl⟩
  have hm' := hm
  obtain ⟨fs, acq, rel, fscope, k192, slot, bfmt, n128, form⟩ := k
  have hb := Bool.toNat_lt fs.b
  have hnf := Bool.toNat_lt fs.nf
  have hacq := Bool.toNat_lt acq
  have hrel := Bool.toNat_lt rel
  have hscope := fscope.code_le
  have hk192 := Bool.toNat_lt k192
  have hbfmt := bfmt.code_le
  have hn128 := Bool.toNat_lt n128
  have hform := form.code_le
  rw [WbMods.mods, FlagSel.mods_eq, fl_eq, fl_eq, fl_eq, fl_eq] at hm'
  dsimp only at hm'
  have eb : bits m 16 1 = fs.b.toNat := by simp only [bits]; omega
  have enf : bits m 15 1 = fs.nf.toNat := by simp only [bits]; omega
  have eacq : bits m 14 1 = acq.toNat := by simp only [bits]; omega
  have erel : bits m 13 1 = rel.toNat := by simp only [bits]; omega
  have escope : bits m 10 3 = fscope.code := by simp only [bits]; omega
  have ek192 : bits m 9 1 = k192.toNat := by simp only [bits]; omega
  have eslot : bits m 6 3 = slot.val := by simp only [bits]; omega
  have ebfmt : bits m 3 3 = bfmt.code := by simp only [bits]; omega
  have en128 : bits m 2 1 = n128.toNat := by simp only [bits]; omega
  have eform : bits m 0 2 = form.code := by simp only [bits]; omega
  refine roundTrips_encE (m := m) (he := by rw [hm]; rfl) (hm := by omega) (hi := ?_) (ht := ?_)
  · simp [WbMods.ofMods, FlagSel.ofMods, bit_eq eb, bit_eq enf, bit_eq eacq, bit_eq erel, scopeAt_eq escope, bit_eq ek192,
    eslot, ebfmt,
      bit_eq en128, eform]
  · simp [Row.takes, ha, escope, ebfmt, eform, hscope, hbfmt, hform]

/-- The modifiers of the instructions on accumulator tiles. -/
theorem accMods {k : AccMods} (hm : m = k.mods) :
    m < 2 ^ 17 ∧ AccMods.ofMods m = k ∧ bits m 6 3 = k.aty.code ∧ bits m 3 3 = k.rnd.code ∧ bits m 2 1 = k.sat.toNat ∧
      bits m 0 2 ≤ 2 := by
  obtain ⟨fs, tile, aty, rnd, sat, cols⟩ := k
  have hb := Bool.toNat_lt fs.b
  have hnf := Bool.toNat_lt fs.nf
  have haty := aty.code_le
  have hrnd := rnd.code_le
  have hsat := Bool.toNat_lt sat
  have hcols := cols.code_le
  rw [AccMods.mods, FlagSel.mods_eq, fl_eq] at hm
  dsimp only at hm
  have eb : bits m 16 1 = fs.b.toNat := by simp only [bits]; omega
  have enf : bits m 15 1 = fs.nf.toNat := by simp only [bits]; omega
  have etile : bits m 9 6 = tile.val := by simp only [bits]; omega
  have eaty : bits m 6 3 = aty.code := by simp only [bits]; omega
  have ernd : bits m 3 3 = rnd.code := by simp only [bits]; omega
  have esat : bits m 2 1 = sat.toNat := by simp only [bits]; omega
  have ecols : bits m 0 2 = cols.code := by simp only [bits]; omega
  refine ⟨by omega, ?_, eaty, ernd, esat, by omega⟩
  simp [AccMods.ofMods, FlagSel.ofMods, bit_eq eb, bit_eq enf, etile, eaty, rndAt_eq ernd, bit_eq esat, ecols]

section
variable {k : AccMods}

theorem roundTrips_accz (hw : (k.aty == .f32 && k.rnd == .rne && !k.sat) = true) : RoundTrips (.accz g k) := by
  obtain ⟨m, hm⟩ : ∃ m, m = k.mods := ⟨_, rfl⟩
  obtain ⟨hlt, hk, eaty, ernd, esat, hcols⟩ := accMods hm
  simp only [Bool.and_eq_true, beq_iff_eq, Bool.not_eq_true'] at hw
  obtain ⟨⟨hf32, hrne⟩, hplain⟩ := hw
  refine roundTrips_encE (m := m) (he := by rw [hm]; rfl) (hm := hlt) (hi := by simp only [hk]) (ht := ?_)
  simp [Row.takes, eaty, ernd, esat, hcols, hf32, hrne, hplain, AccTy.code, Rnd.code]

theorem roundTrips_accld (hw : (Shape.r32.ok a && Shape.r32.ok b && k.rnd == .rne && !k.sat) = true) :
    RoundTrips (.accld g a b k) := by
  obtain ⟨m, hm⟩ : ∃ m, m = k.mods := ⟨_, rfl⟩
  obtain ⟨hlt, hk, eaty, ernd, esat, hcols⟩ := accMods hm
  simp only [Bool.and_eq_true, beq_iff_eq, Bool.not_eq_true'] at hw
  obtain ⟨⟨⟨ha, hb⟩, hrne⟩, hplain⟩ := hw
  refine roundTrips_encE (m := m) (he := by rw [hm]; rfl) (hm := hlt) (hi := by simp only [hk]) (ht := ?_)
  simp [Row.takes, eaty, ernd, esat, hcols, hrne, hplain, Rnd.code, AccTy.code_le, ha, hb]

theorem roundTrips_accst (hw : (Shape.r32.ok a && Shape.r32.ok b) = true) : RoundTrips (.accst g a b k) := by
  obtain ⟨m, hm⟩ : ∃ m, m = k.mods := ⟨_, rfl⟩
  obtain ⟨hlt, hk, eaty, ernd, -, hcols⟩ := accMods hm
  simp only [Bool.and_eq_true] at hw
  refine roundTrips_encE (m := m) (he := by rw [hm]; rfl) (hm := hlt) (hi := by simp only [hk]) (ht := ?_)
  simp [Row.takes, eaty, ernd, hcols, AccTy.code_le, Rnd.code_le, hw]

end

/-! ## Group COPY (R303) -/

/-- The modifiers of a copy, with the mask of a multicast below them. -/
theorem cpMods {k : CpMods} {x : Nat} (hm : m = k.mods + x) (hx : x < 2 ^ 8) :
    m < 2 ^ 17 ∧ CpMods.ofMods m = k ∧ bits m 9 3 ≤ 5 ∧ bits m 8 1 = 0 ∧ bits m 0 8 = x := by
  obtain ⟨fs, one, acq, rel, fscope⟩ := k
  have hb := Bool.toNat_lt fs.b
  have hnf := Bool.toNat_lt fs.nf
  have hone := Bool.toNat_lt one
  have hacq := Bool.toNat_lt acq
  have hrel := Bool.toNat_lt rel
  have hscope := fscope.code_le
  rw [CpMods.mods, FlagSel.mods_eq, fl_eq, fl_eq, fl_eq] at hm
  dsimp only at hm
  have eb : bits m 16 1 = fs.b.toNat := by simp only [bits]; omega
  have enf : bits m 15 1 = fs.nf.toNat := by simp only [bits]; omega
  have eone : bits m 14 1 = one.toNat := by simp only [bits]; omega
  have eacq : bits m 13 1 = acq.toNat := by simp only [bits]; omega
  have erel : bits m 12 1 = rel.toNat := by simp only [bits]; omega
  have escope : bits m 9 3 = fscope.code := by simp only [bits]; omega
  refine ⟨by omega, ?_, by omega, by simp only [bits]; omega, by simp only [bits]; omega⟩
  simp [CpMods.ofMods, FlagSel.ofMods, bit_eq eb, bit_eq enf, bit_eq eone, bit_eq eacq, bit_eq erel, scopeAt_eq escope]

/-- A copy whose low modifier bits are reserved. -/
theorem roundTrips_cp {k : CpMods} {sd : Shape} {make : Guard → Opd → Opd → Opd → Opd → Instr} (hm : m = k.mods)
    (hw : (sd.ok d && wfCp a b c) = true) (he : encode i = encE 0x69 sub g d a b c m)
    (hr : rowE 0x69 sub m = some ⟨sd, .r64, .q, .r32, [fScope m 9, res m 8 1, res m 0 8], false, make⟩)
    (hd : sd.wordless = true) (hsub : sub < 256) (hi : CpMods.ofMods m = k → make g d a b c = i) : RoundTrips i := by
  obtain ⟨hlt, hk, hscope, e8, e0⟩ := cpMods (x := 0) hm (by decide)
  simp only [wfCp, Bool.and_eq_true] at hw
  exact roundTrips_encE (he := he) (hr := hr) (hd := hd) (hsub := hsub) (hm := hlt) (hi := hi hk)
    (ht := by simp [Row.takes, hscope, e8, e0, hw])

theorem roundTrips_cpMcast {k : CpMods} {mask : Byte} (hw : (Shape.r32d.ok d && wfCp a b c) = true) :
    RoundTrips (.cpMcast g d a b c k mask) := by
  obtain ⟨m, hm⟩ : ∃ m, m = k.mods + mask.toNat := ⟨_, rfl⟩
  obtain ⟨hlt, hk, hscope, e8, emask⟩ := cpMods hm mask.isLt
  simp only [wfCp, Bool.and_eq_true] at hw
  refine roundTrips_encE (m := m) (he := by rw [hm]; rfl) (hm := hlt) (hi := by simp [hk, emask]) (ht := ?_)
  simp [Row.takes, hscope, e8, hw]

/-! ## Group SYS (R307, R308) -/

/-- The modifiers of `sget` and `sset`: the code of the special register. -/
theorem sregMods (r : Byte) : bits r.toNat 0 8 = r.toNat ∧ bits r.toNat 16 1 = 0 ∧ bits r.toNat 15 1 = 0 ∧
    bits r.toNat 11 4 = 0 ∧
    bits r.toNat 8 3 = 0 := by
  have hr := r.isLt
  simp only [bits]
  omega

theorem roundTrips_sget {r : Byte} (hd : (if sregIs64 r.toNat then Shape.w64 else Shape.w32).ok d = true) :
    RoundTrips (.sget g d r) := by
  obtain ⟨er, e16, e15, e11, e8⟩ := sregMods r
  have hlt : r.toNat < 2 ^ 17 := by have := r.isLt; omega
  refine roundTrips_encE (m := r.toNat) (hd := by dsimp only; split <;> rfl) (hm := hlt) (hi := by simp [er]) (ht := ?_)
  simp only [Row.takes, List.all_cons, List.all_nil, res_snd, er, e16, e15, e11, e8, hd, Shape.ok_un_zero, beq_self_eq_true,
    Bool.and_self]

theorem roundTrips_sset {r : Byte} (ha : (if sregIs64 r.toNat then Shape.r64 else Shape.r32).ok a = true) :
    RoundTrips (.sset g a r) := by
  obtain ⟨er, e16, e15, e11, e8⟩ := sregMods r
  have hlt : r.toNat < 2 ^ 17 := by have := r.isLt; omega
  refine roundTrips_encE (m := r.toNat) (hm := hlt) (hi := by simp [er]) (ht := ?_)
  simp only [Row.takes, List.all_cons, List.all_nil, res_snd, er, e16, e15, e11, e8, ha, Shape.ok_un_zero, beq_self_eq_true,
    Bool.and_self]

theorem roundTrips_cctl {o : CctlOp} {fs : FlagSel} 
    (hw : (if o == .cinv then Shape.un.ok a && Shape.un.ok b else Shape.r64.ok a && Shape.r32.ok b) = true) :
    RoundTrips (.cctl g a b o fs) := by
  obtain ⟨m, hm⟩ : ∃ m, m = fs.mods + o.code * 2 ^ 8 := ⟨_, rfl⟩
  have ho := o.code_le
  obtain ⟨hlt, hfs, hlow⟩ := flagMods hm (by omega)
  have eo : bits m 8 3 = o.code := by rw [hlow 8 3 (by decide)]; simp only [bits]; omega
  have eres : bits m 11 4 = 0 ∧ bits m 0 8 = 0 := by
    rw [hlow 11 4 (by decide), hlow 0 8 (by decide)]; simp only [bits]; omega
  refine roundTrips_encE (m := m) (he := by rw [hm]; rfl) (hm := hlt) (hi := by simp [eo, hfs]) (ht := ?_)
  cases o <;> simpa [Row.takes, eo, eres, CctlOp.code] using hw

/-- An instruction whose modifiers are its flag selector alone: the row's other bits are reserved. -/
theorem roundTrips_flag {fs : FlagSel} {sd sa sb : Shape} {low : List (Nat × Nat)} {fields : List (Nat × Bool)}
    {make : Guard → Opd → Opd → Opd → Opd → Instr} (hm : m = fs.mods) (hw : (sd.ok d && sa.ok a && sb.ok b) = true)
    (he : encode i = encE op sub g d a b .zero m) (hr : rowE op sub m = some ⟨sd, sa, sb, .un, fields, false, make⟩)
    (hfields : fields = low.map (fun x => res m x.1 x.2)) (hlow : ∀ x ∈ low, x.1 + x.2 ≤ 15) (hd : sd.wordless = true)
    (hop : isE op = true) (hsub : sub < 256) (hi : FlagSel.ofMods m = fs → make g d a b .zero = i) : RoundTrips i := by
  obtain ⟨hlt, hfs, hzero⟩ := flagOnly fs
  subst hm hfields
  have hf : (low.map (fun x => res fs.mods x.1 x.2)).all (·.2) = true := by
    simp only [List.all_map, List.all_eq_true, Function.comp_apply, res_snd, beq_iff_eq]
    exact fun x hx => hzero x.1 x.2 (hlow x hx)
  exact roundTrips_encE (he := he) (hr := hr) (hop := hop) (hsub := hsub) (hd := hd) (hm := hlt) (hi := hi hfs)
    (ht := by simp only [Row.takes, hw, hf, Shape.ok_un_zero, Bool.and_self])

end

/-! ## The obligation -/

/-- Settles O55: each constructor goes by the lemma on its form and modifiers. -/
theorem encodeDecode : Obligations.EncodeDecode := by
  unfold Obligations.EncodeDecode
  intro i hw hevent
  change RoundTrips i
  cases i with
  | nop g => exact roundTrips_nop g
  | iadd | isub | imul | imulhS | imulhN | iminS | iminN | imaxS | imaxN | and | or | xor | andn | shl | shr | sar | rotl | sel
  | iaddQ | isubQ | shlQ | shrQ | sarQ | lea | fadd | fsub | fmul | fmin | fmax | faddBf16x2 | fmulBf16x2 | fminBf16x2
  | fmaxBf16x2 | faddF16x2 | fmulF16x2 | fminF16x2 | fmaxF16x2 => exact roundTrips_encA (ht := takes_dab (hw := hw))
  | popc | clz | brev | iabs | mov | movQ => exact roundTrips_encA (ht := takes_da (hw := hw))
  | br g off => exact roundTrips_encB rfl (.inl ⟨rfl, rfl⟩)
  | call g off => exact roundTrips_encB rfl (.inr ⟨rfl, rfl⟩)
  | imad | bfi | fshl | fshr => exact roundTrips_encE (ht := takes_dabc (hw := hw))
  | imulQ | qblk | dqblk => exact roundTrips_encE (ht := takes_dab (hw := hw))
  | calli | emberWait | spanPeer => exact roundTrips_encE (ht := takes_da (hw := hw))
  | pget => exact roundTrips_encE (ht := takes_d (hw := hw))
  | yieldto => exact roundTrips_encE (ht := takes_abc (hw := hw))
  | bobjOpen | bobjHold | futSet | crewSet => exact roundTrips_encE (ht := takes_ab (hw := hw))
  | pset | trap | jmpi | ret | bobjMark | lockGive | park => exact roundTrips_encE (ht := takes_a (hw := hw))
  | regang | wide | endwide | exit | trapret | ifence | brk | spanArrive | spanSync | spanDetach | tokTake | halt =>
    exact roundTrips_encE (ht := takes_none)
  | icmp => exact roundTrips_icmp hw
  | pbool => exact roundTrips_pbool ..
  | iaddSat | isubSat | bfe => exact roundTrips_sat rfl hw rfl rfl (by decide) (fun ht => by rw [ht])
  | ffma => exact roundTrips_fpx rfl hw rfl rfl (by decide) (fun ht hr => by rw [ht, hr])
  | faddFpx | fsubFpx | fmulFpx =>
    exact roundTrips_fpx (sc := .un) (c := .zero) rfl (and_un_and hw) rfl rfl (by decide) (fun ht hr => by rw [ht, hr])
  | fabs | fneg => exact roundTrips_fpxTy rfl hw rfl rfl (by decide) (fun ht => by rw [ht])
  | frcp | fsqrt | frsqrt | fexp2 | flog2 | frnd =>
    exact roundTrips_fpx (ty := .f32) rfl (and_un_un hw) rfl rfl (by decide) (fun _ hr => by rw [hr])
  | fcmp => exact roundTrips_fcmp hw
  | cvt => exact roundTrips_cvt hw
  | cvtHad => exact roundTrips_cvtHad hw
  | lany | lall => exact roundTrips_vote rfl rfl rfl rfl (by decide) rfl (fun _ => rfl) (fun hs hd => by rw [hs, hd])
  | lmask =>
    exact roundTrips_vote (pd := 0) (Nat.add_zero _).symm hw rfl rfl (by decide) rfl
      (fun h0 => by simp only [List.all_cons, res_snd, h0]; rfl) (fun hs _ => by rw [hs])
  | lpickIdx | lpickUp | lpickDown | lpickXor => exact roundTrips_lpick rfl hw rfl rfl (by decide) (fun ht hs => by rw [ht, hs])
  | lred => exact roundTrips_lred hw
  | lscan => exact roundTrips_lscan hw
  | wbase => exact roundTrips_wbase hw
  | ld => exact roundTrips_ld hw
  | st => exact roundTrips_st hw
  | lds => exact roundTrips_lds hw
  | sts => exact roundTrips_sts hw
  | ldw => exact roundTrips_ldw hw
  | stw => exact roundTrips_stw hw
  | ldc => exact roundTrips_ldc hw
  | gather => exact roundTrips_gather hw
  | prefetch => exact roundTrips_prefetch hw
  | rmw => exact roundTrips_rmw hw
  | fold => exact roundTrips_fold hw
  | rmwCas => exact roundTrips_rmwCas hw
  | fence => exact roundTrips_fence hw
  | gatePass | gateWait => exact roundTrips_gate rfl hw rfl rfl (by decide) (fun hb => by rw [hb])
  | bobjDue => exact roundTrips_bobjDue hw
  | emberArm => exact roundTrips_emberArm hw
  | emberDisarm => exact roundTrips_emberDisarm
  | await | lockTake => exact roundTrips_await rfl hw rfl rfl (by decide) (fun hp => by rw [hp])
  | qpush => exact roundTrips_qpush hw
  | qpop => exact roundTrips_qpop hw
  | tokGive => exact roundTrips_tokGive hw
  | mma => exact roundTrips_mma hw
  | mmas => exact roundTrips_mmas hw
  | wbload => exact roundTrips_wbload hw
  | accz => exact roundTrips_accz hw
  | accld => exact roundTrips_accld hw
  | accst => exact roundTrips_accst hw
  | cpTile | cpGather | cpOut => exact roundTrips_cp rfl hw rfl rfl rfl (by decide) (fun hk => by rw [hk])
  | cpMcast => exact roundTrips_cpMcast hw
  | sget => exact roundTrips_sget hw
  | sset => exact roundTrips_sset hw
  | cctl => exact roundTrips_cctl hw
  | icinv =>
    exact roundTrips_flag (sd := .un) (sa := .r64) (sb := .r32) (d := .zero) (low := [(0,
    15)]) rfl hw rfl rfl rfl (by decide) rfl rfl (by decide)
      (fun hf => by rw [hf])
  | spawn =>
    exact roundTrips_flag (sd := .un) (sa := .r64) (sb := .r64) (d := .zero)
      (low := [(12, 3), (10, 2), (8, 2), (7, 1), (5, 2), (2, 3), (0, 2)]) rfl
      hw rfl rfl rfl (by decide) rfl rfl (by decide) (fun hf => by rw [hf])
  | launch =>
    exact roundTrips_flag (sd := .un) (sa := .r64) (sb := .un) (d := .zero)
      (low := [(12, 3), (10, 2), (8, 2), (7, 1), (5, 2), (2, 3), (0, 2)]) rfl
      (and_un (x := Shape.un.ok .zero && Shape.r64.ok _) hw) rfl rfl rfl (by decide) rfl rfl (by decide) (fun hf => by rw [hf])
  | tlbinv =>
    exact roundTrips_flag (sd := .un) (sa := .r64) (sb := .r32) (d := .zero) (low := [(11, 4), (8, 3), (0,
    8)]) rfl hw rfl rfl rfl (by decide) rfl rfl
      (by decide) (fun hf => by rw [hf])
  | probe | scanStart | scanPoll =>
    exact roundTrips_flag (low := [(11, 4), (8, 3), (0, 8)]) rfl (and_un hw) rfl rfl rfl
      (by decide) rfl rfl (by decide) (fun hf => by rw [hf])
  | _ => cases hevent

end Sys2Proof

/-! PROOFS. Results of checked arithmetic, unary functions, compares and conversions (R220, R221, R230 to R239). -/

namespace Sys2Proof.Machine

set_option Elab.async false

/-! ## Packed and single results -/

/-- The low half of a pair. -/
theorem halfOf_zero {ty : Ty} (h : isPair ty = true) (x : W32) : halfOf ty 0 x = x.toNat % 65536 := by
  rw [halfOf, if_pos h, Nat.pow_zero, Nat.div_one]

/-- The high half of a pair. -/
theorem halfOf_one {ty : Ty} (h : isPair ty = true) (x : W32) : halfOf ty 1 x = x.toNat / 65536 := by
  rw [halfOf, if_pos h, Nat.pow_one]
  exact Nat.mod_eq_of_lt (by have := x.isLt; omega)

theorem fpFmt_of_not_isPair {ty : Ty} (h : isPair ty = false) : fpFmt ty = fF32 := by
  revert h
  cases ty <;> decide

/-- An operation that reads two of its three operands. -/
theorem fpOp3_eq_fpOp2 (ty : Ty) (op : Fmt → Nat → Nat → Nat) (a b c : W32) :
    fpOp3 ty (fun _ x y _ => op (fpFmt ty) x y) a b c = fpOp2 ty op a b := by
  cases h : isPair ty with
  | true => simp only [fpOp3, fpOp2, halves2, h, if_true, halfOf_zero h, halfOf_one h]
  | false => simp only [fpOp3, fpOp2, h, Bool.false_eq_true, if_false, fpFmt_of_not_isPair h]

/-! ## Checked arithmetic (R386, R387) -/

section
variable {i : Instr} {s : State} {g : Guard} {d a b c : Opd} {ty : Ty} {rnd : Rnd} {e : Env}

theorem runAdd_reads (h : Reads s g [(d, 1)] [(a, 1), (b, 1)] e) (hg : s.sched.glitch = [])
    (hp : ∀ l, e.part.getLsbD l = true → ∀ n, n < (if isPair ty then 2 else 1) →
      (fpFmt ty).shadowAdd rnd false (halfOf ty n (e.w.rd a l)) (halfOf ty n (e.w.rd b l))
        (halfOf ty n (fpOp2 ty (fun f => f.add rnd) (e.w.rd a l) (e.w.rd b l))) = true) :
    runAdd i g d a b ty rnd s = .next ((s.setWave e.u (e.w.wr d e.part
      (fun l => fpOp2 ty (fun f => f.add rnd) (e.w.rd a l) (e.w.rd b l)))).next e i) :=
  runChecked_reads h hg fun l hl => badHalf_none _ _ fun n hn => hp l ((mem_bitsOf _ _).mp hl) n hn

theorem runSub_reads (h : Reads s g [(d, 1)] [(a, 1), (b, 1)] e) (hg : s.sched.glitch = [])
    (hp : ∀ l, e.part.getLsbD l = true → ∀ n, n < (if isPair ty then 2 else 1) →
      (fpFmt ty).shadowAdd rnd true (halfOf ty n (e.w.rd a l)) (halfOf ty n (e.w.rd b l))
        (halfOf ty n (fpOp2 ty (fun f => f.sub rnd) (e.w.rd a l) (e.w.rd b l))) = true) :
    runSub i g d a b ty rnd s = .next ((s.setWave e.u (e.w.wr d e.part
      (fun l => fpOp2 ty (fun f => f.sub rnd) (e.w.rd a l) (e.w.rd b l)))).next e i) :=
  runChecked_reads h hg fun l hl => badHalf_none _ _ fun n hn => hp l ((mem_bitsOf _ _).mp hl) n hn

theorem runMul_reads (h : Reads s g [(d, 1)] [(a, 1), (b, 1)] e) (hg : s.sched.glitch = [])
    (hp : ∀ l, e.part.getLsbD l = true → ∀ n, n < (if isPair ty then 2 else 1) →
      (fpFmt ty).shadowMul rnd (halfOf ty n (e.w.rd a l)) (halfOf ty n (e.w.rd b l))
        (halfOf ty n (fpOp2 ty (fun f => f.mul rnd) (e.w.rd a l) (e.w.rd b l))) = true) :
    runMul i g d a b ty rnd s = .next ((s.setWave e.u (e.w.wr d e.part
      (fun l => fpOp2 ty (fun f => f.mul rnd) (e.w.rd a l) (e.w.rd b l)))).next e i) :=
  runChecked_reads h hg fun l hl => badHalf_none _ _ fun n hn => hp l ((mem_bitsOf _ _).mp hl) n hn

theorem runFma_reads (h : Reads s g [(d, 1)] [(a, 1), (b, 1), (c, 1)] e) (hg : s.sched.glitch = [])
    (hp : ∀ l, e.part.getLsbD l = true → ∀ n, n < (if isPair ty then 2 else 1) →
      (fpFmt ty).shadowFma rnd (halfOf ty n (e.w.rd a l)) (halfOf ty n (e.w.rd b l)) (halfOf ty n (e.w.rd c l))
        (halfOf ty n (fpOp3 ty (fun f => f.fma rnd) (e.w.rd a l) (e.w.rd b l) (e.w.rd c l))) = true) :
    execFfma g d a b c ty rnd s = .next ((s.setWave e.u (e.w.wr d e.part
      (fun l => fpOp3 ty (fun f => f.fma rnd) (e.w.rd a l) (e.w.rd b l) (e.w.rd c l)))).next e (.ffma g d a b c ty rnd)) :=
  runChecked_reads h hg fun l hl => badHalf_none _ _ fun n hn => hp l ((mem_bitsOf _ _).mp hl) n hn

end

/-- Settles O5: a checked instruction whose check passes in every lane delivers its result. -/
theorem checkedArithmeticResults : Obligations.CheckedArithmeticResults := by
  unfold Obligations.CheckedArithmeticResults
  intro s g d a b c ty rnd e hglitch _ h3 h2
  have sum2 (r : Rnd) (l : Nat) := fpOp3_eq_fpOp2 ty (fun f => f.add r) (e.w.rd a l) (e.w.rd b l) (e.w.rd c l)
  have dif2 (r : Rnd) (l : Nat) := fpOp3_eq_fpOp2 ty (fun f => f.sub r) (e.w.rd a l) (e.w.rd b l) (e.w.rd c l)
  have prd2 (r : Rnd) (l : Nat) := fpOp3_eq_fpOp2 ty (fun f => f.mul r) (e.w.rd a l) (e.w.rd b l) (e.w.rd c l)
  simp only [sum2, dif2, prd2]
  refine ⟨fun hp => ?_, fun hp => ?_, fun hp => ?_, fun hp => ?_, fun hp => ⟨?_, ?_, ?_⟩, fun hp => ?_,
    fun hp => ⟨?_, ?_, ?_⟩⟩
  · exact runAdd_reads h2 hglitch hp
  · exact runSub_reads h2 hglitch hp
  · exact runMul_reads h2 hglitch hp
  · exact runFma_reads h3 hglitch hp
  · rintro rfl
    exact runAdd_reads h2 hglitch hp
  · rintro rfl
    exact runAdd_reads h2 hglitch hp
  · rintro rfl
    exact runAdd_reads h2 hglitch hp
  · rintro rfl
    exact runSub_reads h2 hglitch hp
  · rintro rfl
    exact runMul_reads h2 hglitch hp
  · rintro rfl
    exact runMul_reads h2 hglitch hp
  · rintro rfl
    exact runMul_reads h2 hglitch hp

/-! ## Operations that round nothing or one operand, and the compare -/

theorem gives32_of_runMinmax {i : Instr} {s : State} {g : Guard} {d a b : Opd} {ty : Ty} {mx : Bool} {e : Env}
    (h : Reads s g [(d, 1)] [(a, 1), (b, 1)] e) (hi : exec i s = runMinmax i g d a b ty mx s) :
    Gives32 s e i d (fun l => fpOp2 ty (fun f => f.minmax mx) (e.w.rd a l) (e.w.rd b l)) :=
  hi.trans (run32_reads h)

/-- Settles O6: each is short-latency issue of its function, lane by lane. -/
theorem floatUnaryResults : Obligations.FloatUnaryResults := by
  unfold Obligations.FloatUnaryResults
  intro s g d a b ty rnd c pd e
  refine ⟨fun h => ?_, fun h => ?_, fun h => (exec_fcmp g a b c pd s).trans (runPred_reads h)⟩
  · exact ⟨gives32_of_runMinmax h (exec_fmin g d a b s),
      gives32_of_runMinmax h (exec_fmax g d a b s),
      gives32_of_runMinmax h (exec_fminBf16x2 g d a b s),
      gives32_of_runMinmax h (exec_fmaxBf16x2 g d a b s),
      gives32_of_runMinmax h (exec_fminF16x2 g d a b s),
      gives32_of_runMinmax h (exec_fmaxF16x2 g d a b s)⟩
  · exact ⟨gives32_of_run32 h (exec_fabs g d a ty s) fun _ => rfl,
      gives32_of_run32 h (exec_fneg g d a ty s) fun _ => rfl,
      gives32_of_run32 h (exec_frcp g d a rnd s) fun _ => rfl,
      gives32_of_run32 h (exec_fsqrt g d a rnd s) fun _ => rfl,
      gives32_of_run32 h (exec_frsqrt g d a rnd s) fun _ => rfl,
      gives32_of_run32 h (exec_fexp2 g d a rnd s) fun _ => rfl,
      gives32_of_run32 h (exec_flog2 g d a rnd s) fun _ => rfl,
      gives32_of_run32 h (exec_frnd g d a rnd s) fun _ => rfl⟩

/-! ## Conversions -/

/-- Short-latency issue of an instruction that changes its wave alone. -/
theorem runShort_setWave {i : Instr} {g : Guard} {dsts srcs : List (Opd × Nat)} {s : State} {e : Env} {f : Env → Wave}
    (h : Reads s g dsts srcs e) :
    runShort i g dsts srcs true s (fun e => .ok (s.setWave e.u (f e))) = .next ((s.setWave e.u (f e)).next e i) := by
  rw [runShort_reads (t := s.setWave e.u (f e)) h.toExecutes rfl h.clean, if_pos rfl]

/-- Settles O8: `cvt` by its three kinds, and the blocks. -/
theorem conversionResults : Obligations.ConversionResults := by
  unfold Obligations.ConversionResults
  intro s g d a b dty sty rnd sat e
  refine ⟨fun hd h => ?_, fun hd hs h => ?_, fun hd hs h => ?_, fun h => ?_, fun h => ?_⟩
  · rw [Gives32, exec_cvt, execCvt, if_pos hd]
    exact runShort_setWave h
  · rw [exec_cvt, execCvt, if_neg (by rw [hd]; decide), if_pos hs]
    exact runShort_setWave h
  · rw [exec_cvt, execCvt, if_neg (by rw [hd]; decide), if_neg (by rw [hs]; decide)]
    exact runShort_setWave h
  · exact runShort_setWave h
  · exact runShort_setWave h

end Sys2Proof.Machine

namespace Sys2Proof

/-- Settles O56: the words are decoded. -/
theorem wordsDecode : Obligations.WordsDecode := ⟨rfl, rfl, rfl⟩

end Sys2Proof

/-! PROOFS. What a step of an issue slot does (R73), and what reset leaves. -/

namespace Sys2Proof.Machine

set_option Elab.async false

/-! ## An issue slot -/

theorem State.step_of_agenda {s : State} {t : Turn} {rest : List Turn} (h : s.sched.agenda = t :: rest) :
    step s = ({ s with sched := { s.sched with agenda := rest, held := false } } : State).runTurn t := by
  rw [step, State.nextTurn, h]

/-- An issue slot that meets a request which must wait leaves the state as it was (R367). -/
theorem State.runTurn_issue (s : State) (core part : Nat) :
    s.runTurn (.issue core part) = andThen (s.runIssue core part) (fun z => .next (if z.sched.held = true then s else z)) := rfl

theorem andThen_next (s : State) (f : State → Out) : andThen (.next s) f = f s := rfl

/-- Settles O57: the slot's choice is executed, and the slot is put off where the turn is held. -/
theorem stepRunsDecoded : Obligations.StepRunsDecoded := by
  unfold Obligations.StepRunsDecoded
  intro s core part rest c i ws left r hagenda s0 s1 done
  have hstep : step s = andThen (s0.runIssue core part) (fun z => .next (if z.sched.held = true then s0 else z)) := by
    rw [State.step_of_agenda hagenda, State.runTurn_issue]
  have hnone (hpick : s1.pick core part = none) : s0.runIssue core part = .next (s1.endSlot core part) := by
    simp only [State.runIssue, hpick, s1]
  have hsome (hpick : s1.pick core part = some c) : s0.runIssue core part =
      settleTurn (State.runStrand (((s1.markIssue c).endSlot core part).withCur c)
        (State.wordsOf (((s1.markIssue c).endSlot core part).withCur c) c)) := by
    simp only [State.runIssue, hpick, s1]
  refine ⟨fun hpick => ?_, fun hpick => ⟨fun hw => ?_, fun hw hd => ?_, fun hw hd => ?_⟩⟩
  · rw [hstep, hnone hpick, andThen_next]
    rfl
  · rw [hstep, hsome hpick, hw]
    rfl
  · rw [hstep, hsome hpick, hw]
    simp only [State.runStrand, hd, done]
  · rw [hstep, hsome hpick, hw]
    simp only [State.runStrand, hd, done]

/-! ## Reset -/

/-- A table of the values of a function, at one of its keys. -/
theorem Tab.find_map_of_mem {α : Type} (f : Nat → α) {k : Nat} {l : List Nat} (h : k ∈ l) :
    Tab.find (l.map (fun i => (i, f i))) k = some (f k) := by
  induction l with
  | nil => cases h
  | cons j r ih =>
    by_cases hj : j = k
    · simp only [List.map_cons, Tab.find, hj, if_true]
    · simp only [List.map_cons, Tab.find, hj, if_false]
      exact ih ((List.mem_cons.mp h).resolve_left (Ne.symm hj))

/-- Right after reset every tenant's function is as `Tenant.reset` says. -/
theorem State.tenant_reset {n : Nat} (h : n < 16) : State.reset.tenant n = .reset n := by
  rw [State.tenant, show State.reset.kiln.tenants = (List.range 16).map (fun n => (n, Tenant.reset n)) from rfl,
    Tab.find_map_of_mem _ (List.mem_range.mpr h), Option.getD_some]

/-- Reset stores nothing. -/
theorem State.reset_canonical : State.reset.canonical where
  mem := rfl
  waves := fun _ h => absurd h List.not_mem_nil
  groups := fun _ h => absurd h List.not_mem_nil
  parked := fun _ h => absurd h List.not_mem_nil
  keys := List.Pairwise.nil

/-- Settles O58: the fields of `State.reset`. -/
theorem resetState : Obligations.ResetState := by
  unfold Obligations.ResetState
  refine ⟨State.reset_canonical, rfl, rfl, rfl, rfl, rfl, rfl, rfl, rfl, rfl, rfl, rfl, rfl, rfl, rfl, rfl, rfl,
    fun n hn => ?_, fun _ => rfl⟩
  rw [State.tenant_reset hn]
  exact ⟨rfl, rfl, rfl, fun v hv => by rw [List.eq_of_mem_replicate hv]⟩

end Sys2Proof.Machine

/-! PROOFS. The canonical form of storage: what it comes to for a state, a wave and a group that are changed in one field,
and the rules by which the operations on waves, groups and tables keep it. -/

namespace Sys2Proof.Machine

set_option Elab.async false

/-! ## Tables -/

theorem Tab.mem_put {α : Type} {t : Tab α} {k : Nat} {v : α} {x : Nat × α} (h : x ∈ Tab.put t k v) : x = (k, v) ∨ x ∈ t := by
  induction t with
  | nil => exact .inl (List.mem_singleton.mp h)
  | cons y r ih =>
    rw [Tab.put] at h
    split at h
    · exact List.mem_cons.mp h
    · split at h
      · exact (List.mem_cons.mp h).imp_right (List.mem_cons_of_mem _)
      · rcases List.mem_cons.mp h with rfl | h
        · exact .inr List.mem_cons_self
        · exact (ih h).imp_right (List.mem_cons_of_mem _)

theorem Tab.mem_modify {α : Type} {t : Tab α} {k : Nat} {f : α → α} {x : Nat × α} (h : x ∈ Tab.modify t k f) :
    x ∈ t ∨ ∃ v, (k, v) ∈ t ∧ x = (k, f v) := by
  induction t with
  | nil => cases h
  | cons y r ih =>
    obtain ⟨k', v'⟩ := y
    rw [Tab.modify] at h
    split at h
    · next hk =>
      subst hk
      exact (List.mem_cons.mp h).elim (fun hx => .inr ⟨v', List.mem_cons_self, hx⟩) (fun hx => .inl (List.mem_cons_of_mem _ hx))
    · rcases List.mem_cons.mp h with rfl | h
      · exact .inl List.mem_cons_self
      · exact (ih h).imp (List.mem_cons_of_mem _) (fun ⟨v, hv, hx⟩ => ⟨v, List.mem_cons_of_mem _ hv, hx⟩)

theorem Tab.mem_of_mem_drop {α : Type} {t : Tab α} {k : Nat} {x : Nat × α} (h : x ∈ Tab.drop t k) : x ∈ t := by
  induction t with
  | nil => cases h
  | cons y r ih =>
    rw [Tab.drop] at h
    split at h
    · exact List.mem_cons_of_mem _ h
    · exact (List.mem_cons.mp h).elim (fun hx => hx ▸ List.mem_cons_self) (fun hx => List.mem_cons_of_mem _ (ih hx))

theorem Tab.mem_of_find {α : Type} {t : Tab α} {k : Nat} {v : α} (h : Tab.find t k = some v) : (k, v) ∈ t := by
  induction t with
  | nil => cases h
  | cons x r ih =>
    obtain ⟨k', v'⟩ := x
    rw [Tab.find] at h
    split at h
    · next hk =>
      cases h
      exact hk ▸ List.mem_cons_self
    · exact List.mem_cons_of_mem _ (ih h)

@[simp] theorem Tab.keys_modify {α : Type} (t : Tab α) (k : Nat) (f : α → α) : Tab.keys (Tab.modify t k f) = Tab.keys t := by
  induction t with
  | nil => rfl
  | cons x r ih =>
    rw [Tab.modify]
    split
    · rfl
    · exact congrArg (x.1 :: ·) ih

@[simp] theorem Tab.keys_map {α : Type} (t : Tab α) (f : Nat × α → α) :
    Tab.keys (t.map (fun x => (x.1, f x))) = Tab.keys t := by
  rw [Tab.keys, List.map_map]
  rfl

theorem Tab.mem_keys_put {α : Type} {t : Tab α} {k j : Nat} {v : α} (h : j ∈ Tab.keys (Tab.put t k v)) :
    j = k ∨ j ∈ Tab.keys t := by
  obtain ⟨x, hx, rfl⟩ := List.mem_map.mp h
  exact (Tab.mem_put hx).imp (fun hxk => by rw [hxk]) (fun hxt => List.mem_map_of_mem hxt)

/-- Putting a value at a key keeps the keys rising. -/
theorem Tab.keys_put_rising {α : Type} {t : Tab α} {k : Nat} {v : α} (h : (Tab.keys t).Pairwise (· < ·)) :
    (Tab.keys (Tab.put t k v)).Pairwise (· < ·) := by
  induction t with
  | nil => exact List.pairwise_singleton _ _
  | cons x r ih =>
    obtain ⟨k', v'⟩ := x
    obtain ⟨hlow, hr⟩ := List.pairwise_cons.mp h
    rw [Tab.put]
    split
    · next hk =>
      refine List.pairwise_cons.mpr ⟨fun j hj => ?_, h⟩
      rcases List.mem_cons.mp hj with rfl | hj
      · exact hk
      · exact Nat.lt_trans hk (hlow j hj)
    · split
      · next hk =>
        subst hk
        exact h
      · next hn hne =>
        refine List.pairwise_cons.mpr ⟨fun j hj => ?_, ih hr⟩
        rcases Tab.mem_keys_put hj with rfl | hj
        · show k' < j
          omega
        · exact hlow j hj

theorem Tab.keys_drop_rising {α : Type} {t : Tab α} {k : Nat} (h : (Tab.keys t).Pairwise (· < ·)) :
    (Tab.keys (Tab.drop t k)).Pairwise (· < ·) := by
  induction t with
  | nil => exact h
  | cons x r ih =>
    obtain ⟨hlow, hr⟩ := List.pairwise_cons.mp h
    rw [Tab.drop]
    split
    · exact hr
    · refine List.pairwise_cons.mpr ⟨fun j hj => ?_, ih hr⟩
      obtain ⟨y, hy, rfl⟩ := List.mem_map.mp hj
      exact hlow _ (List.mem_map_of_mem (Tab.mem_of_mem_drop hy))

theorem Tab.keys_filter_rising {α : Type} {t : Tab α} {p : Nat × α → Bool} (h : (Tab.keys t).Pairwise (· < ·)) :
    (Tab.keys (t.filter p)).Pairwise (· < ·) := List.Pairwise.sublist (List.filter_sublist.map _) h

/-! ## Waves, tasks and groups -/

theorem Wave.wf_iff {w : Wave} :
    w.wf = true ↔ w.task.wf = true ∧ (∀ h ∈ w.chain, h.task.wf = true) ∧ ∀ r, w.root = some r → r.1.wf = true := by
  rw [Wave.wf, Bool.and_eq_true, Bool.and_eq_true, List.all_eq_true, and_assoc]
  refine and_congr_right fun _ => and_congr_right fun _ => ?_
  cases w.root <;> simp

/-- A wave with the tasks of another. -/
theorem Wave.wf_congr {v w : Wave} (ht : v.task = w.task) (hc : v.chain = w.chain) (hr : v.root = w.root) : v.wf = w.wf := by
  rw [Wave.wf, Wave.wf, ht, hc, hr]

theorem Group.wf_iff {x : Group} : x.wf = true ↔ Store.wf x.spad = true ∧ Store.wf x.tiles = true := Bool.and_eq_true_iff

/-- The waves of a table are in canonical form, and its keys rise. -/
def WavesWf (t : Tab Wave) : Prop := (∀ x ∈ t, x.2.wf = true) ∧ (Tab.keys t).Pairwise (· < ·)

/-- The groups of a table are in canonical form. -/
def GroupsWf (t : Tab Group) : Prop := ∀ x ∈ t, x.2.wf = true

/-- The tasks of parked ones are in canonical form. -/
def ParkedWf (l : List ParkedTask) : Prop := ∀ x ∈ l, x.task.wf = true

/-- What lies at homes in fabric space is in canonical form. -/
def HomesWf (t : Tab Mem) : Prop := ∀ x ∈ t, Store.wf x.2 = true

theorem WavesWf.find {t : Tab Wave} (h : WavesWf t) {u : Nat} {w : Wave} (hw : Tab.find t u = some w) : w.wf = true :=
  h.1 _ (Tab.mem_of_find hw)

@[simp] theorem WavesWf.put {t : Tab Wave} {u : Nat} {w : Wave} (h : WavesWf t) (hw : w.wf = true) : WavesWf (Tab.put t u w) :=
  ⟨fun x hx => (Tab.mem_put hx).elim (fun e => by rw [e]; exact hw) (h.1 x), Tab.keys_put_rising h.2⟩

@[simp] theorem WavesWf.modify {t : Tab Wave} {u : Nat} {f : Wave → Wave} (h : WavesWf t)
    (hf : ∀ w, w.wf = true → (f w).wf = true) : WavesWf (Tab.modify t u f) :=
  ⟨fun x hx => (Tab.mem_modify hx).elim (h.1 x) (fun ⟨v, hv, e⟩ => by rw [e]; exact hf v (h.1 _ hv)),
    (Tab.keys_modify t u f).symm ▸ h.2⟩

@[simp] theorem WavesWf.drop {t : Tab Wave} {u : Nat} (h : WavesWf t) : WavesWf (Tab.drop t u) :=
  ⟨fun x hx => h.1 x (Tab.mem_of_mem_drop hx), Tab.keys_drop_rising h.2⟩

@[simp] theorem WavesWf.filter {t : Tab Wave} {p : Nat × Wave → Bool} (h : WavesWf t) : WavesWf (t.filter p) :=
  ⟨fun x hx => h.1 x (List.mem_of_mem_filter hx), Tab.keys_filter_rising h.2⟩

@[simp] theorem WavesWf.map {t : Tab Wave} {f : Nat × Wave → Wave} (h : WavesWf t)
    (hf : ∀ x, x.2.wf = true → (f x).wf = true) : WavesWf (t.map (fun x => (x.1, f x))) := by
  refine ⟨fun x hx => ?_, (Tab.keys_map t f).symm ▸ h.2⟩
  obtain ⟨y, hy, rfl⟩ := List.mem_map.mp hx
  exact hf y (h.1 y hy)

theorem GroupsWf.find {t : Tab Group} (h : GroupsWf t) {g : Nat} {x : Group} (hx : Tab.find t g = some x) : x.wf = true :=
  h _ (Tab.mem_of_find hx)

@[simp] theorem GroupsWf.put {t : Tab Group} {g : Nat} {x : Group} (h : GroupsWf t) (hx : x.wf = true) :
    GroupsWf (Tab.put t g x) :=
  fun y hy => (Tab.mem_put hy).elim (fun e => by rw [e]; exact hx) (h y)

@[simp] theorem GroupsWf.modify {t : Tab Group} {g : Nat} {f : Group → Group} (h : GroupsWf t)
    (hf : ∀ x, x.wf = true → (f x).wf = true) : GroupsWf (Tab.modify t g f) :=
  fun y hy => (Tab.mem_modify hy).elim (h y) (fun ⟨v, hv, e⟩ => by rw [e]; exact hf v (h _ hv))

@[simp] theorem GroupsWf.drop {t : Tab Group} {g : Nat} (h : GroupsWf t) : GroupsWf (Tab.drop t g) :=
  fun x hx => h x (Tab.mem_of_mem_drop hx)

@[simp] theorem GroupsWf.filter {t : Tab Group} {p : Nat × Group → Bool} (h : GroupsWf t) : GroupsWf (t.filter p) :=
  fun x hx => h x (List.mem_of_mem_filter hx)

@[simp] theorem GroupsWf.map {t : Tab Group} {f : Nat × Group → Group} (h : GroupsWf t)
    (hf : ∀ x, x.2.wf = true → (f x).wf = true) : GroupsWf (t.map (fun x => (x.1, f x))) := by
  intro x hx
  obtain ⟨y, hy, rfl⟩ := List.mem_map.mp hx
  exact hf y (h y hy)

@[simp] theorem ParkedWf.filter {l : List ParkedTask} {p : ParkedTask → Bool} (h : ParkedWf l) : ParkedWf (l.filter p) :=
  fun x hx => h x (List.mem_of_mem_filter hx)

@[simp] theorem ParkedWf.map {l : List ParkedTask} {f : ParkedTask → ParkedTask} (h : ParkedWf l)
    (hf : ∀ x, x.task.wf = true → (f x).task.wf = true) : ParkedWf (l.map f) := by
  intro x hx
  obtain ⟨y, hy, rfl⟩ := List.mem_map.mp hx
  exact hf y (h y hy)

@[simp] theorem ParkedWf.append {l : List ParkedTask} {x : ParkedTask} (h : ParkedWf l) (hx : x.task.wf = true) :
    ParkedWf (l ++ [x]) :=
  fun y hy => (List.mem_append.mp hy).elim (h y) (fun e => List.mem_singleton.mp e ▸ hx)

@[simp] theorem HomesWf.put {t : Tab Mem} {k : Nat} {m : Mem} (h : HomesWf t) (hm : Store.wf m = true) :
    HomesWf (Tab.put t k m) :=
  fun y hy => (Tab.mem_put hy).elim (fun e => by rw [e]; exact hm) (h y)

/-! ## What a state keeps -/

/-- The waves, groups and parked tasks that KILN holds are in canonical form. -/
structure Kiln.canonical (k : Kiln) : Prop where
  waves : WavesWf k.waves
  groups : GroupsWf k.groups
  parked : ParkedWf k.parked

theorem State.canonical_iff {s : State} : s.canonical ↔ s.mem.wf = true ∧ s.kiln.canonical :=
  ⟨fun h => ⟨h.mem, ⟨h.waves, h.keys⟩, h.groups, h.parked⟩,
    fun ⟨hm, hk⟩ => ⟨hm, hk.waves.1, hk.groups, hk.parked, hk.waves.2⟩⟩

/-- Only memory and KILN hold anything by address or register number. -/
@[simp] theorem State.mk_canonical {d : Dev} {m : MemSys} {k : Kiln} {c : Tab Core} {cl : Tab Cluster} {x : Sched} :
    (State.mk d m k c cl x).canonical ↔ m.wf = true ∧ k.canonical := State.canonical_iff

@[simp] theorem Kiln.mk_canonical {a : Tab Tenant} {b : Tab Ctx} {c : Tab Launch} {d : Tab Gang} {gs : Tab Group} {ws : Tab Wave}
    {ps : List ParkedTask} {e : List HeldPush} {f : Tab Session} {g : Tab Scan} {h : Tab Span} {i : List Submit} {n : Nat} :
    (Kiln.mk a b c d gs ws ps e f g h i n).canonical ↔ WavesWf ws ∧ GroupsWf gs ∧ ParkedWf ps :=
  ⟨fun k => ⟨k.waves, k.groups, k.parked⟩, fun ⟨w, g, p⟩ => ⟨w, g, p⟩⟩

@[simp] theorem MemSys.mk_wf {loc : Mem} {a b c d e : _} {homes : Tab Mem} {f g h i j : _} :
    (MemSys.mk loc a b c d e homes f g h i j).wf = true ↔ Store.wf loc = true ∧ HomesWf homes := by
  simp only [MemSys.wf, Memory.wf, Bool.and_eq_true, List.all_eq_true, HomesWf]

theorem MemSys.wf_iff {m : MemSys} : m.wf = true ↔ Store.wf m.loc = true ∧ HomesWf m.homes := MemSys.mk_wf

section
variable {s : State}

@[simp] theorem State.canonical.kiln (h : s.canonical) : s.kiln.canonical := (State.canonical_iff.mp h).2
@[simp] theorem State.canonical.mem_wf (h : s.canonical) : s.mem.wf = true := h.mem
@[simp] theorem State.canonical.loc_wf (h : s.canonical) : Store.wf s.mem.loc = true := (MemSys.wf_iff.mp h.mem).1
@[simp] theorem State.canonical.homes_wf (h : s.canonical) : HomesWf s.mem.homes := (MemSys.wf_iff.mp h.mem).2
@[simp] theorem State.canonical.waves_wf (h : s.canonical) : WavesWf s.kiln.waves := h.kiln.waves
@[simp] theorem State.canonical.groups_wf (h : s.canonical) : GroupsWf s.kiln.groups := h.groups
@[simp] theorem State.canonical.parked_wf (h : s.canonical) : ParkedWf s.kiln.parked := h.parked

theorem State.canonical.wf_of_wave (h : s.canonical) {u : Nat} {w : Wave} (hw : s.wave u = some w) : w.wf = true :=
  h.waves_wf.find hw

theorem State.canonical.wf_of_group (h : s.canonical) {g : Nat} {x : Group} (hx : s.group g = some x) : x.wf = true :=
  h.groups_wf.find hx

/-! ## Changes of one wave, of one group, and of what holds no storage -/

@[simp] theorem State.canonical.setWave {u : Nat} {w : Wave} (h : s.canonical) (hw : w.wf = true) : (s.setWave u w).canonical :=
  State.canonical_iff.mpr ⟨h.mem, h.waves_wf.put hw, h.groups, h.parked⟩

@[simp] theorem State.canonical.modWave {u : Nat} {f : Wave → Wave} (h : s.canonical)
    (hf : ∀ w, w.wf = true → (f w).wf = true := by exact fun _ hw => hw) : (s.modWave u f).canonical :=
  State.canonical_iff.mpr ⟨h.mem, h.waves_wf.modify hf, h.groups, h.parked⟩

@[simp] theorem State.canonical.setGroup {g : Nat} {x : Group} (h : s.canonical) (hx : x.wf = true) :
    (s.setGroup g x).canonical :=
  State.canonical_iff.mpr ⟨h.mem, h.waves_wf, h.groups_wf.put hx, h.parked⟩

@[simp] theorem State.canonical.modGroup {g : Nat} {f : Group → Group} (h : s.canonical)
    (hf : ∀ x, x.wf = true → (f x).wf = true := by exact fun _ hx => hx) : (s.modGroup g f).canonical :=
  State.canonical_iff.mpr ⟨h.mem, h.waves_wf, h.groups_wf.modify hf, h.parked⟩

/-- A state with the storage of another is canonical where the other is. -/
theorem State.canonical_congr {t : State} (hm : t.mem.loc = s.mem.loc) (hh : t.mem.homes = s.mem.homes)
    (hw : t.kiln.waves = s.kiln.waves) (hg : t.kiln.groups = s.kiln.groups) (hp : t.kiln.parked = s.kiln.parked) :
    t.canonical ↔ s.canonical := by
  simp only [State.canonical_iff, MemSys.wf_iff, hm, hh]
  exact and_congr_right fun _ => ⟨fun h => ⟨hw ▸ h.waves, hg ▸ h.groups, hp ▸ h.parked⟩,
    fun h => ⟨hw ▸ h.waves, hg ▸ h.groups, hp ▸ h.parked⟩⟩

theorem State.canonical.congr {t : State} (h : s.canonical) (hm : t.mem.loc = s.mem.loc := by rfl)
    (hh : t.mem.homes = s.mem.homes := by rfl) (hw : t.kiln.waves = s.kiln.waves := by rfl)
    (hg : t.kiln.groups = s.kiln.groups := by rfl) (hp : t.kiln.parked = s.kiln.parked := by rfl) : t.canonical :=
  (State.canonical_congr hm hh hw hg hp).mpr h

@[simp] theorem State.modGang_canonical {g : Nat} {f : Gang → Gang} : (s.modGang g f).canonical ↔ s.canonical :=
  State.canonical_congr rfl rfl rfl rfl rfl
@[simp] theorem State.modLaunch_canonical {l : Nat} {f : Launch → Launch} : (s.modLaunch l f).canonical ↔ s.canonical :=
  State.canonical_congr rfl rfl rfl rfl rfl
@[simp] theorem State.modCtx_canonical {c : Nat} {f : Ctx → Ctx} : (s.modCtx c f).canonical ↔ s.canonical :=
  State.canonical_congr rfl rfl rfl rfl rfl
@[simp] theorem State.setTenant_canonical {n : Nat} {x : Tenant} : (s.setTenant n x).canonical ↔ s.canonical :=
  State.canonical_congr rfl rfl rfl rfl rfl
@[simp] theorem State.modTenant_canonical {n : Nat} {f : Tenant → Tenant} : (s.modTenant n f).canonical ↔ s.canonical :=
  State.canonical_congr rfl rfl rfl rfl rfl
@[simp] theorem State.setCore_canonical {c : Nat} {x : Core} : (s.setCore c x).canonical ↔ s.canonical :=
  State.canonical_congr rfl rfl rfl rfl rfl
@[simp] theorem State.modCore_canonical {c : Nat} {f : Core → Core} : (s.modCore c f).canonical ↔ s.canonical :=
  State.canonical_congr rfl rfl rfl rfl rfl
@[simp] theorem State.setCluster_canonical {c : Nat} {x : Cluster} : (s.setCluster c x).canonical ↔ s.canonical :=
  State.canonical_congr rfl rfl rfl rfl rfl
@[simp] theorem State.modCluster_canonical {c : Nat} {f : Cluster → Cluster} : (s.modCluster c f).canonical ↔ s.canonical :=
  State.canonical_congr rfl rfl rfl rfl rfl
@[simp] theorem State.setDev_canonical {d : Dev} : (s.setDev d).canonical ↔ s.canonical :=
  State.canonical_congr rfl rfl rfl rfl rfl
@[simp] theorem State.bumpFresh_canonical : s.bumpFresh.canonical ↔ s.canonical := State.canonical_congr rfl rfl rfl rfl rfl
@[simp] theorem State.takeUid_canonical : s.takeUid.2.canonical ↔ s.canonical := State.canonical_congr rfl rfl rfl rfl rfl
@[simp] theorem State.hold_canonical : s.hold.canonical ↔ s.canonical := State.canonical_congr rfl rfl rfl rfl rfl
@[simp] theorem State.noCur_canonical : s.noCur.canonical ↔ s.canonical := State.canonical_congr rfl rfl rfl rfl rfl
@[simp] theorem State.withCur_canonical {c : Cur} : (s.withCur c).canonical ↔ s.canonical :=
  State.canonical_congr rfl rfl rfl rfl rfl
@[simp] theorem State.endSlot_canonical {c p : Nat} : (s.endSlot c p).canonical ↔ s.canonical :=
  State.canonical_congr rfl rfl rfl rfl rfl
@[simp] theorem State.noteWait_canonical {p : Place} : (s.noteWait p).canonical ↔ s.canonical := by
  unfold State.noteWait
  split
  · exact State.hold_canonical
  · exact Iff.rfl
@[simp] theorem State.noteRead_canonical {p : Place} : (s.noteRead p).canonical ↔ s.canonical := by
  unfold State.noteRead
  split
  · exact Iff.rfl
  · exact State.noteWait_canonical

theorem State.canonical.modGang {g : Nat} {f : Gang → Gang} (h : s.canonical) : (s.modGang g f).canonical := State.modGang_canonical.mpr h
theorem State.canonical.modLaunch {l : Nat} {f : Launch → Launch} (h : s.canonical) : (s.modLaunch l f).canonical := State.modLaunch_canonical.mpr h
theorem State.canonical.modCtx {c : Nat} {f : Ctx → Ctx} (h : s.canonical) : (s.modCtx c f).canonical := State.modCtx_canonical.mpr h
theorem State.canonical.modTenant {n : Nat} {f : Tenant → Tenant} (h : s.canonical) : (s.modTenant n f).canonical := State.modTenant_canonical.mpr h
theorem State.canonical.setTenant {n : Nat} {x : Tenant} (h : s.canonical) : (s.setTenant n x).canonical := State.setTenant_canonical.mpr h
theorem State.canonical.modCore {c : Nat} {f : Core → Core} (h : s.canonical) : (s.modCore c f).canonical := State.modCore_canonical.mpr h
theorem State.canonical.setCore {c : Nat} {x : Core} (h : s.canonical) : (s.setCore c x).canonical := State.setCore_canonical.mpr h
theorem State.canonical.modCluster {c : Nat} {f : Cluster → Cluster} (h : s.canonical) : (s.modCluster c f).canonical := State.modCluster_canonical.mpr h
theorem State.canonical.setDev {d : Dev} (h : s.canonical) : (s.setDev d).canonical := State.setDev_canonical.mpr h
theorem State.canonical.bumpFresh (h : s.canonical) : (s.bumpFresh).canonical := State.bumpFresh_canonical.mpr h
theorem State.canonical.takeUid (h : s.canonical) : (s.takeUid.2).canonical := State.takeUid_canonical.mpr h
theorem State.canonical.hold (h : s.canonical) : (s.hold).canonical := State.hold_canonical.mpr h
theorem State.canonical.noteWait {p : Place} (h : s.canonical) : (s.noteWait p).canonical := State.noteWait_canonical.mpr h
theorem State.canonical.noteRead {p : Place} (h : s.canonical) : (s.noteRead p).canonical := State.noteRead_canonical.mpr h

/-! ## Several changes -/

/-- What each change keeps, all of them keep. -/
theorem State.canonical.foldl {α : Type} {l : List α} {f : State → α → State} (h : s.canonical)
    (hf : ∀ s x, s.canonical → (f s x).canonical) : (l.foldl f s).canonical := by
  induction l generalizing s with
  | nil => exact h
  | cons x r ih => exact ih (hf s x h)

/-- Of two states that are canonical, whichever is chosen is. -/
theorem State.canonical.ite {t : State} {c : Prop} [Decidable c] (hs : s.canonical) (ht : t.canonical) :
    (if c then s else t).canonical := by
  split
  · exact hs
  · exact ht

end

end Sys2Proof.Machine

/-! PROOFS. Memory, its caches and the accesses to it keep the canonical form. -/

namespace Sys2Proof.Machine

set_option Elab.async false

section
variable {s : State}

/-! ## Poison of memory -/

@[simp] theorem MemSys.poisonWrite_loc (m : MemSys) (u : Nat × Bool × Nat) : (m.poisonWrite u).loc = m.loc := by
  unfold MemSys.poisonWrite
  dsimp only
  split
  · rfl
  · split <;> rfl

@[simp] theorem MemSys.poisonWrite_homes (m : MemSys) (u : Nat × Bool × Nat) : (m.poisonWrite u).homes = m.homes := by
  unfold MemSys.poisonWrite
  dsimp only
  split
  · rfl
  · split <;> rfl

@[simp] theorem MemSys.poisonWrite_wf (m : MemSys) (u : Nat × Bool × Nat) : (m.poisonWrite u).wf = m.wf := by
  rw [MemSys.wf, MemSys.wf, MemSys.poisonWrite_loc, MemSys.poisonWrite_homes]

@[simp] theorem MemSys.foldl_poisonWrite_wf (us : List (Nat × Bool × Nat)) (m : MemSys) :
    (us.foldl MemSys.poisonWrite m).wf = m.wf := by
  induction us generalizing m with
  | nil => rfl
  | cons u r ih => rw [List.foldl_cons, ih, MemSys.poisonWrite_wf]

@[simp] theorem MemSys.foldl_poisonWrite_homes (us : List (Nat × Bool × Nat)) (m : MemSys) :
    (us.foldl MemSys.poisonWrite m).homes = m.homes := by
  induction us generalizing m with
  | nil => rfl
  | cons u r ih => rw [List.foldl_cons, ih, MemSys.poisonWrite_homes]

@[simp] theorem MemSys.soil_wf (m : MemSys) (ls : List Nat) : (m.soil ls).wf = m.wf := rfl
@[simp] theorem MemSys.unhold_wf (m : MemSys) (n : Nat) : (m.unhold n).wf = m.wf := rfl

/-! ## EMBER hits (R77) -/

theorem TaskCtx.hit_wf (t : TaskCtx) (p : Place) (n : Nat) : (t.hit p n).wf = t.wf := rfl

@[simp] theorem State.canonical.emberHit {p : Place} {n : Nat} (h : s.canonical) : (s.emberHit p n).canonical := by
  refine State.canonical_iff.mpr ⟨h.mem, h.waves_wf.map fun x hx => ?_, h.groups, h.parked_wf.map fun x hx => hx⟩
  obtain ⟨ht, hc, hr⟩ := Wave.wf_iff.mp hx
  refine Wave.wf_iff.mpr ⟨ht, fun y hy => ?_, fun r hroot => ?_⟩
  · obtain ⟨z, hz, rfl⟩ := List.mem_map.mp hy
    exact hc z hz
  · obtain ⟨q, hq, rfl⟩ := Option.map_eq_some_iff.mp hroot
    exact hr q hq

/-! ## Writes behind the L2 -/

theorem HomesWf.getD {t : Tab Mem} (h : HomesWf t) (k : Nat) : Store.wf ((Tab.find t k).getD []) = true := by
  cases hf : Tab.find t k with
  | none => rfl
  | some m => exact h _ (Tab.mem_of_find hf)

@[simp] theorem State.homeMem_wf (h : s.canonical) (d : Nat) : Store.wf (s.homeMem d) = true := h.homes_wf.getD _

@[simp] theorem State.canonical.homeWrite {d a : Nat} {data : BitVec 1024} {mask : BitVec 128} {p : BitVec 4} (h : s.canonical) :
    (s.homeWrite d a data mask p).canonical := by
  simp [State.homeWrite, h, Store.wf_setAll _ _ (State.homeMem_wf h d)]

@[simp] theorem State.goViral_canonical {c : Nat} : (s.goViral c).canonical ↔ s.canonical := by
  unfold State.goViral
  split
  · exact State.canonical_congr rfl rfl rfl rfl rfl
  · exact Iff.rfl

theorem Wave.lostSector_wf (w : Wave) (a : Nat) : (w.lostSector a).wf = w.wf := by
  unfold Wave.lostSector
  split <;> rfl

@[simp] theorem State.canonical.noteLost {cl : Option Nat} {t a : Nat} (h : s.canonical) : (s.noteLost cl t a).canonical := by
  refine State.canonical.foldl ?_ (fun s c hs => State.goViral_canonical.mpr hs)
  refine State.canonical_iff.mpr ⟨h.mem, h.waves_wf.map fun x hx => ?_, h.groups, h.parked⟩
  split
  · rw [Wave.lostSector_wf, hx]
  · exact hx

@[simp] theorem State.forget_canonical {p : Place} : (s.forget p).canonical ↔ s.canonical :=
  State.canonical_congr rfl rfl rfl rfl rfl

@[simp] theorem State.canonical.homeBack {cl : Option Nat} {x : PSector} (h : s.canonical) : (s.homeBack cl x).canonical := by
  unfold State.homeBack
  repeat' split
  all_goals simp [h]

@[simp] theorem State.mapCopies_canonical {f : Option Nat → PSector → Option PSector} :
    (s.mapCopies f).canonical ↔ s.canonical := State.canonical_congr rfl rfl rfl rfl rfl

@[simp] theorem State.canonical.bisnp {keep : Option Nat → Place → Bool} {p : Place} (h : s.canonical) :
    (s.bisnp keep p).canonical := by
  unfold State.bisnp
  dsimp only
  split
  · exact h
  · exact ((State.mapCopies_canonical.mpr h).foldl fun s x hs => hs.homeBack).emberHit

@[simp] theorem State.canonical.cohHome {cl : Option Nat} {p : Place} (h : s.canonical) : (s.cohHome cl p).canonical :=
  State.canonical.bisnp h

/-! ## The MSC (R16, R110) -/

@[simp] theorem State.canonical.mscFlush {cl : Option Nat} {p : Place} (h : s.canonical) : (s.mscFlush cl p).canonical := by
  unfold State.mscFlush
  split
  · exact h
  · refine State.canonical.homeBack ?_
    split <;> simp [h]

@[simp] theorem State.canonical.mscRoom {l : Place} (h : s.canonical) : (s.mscRoom l).canonical := by
  unfold State.mscRoom
  dsimp only
  split
  · exact h
  · simp [h]
  · exact (State.bumpFresh_canonical.mpr h).foldl fun s p hs => hs.mscFlush

@[simp] theorem State.canonical.mscPut {x : PSector} (h : s.canonical) : (s.mscPut x).canonical := by
  simp [State.mscPut, h]

@[simp] theorem State.canonical.mscHold {p : Place} (h : s.canonical) : (s.mscHold p).canonical := by
  refine h.foldl fun s n hs => ?_
  dsimp only
  split <;> simp [hs]

@[simp] theorem State.canonical.mscFill {p : Place} {t c : Nat} {a : Attr} (h : s.canonical) : (s.mscFill p t c a).canonical := by
  unfold State.mscFill
  repeat' split
  all_goals simp [h]

@[simp] theorem State.canonical.mscWrite {x : PSector} {mask : BitVec 128} (h : s.canonical) : (s.mscWrite x mask).canonical :=
  State.canonical.mscPut h

@[simp] theorem State.canonical.backWrite {x : PSector} {mask : BitVec 128} (h : s.canonical) : (s.backWrite x mask).canonical := by
  have hs : (if x.place.isHome then s else s.noteWait x.place).canonical := by split <;> simp [h]
  unfold State.backWrite
  dsimp only
  generalize (if x.place.isHome then s else s.noteWait x.place) = s at hs
  split
  · simp [hs, Store.wf_setAll]
  · exact State.canonical.foldl (by simp [hs, Store.wf_setAll]) fun s y hs => hs.emberHit
  · split <;> simp [hs]
  · exact hs

/-! ## The L2 (R15) -/

@[simp] theorem State.l2Set_canonical {cl : Nat} {x : PSector} : (s.l2Set cl x).canonical ↔ s.canonical := State.modCluster_canonical
@[simp] theorem State.l2Drop_canonical {cl : Nat} {p : Place} : (s.l2Drop cl p).canonical ↔ s.canonical := State.modCluster_canonical

@[simp] theorem State.canonical.l2WriteBack {cl : Nat} {p : Place} (h : s.canonical) : (s.l2WriteBack cl p).canonical := by
  unfold State.l2WriteBack
  repeat' split
  all_goals simp [h]

@[simp] theorem State.canonical.l2Flush {cl : Nat} {p : Place} (h : s.canonical) : (s.l2Flush cl p).canonical := by
  simp [State.l2Flush, h]

@[simp] theorem State.canonical.l2Put {cl : Nat} {x : PSector} (h : s.canonical) : (s.l2Put cl x).canonical := by
  unfold State.l2Put
  split
  · simp [h]
  · exact State.l2Set_canonical.mpr ((State.bumpFresh_canonical.mpr h).foldl fun s p hs => hs.l2Flush)

@[simp] theorem State.canonical.l2Stale {cl : Nat} {p : Place} (h : s.canonical) : (s.l2Stale cl p).canonical := by
  unfold State.l2Stale
  repeat' split
  all_goals simp [h]

/-! ## Coherent regions (R126) -/

@[simp] theorem State.canonical.cohPull {cl : Nat} {p : Place} (h : s.canonical) : (s.cohPull cl p).canonical := by
  have h1 : ((s.cohHolders (some cl) p).foldl (fun s c => s.l2WriteBack c p) s).canonical :=
    h.foldl fun s c hs => hs.l2WriteBack
  unfold State.cohPull
  dsimp only
  split
  · exact h1
  · exact (State.mapCopies_canonical.mpr h1).foldl fun s x hs => hs.homeBack

@[simp] theorem State.canonical.cohDrop {cl : Nat} {p : Place} (h : s.canonical) : (s.cohDrop cl p).canonical := by
  unfold State.cohDrop
  exact (h.ite (h.foldl fun s q hs => hs.foldl fun s c hs => hs.l2Flush).emberHit).bisnp

/-! ## Accesses at a point (R111) -/

@[simp] theorem State.canonical.settle {ag : Agent} {pt : Point} {p : Place} (h : s.canonical) : (s.settle ag pt p).canonical := by
  cases pt <;> simp [State.settle, h]

/-- Reading a zero changes the value alone. -/
theorem fst_ite_zero {t : State} {x : Nat × Nat} {c : Prop} [Decidable c] : (if c then (t, 0, 0) else (t, x)).1 = t := by
  split <;> rfl

@[simp] theorem State.canonical.readAt {ag : Agent} {pt : Point} {p : Place} {n : Nat} {a : Attr} {alloc : Bool} (h : s.canonical) :
    (s.readAt ag pt p n a alloc).1.canonical := by
  have h0 : (if a.coh then s.cohPull ag.cluster p.sector else s).canonical := h.cohPull.ite h
  unfold State.readAt
  dsimp only
  generalize (if a.coh then s.cohPull ag.cluster p.sector else s) = s at h0
  have h1 := State.noteRead_canonical (p := p.sector) |>.mpr h0
  split
  · rw [fst_ite_zero]
    exact State.canonical.ite (h0.ite h1) (State.canonical.ite (State.canonical.ite (h0.ite h1) (h0.ite h1).mscFill).l2Put
      (State.canonical.ite (h0.ite h1) (h0.ite h1).mscFill))
  · rw [fst_ite_zero]
    have h2 := State.noteRead_canonical (p := p.sector) |>.mpr (h0.settle (ag := ag) (pt := pt) (p := p))
    exact h2.mscFill.ite h2

@[simp] theorem State.canonical.behind {ag : Agent} {x : PSector} {mask : BitVec 128} {keep : Bool} {p : Place} {n : Nat}
    (h : s.canonical) : (s.behind ag x mask keep p n).canonical := by
  unfold State.behind
  exact (State.forget_canonical.mpr h).noteLost.ite (h.mscHold.ite h).backWrite.emberHit

@[simp] theorem State.canonical.writeAt {ag : Agent} {pt : Point} {p : Place} {n v : Nat} {a : Attr} (h : s.canonical) :
    (s.writeAt ag pt p n v a).canonical := by
  unfold State.writeAt
  dsimp only
  split
  · exact h
  · split
    · exact (State.canonical.ite h.cohHome h).l2Put.emberHit
    · exact (State.canonical.ite h.cohDrop h).settle.behind
    · split
      · refine State.canonical.ite ?_ (State.noteWait_canonical.mpr ?_).homeWrite.emberHit
        all_goals exact h.settle.cohHome
      · exact h.settle.behind

@[simp] theorem State.canonical.cleanGranule {ag : Agent} {pt : Point} {p : Place} {a : Attr} (h : s.canonical) :
    (s.cleanGranule ag pt p a).canonical := by
  unfold State.cleanGranule
  dsimp only
  repeat' split
  all_goals simp [h]

/-! ## Translation and the caches of a core -/

@[simp] theorem State.canonical.tlbFill {ag : Agent} {va : Nat} (h : s.canonical) : (s.tlbFill ag va).canonical := by
  unfold State.tlbFill
  dsimp only
  repeat' split
  · exact h
  · exact State.modCluster_canonical.mpr (h.foldl fun s a hs => State.noteWait_canonical.mpr hs)
  · exact h

@[simp] theorem State.l1Drop_canonical {ag : Agent} {va : Nat} : (s.l1Drop ag va).canonical ↔ s.canonical :=
  State.canonical_congr rfl rfl rfl rfl rfl
@[simp] theorem State.l1Fill_canonical {ag : Agent} {va : Nat} {p : Place} {a : Attr} :
    (s.l1Fill ag va p a).canonical ↔ s.canonical := State.canonical_congr rfl rfl rfl rfl rfl
@[simp] theorem State.ccFill_canonical {ag : Agent} {va : Nat} {p : Place} {a : Attr} :
    (s.ccFill ag va p a).canonical ↔ s.canonical := State.canonical_congr rfl rfl rfl rfl rfl
@[simp] theorem State.icFill_canonical {ag : Agent} {va : Nat} {p : Place} {a : Attr} :
    (s.icFill ag va p a).canonical ↔ s.canonical := State.canonical_congr rfl rfl rfl rfl rfl

@[simp] theorem State.canonical.loadVa {ag : Agent} {va n : Nat} {sc : Scope} {way : Way} (h : s.canonical) :
    (s.loadVa ag va n sc way).1.canonical := by
  unfold State.loadVa
  split
  · exact h
  · split
    · exact h
    · dsimp only
      split <;> simp [h]

@[simp] theorem State.l1Update_canonical {ag : Agent} {va n v : Nat} : (s.l1Update ag va n v).canonical ↔ s.canonical := by
  unfold State.l1Update
  split
  · exact State.modCore_canonical
  · exact Iff.rfl

@[simp] theorem State.canonical.storeAt {ag : Agent} {va n v : Nat} {sc : Scope} {p : Place} {a : Attr} (h : s.canonical) :
    (s.storeAt ag va n v sc p a).canonical := by
  unfold State.storeAt
  split <;> simp [h]

@[simp] theorem State.canonical.storeVa {ag : Agent} {va n v : Nat} {sc : Scope} (h : s.canonical) :
    (s.storeVa ag va n v sc).canonical := by
  unfold State.storeVa
  split
  · exact h
  · refine State.canonical.storeAt ?_
    split <;> simp [h]

@[simp] theorem State.canonical.cleanVa {ag : Agent} {va : Nat} {sc : Scope} (h : s.canonical) :
    (s.cleanVa ag va sc).canonical := by
  unfold State.cleanVa
  repeat' split
  all_goals simp [h]

/-! ## Releases and acquires (R143) -/

@[simp] theorem State.canonical.release {ag : Agent} {sc : Scope} (h : s.canonical) : (s.release ag sc).canonical := by
  unfold State.release
  dsimp only
  have h1 (ps : List Place) : (ps.foldl (fun s p => s.l2WriteBack ag.cluster p) s).canonical :=
    h.foldl fun s p hs => hs.l2WriteBack
  split
  · exact h
  · split
    · exact h1 _
    · exact (h1 _).foldl fun s p hs => hs.mscFlush

@[simp] theorem State.canonical.acquire {ag : Agent} {sc : Scope} (h : s.canonical) : (s.acquire ag sc).canonical := by
  unfold State.acquire
  dsimp only
  repeat' split
  all_goals simp [h]

@[simp] theorem State.canonical.before {ag : Agent} {o : Order} {sc : Scope} (h : s.canonical) : (s.before ag o sc).canonical := by
  cases o <;> simp [State.before, h]

@[simp] theorem State.canonical.after {ag : Agent} {o : Order} {sc : Scope} (h : s.canonical) : (s.after ag o sc).canonical := by
  cases o <;> simp [State.after, h]

/-! ## Objects in memory -/

theorem State.canonical.readObj {ag : Agent} {sc : Scope} {fuel : Nat} :
    ∀ {s t : State} {va n : Nat} {bs : List Byte}, s.canonical → s.readObj ag sc va fuel n = .ok (t, bs) → t.canonical := by
  induction fuel with
  | zero =>
    intro s t va n bs h ht
    cases ht
    exact h
  | succ fuel ih =>
    intro s t va n bs h ht
    rw [State.readObj] at ht
    split at ht
    · cases ht
      exact h
    · dsimp only at ht
      split at ht
      · cases ht
      · split at ht
        · cases ht
        · have h0 := (State.l1Drop_canonical (ag := ag) (va := va) |>.mpr h).ite (c := (s.l1Hit ag va).isSome = true) h
          generalize (if (s.l1Hit ag va).isSome = true then s.l1Drop ag va else s) = s0 at h0 ht
          split at ht
          · cases ht
          · split at ht
            · cases ht
            · next hrest =>
              cases ht
              exact ih h0.tlbFill.readAt hrest

theorem State.canonical.obj {ag : Agent} {sc : Scope} {va n : Nat} {t : State} {bs : List Byte} (h : s.canonical)
    (ht : s.obj ag sc va n = .ok (t, bs)) : t.canonical := State.canonical.readObj h ht

@[simp] theorem State.canonical.putObj {ag : Agent} {sc : Scope} {fuel : Nat} :
    ∀ {s : State} {va : Nat} {bs : List Byte}, s.canonical → (s.putObj ag sc va fuel bs).canonical := by
  induction fuel with
  | zero => exact fun h => h
  | succ fuel ih =>
    intro s va bs h
    rw [State.putObj]
    dsimp only
    split
    · exact h
    · refine ih ?_
      split <;> simp [h]

@[simp] theorem State.canonical.setObj {ag : Agent} {sc : Scope} {va : Nat} {bs : List Byte} (h : s.canonical) :
    (s.setObj ag sc va bs).canonical := State.canonical.putObj h

end

end Sys2Proof.Machine

/-! PROOFS. The canonical form is kept by writes of registers, by the objects of the Irwald units, and by what every
instruction is made of: issue, waits, the precise stop, and traps with the return from them. -/

namespace Sys2Proof.Machine

set_option Elab.async false

/-! ## What a wave keeps -/

section
variable {w : Wave}

theorem Wave.task_wf (h : w.wf = true) : w.task.wf = true := (Wave.wf_iff.mp h).1

/-- A wave whose running task takes another's place. -/
theorem Wave.wf_of_task {v : Wave} (h : w.wf = true) (ht : v.task.wf = true) (hc : v.chain = w.chain) (hr : v.root = w.root) :
    v.wf = true := by
  obtain ⟨-, hchain, hroot⟩ := Wave.wf_iff.mp h
  exact Wave.wf_iff.mpr ⟨ht, hc ▸ hchain, hr ▸ hroot⟩

theorem Wave.wrPart_wf {o : Opd} {i : Nat} {lanes : W32} {f : Nat → W32} (h : w.wf = true) : (w.wrPart o i lanes f).wf = true := by
  refine Wave.wf_of_task h (Wave.wf_wrPart _ _ _ _ _ (Wave.task_wf h)) ?_ ?_ <;> cases o <;> rfl

theorem Wave.wrN_wf {o : Opd} {lanes : W32} {f : Nat → Nat → W32} {k : Nat} (h : w.wf = true) : (w.wrN o lanes f k).wf = true := by
  induction k with
  | zero => exact h
  | succ k ih => exact Wave.wrPart_wf ih

theorem Wave.setPred_wf {l p : Nat} {v : Bool} (h : w.wf = true) : (w.setPred l p v).wf = true := by
  unfold Wave.setPred
  split
  · exact h
  · obtain ⟨hv, hs, hp⟩ := (TaskCtx.wf_iff _).mp (Wave.task_wf h)
    exact Wave.wf_of_task h ((TaskCtx.wf_iff _).mpr ⟨hv, hs, Store.wf_set _ _ _ hp⟩) rfl rfl

theorem Wave.setPreds_wf {lanes : W32} {p : Nat} {f : Nat → Bool} (h : w.wf = true) : (w.setPreds lanes p f).wf = true := by
  unfold Wave.setPreds
  induction bitsOf lanes generalizing w with
  | nil => exact h
  | cons l r ih => exact ih (Wave.setPred_wf h)

/-! What changes the slices alone leaves the registers as they are. -/

@[simp] theorem Wave.modSlices_wf {sl : BitVec 8} {f : SliceSt → SliceSt} : (w.modSlices sl f).wf = w.wf := rfl
@[simp] theorem Wave.modSlicesI_wf {sl : BitVec 8} {f : Nat → SliceSt → SliceSt} : (w.modSlicesI sl f).wf = w.wf := rfl
@[simp] theorem Wave.reStrand_wf : w.reStrand.wf = w.wf := rfl
@[simp] theorem Wave.mergeSlices_wf {sl : BitVec 8} : (w.mergeSlices sl).wf = w.wf := rfl
@[simp] theorem Wave.issued_wf {st : BitVec 8} : (w.issued st).wf = w.wf := rfl
@[simp] theorem Wave.raise_wf {sl : BitVec 8} {f : Option Nat} : (w.raise sl f).wf = w.wf := by cases f <;> rfl
@[simp] theorem Wave.lower_wf {sl : BitVec 8} {f : Option Nat} : (w.lower sl f).wf = w.wf := by cases f <;> rfl
@[simp] theorem Wave.clauseStep_wf {st : BitVec 8} : (w.clauseStep st).wf = w.wf := by
  unfold Wave.clauseStep
  split <;> rfl
@[simp] theorem Wave.skip_wf {st : BitVec 8} {n : Nat} : (w.skip st n).wf = w.wf := by rw [Wave.skip, Wave.clauseStep_wf, Wave.modSlices_wf]
@[simp] theorem Wave.next_wf {st : BitVec 8} {i : Instr} : (w.next st i).wf = w.wf := Wave.skip_wf
@[simp] theorem Wave.resume_wf {st : BitVec 8} : (w.resume st).wf = w.wf := by rw [Wave.resume, Wave.skip_wf, Wave.modSlices_wf]
@[simp] theorem Wave.lowerFor_wf {o : Op} {sl : BitVec 8} : (w.lowerFor o sl).wf = w.wf := by
  unfold Wave.lowerFor
  split
  · rfl
  · exact Wave.lower_wf
@[simp] theorem Wave.opDone_wf {o : Op} {sl : BitVec 8} : (w.opDone o sl).wf = w.wf := Wave.lowerFor_wf
@[simp] theorem Wave.openWide_wf {live : BitVec 8} : (w.openWide live).wf = w.wf := Wave.clauseStep_wf
@[simp] theorem Wave.enterHandler_wf {r : TrapReq} : (w.enterHandler r).wf = w.wf := rfl

theorem Wave.transfer_wf {v : Wave} {st : BitVec 8} {tgt : Nat → Nat} {fall : Nat} {ind : Bool} (h : w.wf = true)
    (hv : w.transfer st tgt fall ind = .ok v) : v.wf = true := by
  unfold Wave.transfer at hv
  split at hv
  · cases hv
  · cases hv
    rw [Wave.clauseStep_wf, Wave.reStrand_wf, Wave.modSlicesI_wf, h]

theorem Wave.foldl_raise_wf {ops : List Op} : (ops.foldl (fun w o => w.raise o.slices o.flag) w).wf = w.wf := by
  induction ops generalizing w with
  | nil => rfl
  | cons o r ih => exact ih.trans Wave.raise_wf

theorem Wave.fromFrame_wf {v : Wave} {id : Nat} {bs : List Byte} {outer : Option (List Byte)} (h : w.wf = true)
    (hv : w.fromFrame id bs outer = some v) : v.wf = true := by
  unfold Wave.fromFrame at hv
  dsimp only at hv
  split at hv
  · cases hv
  · rw [Option.ite_none_left_eq_some] at hv
    obtain ⟨-, hv⟩ := hv
    rw [← Option.some.inj hv, Wave.reStrand_wf, Wave.foldl_raise_wf]
    exact h

end

/-! ## Tasks -/

theorem TaskCtx.allExited_wf (t : TaskCtx) : t.allExited.wf = t.wf := rfl
theorem TaskCtx.still_wf (t : TaskCtx) : t.still.wf = t.wf := rfl
theorem TaskCtx.helping_wf (t : TaskCtx) (lock : Bool) (pd : Fin 8) (a : W64) : (t.helping lock pd a).wf = t.wf := rfl

theorem TaskCtx.fresh_wf {record args : W64} {entry regs cls : Nat} {root : Bool} :
    (TaskCtx.fresh record args entry regs cls root).wf = true := by
  refine (TaskCtx.wf_iff _).mpr ⟨rfl, ?_, rfl⟩
  dsimp only [TaskCtx.fresh]
  exact Store.wf_setAll _ _ rfl

theorem TaskCtx.ofWave_wf {t : TaskCtx} {wb : List Byte} (h : t.wf = true) : (t.ofWave wb).wf = true :=
  (TaskCtx.wf_iff _).mpr ⟨((TaskCtx.wf_iff _).mp h).1, wf_keyed _, wf_keyed _⟩

theorem TaskCtx.ofImage_wf {t : TaskCtx} {rb wb : List Byte} : (t.ofImage rb wb).wf = true :=
  (TaskCtx.wf_iff _).mpr ⟨wf_keyed _, wf_keyed _, wf_keyed _⟩

section
variable {s : State}

/-! ## Objects of the Irwald units -/

@[simp] theorem State.canonical.putNum {ag : Agent} {a n v : Nat} (h : s.canonical) : (s.putNum ag a n v).canonical := h.setObj
@[simp] theorem State.canonical.putState {ag : Agent} {tr d st : Nat} (h : s.canonical) : (s.putState ag tr d st).canonical :=
  h.putNum
@[simp] theorem State.canonical.putHelper {ag : Agent} {tr x : Nat} (h : s.canonical) : (s.putHelper ag tr x).canonical := h.putNum
@[simp] theorem State.canonical.putHome {ag : Agent} {tr x : Nat} (h : s.canonical) : (s.putHome ag tr x).canonical := h.putNum
@[simp] theorem State.canonical.putIdx {ag : Agent} {q : Queue} {a v : Nat} (h : s.canonical) : (s.putIdx ag q a v).canonical :=
  h.setObj
@[simp] theorem State.canonical.putEntry {ag : Agent} {a o st n : Nat} (h : s.canonical) : (s.putEntry ag a o st n).canonical :=
  h.setObj

theorem State.canonical.taskRec {t : State} {ag : Agent} {tr : Nat} {r : TaskRec} (h : s.canonical)
    (ht : s.taskRec ag tr = .ok (t, r)) : t.canonical := by
  unfold State.taskRec at ht
  split at ht
  · cases ht
  · next hobj =>
    cases ht
    exact h.obj hobj

theorem State.canonical.waitable {t : State} {ag : Agent} {a : Nat} {x : Waitable} (h : s.canonical)
    (ht : s.waitable ag a = .ok (t, x)) : t.canonical := by
  unfold State.waitable at ht
  split at ht
  · cases ht
  · next hobj =>
    cases ht
    exact h.obj hobj

@[simp] theorem State.canonical.downFor {ag : Agent} {a : Nat} (h : s.canonical) : (s.downFor ag a).canonical := by
  unfold State.downFor
  split
  · split
    · exact h
    · exact h.foldl fun s c hs => hs.foldl fun s x hs => hs.l2WriteBack
  · exact h

theorem State.canonical.queueWords {t : State} {ag : Agent} {hdr : Nat} {q : Queue} (h : s.canonical)
    (ht : s.queueWords ag hdr = .ok (t, q)) : t.canonical := by
  unfold State.queueWords at ht
  split at ht
  · cases ht
  · next hobj =>
    cases ht
    exact h.obj hobj

theorem State.canonical.queue {t : State} {ag : Agent} {hdr : Nat} {q : Queue} (h : s.canonical)
    (ht : s.queue ag hdr = .ok (t, q)) : t.canonical := by
  unfold State.queue at ht
  split at ht
  · cases ht
  · next hq =>
    have h1 := h.downFor.queueWords hq
    split at ht
    · cases ht
      exact h1
    · split at ht
      · cases ht
      · next hobj =>
        cases ht
        exact h1.obj hobj

theorem State.canonical.segment {t : State} {ag : Agent} {seg : Nat} {x : Nat × Nat} (h : s.canonical)
    (ht : s.segment ag seg = .ok (t, x)) : t.canonical := by
  unfold State.segment at ht
  split at ht
  · cases ht
  · next hobj =>
    cases ht
    exact h.obj hobj

theorem State.canonical.reserve {t : State} {ag : Agent} {hdr : Nat} {x : Queue × Option Nat} (h : s.canonical)
    (ht : s.reserve ag hdr = .ok (t, x)) : t.canonical := by
  unfold State.reserve at ht
  split at ht
  · cases ht
  · next hq =>
    have h1 := h.queue hq
    split at ht
    · cases ht
      exact h1
    · split at ht
      · cases ht
      · next hseg =>
        have h2 := h1.segment hseg
        split at ht
        · cases ht
          exact h2
        · dsimp only at ht
          split at ht
          · cases ht
          · cases ht
            exact h2.putIdx

@[simp] theorem State.canonical.pushTask {ag : Agent} {hdr : Nat} {tr : W64} (h : s.canonical) : (s.pushTask ag hdr tr).canonical := by
  unfold State.pushTask
  dsimp only
  split
  · exact h.congr
  · split
    · exact h.congr
    · next hr => exact (h.reserve hr).congr
    · next hr => exact (h.reserve hr).putEntry

theorem State.canonical.headEntry {t : State} {ag : Agent} {hdr : Nat} {x : Queue × Option HeadEntry} (h : s.canonical)
    (ht : s.headEntry ag hdr = .ok (t, x)) : t.canonical := by
  unfold State.headEntry at ht
  split at ht
  · cases ht
  · next hq =>
    have h1 := h.queue hq
    split at ht
    · cases ht
      exact h1
    · split at ht
      · cases ht
      · next hseg =>
        have h2 := h1.segment hseg
        dsimp only at ht
        split at ht
        · cases ht
        · next s3 _ _ _ hstep =>
          have h3 : s3.canonical := by
            split at hstep
            · split at hstep
              · cases hstep
              · next hs2 =>
                cases hstep
                exact h2.segment hs2
            · cases hstep
              exact h2
          split at ht
          · cases ht
          · next hobj =>
            cases ht
            exact h3.obj hobj

@[simp] theorem State.canonical.returnSegment {c seg : Nat} (h : s.canonical) : (s.returnSegment c seg).canonical := by
  unfold State.returnSegment
  split
  · exact h
  · split <;> simp [h]

@[simp] theorem State.canonical.popEntry {ag : Agent} {hdr : Nat} {x : HeadEntry} (h : s.canonical) :
    (s.popEntry ag hdr x).canonical := h.putNum.putIdx.putNum.returnSegment.ite h.putNum.putIdx

@[simp] theorem State.canonical.writeImage {ag : Agent} {t : TaskCtx} {chain : List Nat} (h : s.canonical) :
    (s.writeImage ag t chain).canonical := by
  unfold State.writeImage
  split
  · exact h
  · exact h.setObj.setObj

theorem State.canonical.imageOf {t : State} {ag : Agent} {x : TaskCtx} {y : List Byte × List Byte} (h : s.canonical)
    (ht : s.imageOf ag x = .ok (t, y)) : t.canonical := by
  unfold State.imageOf at ht
  simp only [bind, Except.bind] at ht
  split at ht
  · cases ht
  · split at ht
    · cases ht
    · next hrb =>
      split at ht
      · cases ht
      · next hwb =>
        cases ht
        exact (h.obj hrb).obj hwb

@[simp] theorem State.canonical.readImage {ag : Agent} {t : TaskCtx} {chain : List Nat} (h : s.canonical) :
    (s.readImage ag t chain).1.canonical := by
  unfold State.readImage
  split
  · exact h
  · next hi => exact h.imageOf hi

theorem State.readImage_wf {ag : Agent} {t : TaskCtx} {chain : List Nat} (h : t.wf = true) :
    (s.readImage ag t chain).2.1.wf = true := by
  unfold State.readImage
  split
  · exact h
  · exact TaskCtx.ofImage_wf

theorem State.helperOf_wf {ag : Agent} {tr : Nat} {x : Helper} (hx : s.helperOf ag tr = some x) : x.task.wf = true := by
  unfold State.helperOf at hx
  split at hx
  · cases hx
  · split at hx
    · cases hx
    · dsimp only at hx
      split at hx
      · cases hx
      · split at hx
        all_goals
          cases hx
          exact TaskCtx.ofImage_wf (t := .fresh 0 0 0 0 0 false)

theorem State.chainOf_wf {ag : Agent} {known hs : List Helper} {recs : List Nat} (hk : ∀ x ∈ known, x.task.wf = true)
    (hc : s.chainOf ag known recs = some hs) : ∀ x ∈ hs, x.task.wf = true := by
  unfold State.chainOf at hc
  dsimp only at hc
  split at hc
  · cases hc
    intro x hx
    obtain ⟨y, hy, rfl⟩ := List.mem_filterMap.mp hx
    obtain ⟨a, -, ha⟩ := List.mem_map.mp hy
    split at ha
    · next hf =>
      cases ha
      exact hk _ (List.mem_of_find?_eq_some hf)
    · exact State.helperOf_wf ha
  · cases hc

@[simp] theorem State.canonical.keepTask {ag : Agent} {t : TaskCtx} {home : W64} {waits : Option W64} (h : s.canonical)
    (ht : t.wf = true) : (s.keepTask ag t home waits).canonical := by
  refine State.canonical.writeImage ?_
  exact State.canonical_iff.mpr ⟨h.mem, h.waves_wf, h.groups, h.parked_wf.append ht⟩

@[simp] theorem State.canonical.parkTask {ag : Agent} {t : TaskCtx} (h : s.canonical) (ht : t.wf = true) :
    (s.parkTask ag t).canonical := (h.keepTask ht).putState.putHelper.pushTask

theorem State.markFaulted_wf {ag : Agent} {o fut : Nat} {l : List Helper} (hl : ∀ x ∈ l, x.task.wf = true) :
    ∀ x ∈ s.markFaulted ag o fut l, x.task.wf = true := by
  induction l with
  | nil => exact fun _ hx => absurd hx List.not_mem_nil
  | cons y r ih =>
    obtain ⟨hy, hr⟩ := List.forall_mem_cons.mp hl
    have hcons : ∀ x ∈ ({ y with status := some false } : Helper) :: s.markFaulted ag o fut r, x.task.wf = true :=
      List.forall_mem_cons.mpr ⟨hy, ih hr⟩
    unfold State.markFaulted
    intro x hx
    dsimp only at hx
    generalize (fut != 0 && BitVec.toNat y.addr == fut || _) = c at hx
    cases c with
    | true => exact hcons x hx
    | false => exact hl x hx

/-! ## Tasks that end -/

@[simp] theorem State.canonical.withdraw {u : Nat} (h : s.canonical) : (s.withdraw u).canonical := by
  unfold State.withdraw
  split
  · exact h
  · dsimp only
    exact h.modGroup.modWave

@[simp] theorem State.canonical.unclaim {u : Nat} (h : s.canonical) : (s.unclaim u).canonical := by
  unfold State.unclaim
  split
  · exact h
  · split
    · exact h
    · dsimp only
      exact h.putState.putHelper.pushTask.modWave

@[simp] theorem State.canonical.keepTakes {u n : Nat} (h : s.canonical) : (s.keepTakes u n).canonical := by
  unfold State.keepTakes
  split
  · exact h
  · dsimp only
    exact (h.ite (State.modCore_canonical.mpr h)).congr

@[simp] theorem State.canonical.dropTakes {u : Nat} (h : s.canonical) : (s.dropTakes u).canonical := h.keepTakes

@[simp] theorem State.canonical.taskFault {u : Nat} {nest : Bool} (h : s.canonical) : (s.taskFault u nest).canonical := by
  unfold State.taskFault
  split
  · exact h
  · next w hw =>
    have h0 : (((s.withdraw u).dropTakes u).unclaim u).canonical := h.withdraw.dropTakes.unclaim
    have hclose (chain : List Helper) (hc : ∀ x ∈ chain, x.task.wf = true) (v : Wave) (hv : v.wf = true) :
        ({ v with task := v.task.allExited, ended := some .fault, chain := chain, exited := v.exited || (v.task.root && v.ops.isEmpty)
                  depth := 0, narm := false, saves := [], stop := none, held := [], cause := 0, tinfo := 0, taddr := 0 } : Wave).wf
          = true :=
      Wave.wf_iff.mpr ⟨(Wave.wf_iff.mp hv).1, hc, (Wave.wf_iff.mp hv).2.2⟩
    obtain ⟨-, hchain, -⟩ := Wave.wf_iff.mp (h.wf_of_wave hw)
    have h1 (l : Nat) := (State.modLaunch_canonical (l := l) (f := fun x => { x with nest := true }) |>.mpr h0).ite (c := nest = true) h0
    dsimp only
    split
    · exact (State.modLaunch_canonical.mpr (h1 _)).putState.modWave (hclose _ hchain)
    · split
      · exact (h1 _).modWave (hclose _ hchain)
      · next s2 r hrec =>
        have h3 := ((h1 _).taskRec hrec).putNum (ag := s.agentOf w.group) (a := w.task.record.toNat + 0x20) (n := 4)
          (v := r.state / 16 * 16 + 6)
        refine State.canonical.modWave ?_ (hclose _ (State.markFaulted_wf hchain))
        split
        · exact (h3.ite h3.release.putNum).modLaunch
        · exact h3.ite h3.release.putNum

@[simp] theorem State.canonical.taskDone {u : Nat} (h : s.canonical) : (s.taskDone u).canonical := by
  unfold State.taskDone
  split
  · exact h
  · dsimp only
    exact h.putState.putHelper.dropTakes.modWave

end

end Sys2Proof.Machine

/-! PROOFS. The canonical form is kept by issue, by the precise stop, by asynchronous errors, by traps and the return from
them, and by the release of waits. -/

namespace Sys2Proof.Machine

set_option Elab.async false

/-- A step that goes on to a state in canonical form. -/
def Goes (o : Out) : Prop := ∃ t, o = .next t ∧ t.canonical

/-- What an instruction's check or body makes of the state is in canonical form, where it is no precise cause. -/
def Keeps (x : Except Bad State) : Prop := ∀ t, x = .ok t → t.canonical

@[simp] theorem goes_next {t : State} : Goes (.next t) ↔ t.canonical :=
  ⟨fun ⟨_, he, h⟩ => by cases he; exact h, fun h => ⟨t, rfl, h⟩⟩

@[simp] theorem keeps_ok {t : State} : Keeps (.ok t) ↔ t.canonical :=
  ⟨fun h => h t rfl, fun h _ he => by cases he; exact h⟩

@[simp] theorem keeps_error {b : Bad} : Keeps (.error b) := fun _ he => by cases he

theorem Goes.andThen {o : Out} {f : State → Out} (h : Goes o) (hf : ∀ s, s.canonical → Goes (f s)) : Goes (andThen o f) := by
  obtain ⟨t, rfl, ht⟩ := h
  exact hf t ht

section
variable {s : State}

theorem State.canonical.env_wf (h : s.canonical) {g : Guard} {e : Env} (he : s.env g = some e) : e.w.wf = true :=
  h.wf_of_wave (State.wave_of_env he)

/-! ## The precise stop -/

@[simp] theorem State.canonical.goViral {c : Nat} (h : s.canonical) : (s.goViral c).canonical := State.goViral_canonical.mpr h

@[simp] theorem State.canonical.stopWave {u : Nat} {r : TrapReq} (h : s.canonical) : (s.stopWave u r).canonical := by
  have h1 : (s.modWave u (fun w => if w.stop.isSome then w else { w with stop := some r })).canonical := by
    refine h.modWave fun w hw => ?_
    split
    · exact hw
    · exact hw
  unfold State.stopWave
  dsimp only
  split
  · split
    · exact h1.goViral
    · exact h1
  · exact h1

@[simp] theorem State.canonical.stopAt {e : Env} {f : Option Nat} {b : Bad} (h : s.canonical) : (s.stopAt e f b).canonical :=
  h.modWave.stopWave

@[simp] theorem State.canonical.next {e : Env} {i : Instr} (h : s.canonical) : (s.next e i).canonical :=
  h.modWave fun _ hw => Wave.next_wf.trans hw

theorem State.canonical.ceiling {e : Env} {sc : Scope} {n : Nat} (h : s.canonical) : Keeps (s.ceiling e sc n) := by
  unfold State.ceiling
  split
  · exact keeps_ok.mpr h
  · split
    · split
      · exact keeps_error
      · exact keeps_ok.mpr h.modWave
    · exact keeps_ok.mpr h

/-! ## Issue -/

theorem goes_runShort {i : Instr} {g : Guard} {dsts srcs : List (Opd × Nat)} {adv : Bool} {body : Env → Except Bad State}
    {rd : Env → W32} {e : Env} (h : s.canonical) (he : s.env g = some e) (hb : Keeps (body e)) :
    Goes (runShort i g dsts srcs adv s body rd) := by
  unfold runShort
  simp only [he]
  split
  · exact goes_next.mpr h.next
  · split
    · exact goes_next.mpr h
    · split
      · exact goes_next.mpr h.stopAt
      · next t ht =>
        have h1 := hb t ht
        split
        · exact goes_next.mpr h.stopAt
        · exact goes_next.mpr (h1.next.ite h1)

theorem goes_issueWith {i : Instr} {g : Guard} {fs : FlagSel} {caps dsts : List (Opd × Nat)} {stall : Env → Bool}
    {pre : Env → Except Bad State} {post : Env → Nat → State → State} {rd : Env → W32} {e : Env} (h : s.canonical)
    (he : s.env g = some e) (hp : Keeps (pre e)) (hpost : ∀ n t, t.canonical → (post e n t).canonical) :
    Goes (issueWith i g fs caps dsts s stall pre post rd) := by
  unfold issueWith
  simp only [he]
  split
  · exact goes_next.mpr h.next
  · split
    · exact goes_next.mpr h
    · split
      · exact goes_next.mpr h.stopAt
      · next t ht =>
        have h1 := hp t ht
        split
        · exact goes_next.mpr h.stopAt
        · split
          · exact goes_next.mpr h1.next
          · exact goes_next.mpr (hpost _ _ (h1.takeUid.modWave (by exact fun _ hw => Wave.raise_wf.trans hw)).next)

theorem goes_issueLong {i : Instr} {g : Guard} {fs : FlagSel} {caps dsts : List (Opd × Nat)} {stall : Env → Bool}
    {pre : Env → Except Bad State} {rd : Env → W32} {e : Env} (h : s.canonical) (he : s.env g = some e) (hp : Keeps (pre e)) :
    Goes (issueLong i g fs caps dsts s stall pre rd) := goes_issueWith h he hp fun _ _ ht => ht

theorem goes_setWave {i : Instr} {g : Guard} {dsts srcs : List (Opd × Nat)} {adv : Bool} {f : Env → Wave} {rd : Env → W32} {e : Env}
    (h : s.canonical) (he : s.env g = some e) (hf : e.w.wf = true → (f e).wf = true) :
    Goes (runShort i g dsts srcs adv s (fun e => .ok (s.setWave e.u (f e))) rd) :=
  goes_runShort h he (keeps_ok.mpr (h.setWave (hf (h.env_wf he))))

theorem goes_run32 {i : Instr} {g : Guard} {d : Opd} {srcs : List (Opd × Nat)} {f : Wave → Nat → W32} {e : Env} (h : s.canonical)
    (he : s.env g = some e) : Goes (run32 i g d srcs s f) := goes_setWave h he fun hw => Wave.wrPart_wf hw

theorem goes_run64 {i : Instr} {g : Guard} {d : Opd} {srcs : List (Opd × Nat)} {f : Wave → Nat → W64} {e : Env} (h : s.canonical)
    (he : s.env g = some e) : Goes (run64 i g d srcs s f) := goes_setWave h he fun hw => Wave.wrN_wf hw

theorem goes_runPred {i : Instr} {g : Guard} {pd : Fin 8} {srcs : List (Opd × Nat)} {f : Wave → Nat → Bool} {e : Env}
    (h : s.canonical) (he : s.env g = some e) : Goes (runPred i g pd srcs s f) := goes_setWave h he fun hw => Wave.setPreds_wf hw

/-! ## Asynchronous errors -/

theorem State.canonical.reportAt {t : State} {u : Nat} {q : AsyncErr → Bool} (h : s.canonical) (ht : s.reportAt u q = some t) :
    t.canonical := by
  unfold State.reportAt at ht
  split at ht
  · cases ht
  · split at ht
    · cases ht
    · split at ht
      · cases ht
      · cases ht
        exact h.modWave.stopWave

theorem State.canonical.reportHere {t : State} {e : Env} {q : AsyncErr → Bool} (h : s.canonical) (ht : s.reportHere e q = some t) :
    t.canonical := by
  obtain ⟨r, hr, rfl⟩ := Option.map_eq_some_iff.mp ht
  exact (h.reportAt hr).modWave

@[simp] theorem State.canonical.pollAsync {u : Nat} (h : s.canonical) : (s.pollAsync u).canonical := by
  unfold State.pollAsync
  split
  · exact h
  · split
    · exact h
    · cases hf : List.findSome? _ _ with
      | none => exact h
      | some t =>
        obtain ⟨n, -, hn⟩ := List.exists_of_findSome?_eq_some hf
        dsimp only at hn
        split at hn
        · split at hn
          · exact h.reportAt hn
          · cases hn
        · cases hn

@[simp] theorem State.canonical.addAsync {u : Nat} {x : AsyncErr} (h : s.canonical) : (s.addAsync u x).canonical := by
  refine State.canonical.pollAsync (h.modWave fun w hw => ?_)
  split
  · exact hw
  · exact hw

/-! ## Operations that complete or are held -/

@[simp] theorem State.canonical.endOp {u id : Nat} (h : s.canonical) : (s.endOp u id).canonical := by
  refine h.modWave fun w hw => ?_
  split
  · exact Wave.opDone_wf.trans hw
  · exact hw

@[simp] theorem State.canonical.holdOp {u : Nat} {o : Op} {b : Bad} (h : s.canonical) : (s.holdOp u o b).canonical :=
  h.stopWave.modWave fun _ hw => Wave.lowerFor_wf.trans hw

/-! ## Traps, and the return from them -/

@[simp] theorem State.canonical.takeTrap {u : Nat} (h : s.canonical) : (s.takeTrap u).canonical := by
  unfold State.takeTrap
  split
  · exact h
  · split
    · exact h
    · split
      · exact h.modWave
      · split
        · exact h.taskFault
        · dsimp only
          split
          · exact h.taskFault
          · split
            · exact h.taskFault
            · exact h.setObj.modWave

@[simp] theorem State.canonical.settleClaim {u : Nat} (h : s.canonical) : (s.settleClaim u).canonical := by
  unfold State.settleClaim
  split
  · exact h
  · exact h.ite h.unclaim

@[simp] theorem State.canonical.leaveTrap {u : Nat} (h : s.canonical) : (s.leaveTrap u).canonical := by
  unfold State.leaveTrap
  split
  · exact h
  · next w0 hw0 =>
    dsimp only
    split
    · exact h.taskFault
    · next s1 bs hframe =>
      have h1 : s1.canonical := by
        split at hframe
        · cases hframe
        · exact h.obj hframe
      have hw : ((s1.wave u).getD w0).wf = true := by
        cases hs1 : s1.wave u with
        | none => exact h.wf_of_wave hw0
        | some w => exact h1.wf_of_wave hs1
      split
      · next w' ch hw' hch =>
        have hv : ({ w' with chain := ch, task := { w'.task with record := BitVec.ofNat 64 (frameChain bs).1 } } : Wave).wf = true := by
          obtain ⟨ht, -, hr⟩ := Wave.wf_iff.mp (Wave.fromFrame_wf hw hw')
          exact Wave.wf_iff.mpr ⟨ht, State.chainOf_wf (Wave.wf_iff.mp hw).2.1 hch, hr⟩
        split
        · exact h.taskFault
        · split
          · exact h
          · refine State.canonical.settleClaim (State.canonical.keepTakes (State.canonical.modCore ?_))
            exact (h1.setWave hv).congr
      · exact h.taskFault

/-! ## Waits -/

@[simp] theorem State.canonical.evalWait {u : Nat} {st : BitVec 8} (h : s.canonical) : (s.evalWait u st).canonical := by
  have hgo : (s.modWave u (fun w => w.resume st)).canonical := h.modWave fun _ hw => Wave.resume_wf.trans hw
  unfold State.evalWait
  split
  · exact h
  · next w hw =>
    split
    · exact h
    · dsimp only
      split
      · exact h.ite hgo.acquire
      · exact h.ite hgo
      · split
        · exact h
        · split
          · next ht => exact h.setWave (Wave.transfer_wf (h.wf_of_wave hw) ht)
          · exact h
      · exact h.ite hgo.acquire
      · split
        · exact hgo.modCore.acquire.ite h
        · exact h
      · exact h

@[simp] theorem State.canonical.wakeStrands {u : Nat} (h : s.canonical) : (s.wakeStrands u).canonical := by
  unfold State.wakeStrands
  split
  · exact h
  · exact (h.foldl fun s n hs => hs.evalWait).ite h

@[simp] theorem State.canonical.settleGang {u : Nat} (h : s.canonical) : (s.settleGang u).canonical := by
  unfold State.settleGang
  split
  · exact h
  · next w hw =>
    have hwf := h.wf_of_wave hw
    dsimp only
    split
    · exact h
    · split
      · split
        · exact (h.setWave (by exact hwf)).leaveTrap.wakeStrands.pollAsync
        · exact h.setWave (Wave.resume_wf.trans hwf)
      · split
        · exact h
        · exact h.setWave (Wave.openWide_wf.trans hwf)
        · exact (h.setWave (by exact hwf)).stopWave

@[simp] theorem State.canonical.wake {u : Nat} (h : s.canonical) : (s.wake u).canonical := h.wakeStrands.settleGang

@[simp] theorem State.canonical.wakeGroup {g : Nat} (h : s.canonical) : (s.wakeGroup g).canonical := h.foldl fun _ _ hs => hs.wake

@[simp] theorem State.canonical.waitIn {e : Env} {x : Wait} (h : s.canonical) : (s.waitIn e x).canonical := h.modWave.wake

theorem goes_runWait {i : Instr} {g : Guard} {dsts srcs : List (Opd × Nat)} {body : Env → Except Bad State} {e : Env}
    (h : s.canonical) (he : s.env g = some e) (hb : Keeps (body e)) : Goes (runWait i g dsts srcs s body) := by
  unfold runWait
  simp only [he]
  split
  · next t ht =>
    split at ht
    · cases ht
    · exact goes_next.mpr (h.reportHere ht)
  · exact goes_runShort h he hb

theorem goes_runOrdered {i : Instr} {g : Guard} {dsts srcs : List (Opd × Nat)} {adv : Bool} {body : Env → Except Bad State} {e : Env}
    (h : s.canonical) (he : s.env g = some e) (hb : Keeps (body e)) : Goes (runOrdered i g dsts srcs adv s body) := by
  unfold runOrdered
  simp only [he]
  split
  · exact goes_next.mpr h
  · exact goes_runShort h he hb

theorem goes_runWaitOrdered {i : Instr} {g : Guard} {srcs : List (Opd × Nat)} {body : Env → Except Bad State} {e : Env}
    (h : s.canonical) (he : s.env g = some e) (hb : Keeps (body e)) : Goes (runWaitOrdered i g srcs s body) := by
  unfold runWaitOrdered
  simp only [he]
  split
  · exact goes_next.mpr h
  · exact goes_runWait h he hb

end

end Sys2Proof.Machine

/-! PROOFS. The canonical form is kept by the arithmetic of a lane, by transfers, merging, wide regions, exits and traps. -/

namespace Sys2Proof.Machine

set_option Elab.async false

theorem Keeps.ite {c : Prop} [Decidable c] {x y : Except Bad State} (hx : Keeps x) (hy : Keeps y) : Keeps (if c then x else y) := by
  split
  · exact hx
  · exact hy

theorem Goes.ite {c : Prop} [Decidable c] {x y : Out} (hx : Goes x) (hy : Goes y) : Goes (if c then x else y) := by
  split
  · exact hx
  · exact hy

section
variable {s : State} {g : Guard} {e : Env}

/-! ## Arithmetic of a lane -/

theorem goes_runChecked {i : Instr} {d : Opd} {srcs : List (Opd × Nat)} {res : Wave → Nat → W32} {bad : Wave → Nat → W32 → Option Nat}
    (h : s.canonical) (he : s.env g = some e) : Goes (runChecked i g d srcs s res bad) := by
  unfold runChecked
  simp only [he]
  split
  all_goals
    refine goes_runShort (by exact h.congr) he ?_
    split
    · exact keeps_error
    · exact keeps_ok.mpr (State.canonical.setWave (by exact h.congr) (Wave.wrPart_wf (h.env_wf he)))

theorem goes_runPick {i : Instr} {d a b : Opd} {ty : Ty} {seg : Seg} {src : Nat → Nat → Nat → Nat} (h : s.canonical)
    (he : s.env g = some e) : Goes (runPick i g d a b ty seg s src) := goes_setWave h he fun hw => Wave.wrN_wf hw

theorem goes_execSel {d a b : Opd} (h : s.canonical) (he : s.env g = some e) : Goes (execSel g d a b s) := by
  refine goes_runShort h he ?_
  dsimp only
  split
  · exact keeps_error
  · exact keeps_ok.mpr (h.setWave (Wave.wrPart_wf (h.env_wf he)))

theorem goes_execPset {a : Opd} (h : s.canonical) (he : s.env g = some e) : Goes (execPset g a s) :=
  goes_setWave h he fun hw =>
    List.foldlRecOn (motive := fun w : Wave => w.wf = true) _ _ hw fun _ hv _ _ => Wave.setPreds_wf hv

theorem goes_execCvt {d a : Opd} {dty sty : Ty} {rnd : Rnd} {sat : Bool} (h : s.canonical) (he : s.env g = some e) :
    Goes (execCvt g d a dty sty rnd sat s) := by
  refine Goes.ite ?_ (Goes.ite ?_ ?_)
  · exact goes_setWave h he fun hw => Wave.wrPart_wf hw
  · exact goes_setWave h he fun hw => Wave.wrN_wf hw
  · exact goes_setWave h he fun hw => Wave.wrN_wf hw

theorem goes_execCvtHad {d a b c : Opd} {dty : Ty} {rnd : Rnd} {sat inv : Bool} {fs : FlagSel} (h : s.canonical)
    (he : s.env g = some e) : Goes (execCvtHad g d a b c dty rnd sat inv fs s) := by
  refine goes_issueLong h he ?_
  split
  · exact keeps_ok.mpr h
  · refine Keeps.ite keeps_error (Keeps.ite keeps_error ?_)
    split
    · exact keeps_error
    · exact keeps_ok.mpr h

/-! ## Transfers -/

theorem State.canonical.transfer {i : Instr} {tgt : Nat → Nat} {ind : Bool} (h : s.canonical) : Keeps (s.transfer e i tgt ind) := by
  unfold State.transfer
  split
  · exact keeps_ok.mpr h
  · next w hw =>
    split
    · exact keeps_error
    · next ht => exact keeps_ok.mpr (h.setWave (Wave.transfer_wf (h.wf_of_wave hw) ht))

theorem goes_execBr {off : BitVec 21} (h : s.canonical) (he : s.env g = some e) : Goes (execBr g off s) :=
  goes_runShort h he (keeps_error.ite h.transfer)

theorem goes_execCall {off : BitVec 21} (h : s.canonical) (he : s.env g = some e) : Goes (execCall g off s) :=
  goes_runShort h he (keeps_error.ite (h.setWave (Wave.wrN_wf (h.env_wf he))).transfer)

theorem State.canonical.indirect {i : Instr} {a : Opd} (h : s.canonical) : Keeps (s.indirect e i a) := by
  refine Keeps.ite keeps_error ?_
  split
  · exact keeps_error
  · next t ht =>
    split
    · exact keeps_error
    · exact keeps_ok.mpr (h.transfer t ht)

theorem goes_execJmpi {a : Opd} (h : s.canonical) (he : s.env g = some e) : Goes (execJmpi g a s) := goes_runShort h he h.indirect

theorem goes_execRet {a : Opd} (h : s.canonical) (he : s.env g = some e) : Goes (execRet g a s) := goes_runShort h he h.indirect

theorem goes_execCalli {d a : Opd} (h : s.canonical) (he : s.env g = some e) : Goes (execCalli g d a s) := by
  refine goes_runShort h he (State.canonical.indirect (h.setWave ?_))
  exact Wave.wrN_wf (h.env_wf he)

/-! ## Merging and wide regions -/

@[simp] theorem Wave.closeWide_wf {w : Wave} {st : BitVec 8} {v : List WideSave} : (w.closeWide st v).wf = w.wf := rfl

theorem goes_execRegang (h : s.canonical) (he : s.env g = some e) : Goes (execRegang g s) :=
  goes_runShort h he (keeps_error.ite ((keeps_ok.mpr h.next).ite (keeps_ok.mpr h.waitIn)))

theorem goes_execWide (h : s.canonical) (he : s.env g = some e) : Goes (execWide g s) :=
  goes_runShort h he (keeps_error.ite (keeps_error.ite (keeps_ok.mpr h.waitIn)))

theorem goes_execEndwide (h : s.canonical) (he : s.env g = some e) : Goes (execEndwide g s) := by
  refine goes_runShort h he (keeps_error.ite ?_)
  split
  · exact keeps_error
  · refine keeps_ok.mpr (State.canonical.wake (h.setWave ?_))
    rw [Wave.clauseStep_wf, Wave.closeWide_wf]
    exact h.env_wf he

theorem goes_execWbase {a : Opd} {add : Bool} (h : s.canonical) (he : s.env g = some e) : Goes (execWbase g a add s) := by
  refine goes_runShort h he ?_
  dsimp only
  split
  · exact keeps_error
  · exact keeps_ok.mpr (h.setWave (h.env_wf he))

/-! ## Exit -/

@[simp] theorem State.canonical.unlatch {a : Arrival} {b : Bad} (h : s.canonical) : (s.unlatch a b).canonical := by
  have hgone (w : Wave) (o : Op) (hw : w.wf = true) :
      ({ w.lowerFor o o.undone with ops := w.ops.filter (fun x => x.id != o.id) } : Wave).wf = true :=
    (Wave.wf_congr rfl rfl rfl).trans (Wave.lowerFor_wf.trans hw)
  unfold State.unlatch
  split
  · exact h
  · split
    · exact h
    · dsimp only
      split
      · exact h.modWave (by exact fun w hw => (Wave.wf_congr rfl rfl rfl).trans (hgone w _ hw))
      · exact (h.modWave (by exact fun w hw => hgone w _ hw)).stopWave

@[simp] theorem State.canonical.untake {u : Nat} {b : Bad} (h : s.canonical) : (s.untake u b).canonical := by
  unfold State.untake
  split
  · exact h
  · dsimp only
    split
    · exact h.dropTakes.modWave
    · exact (h.dropTakes.modWave.modWave (by exact fun _ hw => hw)).stopWave

@[simp] theorem State.canonical.tokServe {k : Nat} (h : s.canonical) : (s.tokServe k).canonical := by
  unfold State.tokServe
  split
  · exact h.modCore.wakeGroup
  · exact h

@[simp] theorem State.canonical.dissolveCrew {u : Nat} (h : s.canonical) : (s.dissolveCrew u).canonical := by
  unfold State.dissolveCrew
  split
  · exact h
  · split
    · exact h
    · next x hx =>
      split
      · exact h
      · next c crew hcrew =>
        dsimp only
        have h2 (t : State) (ht : t.canonical) : (match x.core with | some k => t.tokServe k | none => t).canonical := by
          split
          · exact ht.tokServe
          · exact ht
        refine h2 _ (State.canonical.foldl (State.canonical.foldl ?_ fun t a ht => ht.ite ht.unlatch) fun t a ht => ht.untake.ite ht)
        split
        · exact h.modGroup (by exact fun _ hy => hy)
        · exact (h.modGroup (by exact fun _ hy => hy)).modCore

@[simp] theorem State.canonical.barComplete {x bar : Nat} (h : s.canonical) : (s.barComplete x bar).canonical :=
  (h.modGroup (by exact fun _ hx => hx)).wakeGroup

@[simp] theorem State.canonical.settleB0 {x : Nat} (h : s.canonical) : (s.settleB0 x).canonical := by
  unfold State.settleB0
  split
  · exact h
  · split
    · exact h
    · exact h.barComplete.ite h

@[simp] theorem State.canonical.waveGone {u x : Nat} (h : s.canonical) : (s.waveGone u x).canonical := h.dissolveCrew.settleB0.wakeGroup

@[simp] theorem State.canonical.exitLanes {i : Instr} (h : s.canonical) (hw : e.w.wf = true) : (s.exitLanes e i).canonical := by
  have hexit (f : Nat → SliceSt → SliceSt) : (s.setWave e.u ((e.w.modSlicesI e.st f).reStrand.clauseStep e.st)).canonical :=
    h.setWave (Wave.clauseStep_wf.trans hw)
  unfold State.exitLanes
  dsimp only
  split
  · exact (hexit _).wake
  · exact (hexit _).taskDone.waveGone.ite (hexit _).taskDone

@[simp] theorem State.canonical.ifGone {u x : Nat} (h : s.canonical) : (s.ifGone u x).canonical := h.waveGone.ite h

theorem goes_execExit (h : s.canonical) (he : s.env g = some e) : Goes (execExit g s) :=
  goes_runWait h he ((keeps_ok.mpr h.next).ite (keeps_error.ite
    ((keeps_ok.mpr h.taskFault.ifGone).ite (keeps_ok.mpr (h.exitLanes (h.env_wf he))))))

/-! ## Traps, breakpoints and instruction caches -/

theorem goes_execTrap {a : Opd} (h : s.canonical) (he : s.env g = some e) : Goes (execTrap g a s) := by
  refine goes_runShort h he ?_
  split
  · exact keeps_ok.mpr h
  · exact keeps_ok.mpr h.stopAt

theorem goes_execTrapret (h : s.canonical) (he : s.env g = some e) : Goes (execTrapret g s) :=
  goes_runShort h he ((keeps_ok.mpr h.next).ite (keeps_error.ite (keeps_ok.mpr h.waitIn)))

theorem goes_execBrk (h : s.canonical) (he : s.env g = some e) : Goes (execBrk g s) :=
  goes_runShort h he ((keeps_ok.mpr h).ite ((keeps_ok.mpr h.modWave).ite (keeps_ok.mpr h.stopAt)))

theorem goes_execIfence (h : s.canonical) (he : s.env g = some e) : Goes (execIfence g s) :=
  goes_runShort h he (keeps_ok.mpr (h.ite h.modWave))

theorem goes_execIcinv {a b : Opd} {fs : FlagSel} (h : s.canonical) (he : s.env g = some e) : Goes (execIcinv g a b fs s) := by
  refine goes_issueWith h he ?_ fun n t ht => ht.endOp.ite ht
  split
  · exact keeps_ok.mpr h
  · exact keeps_error.ite (keeps_ok.mpr h)

@[simp] theorem State.canonical.dropIcache {asid a n : Nat} (h : s.canonical) : (s.dropIcache asid a n).canonical := h.congr

theorem goes_execYieldto {a b c : Opd} (h : s.canonical) (he : s.env g = some e) : Goes (execYieldto g a b c s) := by
  refine goes_runWaitOrdered h he ?_
  dsimp only
  split
  · exact keeps_ok.mpr h.next
  · refine keeps_error.ite ?_
    split
    · exact keeps_error
    · refine keeps_error.ite (keeps_error.ite ?_)
      split
      · exact keeps_error
      · exact keeps_ok.mpr h.waitIn

end

end Sys2Proof.Machine

/-! PROOFS. The canonical form is kept by memory instructions: issue, prefetches, scratchpads, windows, and the access of a
lane. -/

namespace Sys2Proof.Machine

set_option Elab.async false

section
variable {s : State} {g : Guard} {e : Env} {ag : Agent}

/-! ## Scratchpads and windows -/

@[simp] theorem State.canonical.spadWrite {x a : Nat} {bs : List Byte} (h : s.canonical) : (s.spadWrite x a bs).canonical :=
  (h.modGroup (by exact fun _ hy => Group.wf_iff.mpr ⟨Store.wf_setBytes _ _ _ (Group.wf_iff.mp hy).1, (Group.wf_iff.mp hy).2⟩)).foldl
    fun _ _ hs => hs.wake

@[simp] theorem State.canonical.modRemote {key m : Nat} {f : Remote → Remote} (h : s.canonical) : (s.modRemote key m f).canonical :=
  h.congr

@[simp] theorem State.canonical.windowWrite {x ctx m off : Nat} {bs : List Byte} (h : s.canonical) :
    (s.windowWrite x ctx m off bs).canonical := by
  unfold State.windowWrite
  split
  · exact h.spadWrite
  · exact h.ite h.modRemote
  · exact h

@[simp] theorem State.canonical.noteMember {x m : Nat} (h : s.canonical) : (s.noteMember x m).canonical := by
  unfold State.noteMember
  split
  · exact h.noteWait
  · exact h

@[simp] theorem State.canonical.windowClean {x ctx m p : Nat} (h : s.canonical) : (s.windowClean x ctx m p).canonical := by
  unfold State.windowClean
  split
  · exact h.modGroup
  · exact h.ite h.modRemote
  · exact h

/-! ## Issue -/

theorem goes_issueMem {i : Instr} {fs : FlagSel} {caps dsts : List (Opd × Nat)} (h : s.canonical) (he : s.env g = some e) :
    Goes (issueMem i g fs caps dsts s) := by
  refine goes_issueLong h he ?_
  split
  · exact keeps_ok.mpr h
  · split
    · exact keeps_error
    · refine (keeps_ok.mpr h).ite ?_
      split
      · exact keeps_error
      · next t ht =>
        split
        · exact keeps_error
        · exact keeps_ok.mpr (h.ceiling t ht)

theorem goes_execPrefetch {a b : Opd} {lvl : PfLevel} (h : s.canonical) (he : s.env g = some e) :
    Goes (execPrefetch g a b lvl s) := by
  refine goes_runShort h he (keeps_ok.mpr (h.foldl fun t l ht => ?_))
  dsimp only
  refine ht.ite ?_
  split
  · exact ht
  · refine ht.tlbFill.foldl fun v q hv => hv.ite ?_
    split
    · exact hv.readAt.ite hv
    · exact (hv.cohPull.ite hv).mscFill

/-! ## Performance -/

theorem Wave.wrOp_wf {w : Wave} {o : Op} {k : Nat} {d : Opd} {lanes : W32} {f : Nat → W128} (h : w.wf = true) :
    (w.wrOp o k d lanes f).wf = true := by
  unfold Wave.wrOp
  rw [Wave.modSlicesI_wf]
  exact Wave.wrN_wf (Wave.modSlicesI_wf.trans h)

@[simp] theorem State.canonical.atomGo {pt : Point} {p : Place} {va : Nat} (h : s.canonical) : (s.atomGo ag pt p va).1.canonical := by
  unfold State.atomGo
  split
  · dsimp only
    exact h.settle
  · exact h

@[simp] theorem State.canonical.farAt {p : Place} {at_ : Attr} (h : s.canonical) : (s.farAt p at_).1.canonical := by
  unfold State.farAt
  split
  · split
    · exact h
    · exact h.congr
  · exact h

@[simp] theorem State.canonical.atomicVa {o : Op} {a : Acc} {l : Nat} (h : s.canonical) : (s.atomicVa ag o a l).1.canonical := by
  unfold State.atomicVa
  dsimp only
  split
  · exact h
  · next p at_ _ =>
    split
    · exact h
    · have h0 : ((s.tlbFill ag (o.addr l)).l1Drop ag (o.addr l)).canonical := State.l1Drop_canonical.mpr h.tlbFill
      have h1 : (if a.far then (p.sectors.foldl (fun s q => s.l2Flush ag.cluster q)
          ((s.tlbFill ag (o.addr l)).l1Drop ag (o.addr l))).farAt p at_
          else ((s.tlbFill ag (o.addr l)).l1Drop ag (o.addr l), at_)).1.canonical := by
        split
        · exact (h0.foldl fun _ _ ht => ht.l2Flush).farAt
        · exact h0
      split
      · exact h1.atomGo.readAt.writeAt
      · exact h1.atomGo.readAt

@[simp] theorem State.canonical.constRead {y : VSector} {x n : Nat} (h : s.canonical) : (s.constRead ag y x n).1.canonical := by
  unfold State.constRead
  dsimp only
  split
  · exact h
  · split
    · exact h
    · exact h.congr

@[simp] theorem State.canonical.performLane {x : Nat} {o : Op} {a : Acc} {l : Nat} (h : s.canonical) :
    (s.performLane ag x o a l).1.canonical := by
  unfold State.performLane
  dsimp only
  split
  · exact h.loadVa
  · split
    · exact h.constRead
    · split
      · exact h
      · exact State.ccFill_canonical.mpr h.tlbFill.readAt
  · exact h.storeVa
  · exact h.atomicVa
  · exact h
  · exact h.spadWrite
  · split
    · exact h.spadWrite
    · exact h
  · exact h.noteMember
  · exact h.noteMember.windowWrite
  · exact h

@[simp] theorem State.canonical.performLanes {x : Nat} {o : Op} {a : Acc} {ls : List Nat} (h : s.canonical) :
    (s.performLanes ag x o a ls).1.canonical := by
  induction ls generalizing s with
  | nil => exact h
  | cons l ls ih => exact ih h.performLane

@[simp] theorem State.canonical.performMem {u x : Nat} {o : Op} {a : Acc} {lanes : W32} (h : s.canonical) :
    (s.performMem u ag x o a lanes).canonical := by
  unfold State.performMem
  dsimp only
  have h1 : ((if s.releasing ag x o a lanes then s.before ag a.order (s.capScope ag.ctx a.eff) else s).performLanes ag x o a
      (bitsOf lanes)).1.canonical := (h.before.ite h).performLanes
  generalize ((if s.releasing ag x o a lanes then s.before ag a.order (s.capScope ag.ctx a.eff) else s).performLanes ag x o a
    (bitsOf lanes)) = r at h1 ⊢
  obtain ⟨t, vs⟩ := r
  have ht : t.canonical := h1
  have h2 {sc : Scope} : (if a.kind ≠ .store ∨ o.todo &&& ~~~lanes ≠ 0 then t
      else if a.space = .spad then t.modGroup x (fun x => { x with spadPoison := x.spadPoison.filter (fun p => !o.covers a.n p) })
      else if a.space = .glob then (o.wholes a.n).foldl (fun s p => s.cleanVa ag (64 * p) sc) t
      else (o.wholes a.n).foldl (fun s p => s.windowClean x ag.ctx (p / 2 ^ 15) (p % 2 ^ 15)) t).canonical :=
    ht.ite ((ht.modGroup (by exact fun _ hy => hy)).ite ((ht.foldl fun _ _ hs => hs.cleanVa).ite
      (ht.foldl fun _ _ hs => hs.windowClean)))
  have hw (w : Wave) (got : W32) (f : Nat → W128) (hv : w.wf = true) : Wave.wf (match o.dst with
      | (d, k) :: _ => w.wrOp o k d got f
      | [] => w) = true := by
    split
    · exact Wave.wrOp_wf hv
    · exact hv
  have h3 {sc : Scope} (got : W32) (f : Nat → W128) := (h2 (sc := sc)).modWave (u := u) fun w hv => hw w got f hv
  exact (h3 _ _).ite (h3 _ _).after

end

end Sys2Proof.Machine

/-! PROOFS. The canonical form is kept by fences, barriers, barrier objects and EMBER slots. -/

namespace Sys2Proof.Machine

set_option Elab.async false

section
variable {s : State} {g : Guard} {e : Env} {ag : Agent}

/-! ## Fences and named barriers -/

theorem goes_execFence {o : Order} {sc : Scope} (h : s.canonical) (he : s.env g = some e) : Goes (execFence g o sc s) := by
  unfold execFence
  simp only [he]
  split
  · next t ht =>
    split at ht
    · cases ht
    · exact goes_next.mpr (h.reportHere ht)
  · refine goes_runOrdered h he ?_
    split
    · exact keeps_error
    · next t ht =>
      have ht := h.ceiling t ht
      exact keeps_ok.mpr (ht.ite ht.before.after)

@[simp] theorem State.canonical.gateArrive {bar : Fin 16} {n : Nat} (h : s.canonical) : (s.gateArrive e bar n).canonical := by
  have h1 := (h.release (ag := e.ag) (sc := .core)).modGroup (g := e.w.group)
    (f := fun x => { x with bars := modAt x.bars bar.val (fun b => ⟨n, b.count + 1, b.phase⟩) })
  unfold State.gateArrive
  exact h1.barComplete.ite h1

theorem goes_execGatePass {a : Opd} {bar : Fin 16} (h : s.canonical) (he : s.env g = some e) : Goes (execGatePass g a bar s) := by
  refine goes_runOrdered h he ?_
  split
  · exact keeps_error
  · exact keeps_ok.mpr h
  · exact keeps_ok.mpr h.gateArrive

theorem goes_execGateWait {a : Opd} {bar : Fin 16} (h : s.canonical) (he : s.env g = some e) : Goes (execGateWait g a bar s) := by
  refine goes_runWaitOrdered h he ?_
  split
  · exact keeps_error
  · exact keeps_ok.mpr h.next
  · exact keeps_ok.mpr h.gateArrive.waitIn

/-! ## Barrier objects -/

@[simp] theorem State.canonical.putBobj {x a : Nat} {o : BObj} (h : s.canonical) : (s.putBobj x a o).canonical := h.spadWrite

@[simp] theorem State.canonical.bobjArrive {x a : Nat} (h : s.canonical) : (s.bobjArrive x a).canonical :=
  (h.bumpFresh.ite h).putBobj

@[simp] theorem State.canonical.overrun {ids : List Nat} (h : s.canonical) : (s.overrun ids).canonical := h.congr

@[simp] theorem State.canonical.bobjDeliver {x a n : Nat} {ids : List Nat} (h : s.canonical) : (s.bobjDeliver x a n ids).canonical :=
  (h.overrun.ite h).putBobj

@[simp] theorem State.canonical.changeNow {c : Change} (h : s.canonical) : (s.changeNow c).canonical := by
  cases c with
  | post => exact h.putBobj
  | deliver => exact h.bobjDeliver
  | arrive => exact h.bobjArrive
  | take =>
    unfold State.changeNow
    exact h.modCore

@[simp] theorem State.canonical.change {c : Change} (h : s.canonical) : (s.change c).canonical := by
  unfold State.change
  split
  · exact h.congr
  · exact h.changeNow

@[simp] theorem State.canonical.endObject {l : List Change} {x : Nat × Nat} (h : s.canonical) : (s.endObject l x).canonical := by
  have h1 {c : Prop} [Decidable c] : (if c then s.changeNow (.post x.1 x.2 (postedAt x.1 x.2 l)) else s).canonical := h.changeNow.ite h
  unfold State.endObject
  exact (h1.ite h1.bobjDeliver).foldl fun _ _ hs => hs.changeNow

@[simp] theorem State.canonical.endClock (h : s.canonical) : s.endClock.canonical := by
  have h0 : ({ s with sched := { s.sched with changes := none } } : State).canonical := h.congr
  unfold State.endClock
  dsimp only
  refine ((h0.foldl fun _ _ hs => hs.endObject).foldl fun _ _ hs => hs.changeNow).foldl fun t c ht => ?_
  split
  · exact ht.tokServe
  · exact ht

theorem goes_execBobjOpen {a b : Opd} (h : s.canonical) (he : s.env g = some e) : Goes (execBobjOpen g a b s) := by
  refine goes_runOrdered h he ?_
  split
  · exact keeps_ok.mpr h
  · dsimp only
    split
    · exact keeps_error
    · exact keeps_error.ite (keeps_ok.mpr h.spadWrite)

theorem goes_execBobjDue {a b : Opd} {mark : Bool} (h : s.canonical) (he : s.env g = some e) : Goes (execBobjDue g a b mark s) := by
  refine goes_runOrdered h he ?_
  split
  · exact keeps_ok.mpr h
  · dsimp only
    split
    · exact keeps_error
    · exact keeps_error.ite (keeps_ok.mpr (h.change.change.ite h.change))

theorem goes_execBobjMark {a : Opd} (h : s.canonical) (he : s.env g = some e) : Goes (execBobjMark g a s) := by
  refine goes_runOrdered h he ?_
  split
  · exact keeps_ok.mpr h
  · dsimp only
    split
    · exact keeps_error
    · exact keeps_ok.mpr h.change

theorem goes_execBobjHold {a b : Opd} (h : s.canonical) (he : s.env g = some e) : Goes (execBobjHold g a b s) := by
  refine goes_runWaitOrdered h he ?_
  split
  · exact keeps_ok.mpr h.next
  · dsimp only
    split
    · exact keeps_error
    · exact keeps_ok.mpr h.waitIn

/-! ## EMBER slots -/

theorem Wave.modEmber_wf {w : Wave} {f : Nat → Ember → Ember} (h : w.wf = true) : (w.modEmber f).wf = true := h

theorem Wave.emberTake_wf {w : Wave} {k : Nat} {d : Opd} {lanes : W32} (h : w.wf = true) : (w.emberTake k d lanes).wf = true :=
  Wave.wrPart_wf (Wave.modEmber_wf h)

theorem goes_execEmberArm {a b : Opd} {k : Fin 4} (h : s.canonical) (he : s.env g = some e) : Goes (execEmberArm g a b k s) := by
  refine goes_runShort h he ?_
  split
  · exact keeps_ok.mpr h
  · refine keeps_error.ite ?_
    split
    · exact keeps_error
    · exact keeps_ok.mpr (h.tlbFill.modWave fun w hw => Wave.modEmber_wf hw)

theorem goes_execEmberWait {d a : Opd} (h : s.canonical) (he : s.env g = some e) : Goes (execEmberWait g d a s) := by
  have hw := h.env_wf he
  refine goes_runWait h he ?_
  split
  · exact keeps_ok.mpr h.next
  · dsimp only
    split
    · exact keeps_ok.mpr (h.setWave (Wave.emberTake_wf hw)).next
    · split
      · exact keeps_ok.mpr h
      · exact (keeps_ok.mpr (h.setWave (Wave.wrPart_wf hw)).next).ite (keeps_ok.mpr h.waitIn)

theorem goes_execEmberDisarm {mask : BitVec 4} (h : s.canonical) (he : s.env g = some e) : Goes (execEmberDisarm g mask s) :=
  goes_runShort h he (keeps_ok.mpr (h.ite (h.modWave fun _ hw => Wave.modEmber_wf hw)))

theorem State.canonical.wf_of_waveAt (h : s.canonical) {core wid u : Nat} {w : Wave} (hw : s.waveAt core wid = some (u, w)) :
    w.wf = true :=
  h.waves_wf.1 _ (List.mem_of_find?_eq_some hw)

theorem goes_execEmberTimeout {core wid strand : Nat} (h : s.canonical) : Goes (execEmberTimeout core wid strand s) := by
  unfold execEmberTimeout
  split
  · exact goes_next.mpr h
  · dsimp only
    split
    · refine (goes_next.mpr (h.modWave fun w hw => ?_)).ite (goes_next.mpr h)
      exact Wave.resume_wf.trans (Wave.wrPart_wf hw)
    · exact goes_next.mpr h

end

end Sys2Proof.Machine

/-! PROOFS. The canonical form is kept by task operations: queues, waits on waitables, adoption and its end, parking, futures and
locks, dispatch and monitors. -/

namespace Sys2Proof.Machine

set_option Elab.async false

/-! ## What a computation that may fail leaves -/

/-- A computation leaves a state in canonical form beside its value, where it does not fail. -/
def Leaves {ε β : Type} (x : Except ε (State × β)) : Prop := ∀ t v, x = .ok (t, v) → t.canonical

section
variable {ε α β γ : Type} {s : State}

@[simp] theorem leaves_ok {v : β} : Leaves (ε := ε) (.ok (s, v)) ↔ s.canonical :=
  ⟨fun h => h s v rfl, fun h _ _ hv => by cases hv; exact h⟩

@[simp] theorem leaves_error {b : ε} : Leaves (β := β) (.error b) := fun _ _ hv => by cases hv

theorem Leaves.ite {c : Prop} [Decidable c] {x y : Except ε (State × β)} (hx : Leaves x) (hy : Leaves y) :
    Leaves (if c then x else y) := by
  split
  · exact hx
  · exact hy

theorem Leaves.bind {x : Except ε (State × β)} {f : State × β → Except ε (State × γ)} (hx : Leaves x)
    (hf : ∀ t v, t.canonical → Leaves (f (t, v))) : Leaves (x >>= f) := by
  cases x with
  | error => exact leaves_error
  | ok v => exact hf v.1 v.2 (hx _ _ rfl)

/-- A check before a computation, of which it takes no state. -/
theorem leaves_check {x : Except ε α} {f : α → Except ε (State × γ)} (hf : ∀ v, Leaves (f v)) : Leaves (x >>= f) := by
  cases x with
  | error => exact leaves_error
  | ok v => exact hf v

theorem leaves_keeps_bind {x : Except Bad State} {f : State → Except Bad (State × γ)} (hx : Keeps x)
    (hf : ∀ t, t.canonical → Leaves (f t)) : Leaves (x >>= f) := by
  cases x with
  | error => exact leaves_error
  | ok t => exact hf t (hx t rfl)

theorem leaves_orBad {l : Nat} {x : Except ObjErr (State × β)} (h : Leaves x) : Leaves (orBad l x) := by
  cases x with
  | error => exact leaves_error
  | ok v => exact leaves_ok.mpr (h _ _ rfl)

end

section
variable {s : State} {g : Guard} {e : Env} {ag : Agent}

theorem State.canonical.leaves_obj {sc : Scope} {a n : Nat} (h : s.canonical) : Leaves (s.obj ag sc a n) := fun _ _ hv => h.obj hv

theorem State.canonical.leaves_taskRec {tr : Nat} (h : s.canonical) : Leaves (s.taskRec ag tr) := fun _ _ hv => h.taskRec hv

theorem State.canonical.leaves_queue {hdr : Nat} (h : s.canonical) : Leaves (s.queue ag hdr) := fun _ _ hv => h.queue hv

theorem State.canonical.leaves_headEntry {hdr : Nat} (h : s.canonical) : Leaves (s.headEntry ag hdr) := fun _ _ hv => h.headEntry hv

/-! ## Segments -/

theorem goes_execSegmentLink {ctx queue seg : Nat} (h : s.canonical) : Goes (execSegmentLink ctx queue seg s) := by
  unfold execSegmentLink
  dsimp only
  split
  · exact goes_next.mpr h
  · split
    · next hq =>
      have h1 := h.queue hq
      split
      · exact goes_next.mpr h
      · split
        · exact goes_next.mpr h
        · have hheld (t : State) (ht : t.canonical) (l : List HeldPush) :
              ({ t with kiln := { t.kiln with heldPushes := l } } : State).canonical := ht.congr
          refine goes_next.mpr (State.canonical.foldl (hheld _ (State.canonical.ite (State.canonical.returnSegment ?_) ?_) _)
            fun _ _ ht => ht.pushTask)
          all_goals
            refine State.canonical.modTenant (State.canonical.modCtx (State.canonical.ite (State.canonical.putNum ?_) ?_))
            · exact (h1.setObj.ite h1.setObj.putNum).putNum
            · exact (h1.setObj.ite h1.setObj.putNum).putNum
    · exact goes_next.mpr h

/-! ## Issue of the long-latency instructions -/

theorem goes_execSpawn {a b : Opd} {fs : FlagSel} (h : s.canonical) (he : s.env g = some e) : Goes (execSpawn g a b fs s) :=
  goes_issueLong h he (keeps_ok.mpr h)

theorem goes_execLaunch {a : Opd} {fs : FlagSel} (h : s.canonical) (he : s.env g = some e) : Goes (execLaunch g a fs s) :=
  goes_issueLong h he (keeps_ok.mpr h)

theorem goes_execQpush {d a b : Opd} {form : QForm} {o : Order} {sc : Scope} {fs : FlagSel} (h : s.canonical)
    (he : s.env g = some e) : Goes (execQpush g d a b form o sc fs s) := by
  refine goes_issueLong h he ?_
  split
  · exact keeps_error
  · exact keeps_ok.mpr h

theorem goes_execQpop {d a b : Opd} {o : Order} {sc : Scope} {fs : FlagSel} (h : s.canonical) (he : s.env g = some e) :
    Goes (execQpop g d a b o sc fs s) := by
  refine goes_issueLong h he ?_
  split
  · exact keeps_error
  · exact keeps_ok.mpr h

/-! ## Performance of the long-latency instructions -/

theorem leaves_actLanes {f : State → Nat → Except Bad (State × Option W64)} (hf : ∀ t l, t.canonical → Leaves (f t l))
    {ls : List Nat} (h : s.canonical) : Leaves (actLanes f ls s) := by
  induction ls generalizing s with
  | nil => exact leaves_ok.mpr h
  | cons l r ih =>
    unfold actLanes
    split
    · exact leaves_error
    · next hl => exact leaves_ok.mpr (hf s l h _ _ hl)
    · next s1 v hl =>
      have h1 : s1.canonical := hf s l h _ _ hl
      split
      · exact leaves_error
      · next hr => exact leaves_ok.mpr (ih h1 _ _ hr)

theorem leaves_actFirst {f : State → Nat → Except Bad (State × Option W64)} (hf : ∀ t l, t.canonical → Leaves (f t l))
    {ls : List Nat} (h : s.canonical) : Leaves (actFirst f ls s) := by
  unfold actFirst
  split
  · exact leaves_error
  · next hl =>
    split
    · exact leaves_error
    · exact leaves_ok.mpr (leaves_actLanes hf h _ _ hl)

theorem leaves_patient {f : State → Nat → Except Bad (State × Option W64)} (hf : ∀ t l, t.canonical → Leaves (f t l)) {l : Nat}
    (h : s.canonical) : Leaves (patient f s l) := by
  unfold patient
  split
  · exact leaves_ok.mpr h
  · next hl => exact leaves_ok.mpr (hf s l h _ _ hl)

theorem State.canonical.leaves_headerOf {l hdr : Nat} (h : s.canonical) : Leaves (s.headerOf ag l hdr) := by
  unfold State.headerOf
  split
  · exact leaves_error
  · next hq => exact (leaves_ok.mpr (h.queue hq)).ite leaves_error

theorem State.canonical.opCeil {u : Nat} {sc : Scope} {detail : Nat} (h : s.canonical) : Keeps (s.opCeil u ag sc detail) := by
  unfold State.opCeil
  split
  · exact (keeps_error.ite (keeps_ok.mpr h.modWave)).ite (keeps_ok.mpr h)
  · exact keeps_ok.mpr h

theorem State.canonical.ceilLanes {u : Nat} {o : Op} {sc : Scope} {ls : List Nat} (h : s.canonical) :
    Keeps (s.ceilLanes u ag o sc ls) := by
  have hlane (t : State) (l : Nat) (ht : t.canonical) : Leaves (do
      let (s1, q) ← t.headerOf ag l (o.val64 0 l).toNat
      let s2 ← s1.opCeil u ag q.scope 2
      .ok (s2, some (0 : W64))) :=
    ht.leaves_headerOf.bind fun t1 q h1 => leaves_keeps_bind h1.opCeil fun t2 h2 => leaves_ok.mpr h2
  intro t ht
  unfold State.ceilLanes at ht
  cases h0 : s.opCeil u ag sc 0 with
  | error => simp [h0, bind, Except.bind] at ht
  | ok s0 =>
    simp only [h0, bind, Except.bind] at ht
    split at ht
    · cases ht
    · next hl =>
      cases ht
      exact leaves_actLanes hlane (h.opCeil _ h0) _ _ hl

theorem leaves_underCeil {α : Type} {ceil : Except Bad State} {act : State → Except Bad (State × α)}
    (hc : Keeps ceil) (ha : ∀ t, t.canonical → Leaves (act t)) : Leaves (underCeil ceil act s) := by
  unfold underCeil
  split
  · split
    · exact leaves_error
    · split
      · exact leaves_error
      · exact leaves_error
  · split
    · exact leaves_error
    · next s1 => exact ha _ (hc _ rfl)

theorem State.canonical.leaves_spawnCheck {o : Op} {l : Nat} (h : s.canonical) : Leaves (s.spawnCheck ag o l) := by
  refine leaves_error.ite ((leaves_orBad h.leaves_taskRec).bind fun t r ht => leaves_check fun _ => leaves_error.ite ?_)
  exact ht.leaves_headerOf.bind fun v q hv => leaves_error.ite (leaves_ok.mpr hv)

@[simp] theorem State.canonical.spawnWrite {grp : Nat} {o : Op} {l : Nat} (h : s.canonical) : (s.spawnWrite ag grp o l).canonical :=
  h.putNum.setObj

theorem State.canonical.leaves_spawnPush {o : Op} {l : Nat} (h : s.canonical) : Leaves (s.spawnPush ag o l) := by
  unfold State.spawnPush
  split
  · exact leaves_error
  · next hr => exact leaves_ok.mpr (h.reserve hr)
  · next hr => exact leaves_ok.mpr (h.reserve hr).putEntry

theorem State.canonical.leaves_reservedEntry {l a : Nat} (h : s.canonical) : Leaves (s.reservedEntry ag l a) :=
  (leaves_orBad h.leaves_obj).bind fun _ _ ht => leaves_error.ite (leaves_error.ite (leaves_ok.mpr ht))

theorem State.canonical.leaves_pushPayload {o : Op} {bz : Bool} {l n : Nat} (h : s.canonical) : Leaves (s.pushPayload ag o bz l n) :=
  (leaves_ok.mpr h).ite ((leaves_ok.mpr h).ite (leaves_orBad h.leaves_obj))

theorem State.canonical.leaves_qpushLane {u : Nat} {o : Op} {form : QForm} {bz : Bool} {ord : Order} {sc : Scope} {l : Nat}
    (h : s.canonical) : Leaves (s.qpushLane u ag o form bz ord sc l) := by
  unfold State.qpushLane
  dsimp only
  split
  · refine h.leaves_reservedEntry.bind fun t x ht => leaves_check fun _ => ?_
    exact ht.leaves_pushPayload.bind fun v y hv => leaves_ok.mpr hv.setObj.before.putNum
  · refine h.leaves_headerOf.bind fun t q ht => ?_
    split
    · refine (leaves_ok.mpr ht).bind fun v y hv => ?_
      dsimp only
      split
      · exact leaves_error
      · next hr => exact leaves_ok.mpr (hv.reserve hr)
      · next hr => exact leaves_ok.mpr (hv.reserve hr).putEntry
    · refine ht.leaves_pushPayload.bind fun v y hv => ?_
      dsimp only
      split
      · exact leaves_error
      · next hr => exact leaves_ok.mpr (hv.reserve hr)
      · next hr => exact leaves_ok.mpr (hv.reserve hr).putEntry.setObj.before.putNum

theorem State.canonical.leaves_qpopLane {o : Op} {bz : Bool} {ord : Order} {sc : Scope} {l : Nat} (h : s.canonical) :
    Leaves (s.qpopLane ag o bz ord sc l) := by
  unfold State.qpopLane
  dsimp only
  refine h.leaves_headerOf.bind fun t q ht => (leaves_orBad ht.leaves_headEntry).bind fun v x hv => ?_
  obtain ⟨q3, hd⟩ := x
  dsimp only
  split
  · exact leaves_ok.mpr hv
  · refine leaves_error.ite ((leaves_ok.mpr hv.after).ite ?_)
    refine ((leaves_ok.mpr hv.after).ite (leaves_orBad hv.after.leaves_obj)).bind fun z bs hz => ?_
    exact leaves_check fun _ => leaves_check fun _ => leaves_check fun _ => leaves_ok.mpr (hz.ite hz.setObj).popEntry

theorem State.canonical.leaves_queueOp {u grp : Nat} {o : Op} (h : s.canonical) : Leaves (s.queueOp u ag grp o) := by
  unfold State.queueOp
  dsimp only
  split
  · have hp (t : State) (l : Nat) (ht : t.canonical) : Leaves (t.spawnPush ag o l) := ht.leaves_spawnPush
    split
    · exact leaves_actLanes (fun t l ht => leaves_patient hp ht) h
    · refine (leaves_actLanes (fun t l ht => ht.leaves_spawnCheck) h).bind fun t v ht => leaves_check fun _ => ?_
      exact leaves_actFirst hp (ht.release.foldl fun _ _ ht => ht.spawnWrite)
  · next b form ord sc _ _ =>
    have hp (t : State) (l : Nat) (ht : t.canonical) : Leaves (t.qpushLane u ag o form (b == .zero) ord sc l) := ht.leaves_qpushLane
    split
    · exact leaves_actLanes (fun t l ht => leaves_patient hp ht) h
    · refine leaves_underCeil (h.opCeil.ite h.ceilLanes) fun t ht => ?_
      refine ((leaves_ok.mpr ht).ite (leaves_actLanes (fun v l hv => ?_) ht)).bind fun v x hv => ?_
      · exact hv.leaves_headerOf.bind fun x q hx => leaves_ok.mpr hx
      · exact leaves_check fun _ => leaves_actFirst hp hv
  · exact leaves_underCeil h.ceilLanes fun t ht => leaves_actLanes (fun v l hv => hv.leaves_qpopLane) ht
  · exact leaves_ok.mpr h

theorem State.canonical.leaves_readRecords {o : Op} {ls : List Nat} (h : s.canonical) : Leaves (s.readRecords ag o ls) := by
  induction ls generalizing s with
  | nil => exact leaves_ok.mpr h
  | cons l r ih =>
    unfold State.readRecords
    have hobj : Leaves (if (o.val64 0 l).toNat % 64 = 0 then s.obj ag .ten (o.val64 0 l).toNat 64 else .ok (s, [])) :=
      h.leaves_obj.ite (leaves_ok.mpr h)
    split
    · exact leaves_error
    · next s1 bs hb =>
      have h1 : s1.canonical := hobj _ _ hb
      split
      · exact leaves_error
      · next hr => exact leaves_ok.mpr (ih h1 _ _ hr)

/-! ## The await decision -/

@[simp] theorem State.canonical.dropStale {ctx tr : Nat} {r : TaskRec} (h : s.canonical) : (s.dropStale ctx tr r).canonical := by
  unfold State.dropStale
  split
  · exact State.canonical_iff.mpr ⟨h.mem, h.waves_wf, h.groups, h.parked_wf.filter⟩
  · exact h

@[simp] theorem State.canonical.takeLock {a : Nat} {tr : W64} (h : s.canonical) : (s.takeLock ag a tr).canonical := h.putNum.putNum

theorem State.canonical.leaves_decideOwner {w : Wave} {l : Nat} {x : Waitable} (h : s.canonical) :
    Leaves (s.decideOwner w ag l x) := by
  unfold State.decideOwner
  dsimp only
  split
  · exact leaves_ok.mpr h
  · split
    · exact leaves_error
    · split
      · exact leaves_error
      · next hr =>
        have h1 := h.taskRec hr
        refine (leaves_ok.mpr h1).ite (leaves_error.ite (leaves_error.ite ?_))
        exact (leaves_ok.mpr h1).ite (leaves_ok.mpr h1)

theorem State.canonical.leaves_decideWait {w : Wave} {lock : Bool} {l a : Nat} (h : s.canonical) :
    Leaves (s.decideWait w ag lock l a) := by
  unfold State.decideWait
  split
  · exact leaves_error
  · next hx =>
    have h1 := h.waitable hx
    refine leaves_error.ite ?_
    split
    · exact leaves_error
    · split
      · split
        · split
          · exact leaves_error
          · exact leaves_ok.mpr h1
        · exact leaves_ok.mpr h1
      · split
        · exact leaves_error
        · next hd =>
          split
          · exact leaves_error
          · exact leaves_ok.mpr (h1.leaves_decideOwner _ _ hd)

end

end Sys2Proof.Machine

/-! PROOFS. The canonical form is kept by giving up and taking slots, adoption and its end, parking, futures and locks,
dispatch and monitors. -/

namespace Sys2Proof.Machine

set_option Elab.async false

section
variable {s : State} {g : Guard} {e : Env} {ag : Agent}

/-! ## Giving up and taking a slot -/

theorem Wave.still_wf {w : Wave} (h : w.wf = true) : w.task.still.wf = true := (TaskCtx.still_wf _).trans (Wave.task_wf h)

@[simp] theorem State.canonical.keepRunning {u : Nat} {home : W64} {waits : Option W64} (h : s.canonical) :
    (s.keepRunning u ag home waits).canonical := by
  unfold State.keepRunning
  split
  · exact h
  · next hw => exact h.keepTask (Wave.still_wf (h.wf_of_wave hw))

theorem Wave.wf_withRoot {v : Wave} {t : TaskCtx} {x : Option (Bool × Fin 8 × W64)} (hv : v.wf = true) (ht : t.wf = true) :
    ({ v with root := some (t, x) } : Wave).wf = true :=
  Wave.wf_iff.mpr ⟨(Wave.wf_iff.mp hv).1, (Wave.wf_iff.mp hv).2.1, fun _ hr => by cases hr; exact ht⟩

@[simp] theorem State.canonical.giveUp {u : Nat} {lock : Bool} {pd : Fin 8} {a : W64} (h : s.canonical) :
    (s.giveUp u lock pd a).canonical := by
  unfold State.giveUp
  split
  · exact h
  · next hw =>
    dsimp only
    split
    · refine h.release.putState.writeImage.modWave fun v hv => ?_
      exact Wave.wf_withRoot (v := { v with rootReady := false, ended := some .waiting }) hv (Wave.still_wf hv)
    · exact h.release.putState.putHelper.keepRunning.modWave

theorem State.arriving_wf {u : Nat} {t : TaskCtx} (ht : t.wf = true) : (s.arriving u t).wf = true := by
  unfold State.arriving
  split
  · exact ht
  · exact ht

/-- A task that comes to a slot above helpers. -/
theorem Wave.wf_withTask {v : Wave} {t : TaskCtx} {l : List Helper} (hv : v.wf = true) (ht : t.wf = true)
    (hl : ∀ x ∈ l, x.task.wf = true) : ({ v with task := t, chain := l } : Wave).wf = true :=
  Wave.wf_iff.mpr ⟨ht, hl, (Wave.wf_iff.mp hv).2.2⟩

theorem State.chainOf_getD_wf {known rest : List Helper} {recs : List Nat} (hk : ∀ x ∈ known, x.task.wf = true)
    (hr : ∀ x ∈ rest, x.task.wf = true) : ∀ x ∈ (s.chainOf ag known recs).getD rest, x.task.wf = true := by
  cases hc : s.chainOf ag known recs with
  | none => exact hr
  | some l => exact State.chainOf_wf hk hc

@[simp] theorem State.canonical.runTask {u tr cls : Nat} {r : TaskRec} {chain : List Helper} (h : s.canonical)
    (hc : ∀ x ∈ chain, x.task.wf = true) : (s.runTask u ag tr r cls chain).canonical := by
  unfold State.runTask
  extract_lets mine kept
  have hk : kept.wf = true := by
    dsimp only [kept]
    split
    · next hp => exact h.parked_wf _ (List.mem_of_find?_eq_some hp)
    · exact TaskCtx.fresh_wf
  clear_value kept
  have hx : (if s.kiln.parked.any mine then s.readImage ag kept [] else (s, kept, [])).1.canonical ∧
      (if s.kiln.parked.any mine then s.readImage ag kept [] else (s, kept, [])).2.1.wf = true := by
    split
    · exact ⟨h.readImage, State.readImage_wf hk⟩
    · exact ⟨h, hk⟩
  generalize (if s.kiln.parked.any mine then s.readImage ag kept [] else (s, kept, [])) = x at hx ⊢
  obtain ⟨s1, t, recs⟩ := x
  obtain ⟨h1, ht⟩ := hx
  have h3 (s2 : State) (hs : s2.canonical) {l : List Helper} (hl : ∀ y ∈ l, y.task.wf = true) :
      (s2.modWave u (fun w => { w with task := s2.arriving u t, chain := l, adopting := none, ended := none })).canonical :=
    hs.modWave fun w hw => Wave.wf_withTask (v := { w with adopting := none, ended := none }) hw (State.arriving_wf ht) hl
  have h2 : ({ s1 with kiln := { s1.kiln with parked := s1.kiln.parked.filter (fun p => !mine p) } } : State).canonical :=
    State.canonical_iff.mpr ⟨h1.mem, h1.waves_wf, h1.groups, h1.parked_wf.filter⟩
  dsimp only
  split
  · exact (h3 _ h2 (State.chainOf_getD_wf hc hc)).taskFault
  · exact (h3 _ h2 (State.chainOf_getD_wf hc hc)).wake

@[simp] theorem State.canonical.claim {u owner : Nat} {lock : Bool} {pd : Fin 8} {a : W64} {r : TaskRec} (h : s.canonical) :
    (s.claim u ag lock pd a owner r).canonical := by
  unfold State.claim
  split
  · exact h
  · exact h.dropStale.putState.putHelper.modWave

@[simp] theorem State.canonical.adopt {u : Nat} {c : Claim} {r : TaskRec} (h : s.canonical) : (s.adopt u c r).canonical := by
  unfold State.adopt
  split
  · exact h
  · next w hw =>
    dsimp only
    have h1 : (((s.release (s.agentOf w.group) .ten).putState (s.agentOf w.group) w.task.record.toNat w.chain.length 7).writeImage
        (s.agentOf w.group) (w.task.helping c.lock c.pd c.addr) (w.chain.map (fun h => h.task.record.toNat))).canonical :=
      h.release.putState.writeImage
    generalize ((s.release (s.agentOf w.group) .ten).putState (s.agentOf w.group) w.task.record.toNat w.chain.length 7).writeImage
      (s.agentOf w.group) (w.task.helping c.lock c.pd c.addr) (w.chain.map (fun h => h.task.record.toNat)) = s1 at h1 ⊢
    have hw1 : ((s1.wave u).getD w).wf = true := by
      cases hu : s1.wave u with
      | none => exact h.wf_of_wave hw
      | some v => exact h1.wf_of_wave hu
    exact (h1.runTask (List.forall_mem_cons.mpr ⟨Wave.still_wf hw1, (Wave.wf_iff.mp hw1).2.1⟩)).acquire

@[simp] theorem State.canonical.stopAwait {u : Nat} {w : Wave} {b : Bad} (h : s.canonical) : (s.stopAwait u w b).canonical :=
  State.canonical.stopWave h.modWave

/-! ## The end of an adoption -/

@[simp] theorem State.canonical.notePast (h : s.canonical) : s.notePast.canonical := by
  unfold State.notePast
  refine State.canonical_iff.mpr ⟨h.mem, h.waves_wf.map fun x hx => ?_, h.groups, h.parked_wf.map fun x hx => ?_⟩
  · obtain ⟨ht, hc, hr⟩ := Wave.wf_iff.mp hx
    refine Wave.wf_iff.mpr ⟨ht, fun y hy => ?_, hr⟩
    obtain ⟨z, hz, rfl⟩ := List.mem_map.mp hy
    dsimp only
    split
    · exact hc z hz
    · exact hc z hz
  · exact hx

theorem Wave.finishWait_wf {w : Wave} {pd : Fin 8} {v : Bool} (h : w.wf = true) : (w.finishWait pd v).wf = true :=
  Wave.resume_wf.trans (Wave.setPreds_wf h)

theorem Wave.helperTask_wf {w : Wave} {x : Helper} (h : w.wf = true) (hx : x.task.wf = true) : (w.helperTask x).wf = true := by
  unfold Wave.helperTask
  split
  · exact Wave.task_wf (Wave.finishWait_wf (Wave.wf_iff.mpr ⟨hx, (Wave.wf_iff.mp h).2⟩))
  · exact hx

@[simp] theorem State.canonical.leaveWaits {u : Nat} (h : s.canonical) : (s.leaveWaits u).canonical := h.withdraw.dropTakes

theorem State.canonical.parkFrom {u : Nat} {f : Wave → Option TaskCtx} (h : s.canonical)
    (hf : ∀ w t, w.wf = true → f w = some t → t.wf = true) : (s.parkFrom u ag f).canonical := by
  unfold State.parkFrom
  split
  · exact h
  · next ht =>
    obtain ⟨w, hw, ht⟩ := Option.bind_eq_some_iff.mp ht
    exact h.parkTask (hf w _ (h.wf_of_wave hw) ht)

theorem State.canonical.resumeTask {u : Nat} {kept : TaskCtx} {rest : List Helper} {bad : Bool} (h : s.canonical)
    (hk : kept.wf = true) (hr : ∀ x ∈ rest, x.task.wf = true) : (s.resumeTask u ag kept rest bad).canonical := by
  unfold State.resumeTask
  have h1 := h.readImage (ag := ag) (t := kept) (chain := rest.map (fun h => h.task.record.toNat))
  have ht := s.readImage_wf (ag := ag) (chain := rest.map (fun h => h.task.record.toNat)) hk
  generalize s.readImage ag kept (rest.map (fun h => h.task.record.toNat)) = x at h1 ht
  obtain ⟨s1, t, recs⟩ := x
  have h2 {l : List Helper} (hl : ∀ y ∈ l, y.task.wf = true) := State.canonical.modWave (u := u) (s := s1)
    (f := fun w => { w with task := t.still, chain := l, ended := none }) h1
    (by exact fun w hw => Wave.wf_withTask (v := { w with ended := none }) hw ((TaskCtx.still_wf t).trans ht) hl)
  exact (h2 (State.chainOf_getD_wf hr hr)).taskFault.ite (h2 (State.chainOf_getD_wf hr hr)).acquire

theorem State.canonical.resumeHelper {u k : Nat} {w : Wave} {x : Helper} (h : s.canonical) (hw : w.wf = true)
    (hx : x.task.wf = true) : (s.resumeHelper u w k x).canonical := by
  unfold State.resumeHelper
  have h1 : (if w.ended.isSome then (s.leaveWaits u).release (s.agentOf w.group) .ten
      else ((s.leaveWaits u).release (s.agentOf w.group) .ten).parkFrom u (s.agentOf w.group) (fun w => some w.task.still)).canonical :=
    h.leaveWaits.release.ite (h.leaveWaits.release.parkFrom fun v t hv ht => by cases ht; exact Wave.still_wf hv)
  dsimp only
  generalize (if w.ended.isSome then (s.leaveWaits u).release (s.agentOf w.group) .ten
    else ((s.leaveWaits u).release (s.agentOf w.group) .ten).parkFrom u (s.agentOf w.group) (fun w => some w.task.still)) = s1 at h1 ⊢
  have h2 : ((List.range k).foldl (fun s' j => s'.parkFrom u (s.agentOf w.group)
      (fun w => (w.chain[j]?).map w.helperTask)) s1).canonical := by
    refine h1.foldl fun t j ht => ht.parkFrom fun v y hv hy => ?_
    obtain ⟨z, hz, rfl⟩ := Option.map_eq_some_iff.mp hy
    exact Wave.helperTask_wf hv ((Wave.wf_iff.mp hv).2.1 z (List.mem_of_getElem? hz))
  generalize ((List.range k).foldl (fun s' j => s'.parkFrom u (s.agentOf w.group)
    (fun w => (w.chain[j]?).map w.helperTask)) s1) = s2 at h2 ⊢
  generalize hs3 : s2.putState (s.agentOf w.group) x.task.record.toNat _ _ = s3
  have h3 : s3.canonical := hs3 ▸ h2.putState
  have hnow : ∀ y ∈ ((s3.wave u).map (·.chain)).getD w.chain, y.task.wf = true := by
    cases hu : s3.wave u with
    | none => exact (Wave.wf_iff.mp hw).2.1
    | some v => exact (Wave.wf_iff.mp (h3.wf_of_wave hu)).2.1
  refine h3.resumeTask ?_ fun y hy => hnow y (List.mem_of_mem_drop hy)
  cases hk : (((s3.wave u).map (·.chain)).getD w.chain)[k]? with
  | none => exact hx
  | some y => exact hnow y (List.mem_of_getElem? hk)

@[simp] theorem State.canonical.helperGoesOn {u : Nat} {x : Helper} (h : s.canonical) : (s.helperGoesOn u x).canonical := by
  have hfin (t : State) (v : Bool) (ht : t.canonical) : (t.modWave u (fun w => w.finishWait x.pd v)).canonical :=
    ht.modWave fun w hw => Wave.finishWait_wf hw
  unfold State.helperGoesOn
  split
  · exact h
  · dsimp only
    split
    · exact h
    · split
      · exact hfin _ _ h
      · split
        · exact h
        · split
          · exact h
          · next hd => exact hfin _ _ ((h.leaves_decideWait _ _ hd).takeLock.ite (h.leaves_decideWait _ _ hd))
          · next hd => exact (h.leaves_decideWait _ _ hd).claim.modWave
          · next hd => exact (h.leaves_decideWait _ _ hd).giveUp

theorem State.endingHelper_mem {u k : Nat} {w : Wave} {x : Helper} (hx : s.endingHelper u w = some (k, x)) : x ∈ w.chain := by
  unfold State.endingHelper at hx
  dsimp only at hx
  split at hx
  · cases hx
  · obtain ⟨j, -, hj⟩ := Option.bind_eq_some_iff.mp hx
    obtain ⟨y, hy, heq⟩ := Option.map_eq_some_iff.mp hj
    cases heq
    exact List.mem_of_getElem? hy

theorem State.canonical.endAdoption {u fuel : Nat} (h : s.canonical) : (State.endAdoption u fuel s).canonical := by
  induction fuel generalizing s with
  | zero => exact h
  | succ n ih =>
    unfold State.endAdoption
    split
    · exact h
    · next w hw =>
      split
      · exact h
      · next k x hx =>
        have hwf := h.wf_of_wave hw
        exact ih (h.resumeHelper hwf ((Wave.wf_iff.mp hwf).2.1 x (State.endingHelper_mem hx))).helperGoesOn

@[simp] theorem State.canonical.settleAdoption {u : Nat} (h : s.canonical) : (s.settleAdoption u).canonical := h.endAdoption

theorem goes_execAdoptionEnd {core wid : Nat} (h : s.canonical) : Goes (execAdoptionEnd core wid s) := by
  unfold execAdoptionEnd
  split
  · exact goes_next.mpr h
  · exact goes_next.mpr h.settleAdoption

/-! ## `await`, `lock.take` and `park` -/

theorem goes_execAdopt {core wid : Nat} (h : s.canonical) : Goes (execAdopt core wid s) := by
  unfold execAdopt
  split
  · exact goes_next.mpr h
  · dsimp only
    split
    · refine (goes_next.mpr h).ite ?_
      split
      · split
        · exact goes_next.mpr h.stopAwait.unclaim
        · next hr => exact goes_next.mpr (h.taskRec hr).adopt
      · split
        · exact goes_next.mpr h.stopAwait
        · next hd => exact goes_next.mpr (h.leaves_decideWait _ _ hd).modWave
        · next hd => exact goes_next.mpr (h.leaves_decideWait _ _ hd).giveUp.settleAdoption
        · next hd => exact goes_next.mpr (h.leaves_decideWait _ _ hd).claim.adopt
    · exact goes_next.mpr h

theorem goes_runAwait {i : Instr} {a : Opd} {pd : Fin 8} {lock : Bool} (h : s.canonical) (he : s.env g = some e) :
    Goes (runAwait i g a pd lock s) := by
  refine goes_runWait h he ?_
  split
  · exact keeps_error
  · exact keeps_ok.mpr h.next
  · refine keeps_error.ite ?_
    split
    · exact keeps_error
    · next hd =>
      have h1 := h.leaves_decideWait _ _ hd
      refine keeps_ok.mpr (State.canonical.next (State.canonical.acquire ((h1.takeLock.ite h1).modWave fun w hw => ?_)))
      exact Wave.setPreds_wf hw
    · next hd => exact keeps_ok.mpr (h.leaves_decideWait _ _ hd).claim.waitIn
    · next hd =>
      have h1 := h.leaves_decideWait _ _ hd
      exact keeps_ok.mpr (h1.waitIn.giveUp.settleAdoption.ite h1.waitIn)

theorem goes_execPark {a : Opd} (h : s.canonical) (he : s.env g = some e) : Goes (execPark g a s) := by
  unfold execPark
  simp only [he]
  refine (goes_next.mpr h).ite (goes_runWait h he ?_)
  split
  · exact keeps_error
  · exact keeps_ok.mpr h.next
  · split
    · exact keeps_error
    · next hq =>
      have h1 := h.leaves_headerOf _ _ hq
      refine keeps_error.ite ?_
      split
      · exact keeps_error
      · have h2 := (h1.release (ag := e.ag) (sc := .ten)).next (e := e) (i := .park g a)
        refine keeps_ok.mpr ?_
        split
        · exact h2
        · next w hw =>
          split
          · refine h2.putState.putHome.writeImage.modWave fun v hv => ?_
            exact Wave.wf_withRoot (v := { v with queue := some (BitVec.ofNat 64 _), ended := some .parked }) hv
              (Wave.still_wf hv)
          · exact h2.putState.putHome.putHelper.keepRunning.pushTask.modWave

/-! ## Futures and locks -/

theorem goes_execFutSet {a b : Opd} (h : s.canonical) (he : s.env g = some e) : Goes (execFutSet g a b s) := by
  refine goes_runOrdered h he ?_
  split
  · exact keeps_ok.mpr h
  · refine keeps_error.ite ?_
    split
    · exact keeps_error
    · next ho =>
      have h1 := h.obj ho
      refine keeps_error.ite (keeps_error.ite ?_)
      split
      · exact keeps_error
      · exact keeps_ok.mpr h1.release.putNum.putNum

theorem mem_modAt {α : Type} {l : List α} {i : Nat} {f : α → α} {x : α} (h : x ∈ modAt l i f) : x ∈ l ∨ ∃ y ∈ l, x = f y := by
  induction l generalizing i with
  | nil => exact .inl h
  | cons a r ih =>
    cases i with
    | zero =>
      rcases List.mem_cons.mp h with hx | hx
      · exact .inr ⟨a, List.mem_cons_self, hx⟩
      · exact .inl (List.mem_cons_of_mem _ hx)
    | succ i =>
      rcases List.mem_cons.mp h with hx | hx
      · exact .inl (List.mem_cons.mpr (.inl hx))
      · exact (ih hx).imp (List.mem_cons_of_mem _) fun ⟨y, hy, he⟩ => ⟨y, List.mem_cons_of_mem _ hy, he⟩

theorem Wave.lockTaken_wf {w : Wave} {k : Option Nat} (h : w.wf = true) : (w.lockTaken k).wf = true := by
  cases k with
  | none => exact h
  | some k =>
    obtain ⟨ht, hc, hr⟩ := Wave.wf_iff.mp h
    refine Wave.wf_iff.mpr ⟨ht, fun x hx => ?_, hr⟩
    rcases mem_modAt hx with hx | ⟨y, hy, rfl⟩
    · exact hc x hx
    · exact hc y hy

theorem goes_execLockGive {a : Opd} (h : s.canonical) (he : s.env g = some e) : Goes (execLockGive g a s) := by
  refine goes_runOrdered h he ?_
  split
  · exact keeps_ok.mpr h
  · refine keeps_error.ite ?_
    split
    · exact keeps_error
    · next hw =>
      have h1 := h.waitable hw
      refine keeps_error.ite (keeps_error.ite ?_)
      split
      · exact keeps_error
      · dsimp only
        refine (keeps_ok.mpr h1.release).ite ?_
        split
        · exact keeps_ok.mpr h1.release.putNum.putNum
        · exact keeps_ok.mpr (h1.release.bumpFresh.takeLock.modWave fun w hw => Wave.lockTaken_wf hw)

/-! ## Dispatch and monitors -/

theorem goes_execWaitableReady {ctx tr : Nat} (h : s.canonical) : Goes (execWaitableReady ctx tr s) := by
  unfold execWaitableReady
  dsimp only
  split
  · exact goes_next.mpr h
  · split
    · exact goes_next.mpr h
    · refine (goes_next.mpr h).ite (goes_next.mpr (State.canonical.pushTask (State.canonical.putState ?_)))
      refine State.canonical_iff.mpr ⟨h.mem, h.waves_wf, h.groups, h.parked_wf.map fun x hx => ?_⟩
      split
      · exact hx
      · exact hx

@[simp] theorem State.canonical.dispatch {u : Nat} {w : Wave} (h : s.canonical) : (s.dispatch u w ag).canonical := by
  unfold State.dispatch
  split
  · exact h
  · split
    · exact h
    · exact h
    · next hq =>
      have h1 := h.headEntry hq
      refine h.ite ?_
      split
      · exact h1.popEntry
      · next hr =>
        have h2 := (h1.leaves_taskRec.ite leaves_error) _ _ hr
        exact (h.ite h2.popEntry).ite (h.ite (h2.popEntry.dropStale.putState.runTask (List.forall_mem_nil _)).acquire)

theorem State.canonical.resumeRoot {u : Nat} {kept : TaskCtx} (h : s.canonical) (hk : kept.wf = true) :
    (s.resumeRoot u ag kept).canonical := by
  unfold State.resumeRoot
  dsimp only
  refine State.canonical.modWave (h.putState.resumeTask ?_ (List.forall_mem_nil _)) fun v hv => ?_
  · cases hr : ((s.putState ag kept.record.toNat 0 1).wave u).bind (·.root) with
    | none => exact hk
    | some r =>
      obtain ⟨w, hw, hr⟩ := Option.bind_eq_some_iff.mp hr
      exact (Wave.wf_iff.mp (h.putState.wf_of_wave hw)).2.2 r hr
  · exact Wave.wf_iff.mpr ⟨(Wave.wf_iff.mp hv).1, (Wave.wf_iff.mp hv).2.1, fun _ hr => by cases hr⟩

theorem goes_execSlotTakeTask {core wid : Nat} (h : s.canonical) : Goes (execSlotTakeTask core wid s) := by
  unfold execSlotTakeTask
  split
  · exact goes_next.mpr h
  · next u w hw =>
    obtain ⟨-, -, hroot⟩ := Wave.wf_iff.mp (h.wf_of_waveAt hw)
    refine (goes_next.mpr h).ite ?_
    dsimp only
    split
    · next hr => exact (goes_next.mpr (h.resumeRoot (hroot _ hr))).ite (goes_next.mpr h.dispatch)
    · next hr => exact (goes_next.mpr (h.resumeRoot (hroot _ hr))).ite (goes_next.mpr h.dispatch)
    · exact goes_next.mpr h.dispatch

end

end Sys2Proof.Machine

/-! PROOFS. The canonical form is kept by span barriers and exits, by crews, the token and the matrix array, and by copies. -/

namespace Sys2Proof.Machine

set_option Elab.async false

section
variable {s : State} {g : Guard} {e : Env} {ag : Agent}

/-! ## The span barrier -/

@[simp] theorem State.canonical.spanNext {x : Nat} (h : s.canonical) : (s.spanNext x).canonical := by
  unfold State.spanNext
  dsimp only
  refine State.canonical.foldl ?_ fun _ _ ht => ht.wakeGroup
  split
  · split
    · exact h.modGang
    · exact h
  · exact h.congr

@[simp] theorem State.canonical.spanSettle {x n : Nat} (h : s.canonical) : (s.spanSettle x n).canonical := by
  induction n generalizing s with
  | zero => exact h
  | succ n ih => exact (ih h.spanNext).ite h

@[simp] theorem State.canonical.settleSpan {x : Nat} (h : s.canonical) : (s.settleSpan x).canonical := h.spanSettle

@[simp] theorem State.canonical.spanCount (h : s.canonical) : (s.spanCount e).canonical := h.release.modWave

theorem goes_execSpanArrive (h : s.canonical) (he : s.env g = some e) : Goes (execSpanArrive g s) :=
  goes_runOrdered h he (keeps_error.ite ((keeps_ok.mpr h).ite (keeps_ok.mpr h.spanCount.settleSpan)))

theorem goes_execSpanSync (h : s.canonical) (he : s.env g = some e) : Goes (execSpanSync g s) :=
  goes_runWaitOrdered h he (keeps_error.ite ((keeps_ok.mpr h.next).ite (keeps_ok.mpr h.spanCount.settleSpan.waitIn)))

/-! ## Exit of groups and gangs -/

@[simp] theorem State.canonical.freeGroup {x : Nat} (h : s.canonical) : (s.freeGroup x).canonical := by
  unfold State.freeGroup
  split
  · exact h
  · dsimp only
    split
    · exact h.modGroup
    · exact State.canonical.tokServe (State.canonical.modCore h.modGroup)

@[simp] theorem State.canonical.settleGangExit {n : Nat} (h : s.canonical) : (s.settleGangExit n).canonical := by
  unfold State.settleGangExit
  split
  · exact h
  · refine h.ite (h.modGang.ite (State.canonical.modLaunch (State.canonical.modCtx ?_)))
    exact State.canonical_iff.mpr ⟨h.mem, h.waves_wf.filter, h.groups_wf.filter, h.parked⟩

@[simp] theorem State.canonical.settleHeld {x : Nat} (h : s.canonical) : (s.settleHeld x).canonical := by
  refine (h.foldl fun t y ht => ?_).foldl fun _ _ ht => ht.settleGangExit
  split
  · exact ht.freeGroup.ite ht
  · exact ht

@[simp] theorem State.canonical.returnBlocks {x : Nat} {bs : List Nat} (h : s.canonical) : (s.returnBlocks x bs).canonical :=
  h.modCtx.modGang

@[simp] theorem State.canonical.groupExit {x : Nat} (h : s.canonical) : (s.groupExit x).canonical := by
  unfold State.groupExit
  split
  · exact h
  · exact h.ite (State.canonical.settleHeld (State.canonical.settleSpan h.modGroup))

theorem goes_execSpanDetach (h : s.canonical) (he : s.env g = some e) : Goes (execSpanDetach g s) := by
  unfold execSpanDetach
  simp only [he]
  refine (goes_next.mpr h).ite (goes_runShort h he ((keeps_ok.mpr h).ite (keeps_ok.mpr ?_)))
  exact State.canonical.settleHeld (State.canonical.settleSpan h.release.modGroup)

theorem goes_execWaveExit {core wid : Nat} (h : s.canonical) : Goes (execWaveExit core wid s) := by
  unfold execWaveExit
  split
  · exact goes_next.mpr h
  · refine (goes_next.mpr h).ite (goes_next.mpr ?_)
    exact (State.canonical.waveGone h.modWave).returnBlocks.settleSpan.groupExit

/-! ## Crews and the token -/

theorem goes_execCrewSet {a b : Opd} (h : s.canonical) (he : s.env g = some e) : Goes (execCrewSet g a b s) := by
  refine goes_runShort h he ?_
  split
  · exact keeps_ok.mpr h
  · exact keeps_error.ite (keeps_ok.mpr h.modGroup)

theorem goes_execTokTake (h : s.canonical) (he : s.env g = some e) : Goes (execTokTake g s) := by
  refine goes_runWait h he ((keeps_ok.mpr h.next).ite ?_)
  split
  · exact keeps_error
  · refine (keeps_ok.mpr h.acquire.next).ite ((keeps_ok.mpr ?_).ite (keeps_ok.mpr h.change.waitIn))
    exact (State.canonical.acquire h.modCore).next

theorem goes_execTokGive {a : Opd} {pass : Bool} (h : s.canonical) (he : s.env g = some e) : Goes (execTokGive g a pass s) := by
  refine goes_runOrdered h he ?_
  split
  · exact keeps_ok.mpr h
  · split
    · exact keeps_error
    · refine keeps_error.ite (Keeps.ite (keeps_error.ite (keeps_ok.mpr ?_)) (keeps_ok.mpr ?_))
      · exact State.canonical.wakeGroup h.release.modCore
      · exact State.canonical.tokServe h.release.modCore

/-! ## Arrival, formation and entry -/

@[simp] theorem State.canonical.putCrew {grp c : Nat} {y : Crew} (h : s.canonical) : (s.putCrew grp c y).canonical := h.modGroup

@[simp] theorem State.canonical.form {grp c : Nat} (h : s.canonical) : (s.form grp c).canonical := by
  unfold State.form
  split
  · exact h
  · exact h.ite ((h.putCrew.foldl fun _ _ ht => ht.unlatch).ite h.putCrew)

@[simp] theorem State.canonical.arrive {grp c : Nat} {a : Arrival} (h : s.canonical) : (s.arrive grp c a).canonical := by
  unfold State.arrive
  split
  · exact h
  · exact h.putCrew.form

theorem goes_runMma {i : Instr} {a : Opd} {m : MmaMods} {sparse : Bool} (h : s.canonical) (he : s.env g = some e) :
    Goes (runMma i g a m sparse s) := by
  unfold runMma
  simp only [he]
  refine (goes_next.mpr h.next).ite ((goes_next.mpr h).ite ?_)
  split
  · exact goes_next.mpr h.stopAt
  · split
    · exact goes_next.mpr h.stopAt
    · split
      · refine goes_next.mpr (State.canonical.arrive (h.takeUid.modWave fun w hw => ?_))
        exact (Wave.wf_congr rfl rfl rfl).trans (Wave.raise_wf.trans hw)
      · exact goes_next.mpr h.next

@[simp] theorem State.canonical.unlatchEntered {a : Arrival} (h : s.canonical) : (s.unlatchEntered a).canonical := by
  refine h.modWave fun w hw => ?_
  split
  · exact hw
  · split
    · exact hw
    · exact Wave.resume_wf.trans hw

theorem goes_execMatrixEntry {core grp c : Nat} (h : s.canonical) : Goes (execMatrixEntry core grp c s) := by
  unfold execMatrixEntry
  split
  · dsimp only
    split
    · exact goes_next.mpr h
    · refine (goes_next.mpr h).ite ?_
      split
      · exact goes_next.mpr (h.putCrew.foldl fun _ _ ht => ht.unlatch)
      · exact goes_next.mpr (h.putCrew.foldl fun _ _ ht => ht.unlatch)
      · exact goes_next.mpr (State.canonical.form (State.canonical.foldl h.putCrew.modCore fun _ _ ht => ht.unlatchEntered))
  · exact goes_next.mpr h

/-! ## The end of a joint operation -/

@[simp] theorem State.canonical.memberDone {a : Arrival} {err : Option (Nat × Nat)} (h : s.canonical) :
    (s.memberDone a err).canonical := by
  unfold State.memberDone
  split
  · exact h
  · split
    · exact h
    · next w _ o _ =>
      have h1 : ((s.modWave a.wave (fun w => w.opDone o o.undone)).settleGang a.wave).canonical :=
        State.canonical.settleGang (h.modWave fun _ hw => Wave.opDone_wf.trans hw)
      dsimp only
      split
      · exact h1.addAsync
      · exact h1

theorem Group.wf_withTiles {x : Group} {l : List (Nat × W32)} (h : x.wf = true) {y : Group} (hs : y.spad = x.spad)
    (ht : y.tiles = x.tiles.setAll l) : y.wf = true :=
  Group.wf_iff.mpr ⟨by rw [hs]; exact (Group.wf_iff.mp h).1, by rw [ht]; exact Store.wf_setAll _ _ (Group.wf_iff.mp h).2⟩

@[simp] theorem State.canonical.memberCompute {grp : Nat} {a : Arrival} {b : Slot} (h : s.canonical) :
    (s.memberCompute grp a b).canonical := by
  unfold State.memberCompute
  split
  · exact h
  · refine State.canonical.memberDone (State.canonical.congr (h.modGroup (g := grp) fun x hx => ?_))
    exact Group.wf_withTiles hx rfl rfl

theorem goes_execMatrixOpFinish {core : Nat} (h : s.canonical) : Goes (execMatrixOpFinish core s) := by
  unfold execMatrixOpFinish
  dsimp only
  split
  · split
    · exact goes_next.mpr h
    · refine (goes_next.mpr h).ite (goes_next.mpr ?_)
      split
      · exact h.modCore.foldl fun _ _ ht => ht.memberDone
      · exact (h.modCore.foldl fun _ _ ht => ht.memberDone).ite (h.modCore.foldl fun _ _ ht => ht.memberCompute)
  · exact goes_next.mpr h

/-! ## The weight buffer and the tiles -/

theorem goes_execWbload {a : Opd} {m : WbMods} (h : s.canonical) (he : s.env g = some e) : Goes (execWbload g a m s) := by
  refine goes_issueWith h he ?_ fun n t ht => ht.modCore
  split
  · exact keeps_ok.mpr h
  · exact keeps_error.ite (h.ceiling.ite (keeps_ok.mpr h))

theorem State.canonical.enterTile {m : AccMods} {id : Nat} (h : s.canonical) : (enterTile m e id s).canonical := h.modCore

theorem goes_execAccz {m : AccMods} (h : s.canonical) (he : s.env g = some e) : Goes (execAccz g m s) := by
  refine goes_issueWith h he ?_ fun n t ht => ht.enterTile
  split
  · exact keeps_ok.mpr h
  · exact keeps_error.ite (keeps_ok.mpr h)

theorem goes_execAccld {a b : Opd} {m : AccMods} (h : s.canonical) (he : s.env g = some e) : Goes (execAccld g a b m s) := by
  refine goes_issueWith h he ?_ fun n t ht => ht.enterTile
  split
  · exact keeps_ok.mpr h
  · exact keeps_error.ite (keeps_ok.mpr h)

theorem goes_execAccst {a b : Opd} {m : AccMods} (h : s.canonical) (he : s.env g = some e) : Goes (execAccst g a b m s) := by
  refine goes_issueWith h he ?_ fun n t ht => ht.enterTile
  split
  · exact keeps_ok.mpr h
  · exact keeps_error.ite (keeps_ok.mpr h)

@[simp] theorem State.canonical.doAccz {grp : Nat} {m : AccMods} (h : s.canonical) : (s.doAccz grp m).canonical :=
  h.modGroup fun _ hx => Group.wf_withTiles hx rfl rfl

@[simp] theorem State.canonical.doAccld {grp a b : Nat} {m : AccMods} (h : s.canonical) : (s.doAccld grp m a b).canonical :=
  h.modGroup fun _ hx => Group.wf_withTiles hx rfl rfl

@[simp] theorem State.canonical.doAccst {grp a b : Nat} {m : AccMods} (h : s.canonical) : (s.doAccst grp m a b).canonical := by
  unfold State.doAccst
  split
  · exact h
  · exact State.canonical.modGroup (h.foldl fun _ _ ht => ht.spadWrite)

/-! ## Copies: issue -/

theorem State.canonical.leaves_copyBox {grp l : Nat} {o : Op} (h : s.canonical) : Leaves (s.copyBox grp ag o l) := by
  refine leaves_error.ite ?_
  split
  · split
    · exact leaves_error
    · exact leaves_error
  · next ho =>
    dsimp only
    split
    · exact leaves_error
    · exact leaves_ok.mpr (h.obj ho)

theorem State.canonical.copyCheck {grp : Nat} {o : Op} {ls : List Nat} (h : s.canonical) : Keeps (s.copyCheck grp ag o ls) := by
  unfold State.copyCheck
  dsimp only
  split
  · exact keeps_error
  · exact keeps_error
  · refine keeps_ok.mpr (h.foldl fun t l ht => ?_)
    split
    · next hb => exact ht.leaves_copyBox _ _ hb
    · exact ht

theorem goes_issueCopy {i : Instr} {m : CpMods} {caps : List (Opd × Nat)} (h : s.canonical) (he : s.env g = some e) :
    Goes (issueCopy i g m caps s) := by
  refine goes_issueWith h he ?_ fun n t ht => State.canonical.modCore (ht.foldl fun t l ht => ?_)
  · have h0 {c : Bool} {sc : Scope} : (if c then s.acquire e.ag sc else s).canonical := h.acquire.ite h
    dsimp only
    split
    · exact keeps_error
    · next hc => exact (h0.copyCheck _ hc).ceiling.ite (keeps_ok.mpr (h0.copyCheck _ hc))
  · split
    · exact ht
    · exact ht.takeUid.modCore

/-! ## Copies: movement -/

theorem State.canonical.lineIn {grp n k : Nat} {c : Copy} {t : State} (h : s.canonical) (ht : s.lineIn grp ag c n k = .ok t) :
    t.canonical := by
  unfold State.lineIn at ht
  dsimp only at ht
  split at ht
  · cases ht
  · split at ht
    · cases ht
    · next s1 bs ho =>
      have h1 : s1.canonical := by
        split at ho
        · cases ho
          exact h
        · exact h.obj ho
      cases ht
      exact h1.foldl fun _ _ ht => ht.spadWrite.change

theorem State.canonical.lineOut {grp n k : Nat} {c : Copy} {t : State} (h : s.canonical) (ht : s.lineOut grp ag c n k = .ok t) :
    t.canonical := by
  unfold State.lineOut at ht
  dsimp only at ht
  split at ht
  · cases ht
    exact h
  · split at ht
    · cases ht
    · split at ht
      · cases ht
      · split at ht
        · cases ht
        · split at ht
          · cases ht
            exact h
          · cases ht
            exact h.setObj

theorem State.canonical.copyLine {grp n k : Nat} {c : Copy} {t : State} (h : s.canonical) (ht : s.copyLine grp ag c n k = .ok t) :
    t.canonical := by
  unfold State.copyLine at ht
  split at ht
  · exact h.lineOut ht
  · exact h.lineIn ht

@[simp] theorem State.canonical.moveLines {grp fuel n : Nat} {c : Copy} (h : s.canonical) :
    (s.moveLines grp ag c fuel n).1.canonical := by
  induction fuel generalizing s c n with
  | zero => exact h
  | succ fuel ih =>
    unfold State.moveLines
    split
    · exact h
    · split
      · exact h
      · split
        · exact h
        · next hl => exact ih (h.copyLine hl)

@[simp] theorem State.canonical.dropCopy {core id : Nat} (h : s.canonical) : (s.dropCopy core id).canonical := h.modCore

@[simp] theorem State.canonical.copyErr {ctx code detail addr row line : Nat} {c : Copy} {o : Op} {p : Bool} (h : s.canonical) :
    (s.copyErr ctx c o code detail addr row line p).canonical := h.addAsync.goViral.ite h.addAsync

@[simp] theorem State.canonical.copyFail {ctx addr row line : Nat} {c : Copy} {o : Op} {e : ObjErr} (h : s.canonical) :
    (s.copyFail ctx c o e addr row line).canonical := h.copyErr.ite h.copyErr

@[simp] theorem State.canonical.copyExcess {ctx row line : Nat} {c : Copy} {o : Op} (h : s.canonical) :
    (s.copyExcess ctx c o row line).canonical := h.copyErr.ite h

@[simp] theorem State.canonical.copyLast {c : Copy} {o : Op} {m : CpMods} {sc : Scope} (h : s.canonical) :
    (s.copyLast ag c o m sc).canonical := by
  unfold State.copyLast
  split
  · dsimp only
    split
    · exact h.copyFail
    · exact (h.release.ite h).setObj
  · exact (h.release.ite h).copyExcess

theorem goes_execCopyDelivery {core id lines : Nat} (h : s.canonical) : Goes (execCopyDelivery core id lines s) := by
  unfold execCopyDelivery
  split
  · exact goes_next.mpr h
  · split
    · exact goes_next.mpr h.dropCopy
    · split
      · exact goes_next.mpr h.dropCopy
      · dsimp only
        refine (goes_next.mpr h).ite ?_
        have h0 {c : Prop} [Decidable c] {a : Agent} {sc : Scope} : (if c then s.acquire a sc else s).canonical := h.acquire.ite h
        refine (goes_next.mpr h0.dropCopy.copyErr).ite (goes_next.mpr ?_)
        refine State.canonical.ite h0.moveLines.modCore ?_
        split
        · exact h0.moveLines.modCore
        · exact (State.canonical.dropCopy h0.moveLines.modCore).copyFail.copyExcess
        · exact (State.canonical.dropCopy h0.moveLines.modCore).copyLast

@[simp] theorem State.canonical.doWbload {u core grp : Nat} {o : Op} {m : WbMods} (h : s.canonical) :
    (s.doWbload u core grp ag o m).canonical := by
  unfold State.doWbload
  split
  · exact h
  · have h1 {sc : Scope} {f : Core → Core} := State.canonical.modCore (c := core) (f := f)
      ((h.acquire (ag := ag) (sc := sc)).ite (c := m.acq = true) h)
    dsimp only
    split
    · exact (State.canonical.addAsync h1.modCore).goViral
    · exact (State.canonical.release h1.modCore).ite h1.modCore

end

end Sys2Proof.Machine

/-! PROOFS. The canonical form is kept by system operations, by the completion of outstanding operations, and by the events of
a wave. -/

namespace Sys2Proof.Machine

set_option Elab.async false

section
variable {s : State} {g : Guard} {e : Env} {ag : Agent}

/-! ## System operations -/

theorem goes_execSget {d : Opd} {r : Byte} (h : s.canonical) (he : s.env g = some e) : Goes (execSget g d r s) := by
  have hw := h.env_wf he
  refine goes_runShort h he (keeps_error.ite (keeps_ok.mpr (h.setWave ?_)))
  split
  · exact Wave.wrN_wf hw
  · exact Wave.wrPart_wf hw

@[simp] theorem State.canonical.setNarm {u : Nat} (h : s.canonical) : (s.setNarm u ag).canonical := by
  unfold State.setNarm
  split
  · exact h
  · split
    · exact h
    · next ho => exact (h.obj ho).setObj

theorem State.canonical.ssetWrite {code v : Nat} {t : State} (h : s.canonical) (ht : s.ssetWrite e code v = some t) :
    t.canonical := by
  unfold State.ssetWrite at ht
  dsimp only at ht
  split at ht
  · split at ht
    · split at ht
      · cases ht
        exact State.canonical.setNarm h.modWave
      · cases ht
        exact h.modWave
    · cases ht
  · cases ht
    exact h.modWave
  · cases ht
    exact h.modWave

theorem goes_execSset {a : Opd} {r : Byte} (h : s.canonical) (he : s.env g = some e) : Goes (execSset g a r s) := by
  refine goes_runShort h he ?_
  split
  · exact keeps_ok.mpr h
  · refine keeps_error.ite (keeps_error.ite ?_)
    split
    · exact keeps_error
    · next hs => exact keeps_ok.mpr (h.ssetWrite hs)

theorem goes_execCctl {a b : Opd} {op : CctlOp} {fs : FlagSel} (h : s.canonical) (he : s.env g = some e) :
    Goes (execCctl g a b op fs s) := by
  refine goes_issueLong h he ?_
  split
  · exact keeps_ok.mpr h
  · exact keeps_error.ite (keeps_ok.mpr h)

theorem goes_execTlbinv {a b : Opd} {fs : FlagSel} (h : s.canonical) (he : s.env g = some e) : Goes (execTlbinv g a b fs s) := by
  refine goes_issueLong h he ?_
  split
  · exact keeps_ok.mpr h
  · exact keeps_error.ite (keeps_ok.mpr h)

@[simp] theorem State.canonical.doCctl {op : CctlOp} {va n : Nat} (h : s.canonical) : (s.doCctl ag op va n).canonical := by
  unfold State.doCctl
  split
  · exact h.modCore
  · dsimp only
    have h1 {ps : List Place} := h.foldl (l := ps) (f := fun s p =>
      let t := s.l2WriteBack ag.cluster p
      if p.isHome then t.mscFlush (some ag.cluster) p else t) fun t p ht => ht.l2WriteBack.mscFlush.ite ht.l2WriteBack
    exact h1.ite (State.canonical.modCore (h1.foldl fun _ _ ht => ht.l2Flush))

@[simp] theorem State.canonical.doTlbinv {asid va n : Nat} (h : s.canonical) : (s.doTlbinv asid va n).canonical := h.ite h.congr

theorem goes_execProbe {d a : Opd} {fs : FlagSel} (h : s.canonical) (he : s.env g = some e) : Goes (execProbe g d a fs s) :=
  goes_issueLong h he (keeps_ok.mpr h)

theorem goes_execScanStart {d a : Opd} {fs : FlagSel} (h : s.canonical) (he : s.env g = some e) : Goes (execScanStart g d a fs s) := by
  refine goes_issueLong h he ?_
  split
  · exact keeps_error
  · exact keeps_ok.mpr h

theorem goes_execScanPoll {d a : Opd} {fs : FlagSel} (h : s.canonical) (he : s.env g = some e) : Goes (execScanPoll g d a fs s) := by
  refine goes_issueLong h he ?_
  split
  · exact keeps_error
  · exact keeps_ok.mpr h

@[simp] theorem State.canonical.doScanStart {core : Nat} (h : s.canonical) : (s.doScanStart core).1.canonical := h.congr

@[simp] theorem State.canonical.doScanPoll {x : Nat} (h : s.canonical) : (s.doScanPoll x).1.canonical := by
  unfold State.doScanPoll
  split
  · exact h
  · exact State.canonical.ite h.congr h

theorem goes_execHalt (h : s.canonical) (he : s.env g = some e) : Goes (execHalt g s) :=
  goes_runShort h he ((keeps_ok.mpr h.next).ite (keeps_error.ite (keeps_ok.mpr h.next.modWave)))

/-! ## The completion of operations -/

@[simp] theorem State.canonical.setOp {u : Nat} {o : Op} (h : s.canonical) : (s.setOp u o).canonical := h.modWave

@[simp] theorem State.canonical.sliceDone {u slice : Nat} {o : Op} (h : s.canonical) : (s.sliceDone u o slice).canonical :=
  h.modWave fun _ hw => Wave.opDone_wf.trans hw

theorem State.canonical.actOnce {u slice : Nat} {o : Op} {f : State → State} (h : s.canonical) (hf : (f s).canonical) :
    (s.actOnce u o slice f).canonical := h.sliceDone.ite hf.setOp.sliceDone

@[simp] theorem State.canonical.writeDst {u : Nat} {o : Op} {lanes : W32} {f : Nat → W128} (h : s.canonical) :
    (s.writeDst u o lanes f).canonical := by
  refine h.modWave fun w hw => ?_
  split
  · exact Wave.wrOp_wf hw
  · exact hw

@[simp] theorem State.canonical.refuseLanes {u code detail : Nat} {o : Op} {lanes : W32} (h : s.canonical) :
    (s.refuseLanes u ag o lanes code detail).canonical := h.addAsync.goViral.ite h.addAsync

@[simp] theorem State.canonical.completeMem {u grp slice count : Nat} {o : Op} {a : Acc} (h : s.canonical) :
    (s.completeMem u ag grp o a slice count).canonical := by
  have hperform {ls : W32} {o o1 : Op} {c : Prop} [Decidable c] :
      (if c then ((if ls = 0 then s else s.performMem u ag grp o a ls).setOp u o1).sliceDone u o1 slice
        else (if ls = 0 then s else s.performMem u ag grp o a ls).setOp u o1).canonical :=
    State.canonical.ite ((h.ite h.performMem).setOp.sliceDone) (h.ite h.performMem).setOp
  unfold State.completeMem
  dsimp only
  refine hperform.ite ?_
  split
  · exact h.holdOp
  · exact hperform.foldl fun _ _ ht => ht.refuseLanes

@[simp] theorem State.canonical.completeHad {u slice : Nat} {o : Op} {dty : Ty} {rnd : Rnd} {sat inv : Bool} (h : s.canonical) :
    (s.completeHad u ag o slice dty rnd sat inv).canonical := by
  refine h.sliceDone.ite ?_
  dsimp only
  split
  · exact h.holdOp
  · exact h.loadVa.actOnce h.loadVa.writeDst

@[simp] theorem State.canonical.queueDone {u code : Nat} {o : Op} {vs : List (Nat × W64)} {left : List Nat} {hits : List (Nat × Nat)}
    (h : s.canonical) : (s.queueDone u ag o vs left hits code).canonical := by
  unfold State.queueDone
  dsimp only
  split
  · exact h.writeDst.setOp
  · exact h.writeDst.setOp.addAsync

@[simp] theorem State.canonical.completeQueue {u grp slice : Nat} {o : Op} (h : s.canonical) :
    (s.completeQueue u ag grp o slice).canonical := by
  refine h.sliceDone.ite ?_
  split
  · exact h.holdOp
  · next hq =>
    have h1 := h.leaves_queueOp _ _ hq
    exact h1.queueDone.sliceDone.ite h1.queueDone

@[simp] theorem State.canonical.completeLaunch {u slice : Nat} {o : Op} (h : s.canonical) :
    (s.completeLaunch u ag o slice).canonical := by
  refine (h.sliceDone.ite h).ite ?_
  split
  · exact h.holdOp
  · next hr => exact (h.leaves_readRecords _ _ hr).release.setOp.congr

@[simp] theorem State.canonical.leaveArray {core id : Nat} (h : s.canonical) : (s.leaveArray core id).canonical := h.modCore

theorem State.canonical.completeTile {u core grp slice tile : Nat} {o : Op} {f : State → State} (h : s.canonical)
    (hf : (f (s.leaveArray core o.id)).canonical) : (s.completeTile u core grp o slice tile f).canonical := h.ite (h.actOnce hf)

@[simp] theorem State.canonical.completeOp {u core grp slice count : Nat} {o : Op} (h : s.canonical) :
    (s.completeOp u core grp ag o slice count).canonical := by
  unfold State.completeOp
  dsimp only
  split
  · exact h.completeHad
  · exact h.completeQueue
  · exact h.completeQueue
  · exact h.completeQueue
  · exact h.completeLaunch
  · exact h.actOnce h.dropIcache
  · exact h.actOnce h.doCctl
  · exact h.actOnce h.doTlbinv
  · exact h.writeDst.setOp.sliceDone
  · exact h.ite (h.actOnce h.doScanStart.writeDst)
  · exact h.actOnce h.doScanPoll.writeDst
  · exact h.ite (h.actOnce h.doWbload)
  · exact h.completeTile h.leaveArray.doAccz
  · exact h.completeTile h.leaveArray.doAccld
  · exact h.leaveArray.holdOp.ite (h.completeTile h.leaveArray.doAccst)
  · exact h.sliceDone.ite h
  · exact h.sliceDone.ite h
  · exact h.sliceDone.ite h
  · exact h.sliceDone.ite h
  · exact h
  · exact h
  · split
    · exact h.completeMem
    · exact h.sliceDone

theorem goes_execLongOpComplete {core wid id : Nat} {share : OpShare} (h : s.canonical) :
    Goes (execLongOpComplete core wid id share s) := by
  unfold execLongOpComplete
  split
  · exact goes_next.mpr h
  · split
    · exact goes_next.mpr h
    · exact (goes_next.mpr h).ite (goes_next.mpr h.completeOp.settleGang)

/-! ## The start of a clause -/

theorem State.canonical.leaves_icWord {va : Nat} (h : s.canonical) : Leaves (s.icWord ag va) := by
  unfold State.icWord
  dsimp only
  split
  · exact leaves_error.ite (leaves_ok.mpr h)
  · split
    · exact leaves_error
    · split
      · exact leaves_error
      · refine leaves_error.ite (leaves_ok.mpr (State.icFill_canonical.mpr (State.canonical.readAt ?_)))
        exact h.tlbFill.l2Stale

theorem State.canonical.leaves_fetchWord {u va : Nat} (h : s.canonical) : Leaves (s.fetchWord u ag va) := by
  unfold State.fetchWord
  split
  · exact leaves_ok.mpr h
  · exact h.leaves_icWord

theorem State.canonical.leaves_fetchWords {u va n : Nat} (h : s.canonical) : Leaves (s.fetchWords u ag va n) := by
  induction n generalizing s va with
  | zero => exact leaves_ok.mpr h
  | succ n ih =>
    unfold State.fetchWords
    split
    · exact leaves_error
    · next hx =>
      split
      · exact leaves_error
      · next hr => exact leaves_ok.mpr (ih (h.leaves_fetchWord _ _ hx) _ _ hr)

@[simp] theorem State.canonical.stopStart {b : Bad} (h : s.canonical) : (s.stopStart e b).canonical := h.stopWave

theorem goes_execClauseStart (h : s.canonical) (he : s.env ⟨false, 0⟩ = some e) : Goes (execClauseStart s) := by
  unfold execClauseStart
  simp only [he]
  refine (goes_next.mpr h).ite ?_
  split
  · exact goes_next.mpr h.stopStart
  · next s1 hd hf =>
    have h1 := h.leaves_fetchWord _ _ hf
    refine (goes_next.mpr h1).ite ?_
    split
    · next hr => exact goes_next.mpr (h1.reportAt hr)
    · have h2 : (if hdrToken hd then s1.modWave e.u (fun w => (w.modSlices e.st SliceSt.select).reStrand) else s1).canonical :=
        State.canonical.ite h1.modWave h1
      refine (goes_next.mpr h1.stopStart).ite ((goes_next.mpr h2).ite ?_)
      split
      · exact goes_next.mpr h2.stopStart
      · next hw => exact goes_next.mpr (h2.leaves_fetchWords _ _ hw).modWave

theorem goes_rejectAt {r : Reject} (h : s.canonical) (he : s.env g = some e) : Goes (s.rejectAt g r) := by
  unfold State.rejectAt
  simp only [he]
  exact goes_next.mpr h.stopAt

/-! ## Traps and stalls -/

theorem goes_execTrapEntry {core wid : Nat} (h : s.canonical) : Goes (execTrapEntry core wid s) := by
  unfold execTrapEntry
  split
  · exact goes_next.mpr h
  · exact (goes_next.mpr h).ite (goes_next.mpr h.takeTrap.ifGone)

theorem Wave.rootWaits_wf {w : Wave} {t : TaskCtx} {x : Bool × Fin 8 × W64} (h : w.wf = true) (ht : w.rootWaits = some (t, x)) :
    t.wf = true := by
  unfold Wave.rootWaits at ht
  split at ht
  · cases ht
  · split at ht
    · next hr =>
      cases ht
      exact (Wave.wf_iff.mp h).2.2 _ hr
    · cases ht

theorem State.canonical.stallWave {u : Nat} {w : Wave} (h : s.canonical) (hw : w.wf = true) : (s.stallWave u w).canonical := by
  have hstop (t : State) (v : Wave) (ht : t.canonical) : State.canonical (match v.waiting with
      | [] => t
      | n :: r =>
        let sl := (n :: r).foldl (fun m k => m ||| v.strandSlices k) (0 : BitVec 8)
        t.stopWave u ((⟨6, 5, 0, 0xFF, none⟩ : Bad).req none sl (v.slice n).pc (v.activeLanes sl))) := by
    split
    · exact ht
    · exact ht.stopWave
  unfold State.stallWave
  dsimp only
  refine h.ite ?_
  split
  · next hr =>
    refine hstop _ _ ((h.resumeRoot (Wave.rootWaits_wf hw hr)).modWave fun v hv => ?_)
    split
    · exact hv
    · exact hv
  · exact h.ite (hstop _ _ h)

theorem State.canonical.foldl_mem {α : Type} {l : List α} {f : State → α → State} (h : s.canonical)
    (hf : ∀ t, ∀ x ∈ l, t.canonical → (f t x).canonical) : (l.foldl f s).canonical := by
  induction l generalizing s with
  | nil => exact h
  | cons x r ih => exact ih (hf s x List.mem_cons_self h) fun t y hy => hf t y (List.mem_cons_of_mem _ hy)

theorem State.canonical.wf_of_wavesOf (h : s.canonical) {n : Nat} {x : Nat × Wave} (hx : x ∈ s.wavesOf n) : x.2.wf = true :=
  h.waves_wf.1 x (List.mem_of_mem_filter hx)

theorem goes_execStallDetect {n : Nat} (h : s.canonical) : Goes (execStallDetect n s) := by
  unfold execStallDetect
  split
  · exact goes_next.mpr h
  · refine (goes_next.mpr h).ite (goes_next.mpr ?_)
    exact State.canonical.foldl_mem (State.canonical.modLaunch h.modGroup) fun t x hx ht => ht.stallWave (h.wf_of_wavesOf hx)

end

end Sys2Proof.Machine

/-! PROOFS. The canonical form is kept by the choice of strands, by time and the caches' drops, by save areas, and by KILN's
launches, placement, pre-emption and restore. -/

namespace Sys2Proof.Machine

set_option Elab.async false

section
variable {s : State} {ag : Agent}

/-! ## Partitions, time and caches -/

@[simp] theorem State.noteReady_wf {u : Nat} {w : Wave} : (s.noteReady u w).wf = w.wf := rfl

@[simp] theorem State.canonical.noteSlots {core part : Nat} (h : s.canonical) : (s.noteSlots core part).canonical := by
  refine State.canonical_iff.mpr ⟨h.mem, h.waves_wf.map fun x hx => ?_, h.groups, h.parked⟩
  split
  · exact hx
  · exact hx

@[simp] theorem State.canonical.markIssue {c : Cur} (h : s.canonical) : (s.markIssue c).canonical := by
  unfold State.markIssue
  split
  · exact h
  · exact State.canonical.modGroup h.modWave

@[simp] theorem State.canonical.elapse {n : Nat} (h : s.canonical) : (s.elapse n).canonical := by
  unfold State.elapse
  refine State.canonical.foldl ?_ fun _ _ ht => ht.pollAsync
  refine State.canonical_iff.mpr ⟨h.mem, h.waves_wf.map fun x hx => hx, h.groups_wf.map fun x hx => ?_, h.parked⟩
  split
  · exact hx
  · exact hx

@[simp] theorem State.canonical.dropClean {t : Turn} (h : s.canonical) : (s.dropClean t).canonical := by
  unfold State.dropClean
  split
  · exact h.modCore
  · exact h.modCore
  · exact h.modCluster
  · exact h.modCluster
  · refine State.canonical_iff.mpr ⟨?_, h.kiln⟩
    split
    · exact h.mem
    · split
      · exact h.mem
      · exact h.mem
  · exact h.congr
  · exact h

/-! ## Save areas -/

theorem Store.wf_foldl_clear {α : Type} {l : List α} {lo hi : α → Nat} {m : Mem} (h : Store.wf m = true) :
    Store.wf (l.foldl (fun m p => m.clear (lo p) (hi p)) m) = true :=
  List.foldlRecOn (motive := fun m : Mem => Store.wf m = true) _ _ h fun _ hm _ _ => Store.wf_clear _ _ _ hm

@[simp] theorem State.canonical.dump {tn : Tenant} {a n : Nat} {cells : List (Nat × Byte)} {poison : List Nat} (h : s.canonical) :
    (s.dump tn a n cells poison).canonical := by
  unfold State.dump
  refine State.canonical.foldl ?_ fun _ _ ht => ht.emberHit
  refine State.canonical_iff.mpr ⟨?_, h.kiln⟩
  refine List.foldlRecOn (motive := fun m : MemSys => m.wf = true) _ _ ?_ fun m hm _ _ => (MemSys.poisonWrite_wf m _).trans hm
  exact MemSys.wf_iff.mpr ⟨Store.wf_setAll _ _ (Store.wf_foldl_clear h.loc_wf), h.homes_wf⟩

theorem Wave.wf_withVregs {v : Wave} {r : Store 32} {l : List Nat} (hv : v.wf = true) (hr : Store.wf r = true) :
    ({ v with task := { v.task with vregs := r, poison := l } } : Wave).wf = true := by
  obtain ⟨ht, hc, hroot⟩ := Wave.wf_iff.mp hv
  exact Wave.wf_iff.mpr ⟨(TaskCtx.wf_iff _).mpr ⟨hr, ((TaskCtx.wf_iff _).mp ht).2⟩, hc, hroot⟩

@[simp] theorem State.canonical.saveOut {g : Nat} {a : SaveArea} (h : s.canonical) : (s.saveOut g a).canonical := by
  unfold State.saveOut
  split
  · exact h
  · have h2 {l : List (Nat × Slot)} {tn : Tenant} {pool : List (Nat × Byte)} {bad : List Nat} {f : State → Nat × Slot → State}
        (hf : ∀ t x, t.canonical → (f t x).canonical) := (h.dump (tn := tn) (a := a.base) (n := a.slots - a.base) (cells := pool)
      (poison := bad)).foldl (l := l) (f := f) hf
    refine State.canonical.foldl (State.canonical.modGroup ?_ fun x hx => rfl) fun t x ht => ht.modWave fun w hw =>
      Wave.wf_withVregs hw rfl
    exact (h2 fun t x ht => ht.dump).dump

theorem State.savedPart_wf {tn : Tenant} {a n : Nat} (h : s.canonical) : Store.wf (s.savedPart tn a n) = true :=
  Store.wf_foldl_clear (Store.wf_part _ _ _ h.loc_wf)

@[simp] theorem State.canonical.loadWave {a : SaveArea} {u : Nat} (h : s.canonical) : (s.loadWave a u).canonical := by
  unfold State.loadWave
  split
  · exact h
  · next w hw =>
    obtain ⟨ht, hc, -⟩ := Wave.wf_iff.mp (h.wf_of_wave hw)
    refine h.ite ?_
    extract_lets ag tn n wb shut src t below s1
    clear_value wb
    have h1 : s1.canonical := by
      refine h.modWave fun v hv => Wave.wf_withTask hv ?_ (State.chainOf_getD_wf hc (Wave.wf_iff.mp hv).2.1)
      exact (TaskCtx.wf_iff _).mpr ⟨Store.wf_words _, ((TaskCtx.wf_iff _).mp (TaskCtx.ofWave_wf ht)).2⟩
    exact h1.taskFault.ite h1

@[simp] theorem State.canonical.loadBack {g : Nat} {a : SaveArea} (h : s.canonical) : (s.loadBack g a).canonical := by
  unfold State.loadBack
  split
  · exact h
  · refine State.canonical.foldl (State.canonical.foldl (h.modGroup fun _ _ => ?_) fun t b ht => ht.modWave) fun t w ht => ht.loadWave
    exact Group.wf_iff.mpr ⟨State.savedPart_wf h, Store.wf_words _⟩

/-! ## KILN's own writes, and acceptance -/

@[simp] theorem State.canonical.kilnWrite {ctx a : Nat} {sc : Scope} {bs : List Byte} (h : s.canonical) :
    (s.kilnWrite ctx sc a bs).canonical := State.canonical.modCtx (State.canonical.setObj h.modCtx)

@[simp] theorem State.canonical.releaseAll {ctx : Nat} (h : s.canonical) : (s.releaseAll ctx).canonical :=
  h.foldl fun _ _ ht => ht.release

@[simp] theorem State.canonical.accept {src : Source} {r : Record} (h : s.canonical) : (s.accept src r).canonical := h.congr

@[simp] theorem State.canonical.writeCompletion {ctx a word : Nat} {sc : Scope} (h : s.canonical) :
    (s.writeCompletion ctx a word sc).canonical := h.ite h.release.kilnWrite

@[simp] theorem State.canonical.rejectRecord {ctx : Nat} {r : Record} (h : s.canonical) : (s.rejectRecord ctx r).canonical :=
  h.writeCompletion

@[simp] theorem State.canonical.setOver {ctx header : Nat} (h : s.canonical) : (s.setOver ctx header).canonical := by
  unfold State.setOver
  split
  · exact h
  · next ho => exact (h.obj ho).kilnWrite

@[simp] theorem State.canonical.overrunQueue {ctx queue header : Nat} (h : s.canonical) :
    (s.overrunQueue ctx queue header).canonical := State.canonical.setOver h.modCtx

@[simp] theorem State.canonical.readWriteIndex {ctx queue : Nat} (h : s.canonical) : (s.readWriteIndex ctx queue).canonical := by
  unfold State.readWriteIndex
  split
  · exact h
  · dsimp only
    split
    · exact h.modCtx
    · next ho =>
      have h1 := (h.obj ho).acquire (ag := s.agentFor ctx) (sc := .sys)
      exact (State.canonical.overrunQueue h1.modCtx).ite h1.modCtx

theorem goes_execDoorbell {fn : Nat} {v : W32} (h : s.canonical) : Goes (execDoorbell fn v s) := by
  unfold execDoorbell
  dsimp only
  split
  · exact goes_next.mpr h
  · split
    · exact goes_next.mpr h
    · exact (goes_next.mpr h).ite (goes_next.mpr (State.canonical.ite (State.canonical.readWriteIndex h.modCtx) h.modCtx))

theorem goes_execHostQueueRecordRead {ctx queue : Nat} (h : s.canonical) : Goes (execHostQueueRecordRead ctx queue s) := by
  unfold execHostQueueRecordRead
  extract_lets ring s0
  have h0 : s0.canonical := h.readWriteIndex.ite h
  split
  · exact goes_next.mpr h0
  · refine (goes_next.mpr h0).ite ((goes_next.mpr h0.overrunQueue).ite ((goes_next.mpr h0).ite (goes_next.mpr ?_)))
    refine State.canonical.kilnWrite (State.canonical.modCtx ?_)
    split
    · exact h0
    · next ho => exact (h0.obj ho).accept.ite (h0.obj ho).rejectRecord

theorem goes_execLaunchAccept {index : Nat} (h : s.canonical) : Goes (execLaunchAccept index s) := by
  unfold execLaunchAccept
  split
  · exact goes_next.mpr h
  · split
    · exact goes_next.mpr h
    · split
      · exact goes_next.mpr h
      · have hsub (l : List Submit) : ({ s with kiln := { s.kiln with submits := l } } : State).canonical := h.congr
        refine (goes_next.mpr h).ite ?_
        dsimp only
        split
        · exact goes_next.mpr (hsub _).holdOp
        · exact goes_next.mpr ((hsub _).foldl fun _ _ ht => ht.accept).setOp

/-! ## Launches -/

@[simp] theorem State.canonical.settleLaunch {l : Nat} (h : s.canonical) : (s.settleLaunch l).canonical := h.modLaunch

@[simp] theorem State.canonical.dropLaunch {l : Nat} {x : Launch} (h : s.canonical) : (s.dropLaunch l x).canonical := by
  unfold State.dropLaunch
  extract_lets ctx ls spans src s1 s2
  have h1 : s1.canonical := h.congr
  have h2 : s2.canonical := by
    dsimp only [s2]
    split
    · exact h1.modCtx
    · exact h1
  exact h2.ite h2.modCtx

theorem goes_execLaunchComplete {l : Nat} (h : s.canonical) : Goes (execLaunchComplete l s) := by
  unfold execLaunchComplete
  split
  · exact goes_next.mpr h
  · exact (goes_next.mpr h).ite (goes_next.mpr h.releaseAll.writeCompletion.dropLaunch)

/-! ## Placement -/

@[simp] theorem State.canonical.abortScan {k : Nat} (h : s.canonical) : (s.abortScan k).canonical := by
  unfold State.abortScan
  split
  · exact h
  · exact h.congr

@[simp] theorem State.canonical.arriveAt {k ctx : Nat} (h : s.canonical) : (s.arriveAt k ctx).canonical := by
  unfold State.arriveAt
  exact h.abortScan.modCore

@[simp] theorem State.canonical.takePolicy {ctx : Nat} (h : s.canonical) : (s.takePolicy ctx).canonical := h.modCtx

theorem freshWave_wf {t : State} {g idx base born park : Nat} {r : Record} : (freshWave t g idx base born park r).wf = true :=
  Wave.wf_iff.mpr ⟨TaskCtx.fresh_wf, List.forall_mem_nil _, fun _ hr => by cases hr⟩

@[simp] theorem State.canonical.placeWave {g idx base born park number : Nat} {r : Record} (h : s.canonical) :
    (s.placeWave g idx base born park number r).canonical := (h.takeUid.setWave freshWave_wf).kilnWrite

@[simp] theorem State.canonical.placeGroup {l gn number pos : Nat} {spot : Nat × Nat} {parks : List Nat} {r : Record}
    (h : s.canonical) : (s.placeGroup l gn number pos spot parks r).canonical :=
  (h.arriveAt.takeUid.setGroup rfl).foldl fun _ _ ht => ht.placeWave

theorem State.canonical.takeMemory {r : Record} {arena save : List Nat} {t : State} (h : s.canonical)
    (ht : s.takeMemory r arena save = some t) : t.canonical := by
  unfold State.takeMemory at ht
  split at ht
  · cases ht
  · split at ht
    · cases ht
    · split at ht
      · cases ht
        exact h.modCtx
      · cases ht

@[simp] theorem State.canonical.startAcquire {l : Launch} {spots : List (Nat × Nat)} (h : s.canonical) :
    (s.startAcquire l spots).canonical := h.foldl fun _ _ ht => ht.acquire

@[simp] theorem State.canonical.placeGang {l number : Nat} {x : Launch} {spots : List (Nat × Nat)} {arena save : List Nat}
    (h : s.canonical) : (s.placeGang l x number spots arena save).canonical := by
  have h1 (gs : Tab Gang) : ({ s.takeUid.2 with kiln := { s.takeUid.2.kiln with gangs := gs } } : State).canonical := h.takeUid.congr
  exact State.canonical.settleLaunch (State.canonical.modLaunch
    ((h1 _).takePolicy.foldl fun _ _ ht => ht.placeGroup).startAcquire)

theorem goes_execGangPlace {arena save : List Nat} (h : s.canonical) : Goes (execGangPlace arena save s) := by
  refine (goes_next.mpr h).ite ?_
  split
  · split
    · exact goes_next.mpr h
    · split
      · exact goes_next.mpr h
      · next hm => exact goes_next.mpr (h.takeMemory hm).placeGang
  · exact goes_next.mpr h

/-! ## Time slices, pre-emption and saving -/

theorem goes_execTimeSliceExpiry {gn : Nat} (h : s.canonical) : Goes (execTimeSliceExpiry gn s) := by
  unfold execTimeSliceExpiry
  split
  · exact goes_next.mpr h
  · exact (goes_next.mpr h.modGang).ite (goes_next.mpr h)

theorem goes_execGangPreempt {gn : Nat} (h : s.canonical) : Goes (execGangPreempt gn s) := by
  unfold execGangPreempt
  split
  · exact goes_next.mpr h
  · exact (goes_next.mpr h).ite (goes_next.mpr (h.foldl fun _ _ ht => ht.modGang))

@[simp] theorem State.canonical.saveGroup {g : Nat} {x : Group} (h : s.canonical) : (s.saveGroup g x).canonical := by
  unfold State.saveGroup
  split
  · exact h
  · have h2 {sl : List (Nat × Slot)} {tok : Option Nat} {tk : List (Nat × Nat)} {k : Nat} {f : Core → Core} :=
      State.canonical.modCore (c := k) (f := f) (State.canonical.modGroup (g := g) (f := fun y =>
        { y with core := none, savedSlots := sl, savedToken := tok, savedTakers := tk }) (h.release (ag := s.agentOf g) (sc := .dev)))
    dsimp only
    split
    · exact h2.tokServe.foldl fun _ _ ht => ht.modWave
    · exact (h2.tokServe.foldl fun _ _ ht => ht.modWave).saveOut

theorem goes_execGangSave {gn : Nat} (h : s.canonical) : Goes (execGangSave gn s) := by
  refine (goes_next.mpr h).ite ((goes_next.mpr h.hold).ite (goes_next.mpr ?_))
  have h2 (gs : List (Nat × Group)) (all : List Nat) := (h.foldl (l := gs) (f := fun s x => s.saveGroup x.1 x.2)
    fun _ _ ht => ht.saveGroup).foldl (l := all)
      (f := fun s g => s.modGang g (fun y => { y with state := .saved, marked := false, expired := false })) fun _ _ ht => ht.modGang
  exact State.canonical.foldl (State.canonical.congr (h2 _ _)) fun _ _ ht => ht.settleLaunch

/-! ## Restoring -/

theorem Wave.emberBack_wf {w : Wave} (h : w.wf = true) : w.emberBack.wf = true := by
  refine List.foldlRecOn (motive := fun w : Wave => w.wf = true) _ _ h fun v hv n _ => ?_
  split
  · exact Wave.resume_wf.trans (Wave.wrPart_wf hv)
  · exact hv

@[simp] theorem State.canonical.tokBack {k g : Nat} {x : Group} (h : s.canonical) : (s.tokBack k g x).canonical :=
  State.canonical.foldl h.modCore fun _ _ ht => ht.keepTakes

@[simp] theorem State.canonical.arriveWave {u base born : Nat} (h : s.canonical) : (s.arriveWave u base born).canonical := by
  have h1 : (s.modWave u (fun w => { w with
    wid := base + w.idx, born := born, pending := w.pending.map (fun x => { x with drain := false }) })).canonical := h.modWave
  refine h1.modWave fun w hw => ?_
  obtain ⟨ht, hc, hr⟩ := Wave.wf_iff.mp hw
  refine Wave.wf_iff.mpr ⟨State.arriving_wf ht, fun x hx => ?_, fun r hx => ?_⟩
  · obtain ⟨y, hy, rfl⟩ := List.mem_map.mp hx
    exact State.arriving_wf (hc y hy)
  · obtain ⟨y, hy, rfl⟩ := Option.map_eq_some_iff.mp hx
    exact State.arriving_wf (hr y hy)

@[simp] theorem State.canonical.seatGroup {g ctx : Nat} {x : Group} {spot : Nat × Nat} (h : s.canonical) :
    (s.seatGroup g ctx x spot).canonical := by
  unfold State.seatGroup
  have h1 {f : Group → Group} (hf : ∀ x, x.wf = true → (f x).wf = true) := State.canonical.modGroup (g := g)
    (h.arriveAt (k := spot.1) (ctx := ctx)).takeUid hf
  have h2 (t : State) (ht : t.canonical) : State.canonical (match t.saveArea g with
      | none => t
      | some a => t.loadBack g a) := by
    split
    · exact ht
    · exact ht.loadBack
  refine State.canonical.tokBack (State.canonical.acquire (State.canonical.foldl (State.canonical.modCore
    (State.canonical.modGroup (h2 _ (h1 ?_)) ?_)) fun _ _ ht => ht.arriveWave))
  · exact fun _ hx => hx
  · exact fun _ hx => hx

@[simp] theorem State.canonical.seatGang {gn : Nat} {y : Gang} {spots : List (Nat × Nat)} (h : s.canonical) :
    (s.seatGang gn y spots).canonical :=
  State.canonical.settleLaunch (State.canonical.modGang (h.takePolicy.foldl fun _ _ ht => ht.seatGroup))

@[simp] theorem State.canonical.resumeWave {u : Nat} (h : s.canonical) : (s.resumeWave u).canonical := by
  refine State.canonical.pollAsync (State.canonical.wake (h.settleAdoption.modWave fun w hw => ?_))
  split
  · exact hw
  · exact Wave.emberBack_wf hw

@[simp] theorem State.canonical.resumeGang {gn : Nat} (h : s.canonical) : (s.resumeGang gn).canonical := by
  refine State.canonical.foldl (h.foldl fun t x ht => ?_) fun t x ht => ht.foldl fun _ _ hv => hv.resumeWave
  split
  · exact ht.tokServe
  · exact ht

@[simp] theorem State.canonical.restoreGang {gn : Nat} {y : Gang} {spots : List (Nat × Nat)} (h : s.canonical) :
    (s.restoreGang gn y spots).canonical := h.seatGang.resumeGang

theorem goes_execGangRestore {gn : Nat} (h : s.canonical) : Goes (execGangRestore gn s) := by
  refine (goes_next.mpr h).ite ?_
  split
  · exact goes_next.mpr (h.ite (h.hold.ite h.restoreGang))
  · exact goes_next.mpr h

end

end Sys2Proof.Machine

/-! PROOFS. The canonical form is kept by what KILN does for spans and packets, and by the end of requests. -/

namespace Sys2Proof.Machine

set_option Elab.async false

section
variable {s : State} {ag : Agent}

/-! ## Reservation and commit -/

@[simp] theorem State.canonical.setSpan {k : Nat} {x : Span} (h : s.canonical) : (s.setSpan k x).canonical := h.congr

@[simp] theorem State.canonical.modSpan {k : Nat} {f : Span → Span} (h : s.canonical) : (s.modSpan k f).canonical := h.setSpan

@[simp] theorem State.canonical.releaseSpan {k : Nat} (h : s.canonical) : (s.releaseSpan k).canonical := h.setSpan.modCtx

@[simp] theorem State.canonical.reserveAll {k fuel : Nat} {arena save : List Nat} (h : s.canonical) :
    (s.reserveAll k fuel arena save).canonical := by
  induction fuel generalizing s arena save with
  | zero => exact h
  | succ fuel ih =>
    unfold State.reserveAll
    split
    · exact h
    · split
      · dsimp only
        split
        · exact ih (h.modSpan.foldl fun _ _ ht => ht.abortScan)
        · split
          · exact h
          · next hm => exact ih ((h.takeMemory hm).modSpan.foldl fun _ _ ht => ht.abortScan)
      · exact h

theorem goes_execSpanReserve {span : SpanMsg} {arena reserve : List Nat} (h : s.canonical) :
    Goes (execSpanReserve span arena reserve s) :=
  (goes_next.mpr h).ite (goes_next.mpr (h.modSpan.foldl fun _ _ ht => ht.releaseSpan).reserveAll.modSpan)

@[simp] theorem State.canonical.commitPlan {p : Plan} (h : s.canonical) : (s.commitPlan p).canonical := by
  unfold State.commitPlan
  split
  · exact h.placeGang
  · split
    · exact h.seatGang
    · exact h
  · exact h

theorem State.canonical.commitAll {l : List Plan} {t : State} (h : s.canonical) (ht : State.commitAll l s = some t) : t.canonical := by
  induction l generalizing s with
  | nil =>
    cases ht
    exact h
  | cons p r ih =>
    unfold State.commitAll at ht
    split at ht
    · exact ih h.commitPlan ht
    · cases ht

theorem goes_execSpanCommit {span : SpanMsg} {prio : Nat} {remotes : List (Nat × Nat)} (h : s.canonical) :
    Goes (execSpanCommit span prio remotes s) := by
  refine (goes_next.mpr h).ite ((goes_next.mpr h.hold).ite (goes_next.mpr ?_))
  split
  · next hc => exact (h.setSpan.commitAll hc).foldl fun _ _ ht => ht.resumeGang
  · exact h.releaseSpan

theorem goes_execSpanPriorityUpdate {span : SpanMsg} {prio : Nat} (h : s.canonical) : Goes (execSpanPriorityUpdate span prio s) :=
  (goes_next.mpr h.modSpan).ite (goes_next.mpr h)

/-! ## Departure -/

/-- A wave whose innermost helper runs. -/
theorem Wave.wf_helper {v : Wave} {x : Helper} {l : List Helper} (hv : v.wf = true) (hx : x.task.wf = true)
    (hl : ∀ y ∈ l, y.task.wf = true) : ({ v with task := x.task, chain := l, ended := none } : Wave).wf = true :=
  Wave.wf_withTask (v := { v with ended := none }) hv hx hl

theorem State.canonical.faultChain {u : Nat} {l : List Helper} (h : s.canonical) (hl : ∀ y ∈ l, y.task.wf = true) :
    (s.faultChain u l).canonical := by
  induction l generalizing s with
  | nil => exact h.taskFault
  | cons x r ih =>
    obtain ⟨hx, hr⟩ := List.forall_mem_cons.mp hl
    exact ih (h.taskFault.modWave fun v hv => Wave.wf_helper hv hx hr) hr

theorem State.canonical.faultTasks {u : Nat} {w : Wave} (h : s.canonical) (hw : w.wf = true) : (s.faultTasks u w).canonical := by
  obtain ⟨-, hc, -⟩ := Wave.wf_iff.mp hw
  unfold State.faultTasks
  split
  · exact h.faultChain hc
  · split
    · exact h
    · next hchain =>
      rw [hchain] at hc
      obtain ⟨hx, hr⟩ := List.forall_mem_cons.mp hc
      exact State.canonical.faultChain (h.modWave fun v hv => Wave.wf_helper hv hx hr) hr

@[simp] theorem State.canonical.removeGroup {g : Nat} (h : s.canonical) : (s.removeGroup g).canonical := by
  unfold State.removeGroup
  refine State.canonical.settleGangExit (State.canonical.freeGroup (State.canonical.modGroup (State.canonical.returnBlocks ?_)))
  refine State.canonical.foldl h.modCore fun t u ht => ?_
  split
  · exact ht
  · next hw => exact ht.ite (State.canonical.modWave (ht.faultTasks (ht.wf_of_wave hw)))

theorem goes_execMemberDepart {span : SpanMsg} {member : Nat} (h : s.canonical) : Goes (execMemberDepart span member s) := by
  unfold execMemberDepart
  dsimp only
  split
  · exact goes_next.mpr (h.hold.ite h)
  · split
    · exact goes_next.mpr h
    · refine (goes_next.mpr h).ite ?_
      have h1 {k : Nat} {f : Span → Span} {c : Prop} [Decidable c] :
          (if c then s.modSpan k f else (s.modSpan k f).releaseSpan k).canonical := h.modSpan.ite h.modSpan.releaseSpan
      have h2 {k : Nat} {f : Span → Span} {c : Prop} [Decidable c] {x : Option (Nat × Group)} : State.canonical (match x with
          | some (g, _) => (if c then s.modSpan k f else (s.modSpan k f).releaseSpan k).removeGroup g
          | none => if c then s.modSpan k f else (s.modSpan k f).releaseSpan k) := by
        split
        · exact h1.removeGroup
        · exact h1
      have h4 (t : State) (ht : t.canonical) (l : List (Nat × Group)) : State.canonical (l.foldl (fun s y => s.modGang y.2.gang (fun z =>
            if z.state = .resident then { z with marked := true } else z)) (l.foldl (fun s y => (s.wavesOf y.1).foldl (fun s w =>
          if w.2.exited then s else s.addAsync w.1 (looseErr w.2 9 member 0)) s) t)) :=
        (ht.foldl fun _ _ ht => ht.foldl fun _ _ ht => ht.ite ht.addAsync).foldl fun _ _ ht => ht.modGang
      split
      · exact goes_next.mpr (h4 _ h2 _).settleSpan.settleHeld
      · split
        · exact goes_next.mpr (h4 _ h2 _).settleHeld
        · exact goes_next.mpr (h4 _ h2 _)

/-! ## Sessions and packets -/

@[simp] theorem State.canonical.modSession {n : Nat} {f : Session → Session} (h : s.canonical) : (s.modSession n f).canonical := h.congr

theorem goes_execInboxWake {n : Nat} (h : s.canonical) : Goes (execInboxWake n s) := by
  unfold execInboxWake
  split
  · exact goes_next.mpr h
  · refine (goes_next.mpr h).ite ?_
    dsimp only
    split
    · exact goes_next.mpr h
    · next ho =>
      have h1 := h.obj ho
      exact (goes_next.mpr h1.acquire.modSession.setOver).ite (goes_next.mpr h1.acquire.modSession)

theorem goes_execSessionKeyInstall {n : Nat} {key : BitVec 256} (h : s.canonical) : Goes (execSessionKeyInstall n key s) :=
  (goes_next.mpr h.modSession).ite (goes_next.mpr h)

@[simp] theorem State.canonical.packetDone {n : Nat} {x : Session} (h : s.canonical) : (s.packetDone n x).canonical :=
  h.modSession.kilnWrite

theorem goes_execPacketRead {n block : Nat} (h : s.canonical) : Goes (execPacketRead n block s) := by
  unfold execPacketRead
  split
  · exact goes_next.mpr h
  · refine (goes_next.mpr h).ite ?_
    split
    · exact goes_next.mpr h.packetDone
    · next ho =>
      have h1 := h.obj ho
      split
      · exact goes_next.mpr h1.packetDone
      · refine (goes_next.mpr h1.modSession.rejectRecord.packetDone).ite ((goes_next.mpr h).ite (goes_next.mpr ?_))
        exact (State.canonical.kilnWrite h1.modSession.modCtx).accept.packetDone

/-! ## The end of requests -/

@[simp] theorem State.canonical.endRequests {u grp code : Nat} {o : Op} {a : Acc} {ls : W32} {e : MemErr} {done : Bool} (h : s.canonical) :
    (s.endRequests u ag grp o a ls e code done).canonical :=
  h.ite (h.holdOp.ite (State.canonical.refuseLanes (State.canonical.setOp (h.performMem.ite h))))

@[simp] theorem State.canonical.endAccess {cut : Cut} {u grp code : Nat} {o : Op} {a : Acc} {lanes : W32} {e : MemErr} {done : Bool}
    (h : s.canonical) : (s.endAccess cut u ag grp o a lanes e code done).canonical := by
  refine h.ite ?_
  dsimp only
  split
  · exact h.holdOp
  · exact h.endRequests

@[simp] theorem State.canonical.endQueue {cut : Cut} {u grp code : Nat} {o : Op} {lanes : W32} {e : MemErr} {done : Bool}
    (h : s.canonical) : (s.endQueue cut u ag grp o lanes e code done).canonical := by
  have h0 {c : Prop} [Decidable c] : (if c then s.bumpFresh else s).canonical := h.bumpFresh.ite h
  unfold State.endQueue
  dsimp only
  split
  · exact h
  · exact h.holdOp
  · refine h.bumpFresh.holdOp.ite (State.canonical.ite ?_ h0.setOp.addAsync)
    split
    · next hq => exact (h0.leaves_queueOp _ _ hq).queueDone
    · exact h0.holdOp

theorem State.canonical.copyLine_getD {grp n k : Nat} {c : Copy} (h : s.canonical) :
    ((s.copyLine grp ag c n k).toOption.getD s).canonical := by
  cases hc : s.copyLine grp ag c n k with
  | error => exact h
  | ok t => exact h.copyLine hc

@[simp] theorem State.canonical.endCopy {cut : Cut} {core grp code : Nat} {o : Op} {c : Copy} {e : MemErr} {done : Bool}
    (h : s.canonical) : (s.endCopy cut core ag grp o c e code done).canonical := by
  unfold State.endCopy
  dsimp only
  split
  · refine h.dropCopy.copyErr.ite (State.canonical.ite ?_ h)
    exact (State.canonical.dropCopy (h.copyLine_getD.ite h)).copyErr
  · exact State.canonical.ite (State.canonical.dropCopy (h.setObj.ite h)).copyErr h
  · exact h.dropCopy.copyErr.ite h
  · exact h.dropCopy.copyErr.ite h
  · exact h

@[simp] theorem State.canonical.endIssued {cut : Cut} {u core grp code : Nat} {o : Op} {lanes : W32} {e : MemErr} {done : Bool}
    (h : s.canonical) : (s.endIssued cut u core ag grp o lanes e code done).canonical := by
  have hcopies {c : Prop} [Decidable c] {l : List Copy} :
      (if c then s else l.foldl (fun s c => s.endCopy cut core ag grp o c e code done) s).canonical :=
    h.ite (h.foldl fun _ _ ht => ht.endCopy)
  unfold State.endIssued
  split
  · exact h.endAccess
  · split
    · exact hcopies
    · exact hcopies
    · exact hcopies
    · exact hcopies
    · exact h.endQueue
    · exact h.endQueue
    · exact h.endQueue
    · exact h.endQueue
    · split
      · exact h.holdOp
      · exact h
    · exact h

theorem State.canonical.endAsk {cut : Cut} {u : Nat} {w : Wave} {e : MemErr} {t : State} (h : s.canonical)
    (ht : s.endAsk cut u w ag e = some t) : t.canonical := by
  unfold State.endAsk at ht
  obtain ⟨n, -, hn⟩ := List.exists_of_findSome?_eq_some ht
  clear ht
  dsimp only at hn
  generalize (w.slice n).wait = x at hn
  generalize (w.slice n).clause = y at hn
  rcases x with _ | x
  · rcases y with _ | c
    · dsimp only at hn
      split at hn
      · cases hn
      · obtain ⟨a, -, rfl⟩ := Option.map_eq_some_iff.mp hn
        exact h.stopStart
    · dsimp only at hn
      split at hn
      · cases hn
      · split at hn
        · split at hn
          · split at hn
            · cases hn
            · obtain ⟨a, -, rfl⟩ := Option.map_eq_some_iff.mp hn
              exact h.stopAt
          · cases hn
        · cases hn
  · cases x with
    | await lock pd a =>
      dsimp only at hn
      split at hn
      · obtain ⟨b, -, rfl⟩ := Option.map_eq_some_iff.mp hn
        exact h.stopAwait.unclaim
      · cases hn
    | _ => cases hn

@[simp] theorem State.canonical.endAll {cut : Cut} {e : MemErr} {code : Nat} {done : Bool} (h : s.canonical) :
    (s.endAll cut e code done).canonical := by
  refine h.foldl fun t x ht => ?_
  have h1 {ops : List Op} : (ops.foldl (fun s o => match s.wave x.1 with
      | none => s
      | some w =>
        if isEngine o.instr || (List.range 8).any (fun i => o.undone.getLsbD i && w.mayPerform o i) then
          s.endIssued cut x.1 (s.coreOf x.2.group) (t.agentOf x.2.group) x.2.group o 0xFFFFFFFF e code done
        else s) t).canonical := by
    refine ht.foldl fun v o hv => ?_
    split
    · exact hv
    · exact hv.endIssued.ite hv
  dsimp only
  split
  · exact h1
  · next w hw =>
    cases ha : State.endAsk _ cut x.1 w (t.agentOf x.2.group) e with
    | none => exact h1
    | some v => exact h1.endAsk ha

@[simp] theorem State.canonical.fenceBack {cluster sector : Nat} (h : s.canonical) : (s.fenceBack cluster sector).canonical := by
  unfold State.fenceBack
  dsimp only
  split
  · exact h
  · refine h.ite (State.canonical.noteLost ?_)
    have h1 {c : Prop} [Decidable c] {l : List PSector} {y : PSector} :
        (if c then ({ s with mem := { s.mem with msc := l } } : State) else s.l2Set cluster y).canonical :=
      State.canonical.ite h.congr (State.l2Set_canonical.mpr h)
    exact (State.forget_canonical.mpr h1).congr

end

end Sys2Proof.Machine

/-! PROOFS. The canonical form is kept by dead regions, extents, inbound requests, links, routes, errors of memory, and scans. -/

namespace Sys2Proof.Machine

set_option Elab.async false

section
variable {s : State} {ag : Agent}

/-! ## Dead regions and extents -/

@[simp] theorem State.canonical.declareDead {base size : Nat} (h : s.canonical) : (s.declareDead base size).canonical :=
  State.canonical_iff.mpr ⟨MemSys.wf_iff.mpr ⟨Store.wf_clear _ _ _ h.loc_wf, h.homes_wf⟩, h.kiln⟩

@[simp] theorem State.canonical.farDead {k base size : Nat} (h : s.canonical) : (s.farDead k base size).canonical := by
  refine State.canonical_iff.mpr ⟨MemSys.wf_iff.mpr ⟨h.loc_wf, fun x hx => ?_⟩, h.kiln⟩
  rcases Tab.mem_modify hx with hm | ⟨v, hv, rfl⟩
  · exact h.homes_wf x hm
  · exact Store.wf_clear _ _ _ (h.homes_wf _ hv)

@[simp] theorem State.canonical.dropFar {k base size : Nat} (h : s.canonical) : (s.dropFar k base size).canonical := by
  unfold State.dropFar
  have h1 {ps : List Place} := h.foldl (l := ps) (f := fun s p => s.cohHome none p) fun _ _ ht => ht.cohHome
  have h2 {ps : List Place} {cs : List Nat} {q : State → Nat → List Place} := (h1 (ps := ps)).foldl (l := cs)
    (f := fun s c => (q s c).foldl (fun s p => s.l2Flush c p) s) fun _ _ ht => ht.foldl fun _ _ hv => hv.l2Flush
  exact State.canonical.congr (State.canonical.foldl h2 fun _ _ ht => ht.mscFlush)

theorem goes_execExtentAdd {n size : Nat} {x : ExtentAt} (h : s.canonical) : Goes (execExtentAdd n x size s) := by
  refine (goes_next.mpr h).ite ?_
  split
  · exact (goes_next.mpr h).ite (goes_next.mpr h.declareDead.modTenant)
  · exact (goes_next.mpr h).ite (goes_next.mpr h.dropFar.farDead.modTenant)

theorem goes_execExtentRelease {n : Nat} {x : ExtentAt} (h : s.canonical) : Goes (execExtentRelease n x s) := by
  unfold execExtentRelease
  split
  · exact goes_next.mpr h.modTenant
  · exact goes_next.mpr h

@[simp] theorem State.canonical.dropSession {n : Nat} (h : s.canonical) : (s.dropSession n).canonical := h.congr

@[simp] theorem State.canonical.answerRelease {n base : Nat} (h : s.canonical) : (s.answerRelease n base).canonical := by
  unfold State.answerRelease
  split
  · exact h
  · exact h.ite (h.declareDead.modTenant.foldl fun _ _ ht => ht.dropSession)

theorem goes_execExtentReleaseAnswer {n : Nat} {x : ExtentAt} (h : s.canonical) : Goes (execExtentReleaseAnswer n x s) := by
  unfold execExtentReleaseAnswer
  split
  · exact goes_next.mpr h.answerRelease
  · split
    · exact goes_next.mpr h
    · exact goes_next.mpr h.modTenant.dropFar.farDead

theorem goes_execBisnp {kind : WinKind} {dest addr : Nat} (h : s.canonical) : Goes (execBisnp kind dest addr s) :=
  goes_next.mpr h.cohHome

/-! ## Inbound requests -/

@[simp] theorem State.canonical.inWrite {bad : Bool} {a fuel : Nat} {bs : List Byte} (h : s.canonical) :
    (s.inWrite bad a fuel bs).canonical := by
  induction fuel generalizing s a bs with
  | zero => exact h
  | succ fuel ih => exact h.ite (ih (h.backWrite.emberHit.ite h))

@[simp] theorem State.canonical.inHome {bad : Bool} {d a fuel : Nat} {bs : List Byte} (h : s.canonical) :
    (s.inHome bad d a fuel bs).canonical := by
  induction fuel generalizing s a bs with
  | zero => exact h
  | succ fuel ih => exact h.ite (ih h.cohHome.homeWrite.emberHit)

@[simp] theorem State.canonical.remoteSays {m : SpanMsg} {member : Nat} {f : Remote → Remote} (h : s.canonical) :
    (s.remoteSays m member f).canonical := by
  unfold State.remoteSays
  split
  · exact h
  · exact h.modRemote.settleSpan.settleHeld

@[simp] theorem State.canonical.inbound {r : InReq} (h : s.canonical) : (s.inbound r).canonical := by
  unfold State.inbound
  dsimp only
  split
  · exact h
  · exact h
  · exact State.canonical.ite h.congr h
  · exact h.inWrite.ite h
  · exact h.inWrite.ite h
  · exact h.inWrite.ite h
  · split
    · exact State.canonical.ite (State.canonical.modGroup h.spadWrite) h
    · exact h
  · exact h.remoteSays
  · exact h.remoteSays
  · exact h.remoteSays
  · exact h.remoteSays
  · exact h.inHome

theorem goes_execInboundRequest {r : InReq} (h : s.canonical) : Goes (execInboundRequest r s) := goes_next.mpr (h.hold.ite h.inbound)

/-! ## Viral indications, fences, links and routes -/

theorem goes_execCxlViralIndication {port : Nat} (h : s.canonical) : Goes (execCxlViralIndication port s) :=
  goes_next.mpr (h.foldl fun _ _ ht => ht.goViral)

theorem goes_execFencedResponse {core wid id : Nat} {f : Fenced} (h : s.canonical) : Goes (execFencedResponse core wid id f s) := by
  refine (goes_next.mpr h.fenceBack).ite ?_
  split
  · exact goes_next.mpr h
  · next u w _ =>
    dsimp only
    split
    · exact goes_next.mpr h.endIssued
    · cases ha : s.endAsk fenceCut u w (s.agentOf w.group) ⟨5, if f.refused then 2 else 1⟩ with
      | none => exact goes_next.mpr h
      | some t => exact goes_next.mpr (h.endAsk ha)

theorem goes_execLinkReplay {link : Nat} {again : Bool} (h : s.canonical) : Goes (execLinkReplay link again s) := goes_next.mpr h.congr

theorem goes_execLinkRetrain {link : Nat} {ok : Bool} (h : s.canonical) : Goes (execLinkRetrain link ok s) := by
  unfold execLinkRetrain
  split
  · exact goes_next.mpr h
  · exact (goes_next.mpr h).ite ((goes_next.mpr h.congr).ite ((goes_next.mpr h.congr).ite (goes_next.mpr h.congr)))

theorem goes_execRouteLost {kind : WinKind} {dest : Nat} {other performed : Bool} (h : s.canonical) :
    Goes (execRouteLost kind dest other performed s) :=
  (goes_next.mpr h.endAll).ite (goes_next.mpr (State.canonical.congr h.endAll))

theorem goes_execExpanderLost {port : Nat} (h : s.canonical) : Goes (execExpanderLost port s) := goes_next.mpr h.congr

theorem goes_execDirtySectorWriteback {cluster sector : Nat} (h : s.canonical) : Goes (execDirtySectorWriteback cluster sector s) := by
  refine Goes.ite ?_ ?_
  · split
    · exact goes_next.mpr h.mscFlush
    · exact goes_next.mpr h
  · split
    · exact (goes_next.mpr h).ite (goes_next.mpr h.l2Flush)
    · exact goes_next.mpr h

/-! ## Self tests, functions, errors of memory, scans and the clock -/

theorem goes_execSelfTestPass {f : Func} (h : s.canonical) : Goes (execSelfTestPass f s) := goes_next.mpr h.congr

@[simp] theorem State.canonical.deadRanges {fn : Nat} (h : s.canonical) : (s.deadRanges fn).canonical :=
  h.foldl fun _ _ ht => ht.declareDead

theorem goes_execFunctionEnable {fn : Nat} (h : s.canonical) : Goes (execFunctionEnable fn s) :=
  (goes_next.mpr h.hold).ite ((goes_next.mpr h).ite (goes_next.mpr h.deadRanges.bumpFresh.modTenant))

theorem goes_execFunctionReset {fn : Nat} (h : s.canonical) : Goes (execFunctionReset fn s) := by
  refine (goes_next.mpr h.hold).ite ((goes_next.mpr h).ite (Goes.ite (goes_next.mpr ?_) (goes_next.mpr ?_)))
  · exact h.deadRanges.bumpFresh.modTenant
  · exact (show ((s.deadRanges fn).bumpFresh).canonical from h.deadRanges.bumpFresh).congr

theorem goes_execCorrectableError {stack row : Nat} (h : s.canonical) : Goes (execCorrectableError stack row s) := goes_next.mpr h.congr

theorem goes_execUncorrectableError {loc : PoisonLoc} (h : s.canonical) : Goes (execUncorrectableError loc s) := by
  refine goes_next.mpr ?_
  split
  · exact State.canonical.ite h h.congr
  · exact h.congr
  · exact State.canonical.ite h h.congr
  · exact h.congr
  · exact h.modRemote
  · exact h.modCluster
  · exact State.canonical.ite h.modGroup h
  · split
    · exact State.canonical.ite h.modWave h
    · exact h
  · exact h.modGroup
  · exact h.modCore

theorem goes_execClinkerClear (h : s.canonical) : Goes (execClinkerClear s) := (goes_next.mpr h.congr).ite (goes_next.mpr h)

theorem goes_execScanRun {handle core : Nat} (h : s.canonical) : Goes (execScanRun handle core s) := by
  unfold execScanRun
  split
  · exact goes_next.mpr h
  · exact (goes_next.mpr h).ite (goes_next.mpr h.congr)

theorem goes_execScanComplete {handle : Nat} {pass : Bool} (h : s.canonical) : Goes (execScanComplete handle pass s) := by
  unfold execScanComplete
  split
  · exact goes_next.mpr h
  · exact goes_next.mpr (State.canonical.ite h.congr h.congr)

theorem goes_execClockAdjust {mhz : Nat} (h : s.canonical) : Goes (execClockAdjust mhz s) :=
  (goes_next.mpr h.congr).ite (goes_next.mpr h)

end

end Sys2Proof.Machine

/-! PROOFS. The canonical form is kept by the mailbox commands and by live firmware replacement. -/

namespace Sys2Proof.Machine

set_option Elab.async false

section
variable {s : State}

/-! ## Running a command -/

@[simp] theorem State.canonical.mbDone {fn seq result : Nat} {out : List Byte} (h : s.canonical) :
    (s.mbDone fn seq result out).canonical := h.modTenant

/-- A command that leaves every canonical state canonical, whatever the payload. -/
def Cmd.keeps (c : Cmd) : Prop := ∀ s t, s.canonical → Leaves (c.body s t)

@[simp] theorem State.canonical.carry {fn seq : Nat} {c : Cmd} (h : s.canonical) (hc : c.keeps) : (s.carry fn seq c).canonical := by
  refine h.mbDone.ite (h.ite (h.mbDone.ite (h.mbDone.ite ?_)))
  split
  · exact h.mbDone
  · next hb => exact hc _ _ h _ _ hb
  · next hb => exact (hc _ _ h _ _ hb).mbDone

theorem State.canonical.mbStart {fn code seq : Nat} {t : State} (h : s.canonical) (ht : s.mbStart fn code seq = some t) :
    t.canonical := by
  unfold State.mbStart at ht
  dsimp only at ht
  split at ht
  · cases ht
  · split at ht
    · cases ht
    · cases ht
      exact h.modTenant

@[simp] theorem State.canonical.command {fn code : Nat} {seq : Byte} {c : Cmd} (h : s.canonical) (hc : c.keeps) :
    (s.command fn code seq c).canonical := by
  unfold State.command
  split
  · exact h
  · next hs => exact (h.mbStart hs).carry hc

/-! ## Contexts and host queues -/

@[simp] theorem State.canonical.purgeAsid {a : Nat} (h : s.canonical) : (s.purgeAsid a).canonical := h.congr

@[simp] theorem State.canonical.dropCtx {n : Nat} {c : Ctx} (h : s.canonical) : (s.dropCtx n c).canonical :=
  State.canonical_iff.mpr ⟨h.mem, h.waves_wf, h.groups, h.parked_wf.filter⟩

theorem cmdCreateContext_keeps {fn : Nat} : (cmdCreateContext fn).keeps := by
  intro s t h
  refine leaves_check fun _ => leaves_error.ite (leaves_error.ite ?_)
  split
  · exact leaves_error
  · exact leaves_ok.mpr h.congr

theorem cmdDestroyContext_keeps {fn : Nat} : (cmdDestroyContext fn).keeps := by
  intro s t h
  exact leaves_check fun _ => (leaves_ok.mpr h).ite (leaves_ok.mpr h.dropCtx)

theorem cmdRegisterHostQueue_keeps {fn : Nat} : (cmdRegisterHostQueue fn).keeps := by
  intro s t h
  refine leaves_check fun _ => leaves_check fun _ => ?_
  split
  · exact leaves_error
  · next ho => exact leaves_check fun _ => leaves_ok.mpr (State.canonical.kilnWrite (h.obj ho).modCtx)

theorem cmdUnregisterHostQueue_keeps {fn : Nat} : (cmdUnregisterHostQueue fn).keeps := by
  intro s t h
  exact leaves_check fun _ => leaves_check fun _ => leaves_ok.mpr h.modCtx

/-! ## Kernels, windows and regions -/

theorem cmdRegisterKernel_keeps {fn : Nat} : (cmdRegisterKernel fn).keeps := by
  intro s t h
  exact leaves_check fun _ => leaves_error.ite ((leaves_ok.mpr h.hold).ite (leaves_error.ite
    (leaves_error.ite (leaves_ok.mpr h.modTenant))))

theorem cmdEnrolOrRemoveKernelKey_keeps : cmdEnrolOrRemoveKernelKey.keeps := by
  intro s t h
  exact leaves_check fun _ => (leaves_ok.mpr h.modTenant).ite
    (leaves_check fun _ => (leaves_ok.mpr h.hold).ite (leaves_ok.mpr h.modTenant))

theorem cmdWriteFabricWindow_keeps : cmdWriteFabricWindow.keeps := by
  intro s t h
  exact leaves_check fun _ => leaves_ok.mpr h.modTenant

@[simp] theorem State.canonical.flushAlias {t k : Nat} (h : s.canonical) : (s.flushAlias t k).canonical := by
  unfold State.flushAlias
  extract_lets mine s1 keep
  have h1 : s1.canonical := h.foldl fun _ _ ht => ht.foldl fun _ _ hv => hv.l2Flush
  exact h1.congr

theorem cmdWriteFormatRegion_keeps {fn : Nat} : (cmdWriteFormatRegion fn).keeps := by
  intro s t h
  exact leaves_check fun _ => leaves_ok.mpr (State.canonical.modTenant h.flushAlias)

/-! ## Ranges, policy and the device number -/

theorem cmdDeclareDeadOrLive_keeps : cmdDeclareDeadOrLive.keeps := by
  intro s t h
  exact leaves_check fun _ => leaves_ok.mpr (State.canonical.ite h.declareDead h.congr)

theorem cmdWriteTenantPolicy_keeps : cmdWriteTenantPolicy.keeps := by
  intro s t h
  exact leaves_check fun _ => leaves_ok.mpr h.modTenant

theorem cmdAssignOrRemoveLocalRange_keeps : cmdAssignOrRemoveLocalRange.keeps := by
  intro s t h
  exact leaves_check fun _ => Leaves.ite (leaves_check fun _ => leaves_ok.mpr h.modTenant)
    (leaves_check fun _ => leaves_ok.mpr (State.canonical.modTenant h.declareDead))

theorem cmdSetDeviceNumber_keeps : cmdSetDeviceNumber.keeps := by
  intro s t h
  exact leaves_check fun _ => leaves_error.ite (leaves_ok.mpr h.congr)

/-! ## The debugger and sessions -/

theorem cmdAttachOrDetachDebugger_keeps {fn : Nat} : (cmdAttachOrDetachDebugger fn).keeps := by
  intro s t h
  exact leaves_check fun _ => leaves_check fun _ => (leaves_ok.mpr h.modCtx).ite
    (leaves_ok.mpr (State.canonical.foldl h.modCtx fun _ _ ht => ht.modWave))

theorem cmdReadDbgctl_keeps {fn : Nat} : (cmdReadDbgctl fn).keeps := by
  intro s t h
  refine leaves_check fun _ => ?_
  split
  · exact leaves_error
  · exact leaves_ok.mpr h

theorem cmdWriteDbgctl_keeps {fn : Nat} : (cmdWriteDbgctl fn).keeps := by
  intro s t h
  refine leaves_check fun _ => leaves_check fun _ => ?_
  split
  · exact leaves_error
  · exact leaves_ok.mpr (State.canonical.pollAsync (State.canonical.wake h.modWave))

theorem cmdOpenSession_keeps {fn : Nat} : (cmdOpenSession fn).keeps := by
  intro s t h
  refine leaves_check fun _ => ?_
  dsimp only
  split
  · next ho _ =>
    refine leaves_check fun _ => ?_
    split
    · exact leaves_error
    · exact leaves_ok.mpr (State.canonical.kilnWrite (h.obj ho).congr)
  · exact leaves_error

theorem cmdCloseSession_keeps {fn : Nat} : (cmdCloseSession fn).keeps := by
  intro s t h
  refine leaves_check fun _ => ?_
  split
  · exact leaves_error
  · exact (leaves_ok.mpr h.dropSession).ite leaves_error

theorem cmdReserved_keeps : cmdReserved.keeps := fun _ _ _ => leaves_error

/-! ## Firmware -/

theorem cmdStageFirmware_keeps : cmdStageFirmware.keeps := by
  intro s t h
  refine leaves_check fun _ => (leaves_ok.mpr h.hold).ite ?_
  split
  · exact leaves_error
  · exact leaves_ok.mpr h.congr

theorem cmdActivateFirmware_keeps {fn : Nat} : (cmdActivateFirmware fn).keeps := by
  intro s t h
  exact leaves_check fun _ => leaves_error.ite (leaves_error.ite (leaves_ok.mpr h.congr))

theorem commandOf_keeps {fn code : Nat} : (commandOf fn code).keeps := by
  unfold commandOf
  split
  · exact cmdCreateContext_keeps
  · exact cmdDestroyContext_keeps
  · exact cmdRegisterHostQueue_keeps
  · exact cmdUnregisterHostQueue_keeps
  · exact cmdRegisterKernel_keeps
  · exact cmdWriteFabricWindow_keeps
  · exact cmdWriteFormatRegion_keeps
  · exact cmdDeclareDeadOrLive_keeps
  · exact cmdWriteTenantPolicy_keeps
  · exact cmdAttachOrDetachDebugger_keeps
  · exact cmdReadDbgctl_keeps
  · exact cmdWriteDbgctl_keeps
  · exact cmdStageFirmware_keeps
  · exact cmdActivateFirmware_keeps
  · exact cmdOpenSession_keeps
  · exact cmdCloseSession_keeps
  · exact cmdAssignOrRemoveLocalRange_keeps
  · exact cmdSetDeviceNumber_keeps
  · exact cmdEnrolOrRemoveKernelKey_keeps
  · exact cmdReserved_keeps

@[simp] theorem State.canonical.resume {fn : Nat} (h : s.canonical) : (s.resume fn).canonical :=
  h.ite (h.carry commandOf_keeps)

@[simp] theorem State.canonical.endActivation {a : Activation} {result : Nat} (h : s.canonical) :
    (s.endActivation a result).canonical :=
  State.canonical.foldl (State.canonical.mbDone h.congr) fun _ _ ht => ht.resume

@[simp] theorem State.canonical.pollMarked (h : s.canonical) : s.pollMarked.canonical := h.foldl fun _ _ ht => ht.pollAsync

@[simp] theorem State.canonical.unmark (h : s.canonical) : s.unmark.canonical := h.congr

theorem goes_execSafePoint (h : s.canonical) : Goes (execSafePoint s) := by
  unfold execSafePoint
  split
  · exact goes_next.mpr h
  · refine (goes_next.mpr h).ite ?_
    extract_lets _ s1
    have h1 : s1.canonical := h.congr
    exact goes_next.mpr (h1.pollMarked.ite h1)

theorem goes_execCone {version : W64} (h : s.canonical) : Goes (execCone version s) := by
  unfold execCone
  split
  · exact goes_next.mpr h
  · split
    · exact goes_next.mpr h
    · exact (goes_next.mpr h).ite (Goes.ite ((goes_next.mpr h.endActivation).ite (goes_next.mpr h))
        ((goes_next.mpr (State.canonical.endActivation h.congr)).ite (goes_next.mpr h)))

theorem goes_execConeDeadlineExpiry (h : s.canonical) : Goes (execConeDeadlineExpiry s) := by
  unfold execConeDeadlineExpiry
  split
  · exact goes_next.mpr h
  · split
    · exact goes_next.mpr h
    · refine (goes_next.mpr h).ite ((goes_next.mpr h.congr).ite ?_)
      extract_lets s1
      have h1 : s1.canonical := h.endAll.ite (h.unmark.pollMarked.ite h)
      exact goes_next.mpr (State.canonical.endActivation h1.congr)

theorem goes_execRegisterWrite {fn offset : Nat} {value : W32} (h : s.canonical) : Goes (execRegisterWrite fn offset value s) :=
  (goes_next.mpr h).ite ((goes_next.mpr h.modTenant).ite ((goes_next.mpr h.congr).ite (goes_next.mpr h)))

theorem goes_execMailboxReservedCommand {fn : Nat} {code seq : Byte} (h : s.canonical) :
    Goes (execMailboxReservedCommand fn code seq s) :=
  (goes_next.mpr h).ite (goes_next.mpr (h.command cmdReserved_keeps))

end

end Sys2Proof.Machine

/-! PROOFS. Every instruction and every event answers a next state and keeps the canonical form; so does every step. -/

namespace Sys2Proof.Machine

set_option Elab.async false

section
variable {s : State}

/-! ## Instructions and events -/

theorem goes_runMinmax {i : Instr} {g : Guard} {d a b : Opd} {ty : Ty} {mx : Bool} {e : Env} (h : s.canonical)
    (he : s.env g = some e) : Goes (runMinmax i g d a b ty mx s) := goes_setWave h he fun hw => Wave.wrPart_wf hw

theorem goes_runAdd {i : Instr} {g : Guard} {d a b : Opd} {ty : Ty} {r : Rnd} {e : Env} (h : s.canonical)
    (he : s.env g = some e) : Goes (runAdd i g d a b ty r s) := goes_runChecked h he

theorem goes_runSub {i : Instr} {g : Guard} {d a b : Opd} {ty : Ty} {r : Rnd} {e : Env} (h : s.canonical)
    (he : s.env g = some e) : Goes (runSub i g d a b ty r s) := goes_runChecked h he

theorem goes_runMul {i : Instr} {g : Guard} {d a b : Opd} {ty : Ty} {r : Rnd} {e : Env} (h : s.canonical)
    (he : s.env g = some e) : Goes (runMul i g d a b ty r s) := goes_runChecked h he

/-- An instruction answers a next state, in canonical form, wherever a strand is issuing. -/
theorem goes_exec_instruction {i : Instr} {e : Env} (hi : i.isEvent = false) (h : s.canonical) (he : s.env i.guard = some e) :
    Goes (exec i s) := by
  unfold exec
  cases i with
  | nop => exact goes_runShort h he (keeps_ok.mpr h)
  | iadd | isub | imul | imulhS | imulhN | iminS | iminN | imaxS | imaxN | and | or | xor | andn | shl | shr | sar | rotl
  | popc | clz | brev | iabs | mov | imad | iaddSat | isubSat | bfe | bfi | fshl | fshr | pget | fabs | fneg | frcp | fsqrt
  | frsqrt | fexp2 | flog2 | frnd | spanPeer =>
    exact goes_run32 h he
  | fmin | fmax | fminBf16x2 | fmaxBf16x2 | fminF16x2 | fmaxF16x2 => exact goes_runMinmax h he
  | iaddQ | isubQ | shlQ | shrQ | sarQ | movQ | lea | imulQ => exact goes_run64 h he
  | icmp | pbool | fcmp => exact goes_runPred h he
  | fadd | faddBf16x2 | faddF16x2 | faddFpx => exact goes_runAdd h he
  | fsub | fsubFpx => exact goes_runSub h he
  | fmul | fmulBf16x2 | fmulF16x2 | fmulFpx => exact goes_runMul h he
  | ffma => exact goes_runChecked h he
  | lpickIdx | lpickUp | lpickDown | lpickXor => exact goes_runPick h he
  | lany | lall => exact goes_setWave h he fun hw => Wave.setPreds_wf hw
  | lmask | lred | lscan => exact goes_setWave h he fun hw => Wave.wrPart_wf hw
  | qblk => exact goes_setWave h he fun hw => Wave.wrN_wf hw
  | dqblk => exact goes_setWave h he fun hw => Wave.wrN_wf hw
  | ld | st | lds | sts | ldc | gather | rmw | fold | rmwCas | ldw | stw => exact goes_issueMem h he
  | cpTile | cpMcast | cpOut | cpGather => exact goes_issueCopy h he
  | await | lockTake => exact goes_runAwait h he
  | mma | mmas => exact goes_runMma h he
  | sel => exact goes_execSel h he
  | pset => exact goes_execPset h he
  | cvt => exact goes_execCvt h he
  | cvtHad => exact goes_execCvtHad h he
  | br => exact goes_execBr h he
  | call => exact goes_execCall h he
  | jmpi => exact goes_execJmpi h he
  | ret => exact goes_execRet h he
  | calli => exact goes_execCalli h he
  | regang => exact goes_execRegang h he
  | wide => exact goes_execWide h he
  | endwide => exact goes_execEndwide h he
  | wbase => exact goes_execWbase h he
  | exit => exact goes_execExit h he
  | trap => exact goes_execTrap h he
  | trapret => exact goes_execTrapret h he
  | brk => exact goes_execBrk h he
  | ifence => exact goes_execIfence h he
  | icinv => exact goes_execIcinv h he
  | yieldto => exact goes_execYieldto h he
  | prefetch => exact goes_execPrefetch h he
  | fence => exact goes_execFence h he
  | gatePass => exact goes_execGatePass h he
  | gateWait => exact goes_execGateWait h he
  | bobjOpen => exact goes_execBobjOpen h he
  | bobjDue => exact goes_execBobjDue h he
  | bobjMark => exact goes_execBobjMark h he
  | bobjHold => exact goes_execBobjHold h he
  | emberArm => exact goes_execEmberArm h he
  | emberWait => exact goes_execEmberWait h he
  | emberDisarm => exact goes_execEmberDisarm h he
  | spawn => exact goes_execSpawn h he
  | launch => exact goes_execLaunch h he
  | qpush => exact goes_execQpush h he
  | qpop => exact goes_execQpop h he
  | park => exact goes_execPark h he
  | futSet => exact goes_execFutSet h he
  | lockGive => exact goes_execLockGive h he
  | spanArrive => exact goes_execSpanArrive h he
  | spanSync => exact goes_execSpanSync h he
  | spanDetach => exact goes_execSpanDetach h he
  | crewSet => exact goes_execCrewSet h he
  | tokTake => exact goes_execTokTake h he
  | tokGive => exact goes_execTokGive h he
  | wbload => exact goes_execWbload h he
  | accz => exact goes_execAccz h he
  | accld => exact goes_execAccld h he
  | accst => exact goes_execAccst h he
  | sget => exact goes_execSget h he
  | sset => exact goes_execSset h he
  | cctl => exact goes_execCctl h he
  | tlbinv => exact goes_execTlbinv h he
  | probe => exact goes_execProbe h he
  | scanStart => exact goes_execScanStart h he
  | scanPoll => exact goes_execScanPoll h he
  | halt => exact goes_execHalt h he
  | _ => cases hi

theorem goes_command {fn code : Nat} {seq : Byte} {c : Cmd} (h : s.canonical) (hc : c.keeps) : Goes (.next (s.command fn code seq c)) :=
  goes_next.mpr (h.command hc)

/-- An event that is a turn of its own answers a next state, in canonical form. -/
theorem goes_exec_event {i : Instr} (hi : ownTurn i = true) (h : s.canonical) : Goes (exec i s) := by
  unfold exec
  cases i with
  | emberTimeout => exact goes_execEmberTimeout h
  | segmentLink => exact goes_execSegmentLink h
  | adoptionEnd => exact goes_execAdoptionEnd h
  | adopt => exact goes_execAdopt h
  | waitableReady => exact goes_execWaitableReady h
  | slotTakeTask => exact goes_execSlotTakeTask h
  | waveExit => exact goes_execWaveExit h
  | matrixEntry => exact goes_execMatrixEntry h
  | matrixOpFinish => exact goes_execMatrixOpFinish h
  | copyDelivery => exact goes_execCopyDelivery h
  | longOpComplete => exact goes_execLongOpComplete h
  | trapEntry => exact goes_execTrapEntry h
  | stallDetect => exact goes_execStallDetect h
  | doorbell => exact goes_execDoorbell h
  | hostQueueRecordRead => exact goes_execHostQueueRecordRead h
  | launchAccept => exact goes_execLaunchAccept h
  | launchComplete => exact goes_execLaunchComplete h
  | gangPlace => exact goes_execGangPlace h
  | timeSliceExpiry => exact goes_execTimeSliceExpiry h
  | gangPreempt => exact goes_execGangPreempt h
  | gangSave => exact goes_execGangSave h
  | gangRestore => exact goes_execGangRestore h
  | spanReserve => exact goes_execSpanReserve h
  | spanCommit => exact goes_execSpanCommit h
  | spanPriorityUpdate => exact goes_execSpanPriorityUpdate h
  | memberDepart => exact goes_execMemberDepart h
  | inboxWake => exact goes_execInboxWake h
  | sessionKeyInstall => exact goes_execSessionKeyInstall h
  | packetRead => exact goes_execPacketRead h
  | extentAdd => exact goes_execExtentAdd h
  | extentRelease => exact goes_execExtentRelease h
  | extentReleaseAnswer => exact goes_execExtentReleaseAnswer h
  | bisnp => exact goes_execBisnp h
  | inboundRequest => exact goes_execInboundRequest h
  | cxlViralIndication => exact goes_execCxlViralIndication h
  | fencedResponse => exact goes_execFencedResponse h
  | linkReplay => exact goes_execLinkReplay h
  | linkRetrain => exact goes_execLinkRetrain h
  | routeLost => exact goes_execRouteLost h
  | expanderLost => exact goes_execExpanderLost h
  | dirtySectorWriteback => exact goes_execDirtySectorWriteback h
  | selfTestPass => exact goes_execSelfTestPass h
  | functionEnable => exact goes_execFunctionEnable h
  | functionReset => exact goes_execFunctionReset h
  | correctableError => exact goes_execCorrectableError h
  | uncorrectableError => exact goes_execUncorrectableError h
  | clinkerClear => exact goes_execClinkerClear h
  | scanRun => exact goes_execScanRun h
  | scanComplete => exact goes_execScanComplete h
  | clockAdjust => exact goes_execClockAdjust h
  | safePoint => exact goes_execSafePoint h
  | cone => exact goes_execCone h
  | coneDeadlineExpiry => exact goes_execConeDeadlineExpiry h
  | registerWrite => exact goes_execRegisterWrite h
  | mailboxReservedCommand => exact goes_execMailboxReservedCommand h
  | createContext => exact goes_command h cmdCreateContext_keeps
  | destroyContext => exact goes_command h cmdDestroyContext_keeps
  | registerHostQueue => exact goes_command h cmdRegisterHostQueue_keeps
  | unregisterHostQueue => exact goes_command h cmdUnregisterHostQueue_keeps
  | registerKernel => exact goes_command h cmdRegisterKernel_keeps
  | writeFabricWindow => exact goes_command h cmdWriteFabricWindow_keeps
  | writeFormatRegion => exact goes_command h cmdWriteFormatRegion_keeps
  | declareDeadOrLive => exact goes_command h cmdDeclareDeadOrLive_keeps
  | writeTenantPolicy => exact goes_command h cmdWriteTenantPolicy_keeps
  | attachOrDetachDebugger => exact goes_command h cmdAttachOrDetachDebugger_keeps
  | readDbgctl => exact goes_command h cmdReadDbgctl_keeps
  | writeDbgctl => exact goes_command h cmdWriteDbgctl_keeps
  | stageFirmware => exact goes_command h cmdStageFirmware_keeps
  | activateFirmware => exact goes_command h cmdActivateFirmware_keeps
  | openSession => exact goes_command h cmdOpenSession_keeps
  | closeSession => exact goes_command h cmdCloseSession_keeps
  | assignOrRemoveLocalRange => exact goes_command h cmdAssignOrRemoveLocalRange_keeps
  | setDeviceNumber => exact goes_command h cmdSetDeviceNumber_keeps
  | enrolOrRemoveKernelKey => exact goes_command h cmdEnrolOrRemoveKernelKey_keeps
  | _ => cases hi

/-! ## The strand that a partition chooses -/

theorem bestOf_mem {lt : Cand → Cand → Bool} {c : Cand} : ∀ {cs : List Cand}, bestOf lt cs = some c → c ∈ cs
  | [], h => by cases h
  | a :: r, h => by
    rw [bestOf] at h
    split at h
    · cases h
      exact List.mem_cons_self
    · next b hb =>
      cases h
      split
      · exact List.mem_cons_of_mem _ (bestOf_mem hb)
      · exact List.mem_cons_self

theorem choose_mem {now : Nat} {cs : List Cand} {c : Cand} (h : choose now cs = some c) : c ∈ cs := by
  rw [choose] at h
  split at h
  · next hb =>
    cases h
    exact List.mem_of_mem_filter (List.mem_of_mem_filter (bestOf_mem hb))
  · exact List.mem_of_mem_filter (bestOf_mem h)

theorem State.mem_of_pick {core part : Nat} {c : Cur} (h : s.pick core part = some c) :
    ∃ w, (c.wave, w) ∈ s.kiln.waves ∧ c.strand ∈ w.strands := by
  obtain ⟨x, hx, rfl⟩ := Option.map_eq_some_iff.mp h
  obtain ⟨⟨u, w⟩, hw, hc⟩ := List.mem_flatMap.mp (choose_mem hx)
  split at hc
  · obtain ⟨n, hn, rfl⟩ := List.mem_map.mp hc
    exact ⟨w, hw, List.mem_of_mem_filter hn⟩
  · cases hc

/-- A table of rising keys answers each of its rows. -/
theorem Tab.find_of_mem {α : Type} {k : Nat} {v : α} : ∀ {t : Tab α}, (Tab.keys t).Pairwise (· < ·) → (k, v) ∈ t → Tab.find t k = some v
  | [], _, hm => by cases hm
  | (j, u) :: r, ht, hm => by
    obtain ⟨hj, hr⟩ := List.pairwise_cons.mp ht
    rcases List.mem_cons.mp hm with he | hm
    · cases he
      exact if_pos rfl
    · have hjk : j ≠ k := Nat.ne_of_lt (hj k (List.mem_map_of_mem hm))
      rw [Tab.find, if_neg hjk]
      exact Tab.find_of_mem hr hm

theorem Wave.strandSlices_ne_zero {w : Wave} {n : Nat} (h : n ∈ w.strands) : w.strandSlices n ≠ 0 := by
  obtain ⟨hn, hp⟩ := List.mem_filter.mp h
  intro h0
  have hb : (w.strandSlices n).getLsbD n = true := by
    rw [Wave.strandSlices, getLsbD_maskOf _ _ (List.mem_range.mp hn)]
    exact decide_eq_true (List.mem_filter.mpr ⟨hn, hp⟩)
  simp [h0] at hb

theorem modWhere_getElem? {α : Type} {p : Nat → Bool} {f : Nat → α → α} : ∀ {n : Nat} {l : List α} {i : Nat},
    (modWhere p f n l)[i]? = l[i]?.map (fun a => if p (n + i) then f (n + i) a else a)
  | _, [], _ => rfl
  | _, _ :: _, 0 => rfl
  | n, _ :: r, i + 1 => by
    rw [modWhere, List.getElem?_cons_succ, List.getElem?_cons_succ, modWhere_getElem? (l := r), Nat.add_right_comm, Nat.add_assoc]

/-- What a change keeps of every slice, a wave has of each slice after the change. -/
theorem Wave.slice_modSlices_keeps {α : Type} {w : Wave} {sl : BitVec 8} {f : SliceSt → SliceSt} {r : SliceSt → α}
    (hf : ∀ x, r (f x) = r x) (i : Nat) : r ((w.modSlices sl f).slice i) = r (w.slice i) := by
  simp only [Wave.slice, TaskCtx.slice, Wave.modSlices, List.getD_eq_getElem?_getD, modWhere_getElem?]
  cases w.task.slices[i]? with
  | none => rfl
  | some x =>
    simp only [Option.map_some, Option.getD_some]
    split
    · exact hf x
    · rfl

theorem Wave.strandSlices_modSlices {w : Wave} {sl : BitVec 8} {f : SliceSt → SliceSt} (hl : ∀ x, (f x).live = x.live)
    (hs : ∀ x, (f x).strand = x.strand) (n : Nat) : (w.modSlices sl f).strandSlices n = w.strandSlices n := by
  simp only [Wave.strandSlices, Wave.slice_modSlices_keeps hl, Wave.slice_modSlices_keeps hs]

theorem State.wave_markIssue {c : Cur} {w : Wave} (h : s.wave c.wave = some w) :
    ∃ v, (s.markIssue c).wave c.wave = some v ∧ v.strandSlices c.strand = w.strandSlices c.strand := by
  have hw := State.wave_modWave s c.wave (fun w => w.modSlices (w.strandSlices c.strand) (fun x =>
    { x with lastIssue := s.slotClock (s.coreOf w.group) (w.wid % 4) }))
  rw [h, Option.map_some] at hw
  refine ⟨_, ?_, Wave.strandSlices_modSlices (sl := w.strandSlices c.strand)
    (f := fun x => { x with lastIssue := s.slotClock (s.coreOf w.group) (w.wid % 4) }) (fun _ => rfl) (fun _ => rfl) c.strand⟩
  simp only [State.markIssue, h]
  exact hw

theorem State.env_of_cur {c : Cur} {w : Wave} (hc : s.sched.cur = some c) (hw : s.wave c.wave = some w)
    (hn : w.strandSlices c.strand ≠ 0) (g : Guard) : ∃ e, s.env g = some e := by
  simp only [State.env, hc, hw, if_neg hn]
  exact ⟨_, rfl⟩

/-- Where a partition's choice is the strand that issues, there is one. -/
theorem State.env_of_pick {core part : Nat} {c : Cur} (h : s.canonical) (hc : s.pick core part = some c) (g : Guard) :
    ∃ e, (((s.markIssue c).endSlot core part).withCur c).env g = some e := by
  obtain ⟨w, hw, hn⟩ := State.mem_of_pick hc
  obtain ⟨v, hv, hvn⟩ := State.wave_markIssue (Tab.find_of_mem h.waves_wf.2 hw)
  exact State.env_of_cur (s := ((s.markIssue c).endSlot core part).withCur c) rfl hv (hvn ▸ Wave.strandSlices_ne_zero hn) g

/-! ## Turns -/

theorem goes_exec {i : Instr} (h : s.canonical) (hc : ∀ g, ∃ e, s.env g = some e) : Goes (exec i s) := by
  have hcur (g : Guard) {p : Prop} (hp : ∀ e, s.env g = some e → p) : p := (hc g).elim hp
  cases hi : i.isEvent with
  | false => exact hcur _ fun e he => goes_exec_instruction hi h he
  | true =>
    cases ho : ownTurn i with
    | true => exact goes_exec_event ho h
    | false =>
      unfold ownTurn at ho
      split at ho
      · exact hcur _ fun e he => goes_execClauseStart h he
      · exact hcur _ fun e he => goes_rejectAt h he
      · exact Bool.noConfusion (hi.symm.trans ho)

theorem goes_runStrand {ws : Option (List W32)} (h : s.canonical) (hc : ∀ g, ∃ e, s.env g = some e) : Goes (s.runStrand ws) := by
  unfold State.runStrand
  split
  · exact goes_exec h hc
  · split
    · exact goes_exec h hc
    · unfold State.runReject
      split
      · exact goes_exec h hc
      · exact goes_exec h hc
      · obtain ⟨e, he⟩ := hc s.guardHere
        exact goes_rejectAt h he

theorem Goes.settleTurn {o : Out} (h : Goes o) : Goes (settleTurn o) :=
  h.andThen fun _ ht => goes_next.mpr (State.canonical.notePast (State.noCur_canonical.mpr ht))

theorem goes_runIssue {core part : Nat} (h : s.canonical) : Goes (s.runIssue core part) := by
  have h0 : (s.noteSlots core part).canonical := h.noteSlots
  unfold State.runIssue
  generalize s.noteSlots core part = s0 at h0
  dsimp only
  split
  · exact goes_next.mpr (State.endSlot_canonical.mpr h0)
  · next c hc =>
    exact (goes_runStrand (State.withCur_canonical.mpr (State.endSlot_canonical.mpr h0.markIssue)) (State.env_of_pick h0 hc)).settleTurn

theorem goes_foldl {α : Type} {f : State → α → Out} {l : List α} {o : Out} (hf : ∀ s x, s.canonical → Goes (f s x)) (ho : Goes o) :
    Goes (l.foldl (fun o x => andThen o (fun s => f s x)) o) := by
  induction l generalizing o with
  | nil => exact ho
  | cons x r ih => exact ih (ho.andThen fun s hs => hf s x hs)

theorem goes_runClock {issues : List (Nat × Nat)} {lines : List (Nat × Nat × Nat)} (h : s.canonical) :
    Goes (s.runClock issues lines) := by
  have h1 := goes_foldl (f := fun s (x : Nat × Nat) => s.runIssue x.1 x.2) (l := issues.dedup) (fun _ _ ht => goes_runIssue ht)
    (goes_next.mpr (show ({ s with sched := { s.sched with changes := some [] } } : State).canonical from h.congr))
  have h2 := goes_foldl (f := fun s (x : Nat × Nat × Nat) => exec (.copyDelivery x.1 x.2.1 x.2.2) s) (l := lines)
    (fun _ _ ht => goes_exec_event rfl ht) h1
  exact h2.andThen fun _ ht => Goes.settleTurn (goes_next.mpr ht.endClock)

theorem goes_doTurn {t : Turn} (h : s.canonical) : Goes (s.doTurn t) := by
  unfold State.doTurn
  split
  · exact goes_runIssue h
  · split
    · next ho => exact (goes_exec_event ho h).settleTurn
    · exact goes_next.mpr h
  · exact Goes.settleTurn (goes_next.mpr h.resume)
  · exact goes_runClock h
  · exact goes_next.mpr h.elapse
  · exact goes_next.mpr h.dropClean

@[simp] theorem State.canonical.putOff {t : Turn} (h : s.canonical) : (s.putOff t).canonical := by
  unfold State.putOff
  split
  · split
    · next fn code seq _ =>
      cases hm : s.mbStart fn code seq.toNat with
      | none => exact h
      | some _ => exact h.mbStart hm
    · exact h.ite h.congr
  · exact h

theorem State.canonical.nextTurn (h : s.canonical) : s.nextTurn.2.canonical := by
  unfold State.nextTurn
  split
  · exact h.congr
  · exact h.congr

/-- Every step answers a next state, and that is in canonical form. -/
theorem goes_step (h : s.canonical) : Goes (step s) := by
  have h0 := h.nextTurn
  exact (goes_doTurn h0).andThen fun _ ht => goes_next.mpr (h0.putOff.ite ht)

end

/-- Settles O60: the canonical form is kept by every instruction and every event, and so by every turn. -/
theorem canonicalKept : Obligations.CanonicalKept := by
  intro s t h hstep
  exact goes_next.mp (hstep ▸ goes_step h)

/-- Settles O59: each turn runs an event or a strand that there is, and those always go on. -/
theorem stepGoesOn : Obligations.StepGoesOn := fun _ h => (goes_step h).imp fun _ ht => ht.1

end Sys2Proof.Machine

/-! PROOFS. The frame of a register instruction does not hold of every term: a pair of scalars that begins at the last one
reaches into the scalars of the next slice. -/

namespace Sys2Proof.Machine

set_option Elab.async false

/-- A state in which a wave of one strand issues, and nothing else runs. -/
def State.oneStrand (w : Wave) : State :=
  { State.reset with
    kiln := { State.reset.kiln with waves := [(0, w)] }
    sched := { State.reset.sched with cur := some ⟨0, 0⟩ } }

theorem State.oneStrand_canonical {w : Wave} (hw : w.wf = true) : (State.oneStrand w).canonical :=
  State.canonical_iff.mpr ⟨rfl, ⟨fun x hx => by rw [List.mem_singleton.mp hx]; exact hw, List.pairwise_singleton _ _⟩,
    State.reset_canonical.groups, State.reset_canonical.parked⟩

theorem Wave.sreg_next (w : Wave) (st : BitVec 8) (i : Instr) (r j : Nat) : (w.next st i).sreg r j = w.sreg r j := by
  unfold Wave.next Wave.skip Wave.clauseStep
  split
  · rfl
  · rfl

theorem State.wave_setWave_next (s : State) (u : Nat) (w : Wave) (st : BitVec 8) (i : Instr) :
    ((s.setWave u w).modWave u (fun x => x.next st i)).wave u = some (w.next st i) := by
  rw [State.wave_modWave, State.wave_setWave, Option.map_some]

/-- A move of a pair whose low word is 0 and whose high word is 1, to a pair that begins at scalar 31. -/
def moveToLastScalar : Instr := .movQ ⟨false, 0⟩ (.s 31) (.lit2 0x100000000)

/-- Refutes O52: `mov.q` to the pair that begins at s31, which no word encodes, writes s0 of the slices after the first. -/
theorem not_registerFrames : ¬ Obligations.RegisterFrames := by
  intro h
  have henv : (State.oneStrand (probeWave [])).env ⟨false, 0⟩ =
      some ((probeWave []).env 0 ((State.oneStrand (probeWave [])).agentOf 0) 0xFF ⟨false, 0⟩) := rfl
  have hexec := run64_reads (i := moveToLastScalar) (d := .s 31) (srcs := [(.lit2 0x100000000, 2)])
    (f := fun w l => w.rdq (.lit2 0x100000000) l) ⟨⟨henv, rfl, rfl⟩, rfl⟩
  obtain ⟨hregs, -, -⟩ := h _ _ moveToLastScalar ⟨0, 0⟩ (probeWave []) (State.oneStrand_canonical rfl) rfl rfl hexec
  obtain ⟨v, hv, -, -, hkept⟩ := hregs (.s 31) 2 rfl
  have hs0 : v.sreg 0 1 = (probeWave []).sreg 0 1 :=
    hkept 1 0 (by decide) (by decide) fun n hn => .inl (by cases hn; decide)
  obtain rfl := Option.some.inj ((State.wave_setWave_next _ 0 _ 0xFF moveToLastScalar).symm.trans hv.after)
  rw [Wave.sreg_next] at hs0
  exact absurd hs0 (by decide)

end Sys2Proof.Machine

/-! PROOFS. What the memory system leaves alone. A property of states that ignores caches, memory, EMBER hits and lost writebacks is
kept by every access; what is proved here once holds of each such property. -/

namespace Sys2Proof.Machine

set_option Elab.async false

/-- A property of states that ignores the caches, fabric space, scheduling, EMBER hits, lost writebacks and viral mode. -/
structure Ignores (P : State → Prop) : Prop where
  sched : ∀ {s : State} (x : Sched), (s.sched.changes = none → x.changes = none) → P s → P { s with sched := x }
  clusters : ∀ {s : State} (x : Tab Cluster), P s → P { s with clusters := x }
  cores : ∀ {s : State} (x : Tab Core), P s → P { s with cores := x }
  mem : ∀ {s : State} (m : MemSys), m.loc = s.mem.loc → P s → P { s with mem := m }
  hit : ∀ {s : State} (p : Place) (n : Nat), P s → P (s.emberHit p n)
  viral : ∀ {s : State} (c : Nat), P s → P (s.goViral c)
  lost : ∀ {s : State} (cs : List Nat) (a : Nat), P s → P { s with kiln := { s.kiln with waves := s.kiln.waves.map (fun x =>
    (x.1, if cs.contains (s.ctxNo x.2.group) then x.2.lostSector a else x.2)) } }

/-- Such a property that ignores the bytes of local memory too. -/
structure IgnoresMemory (P : State → Prop) : Prop extends Ignores P where
  loc : ∀ {s : State} (m : MemSys), P s → P { s with mem := m }

/-- What each change of a list keeps, all of them keep. -/
theorem foldl_keeps {α σ : Type} {P : σ → Prop} {l : List α} {f : σ → α → σ} {s : σ} (hf : ∀ s x, P s → P (f s x)) (h : P s) :
    P (l.foldl f s) := by
  induction l generalizing s with
  | nil => exact h
  | cons x r ih => exact ih (hf s x h)

/-- Of two states, whichever is chosen. -/
theorem ite_keeps {P : State → Prop} {c : Prop} [Decidable c] {s t : State} (hs : P s) (ht : P t) : P (if c then s else t) := by
  split
  · exact hs
  · exact ht

namespace Ignores

section
variable {P : State → Prop} (hP : Ignores P) {s : State}
include hP

theorem bumpFresh (h : P s) : P s.bumpFresh := hP.sched _ id h

theorem hold (h : P s) : P s.hold := hP.sched _ id h

theorem noteWait {p : Place} (h : P s) : P (s.noteWait p) := ite_keeps (hP.hold h) h

theorem noteRead {p : Place} (h : P s) : P (s.noteRead p) := ite_keeps h (hP.noteWait h)

theorem modCluster {c : Nat} {f : Cluster → Cluster} (h : P s) : P (s.modCluster c f) := hP.clusters _ h

theorem modCore {c : Nat} {f : Core → Core} (h : P s) : P (s.modCore c f) := hP.cores _ h

theorem homeWrite {d a : Nat} {data : BitVec 1024} {mask : BitVec 128} {p : BitVec 4} (h : P s) : P (s.homeWrite d a data mask p) :=
  hP.mem _ rfl h

theorem noteLost {cl : Option Nat} {t a : Nat} (h : P s) : P (s.noteLost cl t a) :=
  foldl_keeps (fun _ c hs => hP.viral c hs) (hP.lost _ a h)

theorem forget {p : Place} (h : P s) : P (s.forget p) := by
  unfold State.forget
  extract_lets f
  have h1 := hP.clusters (s.clusters.map (fun c => (c.1, { c.2 with l2 := c.2.l2.filterMap f }))) h
  exact hP.cores (s.cores.map (fun c => (c.1, { c.2 with l1 := c.2.l1.filter (fun x => x.place != p) }))) h1

theorem homeBack {cl : Option Nat} {x : PSector} (h : P s) : P (s.homeBack cl x) := by
  unfold State.homeBack
  split
  · exact ite_keeps h (ite_keeps (hP.forget h) (ite_keeps (hP.noteLost (hP.forget h)) (hP.homeWrite (hP.noteWait h))))
  · exact h

theorem mapCopies {f : Option Nat → PSector → Option PSector} (h : P s) : P (s.mapCopies f) :=
  hP.clusters _ (hP.mem { s.mem with msc := s.mem.msc.filterMap (f none) } rfl h)

theorem bisnp {keep : Option Nat → Place → Bool} {p : Place} (h : P s) : P (s.bisnp keep p) :=
  ite_keeps h (hP.hit _ _ (foldl_keeps (fun _ _ hs => hP.homeBack hs) (hP.mapCopies h)))

theorem cohHome {cl : Option Nat} {p : Place} (h : P s) : P (s.cohHome cl p) := hP.bisnp h

theorem mscFlush {cl : Option Nat} {p : Place} (h : P s) : P (s.mscFlush cl p) := by
  unfold State.mscFlush
  split
  · exact h
  · have h1 := hP.mem { s.mem with msc := s.mem.msc.filter (fun y => y.place != p) } rfl h
    exact hP.homeBack (ite_keeps h1 (hP.cohHome h1))

theorem mscRoom {l : Place} (h : P s) : P (s.mscRoom l) := by
  unfold State.mscRoom
  dsimp only
  split
  · exact h
  · exact hP.mem _ rfl (hP.bumpFresh h)
  · exact foldl_keeps (fun _ _ hs => hP.mscFlush hs) (hP.bumpFresh h)

theorem mscPut {x : PSector} (h : P s) : P (s.mscPut x) := hP.mem _ rfl (hP.mscRoom h)

theorem mscHold {p : Place} (h : P s) : P (s.mscHold p) :=
  foldl_keeps (fun _ _ hs => ite_keeps hs (hP.mem _ rfl (hP.mscRoom hs))) h

theorem mscFill {p : Place} {t c : Nat} {a : Attr} (h : P s) : P (s.mscFill p t c a) :=
  ite_keeps h (ite_keeps (hP.mscHold h) (ite_keeps (hP.mscPut h) h))

theorem mscWrite {x : PSector} {mask : BitVec 128} (h : P s) : P (s.mscWrite x mask) := hP.mscPut h

theorem l2Set {cl : Nat} {x : PSector} (h : P s) : P (s.l2Set cl x) := hP.modCluster h

theorem l2Drop {cl : Nat} {p : Place} (h : P s) : P (s.l2Drop cl p) := hP.modCluster h

theorem tlbFill {ag : Agent} {va : Nat} (h : P s) : P (s.tlbFill ag va) := by
  unfold State.tlbFill
  dsimp only
  split
  · exact h
  · split
    · exact hP.modCluster (foldl_keeps (fun _ _ hs => hP.noteWait hs) h)
    · exact h

theorem l1Update {ag : Agent} {va n v : Nat} (h : P s) : P (s.l1Update ag va n v) := ite_keeps (hP.modCore h) h

end

end Ignores

namespace IgnoresMemory

section
variable {P : State → Prop} (hP : IgnoresMemory P) {s : State}
include hP

theorem backWrite {x : PSector} {mask : BitVec 128} (h : P s) : P (s.backWrite x mask) := by
  have hs : P (if x.place.isHome then s else s.noteWait x.place) := ite_keeps h (hP.noteWait h)
  unfold State.backWrite
  dsimp only
  generalize (if x.place.isHome then s else s.noteWait x.place) = s at hs
  split
  · exact hP.loc _ hs
  · exact foldl_keeps (fun _ _ hs => hP.hit _ _ hs) (hP.loc _ hs)
  · exact ite_keeps hs (hP.mscWrite hs)
  · exact hs

theorem l2WriteBack {cl : Nat} {p : Place} (h : P s) : P (s.l2WriteBack cl p) := by
  unfold State.l2WriteBack
  split
  · exact h
  · exact ite_keeps h (ite_keeps (hP.noteLost (hP.forget (hP.l2Set h))) (ite_keeps (hP.forget (hP.l2Set h))
      (hP.l2Set (hP.backWrite (hP.mscHold h)))))

theorem l2Flush {cl : Nat} {p : Place} (h : P s) : P (s.l2Flush cl p) := hP.l2Drop (hP.l2WriteBack h)

theorem l2Put {cl : Nat} {x : PSector} (h : P s) : P (s.l2Put cl x) := by
  unfold State.l2Put
  split
  · exact hP.l2Set h
  · exact hP.l2Set (foldl_keeps (fun _ _ hs => hP.l2Flush hs) (hP.bumpFresh h))

theorem cohDrop {cl : Nat} {p : Place} (h : P s) : P (s.cohDrop cl p) := by
  unfold State.cohDrop
  extract_lets hs s1
  have h1 : P s1 := ite_keeps h (hP.hit _ _ (foldl_keeps (fun _ _ ht => foldl_keeps (fun _ _ hu => hP.l2Flush hu) ht) h))
  exact hP.bisnp h1

theorem settle {ag : Agent} {pt : Point} {p : Place} (h : P s) : P (s.settle ag pt p) := by
  cases pt with
  | l2 => exact h
  | msc => exact hP.l2Flush h
  | home => exact hP.mscFlush (hP.l2Flush h)

theorem behind {ag : Agent} {x : PSector} {mask : BitVec 128} {keep : Bool} {p : Place} {n : Nat} (h : P s) :
    P (s.behind ag x mask keep p n) :=
  ite_keeps (hP.noteLost (hP.forget h)) (hP.hit _ _ (hP.backWrite (ite_keeps (hP.mscHold h) h)))

theorem writeAt {ag : Agent} {pt : Point} {p : Place} {n v : Nat} {a : Attr} (h : P s) : P (s.writeAt ag pt p n v a) := by
  refine ite_keeps h ?_
  split
  · exact hP.hit _ _ (hP.l2Put (ite_keeps (hP.cohHome h) h))
  · exact hP.behind (hP.settle (ite_keeps (hP.cohDrop h) h))
  · split
    · exact ite_keeps (hP.cohHome (hP.settle h)) (hP.hit _ _ (hP.homeWrite (hP.noteWait (hP.cohHome (hP.settle h)))))
    · exact hP.behind (hP.settle h)

theorem storeAt {ag : Agent} {va n v : Nat} {sc : Scope} {p : Place} {a : Attr} (h : P s) : P (s.storeAt ag va n v sc p a) :=
  ite_keeps h (hP.writeAt (hP.l1Update h))

theorem storeVa {ag : Agent} {va n v : Nat} {sc : Scope} (h : P s) : P (s.storeVa ag va n v sc) := by
  unfold State.storeVa
  split
  · exact h
  · exact hP.storeAt (ite_keeps h (hP.tlbFill h))

end

end IgnoresMemory

/-! ## What no access changes -/

/-- The device's own state and KILN's tables are those of another state, but for contexts and launches in viral mode, and for
waves and parked tasks that note a hit or an error. -/
structure SameTables (a s : State) : Prop where
  dev : s.dev = a.dev
  kiln : s.kiln = { a.kiln with ctxs := s.kiln.ctxs, launches := s.kiln.launches, waves := s.kiln.waves, parked := s.kiln.parked }

theorem SameTables.refl (a : State) : SameTables a a := ⟨rfl, rfl⟩

theorem SameTables.groups {a s : State} (h : SameTables a s) : s.kiln.groups = a.kiln.groups := by rw [h.kiln]

/-- What changes only the waves, the parked tasks and the viral marks keeps those tables. -/
theorem SameTables.of_kiln {a s t : State} (h : SameTables a s) (hd : t.dev = s.dev)
    (hk : t.kiln = { s.kiln with ctxs := t.kiln.ctxs, launches := t.kiln.launches, waves := t.kiln.waves, parked := t.kiln.parked }) :
    SameTables a t := by
  refine ⟨hd.trans h.dev, ?_⟩
  rw [hk, h.kiln]

theorem SameTables.ignoresMemory (a : State) : IgnoresMemory (SameTables a) where
  sched _ _ h := h.of_kiln rfl rfl
  clusters _ h := h.of_kiln rfl rfl
  cores _ h := h.of_kiln rfl rfl
  mem _ _ h := h.of_kiln rfl rfl
  hit _ _ h := h.of_kiln rfl rfl
  viral _ h := ite_keeps (h.of_kiln rfl rfl) h
  lost _ _ h := h.of_kiln rfl rfl
  loc _ h := h.of_kiln rfl rfl

/-- The bytes of local memory are those of another state. -/
def SameLocal (a s : State) : Prop := s.mem.loc = a.mem.loc

theorem SameLocal.ignores (a : State) : Ignores (SameLocal a) where
  sched _ _ h := h
  clusters _ h := h
  cores _ h := h
  mem _ hm h := hm.trans h
  hit _ _ h := h
  viral _ h := ite_keeps (P := SameLocal a) h h
  lost _ _ h := h

end Sys2Proof.Machine

/-! PROOFS. What a store leaves: the bytes of a sector one by one, the sector that a store leaves in the L2, the bytes that it leaves in
local memory. -/

namespace Sys2Proof.Machine

set_option Elab.async false

/-! ## The bytes of a sector -/

theorem getLsbD_byteMask {off n i : Nat} (hi : i < 128) :
    (byteMask off n).getLsbD i = true ↔ off ≤ i ∧ i < off + n := by
  simp only [byteMask, BitVec.getLsbD_ofNat, hi, decide_true, Bool.true_and, Nat.testBit_mul_two_pow, Nat.testBit_two_pow_sub_one,
    Bool.and_eq_true, decide_eq_true_eq]
  omega

/-- The number whose bytes of a list of positions are all ones, bit by bit. -/
theorem wideSum_bits (p : Nat → Bool) (n : Nat) :
    ((List.range n).filter p).foldl (fun x i => x + 255 * 2 ^ (8 * i)) 0 < 2 ^ (8 * n) ∧
    ∀ k, (((List.range n).filter p).foldl (fun x i => x + 255 * 2 ^ (8 * i)) 0).testBit k = (decide (k / 8 < n) && p (k / 8)) := by
  induction n with
  | zero => simp
  | succ n ih =>
    obtain ⟨hlt, hbits⟩ := ih
    rw [List.range_succ, List.filter_append, List.foldl_append]
    generalize ((List.range n).filter p).foldl (fun x i => x + 255 * 2 ^ (8 * i)) 0 = x at hlt hbits
    have hpow : 2 ^ (8 * (n + 1)) = 256 * 2 ^ (8 * n) := by rw [Nat.mul_add, Nat.pow_add]; omega
    cases hp : p n with
    | false =>
      simp only [List.filter_cons, hp, Bool.false_eq_true, if_false, List.filter_nil, List.foldl_nil]
      refine ⟨by omega, fun k => ?_⟩
      rw [hbits]
      by_cases hk : k / 8 = n
      · simp [hk, hp]
      · congr 1
        exact decide_eq_decide.mpr (by omega)
    | true =>
      simp only [List.filter_cons, hp, if_true, List.filter_nil, List.foldl_cons, List.foldl_nil]
      refine ⟨by omega, fun k => ?_⟩
      rw [Nat.add_comm x, Nat.mul_comm 255, Nat.testBit_two_pow_mul_add _ hlt, show 255 = 2 ^ 8 - 1 from rfl,
        Nat.testBit_two_pow_sub_one, hbits]
      split
      · next hk =>
        congr 1
        exact decide_eq_decide.mpr (by omega)
      · next hk =>
        by_cases hn : k / 8 = n
        · have h8 : k - 8 * n < 8 := by omega
          simp [hn, hp, h8]
        · have h8 : ¬k - 8 * n < 8 := by omega
          have h9 : ¬k / 8 < n + 1 := by omega
          simp [h8, h9]

theorem getLsbD_wideMask {m : BitVec 128} {k : Nat} (hk : k < 1024) : (wideMask m).getLsbD k = m.getLsbD (k / 8) := by
  rw [wideMask, bitsOf, BitVec.getLsbD_ofNat, (wideSum_bits _ _).2]
  have h8 : k / 8 < 128 := by omega
  simp [hk, h8]

theorem testBit_secGet (data : BitVec 1024) (i j : Nat) :
    (secGet data i 1).testBit j = (decide (j < 8) && data.getLsbD (8 * i + j)) := by
  rw [secGet, Nat.testBit_mod_two_pow, Nat.testBit_div_two_pow, BitVec.getLsbD, Nat.add_comm]

theorem getLsbD_secPut_zero {off n v k : Nat} (hk : k < 1024) :
    (secPut 0 off n v).getLsbD k = (decide (8 * off ≤ k ∧ k < 8 * off + 8 * n) && v.testBit (k - 8 * off)) := by
  have h0 : (0 : BitVec 1024).getLsbD k = false := BitVec.getLsbD_zero
  rw [secPut, BitVec.getLsbD_or, BitVec.getLsbD_and, h0, Bool.false_and, Bool.false_or]
  simp only [BitVec.getLsbD_ofNat, hk, decide_true, Bool.true_and, Nat.testBit_mul_two_pow, Nat.testBit_mod_two_pow,
    ← Bool.and_assoc, ← Bool.decide_and]
  congr 1
  exact decide_eq_decide.mpr (by omega)

/-- A byte of the data of a store, counted from the start of the sector. -/
theorem secGet_secPut_zero {off n v i : Nat} (hi : i < 128) (hs : off ≤ i ∧ i < off + n) :
    secGet (secPut 0 off n v) i 1 = v / 2 ^ (8 * (i - off)) % 256 := by
  refine Nat.eq_of_testBit_eq fun j => ?_
  rw [testBit_secGet, show 256 = 2 ^ 8 from rfl, Nat.testBit_mod_two_pow, Nat.testBit_div_two_pow]
  by_cases hj : j < 8
  · rw [getLsbD_secPut_zero (by omega), decide_eq_true (show 8 * off ≤ 8 * i + j ∧ 8 * i + j < 8 * off + 8 * n by omega), Bool.true_and]
    congr 2
    omega
  · simp [hj]

/-- Merging takes the masked bytes from the new data and keeps the others. -/
theorem secGet_merge (x : PSector) (data : BitVec 1024) (mask : BitVec 128) (p : BitVec 4) (dirty : Bool) {i : Nat} (hi : i < 128) :
    secGet (x.merge data mask p dirty).data i 1 = if mask.getLsbD i then secGet data i 1 else secGet x.data i 1 := by
  refine Nat.eq_of_testBit_eq fun j => ?_
  rw [apply_ite (fun a => Nat.testBit a j), testBit_secGet, testBit_secGet, testBit_secGet]
  by_cases hj : j < 8
  · have hk : 8 * i + j < 1024 := by omega
    have hki : (8 * i + j) / 8 = i := by omega
    simp only [PSector.merge, BitVec.getLsbD_or, BitVec.getLsbD_and, BitVec.getLsbD_not, getLsbD_wideMask hk, hki, hk, decide_true,
      Bool.true_and]
    cases mask.getLsbD i <;> simp
  · simp [hj]

/-! ## The L2 -/

@[simp] theorem State.cluster_modCluster (s : State) (c : Nat) (f : Cluster → Cluster) :
    (s.modCluster c f).cluster c = f (s.cluster c) := by
  rw [State.modCluster, State.setCluster, State.cluster, Tab.find_put_self, Option.getD_some]

theorem State.cluster_modCluster_ne (s : State) {c k : Nat} (f : Cluster → Cluster) (h : k ≠ c) :
    (s.modCluster c f).cluster k = s.cluster k := by
  rw [State.modCluster, State.setCluster, State.cluster, Tab.find_put_ne _ _ _ _ h, State.cluster]

theorem State.l2Find_l2Set_self (s : State) (cl : Nat) (x : PSector) : (s.l2Set cl x).l2Find cl x.place = some x := by
  rw [State.l2Find, State.l2Set, State.cluster_modCluster]
  simp [putSec]

theorem State.l2Find_l2Set_ne (s : State) {cl c : Nat} {x : PSector} {q : Place} (h : c ≠ cl ∨ q ≠ x.place) :
    (s.l2Set cl x).l2Find c q = s.l2Find c q := by
  by_cases hc : c = cl
  · subst hc
    have hq : x.place ≠ q := (h.resolve_left (fun hne => hne rfl)).symm
    rw [State.l2Find, State.l2Set, State.cluster_modCluster, State.l2Find]
    simp only [putSec, List.find?_cons, beq_eq_false_iff_ne.mpr hq, List.find?_filter]
    congr 1
    funext y
    by_cases hy : y.place = q
    · simp [hy, hq.symm]
    · simp [hy]
  · rw [State.l2Find, State.l2Set, State.cluster_modCluster_ne _ _ hc, State.l2Find]

/-- Where a slice has room a sector is put there and nothing else happens. -/
theorem State.l2Put_of_room {s : State} {cl : Nat} {x : PSector} (h : (s.cluster cl).l2.length < l2Lines) :
    s.l2Put cl x = s.l2Set cl x := by
  rw [State.l2Put, evicted, if_pos (.inl (by rwa [List.length_map]))]

theorem PSector.place_merge (x : PSector) (data : BitVec 1024) (mask : BitVec 128) (p : BitVec 4) (dirty : Bool) :
    (x.merge data mask p dirty).place = x.place := rfl

/-! ## Where a store is performed -/

/-- The state in which a store is performed: the translation that it used is kept, and the core's L1 line is up to date. -/
def State.storing (s : State) (ag : Agent) (va n v : Nat) : State :=
  (if (s.l1Hit ag va).isSome then s else s.tlbFill ag va).l1Update ag va n v

theorem State.storeVa_of_place {s : State} {ag : Agent} {va n v : Nat} {sc : Scope} {p : Place} {at_ : Attr}
    (h : s.storePlace ag va = .ok (p, at_)) (hp : p.isHome = false) :
    s.storeVa ag va n v sc = (s.storing ag va n v).writeAt ag (pointOf sc p) p n v at_ := by
  simp only [State.storeVa, h, State.storeAt, hp, Bool.false_and, Bool.false_eq_true, if_false, State.storing]

/-- The memory and every L2 are those of another state. -/
def SameL2 (a s : State) : Prop := s.mem = a.mem ∧ ∀ c, (s.cluster c).l2 = (a.cluster c).l2

theorem SameL2.modCluster {a s : State} {c : Nat} {f : Cluster → Cluster} (h : SameL2 a s) (hf : ∀ x, (f x).l2 = x.l2) :
    SameL2 a (s.modCluster c f) := by
  refine ⟨h.1, fun k => ?_⟩
  by_cases hk : k = c
  · rw [hk, State.cluster_modCluster, hf, h.2]
  · rw [State.cluster_modCluster_ne _ _ hk, h.2]

theorem SameL2.noteWait {a s : State} {p : Place} (h : SameL2 a s) : SameL2 a (s.noteWait p) := ite_keeps (P := SameL2 a) h h

theorem SameL2.tlbFill {s : State} {ag : Agent} {va : Nat} : SameL2 s (s.tlbFill ag va) := by
  have h : SameL2 s s := ⟨rfl, fun _ => rfl⟩
  unfold State.tlbFill
  dsimp only
  split
  · exact h
  · split
    · exact SameL2.modCluster (foldl_keeps (fun _ _ hs => hs.noteWait) h) fun _ => rfl
    · exact h

theorem SameL2.storing (s : State) (ag : Agent) (va n v : Nat) : SameL2 s (s.storing ag va n v) := by
  have h1 : SameL2 s (if (s.l1Hit ag va).isSome then s else s.tlbFill ag va) := ite_keeps ⟨rfl, fun _ => rfl⟩ SameL2.tlbFill
  exact ite_keeps (P := SameL2 s) h1 h1

theorem SameL2.l2Find {a s : State} (h : SameL2 a s) (c : Nat) (q : Place) : s.l2Find c q = a.l2Find c q := by
  rw [State.l2Find, h.2, State.l2Find]

theorem SameTables.storing (s : State) (ag : Agent) (va n v : Nat) : SameTables s (s.storing ag va n v) :=
  have hP := SameTables.ignoresMemory s
  hP.l1Update (ite_keeps (SameTables.refl s) (hP.tlbFill (SameTables.refl s)))

/-! ## A store in the L2 -/

/-- The sector that a store to a place leaves in the L2, where that held `old`. -/
def storedSector (ag : Agent) (p : Place) (n v : Nat) (old : Option PSector) : PSector :=
  { (old.getD ⟨p.sector, ag.tenant, ag.ctx, false, 0, 0, 0, 0⟩).merge (secPut 0 p.off n v) (byteMask p.off n) 0 true with
    tenant := ag.tenant, ctx := ag.ctx, coh := false }

theorem State.place_of_l2Find {s : State} {c : Nat} {q : Place} {x : PSector} (h : s.l2Find c q = some x) : x.place = q := by
  simpa using List.find?_some h

theorem storedSector_place (s : State) (ag : Agent) (p : Place) (n v : Nat) :
    (storedSector ag p n v (s.l2Find ag.cluster p.sector)).place = p.sector := by
  cases h : s.l2Find ag.cluster p.sector with
  | none => rfl
  | some x => exact (show x.place = p.sector from State.place_of_l2Find h)

theorem storedSector_of_stored {ag : Agent} {p : Place} {n v i : Nat} {old : Option PSector} (hi : i < 128)
    (hs : p.off ≤ i ∧ i < p.off + n) :
    (storedSector ag p n v old).valid.getLsbD i = true ∧ (storedSector ag p n v old).dirty.getLsbD i = true ∧
      secGet (storedSector ag p n v old).data i 1 = v / 2 ^ (8 * (i - p.off)) % 256 := by
  have hmask := (getLsbD_byteMask hi).mpr hs
  refine ⟨?_, ?_, ?_⟩
  · simp [storedSector, PSector.merge, hmask]
  · simp [storedSector, PSector.merge, hmask]
  · simp only [storedSector, secGet_merge _ _ _ _ _ hi, hmask, if_true, secGet_secPut_zero hi hs]

theorem storedSector_of_not_stored {ag : Agent} {p : Place} {n v i : Nat} {old : Option PSector} (hi : i < 128)
    (hs : ¬(p.off ≤ i ∧ i < p.off + n)) :
    (storedSector ag p n v old).valid.getLsbD i = (old.getD ⟨p.sector, ag.tenant, ag.ctx, false, 0, 0, 0, 0⟩).valid.getLsbD i ∧
      (storedSector ag p n v old).dirty.getLsbD i = (old.getD ⟨p.sector, ag.tenant, ag.ctx, false, 0, 0, 0, 0⟩).dirty.getLsbD i ∧
      secGet (storedSector ag p n v old).data i 1 =
        secGet (old.getD ⟨p.sector, ag.tenant, ag.ctx, false, 0, 0, 0, 0⟩).data i 1 := by
  have hmask := Bool.eq_false_iff.mpr (fun h => hs ((getLsbD_byteMask hi).mp h))
  refine ⟨?_, ?_, ?_⟩
  · simp [storedSector, PSector.merge, hmask]
  · simp [storedSector, PSector.merge, hmask]
  · simp only [storedSector, secGet_merge _ _ _ _ _ hi, hmask, Bool.false_eq_true, if_false]

theorem pointOf_narrow {sc : Scope} {p : Place} (h : sc = .wave ∨ sc = .core ∨ sc = .clus) : pointOf sc p = .l2 := by
  rcases h with rfl | rfl | rfl <;> rfl

theorem pointOf_wide {sc : Scope} {p : Place} (h : sc = .dev ∨ sc = .ten ∨ sc = .sys) (hp : p.isHome = false) :
    pointOf sc p = .msc := by
  rcases h with rfl | rfl | rfl <;> simp [pointOf, hp]

theorem State.writeAt_l2 {s : State} {ag : Agent} {p : Place} {n v : Nat} {at_ : Attr} (hp : p.isHome = false) (hc : at_.coh = false)
    (hpol : at_.pol = 0) (hroom : (s.cluster ag.cluster).l2.length < l2Lines) :
    s.writeAt ag .l2 p n v at_ = (s.l2Set ag.cluster (storedSector ag p n v (s.l2Find ag.cluster p.sector))).emberHit p n := by
  have hpt : writePoint .l2 p at_ = .l2 := by simp [writePoint, hpol]
  simp only [State.writeAt, hp, Bool.false_and, Bool.false_eq_true, if_false, hpt, hc, State.l2Put_of_room hroom]
  rfl

theorem State.l2Find_emberHit (s : State) (p q : Place) (n c : Nat) : (s.emberHit p n).l2Find c q = s.l2Find c q := rfl

/-! ## A store in local memory -/

theorem stackOf_sector (a : Nat) : stackOf (a - a % 128) = stackOf a := by
  have h12 : (a - a % 128) / 2 ^ 12 = a / 2 ^ 12 := by omega
  have h21 : (a - a % 128) / 2 ^ 21 = a / 2 ^ 21 := by omega
  rw [stackOf, h12, h21, stackOf]

/-- The masked bytes of the data of a store, where they stand in memory. -/
theorem get_setAll_maskedBytes {m : Mem} {a n v b : Nat} (hb : b < a ∨ a + n ≤ b) :
    (m.setAll (maskedBytes (a - a % 128) (secPut 0 (a % 128) n v) (byteMask (a % 128) n))).get b = m.get b := by
  refine Store.get_setAll_ne _ _ (fun x hx hkey => ?_) _
  obtain ⟨i, hi, rfl⟩ := List.mem_map.mp hx
  have hmask := (mem_bitsOf _ _).mp hi
  have hmask := (getLsbD_byteMask (lt_of_mem_bitsOf hi)).mp hmask
  dsimp only at hkey
  omega

theorem get_setAll_maskedBytes_stored {m : Mem} {a n v i : Nat} (hm : Store.wf m = true) (hfit : a % 128 + n ≤ 128) (hi : i < n) :
    ((m.setAll (maskedBytes (a - a % 128) (secPut 0 (a % 128) n v) (byteMask (a % 128) n))).get (a + i)).toNat =
      v / 2 ^ (8 * i) % 256 := by
  have hk : a % 128 + i < 128 := by omega
  have hmem : a % 128 + i ∈ bitsOf (byteMask (a % 128) n) := (mem_bitsOf _ _).mpr ((getLsbD_byteMask hk).mpr (by omega))
  have hread := Store.get_setAll_map m hm (fun j => a - a % 128 + j) (fun j => BitVec.ofNat 8 (secGet (secPut 0 (a % 128) n v) j 1))
    (bitsOf_nodup _) (fun j _ k _ h => by omega) hmem
  have haddr : a - a % 128 + (a % 128 + i) = a + i := by omega
  rw [haddr] at hread
  rw [maskedBytes, hread, secGet_secPut_zero hk (by omega), BitVec.toNat_ofNat, Nat.add_sub_cancel_left, Nat.mod_mod]

theorem State.l2Flush_of_clean {s : State} {c : Nat} {q : Place} (h : ∀ y, s.l2Find c q = some y → y.dirty = 0) :
    s.l2Flush c q = s.l2Drop c q := by
  rw [State.l2Flush, State.l2WriteBack]
  split
  · rfl
  · next y hy => rw [if_pos (h y hy)]

theorem State.backWrite_loc {s : State} {x : PSector} {mask : BitVec 128} {a : Nat} (hx : x.place = .loc a) :
    (s.backWrite x mask).mem.loc = s.mem.loc.setAll (maskedBytes a x.data mask) := by
  simp only [State.backWrite, hx, Place.isHome, Bool.false_eq_true, if_false]
  exact congrArg (fun m => Store.setAll m _) (ite_keeps (P := SameLocal s) rfl rfl)

/-- What a write at the MSC makes of local memory, where the agent's L2 holds nothing dirty of the sector and the stack is ready. -/
theorem State.writeAt_msc_loc {s : State} {ag : Agent} {a n v : Nat} {at_ : Attr} (hc : at_.coh = false)
    (hstack : s.dev.stackBits.getLsbD (stackOf a) = true)
    (hclean : ∀ y, s.l2Find ag.cluster (Place.loc a).sector = some y → y.dirty = 0) :
    (s.writeAt ag .msc (.loc a) n v at_).mem.loc =
      s.mem.loc.setAll (maskedBytes (a - a % 128) (secPut 0 (a % 128) n v) (byteMask (a % 128) n)) := by
  have hpt : writePoint .msc (.loc a) at_ = .msc := by simp [writePoint, Place.isHome]
  have hlost {d : BitVec 1024} {m : BitVec 128} : (s.l2Drop ag.cluster (Place.loc a).sector).lostBack
      ⟨(Place.loc a).sector, ag.tenant, ag.ctx, false, d, m, m, 0⟩ = false := by
    show (!s.dev.stackBits.getLsbD (stackOf (a - a % 128))) = false
    rw [stackOf_sector, hstack, Bool.not_true]
  have hloc {b : Bool} {q : Place} : (if b = true then (s.l2Drop ag.cluster (Place.loc a).sector).mscHold q
      else s.l2Drop ag.cluster (Place.loc a).sector).mem.loc = s.mem.loc :=
    ite_keeps (P := SameLocal s) ((SameLocal.ignores s).mscHold rfl) rfl
  simp only [State.writeAt, Place.isHome, Bool.false_and, Bool.false_eq_true, if_false, hpt, hc, State.settle,
    State.l2Flush_of_clean hclean, State.behind, hlost]
  exact (State.backWrite_loc rfl).trans (congrArg (fun m => Store.setAll m _) hloc)

/-- Settles O53: the store comes to one merge of a sector of the L2, or to one write of bytes to local memory. -/
theorem storeFrames : Obligations.StoreFrames := by
  unfold Obligations.StoreFrames
  intro s ag va n v sc p at_ hplace hfit hhome hcoh t stored
  have ht : t = (s.storing ag va n v).writeAt ag (pointOf sc p) p n v at_ := State.storeVa_of_place hplace hhome
  have hsame := SameL2.storing s ag va n v
  have htab := SameTables.storing s ag va n v
  have hend : SameTables s t := (SameTables.ignoresMemory s).storeVa (SameTables.refl s)
  refine ⟨hend.groups, hend.dev, fun hpol hsc hroom => ?_, ?_⟩
  · rw [pointOf_narrow hsc, State.writeAt_l2 hhome hcoh hpol (by rw [hsame.2]; exact hroom), hsame.l2Find] at ht
    have hx := storedSector_place s ag p n v
    generalize hold : s.l2Find ag.cluster p.sector = old at hx ht
    refine ⟨ht ▸ hsame.1, fun cl q hne => ?_, storedSector ag p n v old, ?_, fun i hi hs => storedSector_of_stored hi hs,
      fun y i hy hi hs => ?_, fun hnone i hi hs => ?_⟩
    · rw [ht, State.l2Find_emberHit, State.l2Find_l2Set_ne _ (hx ▸ hne), hsame.l2Find]
    · rw [ht, State.l2Find_emberHit, ← hx, State.l2Find_l2Set_self]
    · exact hy ▸ storedSector_of_not_stored hi hs
    · exact hnone ▸ (storedSector_of_not_stored hi hs).1.trans BitVec.getLsbD_zero
  · rintro a rfl hsc hwf hstack hclean
    have hloc : t.mem.loc = s.mem.loc.setAll (maskedBytes (a - a % 128) (secPut 0 (a % 128) n v) (byteMask (a % 128) n)) := by
      rw [ht, pointOf_wide hsc hhome, State.writeAt_msc_loc hcoh (htab.dev ▸ hstack)
        (fun y hy => hclean y (hsame.l2Find _ _ ▸ hy)), hsame.1]
    rw [hloc]
    exact ⟨fun b hb => get_setAll_maskedBytes hb, fun i hi => get_setAll_maskedBytes_stored hwf hfit hi⟩

end Sys2Proof.Machine

/-! PROOFS. A scratchpad store may end the wait of a strand: the waits on a barrier object among its bytes are evaluated afresh. -/

namespace Sys2Proof.Machine

set_option Elab.async false

/-- A wave whose strand waits in `bobj.hold` for the object at 0 to leave its phase 0. -/
def holdingWave : Wave :=
  { probeWave [] with task := { (probeWave []).task with slices := List.replicate 8 { probeSlice [] with wait := some (.hold 0 false) } } }

/-- Its group runs on core 0, with a scratchpad that holds zeros. -/
def holdingState : State :=
  { State.reset with kiln := { State.reset.kiln with groups := [(0, probeGroup)], waves := [(0, holdingWave)] } }

/-- A scratchpad store of one lane, that sets the phase bit of that object. -/
def phaseStore : Op :=
  { id := 0, instr := .sts ⟨false, 0⟩ (.v 0) (.v 1) (.v 2) ⟨⟨false, false⟩, .b32, .none, .rlx, .wave⟩, pc := 0, lanes := 1, todo := 1
    slices := 1, undone := 1, flag := none, vals := [(0, 8), (64, 0x80000000)], wins := List.replicate 8 0, checked := true
    depth := 0, dst := [] }

/-- Refutes O18: a store that ends the phase of a barrier object lets a strand go on that waits for it. -/
theorem not_scratchpadAccess : ¬ Obligations.ScratchpadAccess := by
  intro h
  obtain ⟨-, hstore⟩ := h holdingState ⟨0, 0, 0⟩ 0 0 phaseStore ⟨.spad, .store, .b32, .rlx, .wave, false, .plain false⟩ probeGroup rfl rfl
  obtain ⟨t, ht, -, -, -, -, -, hwaves⟩ := hstore rfl rfl
  have hwait : (t.wave 0).map (fun w => (w.slice 0).wait) = some none := by
    obtain rfl : _ = t := congrArg Prod.fst ht
    rfl
  rw [State.wave, hwaves] at hwait
  exact absurd hwait (by decide)

end Sys2Proof.Machine

/-! PROOFS. Barrier objects: what the instructions make of them, the phase test, and the order of the changes of one clock. -/

namespace Sys2Proof.Machine

set_option Elab.async false

/-! ## Instructions that are ordered behind what precedes them -/

theorem Env.ordered_of_not_behind {e : Env} {g : Guard} (h : e.w.behind e.sl = false) : e.ordered g = false := by
  rw [Env.ordered, h, Bool.and_false]

/-- An ordered instruction behind which nothing is outstanding has its body's effect. -/
theorem runOrdered_leads {i : Instr} {g : Guard} {dsts srcs : List (Opd × Nat)} {s t : State} {body : Env → Except Bad State} {e : Env}
    (h : Leads s g dsts srcs e) (ho : e.w.behind e.sl = false) (hb : body e = .ok t) :
    runOrdered i g dsts srcs true s body = .next (t.next e i) := by
  simp only [runOrdered, h.env, Env.ordered_of_not_behind ho, Bool.false_eq_true, if_false]
  exact runShort_reads h.toExecutes hb h.clean

/-- So has a waiting one that has no error to report. -/
theorem runWaitOrdered_waits {i : Instr} {g : Guard} {srcs : List (Opd × Nat)} {s t : State} {body : Env → Except Bad State} {e : Env}
    (h : Waits s g srcs e) (ho : e.w.behind e.sl = false) (hb : body e = .ok t) : runWaitOrdered i g srcs s body = .next t := by
  simp only [runWaitOrdered, h.env, Env.ordered_of_not_behind ho, Bool.false_eq_true, if_false, runWait, h.guard, State.reportHere,
    h.quiet, Option.map_none]
  exact runShort_reads h.toExecutes hb h.clean

/-! ## The object (R185, R186) -/

theorem bobjBad_open {s : State} {grp x l : Nat} (ha : x % 16 = 0) (hs : x + 16 ≤ s.spadSize grp) : bobjBad s grp x l false = none := by
  rw [bobjBad, if_neg (not_not_intro ha), if_neg (by omega)]
  cases s.group grp <;> rfl

theorem BObj.test_of_ended {o : BObj} (ha : o.arrivals = 0) (hp : o.pending = 0) (he : o.early = 0) :
    o.test = { o with phase := !o.phase, arrivals := o.init } := if_pos ⟨ha, hp, he⟩

theorem BObj.test_of_open {o : BObj} (h : o.arrivals ≠ 0 ∨ o.pending ≠ 0 ∨ o.early ≠ 0) : o.test = o :=
  if_neg fun hc => by
    obtain ⟨ha, hp, he⟩ := hc
    rcases h with h | h | h
    · exact h ha
    · exact h hp
    · exact h he

theorem BObj.deliver_of_pending {o : BObj} {n : Nat} (h : n ≤ o.pending) :
    o.deliver n = BObj.test { o with pending := o.pending - n } := by rw [BObj.deliver, if_pos h]

theorem BObj.deliver_early {o : BObj} {n : Nat} (h : o.pending < n) (hm : o.early + (n - o.pending) < 2 ^ 24) :
    o.deliver n = BObj.test { o with pending := 0, early := o.early + (n - o.pending) } := by
  rw [BObj.deliver, if_neg (by omega), Nat.min_eq_left (by omega)]

theorem BObj.arrive_of_arrivals {o : BObj} {free : BitVec 12} (h : o.arrivals ≠ 0) :
    o.arrive free = BObj.test { o with arrivals := o.arrivals - 1 } := by rw [BObj.arrive, if_neg h]

/-- The fields stand in disjoint parts of the 128 bits. -/
theorem BObj.toNat_toBits (o : BObj) : o.toBits.toNat = o.pending % 2 ^ 24 + o.early % 2 ^ 24 * 2 ^ 32 + o.arrivals % 4096 * 2 ^ 64
    + o.init % 4096 * 2 ^ 80 + (if o.phase then 2 ^ 95 else 0) + (if o.live then 2 ^ 96 else 0) := by
  have hp : o.pending % 2 ^ 24 < 2 ^ 24 := Nat.mod_lt _ (by decide)
  have he : o.early % 2 ^ 24 < 2 ^ 24 := Nat.mod_lt _ (by decide)
  have ha : o.arrivals % 4096 < 4096 := Nat.mod_lt _ (by decide)
  have hi : o.init % 4096 < 4096 := Nat.mod_lt _ (by decide)
  have hphase : (if o.phase then 2 ^ 95 else 0) ≤ 2 ^ 95 := by cases o.phase <;> decide
  have hlive : (if o.live then 2 ^ 96 else 0) ≤ 2 ^ 96 := by cases o.live <;> decide
  rw [BObj.toBits, BitVec.toNat_ofNat, Nat.mod_eq_of_lt]
  omega

/-- Each field is read back from the sum of all. -/
theorem fields_of_sum {p e a i b c v : Nat} (hp : p < 2 ^ 24) (he : e < 2 ^ 24) (ha : a < 4096) (hi : i < 4096) (hb : b < 2) (hc : c < 2)
    (hv : v = p + e * 2 ^ 32 + a * 2 ^ 64 + i * 2 ^ 80 + b * 2 ^ 95 + c * 2 ^ 96) :
    v / 2 ^ 0 % 2 ^ 24 = p ∧ v / 2 ^ 32 % 2 ^ 24 = e ∧ v / 2 ^ 64 % 2 ^ 12 = a ∧ v / 2 ^ 80 % 2 ^ 12 = i ∧ v / 2 ^ 95 % 2 = b ∧
      v / 2 ^ 96 % 2 = c := by
  omega

theorem getLsbD_of_div {v : BitVec 128} {k : Nat} {b : Bool} (h : v.toNat / 2 ^ k % 2 = b.toNat) : v.getLsbD k = b := by
  rw [BitVec.getLsbD, Nat.testBit_eq_decide_div_mod_eq, h]
  cases b <;> rfl

theorem extractLsb'_of_div {v : BitVec 128} {k n x : Nat} (h : v.toNat / 2 ^ k % 2 ^ n = x) : (v.extractLsb' k n).toNat = x := by
  rw [BitVec.extractLsb'_toNat, Nat.shiftRight_eq_div_pow, h]

theorem BObj.ofBits_toBits {o : BObj} (ha : o.arrivals < 4096) (hi : o.init < 4096) (hp : o.pending < 2 ^ 24) (he : o.early < 2 ^ 24) :
    BObj.ofBits o.toBits = o := by
  have hv := BObj.toNat_toBits o
  have hbit (x : Bool) (k : Nat) : (if x then 2 ^ k else 0) = x.toNat * 2 ^ k := by cases x <;> simp
  rw [Nat.mod_eq_of_lt ha, Nat.mod_eq_of_lt hi, Nat.mod_eq_of_lt hp, Nat.mod_eq_of_lt he, hbit, hbit] at hv
  obtain ⟨h0, h32, h64, h80, h95, h96⟩ := fields_of_sum hp he ha hi o.phase.toNat_lt o.live.toNat_lt hv
  rw [BObj.ofBits, getLsbD_of_div h96, getLsbD_of_div h95, extractLsb'_of_div h80, extractLsb'_of_div h64, extractLsb'_of_div h32,
    extractLsb'_of_div h0]

theorem BObj.post_zero (o : BObj) : o.post 0 = o := by simp [BObj.post]

theorem State.bobjNow_of_none {s : State} {g a : Nat} (h : s.sched.changes = none) : s.bobjNow g a = s.bobj g a := by
  simp only [State.bobjNow, h, Option.getD_none]
  exact BObj.post_zero _

theorem State.change_of_none {s : State} (c : Change) (h : s.sched.changes = none) : s.change c = s.changeNow c := by
  rw [State.change, h]

theorem State.change_of_some {s : State} {l : List Change} (c : Change) (h : s.sched.changes = some l) :
    s.change c = { s with sched := { s.sched with changes := some (l ++ [c]) } } := by
  rw [State.change, h]

/-- Of a post, a delivery and an arrival of one clock the post comes first and the arrival last (R186). -/
theorem State.endObject_three (s : State) (g a n k id : Nat) :
    s.endObject [.arrive g a, .deliver g a k id, .post g a n] (g, a) =
      ((s.putBobj g a ((s.bobj g a).post n).test).changeNow (.deliver g a k id)).changeNow (.arrive g a) := by
  simp [State.endObject, postedAt, deliveredAt, State.changeNow]

/-- Settles O21: each instruction's body is one change of the object, and each change of the object one phase test. -/
theorem barrierObjects : Obligations.BarrierObjects := by
  unfold Obligations.BarrierObjects
  refine ⟨?_, fun o n free => ⟨BObj.test_of_ended, BObj.test_of_open, BObj.deliver_of_pending, BObj.deliver_early,
    BObj.arrive_of_arrivals, BObj.ofBits_toBits⟩, fun s g a n k id l c => ⟨State.change_of_some c, State.endObject_three s g a n k id⟩⟩
  intro s g a b mark e l hl x n post
  refine ⟨fun h ho ha hs h1 hn => ?_, fun h ho hb hp => ?_, fun h ho hb => ?_, fun hc => ?_, fun h ho hb => ?_⟩
  · refine runOrdered_leads h ho ?_
    simp only [hl]
    rw [bobjBad_open ha hs, if_neg (by omega)]
  · refine runOrdered_leads h ho ?_
    simp only [hl]
    rw [hb]
    exact if_neg (Nat.not_le.mpr hp)
  · refine runOrdered_leads h ho ?_
    simp only [hl]
    rw [hb]
  · exact ⟨State.bobjNow_of_none hc, State.change_of_none _ hc, State.change_of_none _ hc⟩
  · refine runWaitOrdered_waits h ho ?_
    simp only [hl]
    rw [hb]

end Sys2Proof.Machine

/-! PROOFS. The completion of an outstanding operation for a slice, and the flag that it lowers there. -/

namespace Sys2Proof.Machine

set_option Elab.async false

/-! ## What an operation does when it completes -/

theorem maskOf_take_of_le {m : W32} {n : Nat} (h : 32 ≤ n) : maskOf ((bitsOf m).take n) = m := by
  have hlen : (bitsOf m).length ≤ 32 := (List.length_filter_le _ _).trans (by rw [List.length_range])
  rw [List.take_of_length_le (hlen.trans h)]
  refine BitVec.eq_of_getLsbD_eq fun i hi => ?_
  rw [getLsbD_maskOf _ _ hi, Bool.eq_iff_iff, decide_eq_true_eq, mem_bitsOf]

/-- A memory access completes as one. -/
theorem State.completeOp_of_acc {s : State} {u core grp slice count : Nat} {ag : Agent} {o : Op} {a : Acc} (h : accOf o.instr = some a) :
    s.completeOp u core grp ag o slice count = s.completeMem u ag grp o a slice count := by
  unfold State.completeOp
  dsimp only
  split
  case h_22 => simp only [h]
  all_goals
    next hi =>
    rw [hi] at h
    cases h

theorem State.refused_filter {l : List (W32 × Nat × Nat)} (h : ∀ x ∈ l, x.1 = 0) : l.filter (fun x => x.1 != 0) = [] :=
  List.filter_eq_nil_iff.mpr fun x hx => by simp [h x hx]

/-- An access whose lanes are not refused performs its lanes still to do of the slice, all at once. -/
theorem State.completeMem_of_checked {s : State} {u grp slice count : Nat} {ag : Agent} {o : Op} {a : Acc}
    (hk : a.kind = .load ∨ 32 ≤ count)
    (hc : o.checked = true ∨ (s.memCheck ag grp o a = none ∧ ∀ x ∈ s.lanesRefused ag grp o a, x.1 = 0)) :
    let ls : W32 := o.todo &&& lanesOf (o.together slice)
    let o0 : Op := { o with checked := true }
    let o1 : Op := { o0 with todo := o.todo &&& ~~~ls }
    s.completeMem u ag grp o a slice count =
      ((if ls = 0 then s else s.performMem u ag grp o0 a ls).setOp u o1).sliceDone u o1 slice := by
  have hls (all : W32) : (if a.kind = .load then all else maskOf ((bitsOf all).take count)) = all := by
    split
    · rfl
    · next hl => exact maskOf_take_of_le (hk.resolve_left hl)
  intro ls o0 o1
  unfold State.completeMem
  dsimp only
  cases hch : o.checked with
  | true =>
    have ho : o0 = o := by
      obtain ⟨_, _, _, _, _, _, _, _, _, _, checked, _, _⟩ := o
      cases hch
      rfl
    simp only [if_true, hls, o1, ls, ho, hch]
  | false =>
    obtain ⟨hmem, href⟩ := hc.resolve_left (by rw [hch]; exact Bool.false_ne_true)
    simp only [Bool.false_eq_true, if_false, hmem, State.refused_filter href, List.foldl_nil, hls, if_true]
    have hz : o.todo &&& ~~~(0 : W32) = o.todo := BitVec.and_allOnes
    simp only [hz]
    rfl

/-! ## The completion of a slice -/

theorem getD_modAt {α : Type} (f : α → α) (d : α) : ∀ (l : List α) (n k : Nat),
    (modAt l n f).getD k d = if k = n ∧ k < l.length then f (l.getD k d) else l.getD k d
  | [], _, _ => by simp [modAt]
  | a :: r, 0, 0 => by simp [modAt]
  | a :: r, 0, k + 1 => by simp [modAt]
  | a :: r, n + 1, 0 => by simp [modAt]
  | a :: r, n + 1, k + 1 => by simpa [modAt] using getD_modAt f d r n k

/-- A count is lowered where its flag is named, and stays 0 where it is 0. -/
theorem SliceSt.count_lowered (x : SliceSt) (n f : Nat) :
    ({ x with flags := modAt x.flags n (· - 1) } : SliceSt).count f = x.count f - if n = f then 1 else 0 := by
  rw [SliceSt.count, SliceSt.count, getD_modAt]
  by_cases hn : n = f
  · subst hn
    split
    · rw [if_pos rfl]
    · next hlen => rw [List.getD_eq_default _ _ (by omega), Nat.zero_sub]
  · rw [if_neg (fun h => hn h.1.symm), if_neg hn, Nat.sub_zero]

theorem Wave.slice_modSlices {w : Wave} {sl : BitVec 8} {f : SliceSt → SliceSt} {i : Nat} (hi : i < w.task.slices.length) :
    (w.modSlices sl f).slice i = if sl.getLsbD i then f (w.slice i) else w.slice i := by
  simp only [Wave.slice, TaskCtx.slice, Wave.modSlices, List.getD_eq_getElem?_getD, modWhere_getElem?, List.getElem?_eq_getElem hi,
    Option.map_some, Option.getD_some, Nat.zero_add]

theorem Wave.count_lower {w : Wave} {sl : BitVec 8} {flag : Option Nat} {i f : Nat} (hi : i < w.task.slices.length) :
    ((w.lower sl flag).slice i).count f = (w.slice i).count f - if sl.getLsbD i = true ∧ flag = some f then 1 else 0 := by
  cases flag with
  | none => simp [Wave.lower]
  | some n =>
    rw [Wave.lower, Wave.slice_modSlices hi]
    cases hs : sl.getLsbD i with
    | false => simp
    | true => simp only [if_true, SliceSt.count_lowered, true_and, Option.some.injEq]

/-- The slice that completes, among those in which the operation is outstanding. -/
theorem getLsbD_undone_one {m : BitVec 8} {j i : Nat} (hj : m.getLsbD j = true) (hi : i < 8) :
    (m &&& maskOf [j]).getLsbD i = decide (i = j) := by
  rw [BitVec.getLsbD_and, getLsbD_maskOf _ _ hi]
  by_cases h : i = j
  · simp [h, hj]
  · simp [h]

/-- An operation of the wave's own depth lowers its flag in the slices that complete, and changes no register. -/
theorem Wave.opDone_eq {w : Wave} {o : Op} {sl : BitVec 8} (h : o.depth = w.depth) :
    w.opDone o sl = { w.lower (o.undone &&& sl) o.flag with
      ops := if o.undone &&& ~~~sl = 0 then w.ops.filter (fun x => x.id != o.id)
        else w.ops.map (fun x => if x.id = o.id then { x with undone := o.undone &&& ~~~sl } else x) } := by
  rw [Wave.opDone, Wave.lowerFor, if_neg (by omega)]

theorem Wave.registers_lower (w : Wave) (sl : BitVec 8) (flag : Option Nat) : (w.lower sl flag).registers = w.registers := by
  cases flag <;> rfl

/-- Settles O17: `completeOp` acts by the kind of the operation, and `sliceDone` lowers the flag of one slice. -/
theorem operationsComplete : Obligations.OperationsComplete := by
  unfold Obligations.OperationsComplete
  refine ⟨?_, ?_⟩
  · intro s core wid id slice count u w o hw ho ag goes once
    have hexec (t : State) (hu : o.undone.getLsbD slice = true) (hm : w.mayPerform o slice = true)
        (ht : s.completeOp u core w.group ag o slice count = t) : goes t := by
      show execLongOpComplete core wid id ⟨slice, count⟩ s = _
      simp only [execLongOpComplete, hw, ho, hu, hm, Bool.not_true, Bool.or_self, Bool.false_eq_true, if_false, ← ht]
      rfl
    refine ⟨fun hu hm => ⟨hexec _ hu hm rfl, fun a ha hk hc => ?_, fun g a b fs htodo => ⟨fun hi => ?_, fun hi => ?_⟩⟩, fun hn => ?_⟩
    · exact hexec _ hu hm ((State.completeOp_of_acc ha).trans (State.completeMem_of_checked hk hc))
    · exact hexec _ hu hm (by simp only [State.completeOp, hi, State.actOnce, if_neg htodo, once])
    · exact hexec _ hu hm (by simp only [State.completeOp, hi, State.actOnce, if_neg htodo, once])
    · show execLongOpComplete core wid id ⟨slice, count⟩ s = _
      simp only [execLongOpComplete, hw, ho]
      rcases hn with hn | hn
      · simp only [hn, Bool.not_false, Bool.true_or, if_true]
      · simp only [hn, Bool.not_false, Bool.or_true, if_true]
  · intro s u slice w o hw hd hslice hlen hu
    refine ⟨w.opDone o (maskOf [slice]), by rw [State.sliceDone, State.wave_modWave, hw, Option.map_some], fun i f hi => ?_, fun hone => ?_,
      ?_⟩
    · rw [Wave.opDone_eq hd]
      refine (Wave.count_lower (by omega)).trans ?_
      rw [getLsbD_undone_one hu hi]
      simp only [decide_eq_true_eq]
    · rw [Wave.opDone_eq hd, hone]
      exact if_pos (by simp)
    · rw [Wave.opDone_eq hd]
      exact Wave.registers_lower w _ _

end Sys2Proof.Machine

/-! PROOFS. Branches, calls, jumps and returns: where the lanes of a slice go, and how the strand parts. -/

namespace Sys2Proof.Machine

set_option Elab.async false

/-! ## Addresses in ascending order -/

theorem insertBy_perm {α : Type} (le : α → α → Bool) (a : α) : ∀ l : List α, (insertBy le a l).Perm (a :: l)
  | [] => .refl _
  | b :: r => by
    rw [insertBy]
    split
    · exact .refl _
    · exact ((insertBy_perm le a r).cons b).trans (.swap a b r)

theorem sortBy_perm {α : Type} (le : α → α → Bool) : ∀ l : List α, (sortBy le l).Perm l
  | [] => .refl _
  | a :: r => (insertBy_perm le a _).trans ((sortBy_perm le r).cons a)

theorem insertBy_ascending {a : Nat} : ∀ {l : List Nat}, l.Pairwise (· ≤ ·) → (insertBy Nat.ble a l).Pairwise (· ≤ ·)
  | [], _ => List.pairwise_singleton _ _
  | b :: r, h => by
    obtain ⟨hb, hr⟩ := List.pairwise_cons.mp h
    rw [insertBy]
    split
    · next hab =>
      have hle : a ≤ b := Nat.le_of_ble_eq_true hab
      refine List.pairwise_cons.mpr ⟨fun c hc => ?_, h⟩
      rcases List.mem_cons.mp hc with rfl | hc
      · exact hle
      · exact hle.trans (hb c hc)
    · next hab =>
      have hle : b ≤ a := (Nat.lt_of_not_le fun hle => hab (Nat.ble_eq_true_of_le hle)).le
      refine List.pairwise_cons.mpr ⟨fun c hc => ?_, insertBy_ascending hr⟩
      rcases List.mem_cons.mp ((insertBy_perm Nat.ble a r).mem_iff.mp hc) with rfl | hc
      · exact hle
      · exact hb c hc

theorem sortBy_ascending : ∀ l : List Nat, (sortBy Nat.ble l).Pairwise (· ≤ ·)
  | [] => .nil
  | _ :: r => insertBy_ascending (sortBy_ascending r)

/-- The different numbers of a list, ascending, are the one ascending list of them. -/
theorem sortBy_dedup_eq {l m : List Nat} (hm : m.Pairwise (· < ·)) (h : ∀ a, a ∈ m ↔ a ∈ l) : (sortBy Nat.ble l).dedup = m := by
  have hs : (sortBy Nat.ble l).dedup.Pairwise (· < ·) :=
    (((sortBy_ascending l).sublist (List.dedup_sublist _)).and (List.nodup_dedup _)).imp fun hx => Nat.lt_of_le_of_ne hx.1 hx.2
  exact hs.eq_of_mem_iff hm fun a => by rw [List.mem_dedup, (sortBy_perm Nat.ble l).mem_iff, h]

/-! ## A slice -/

theorem getLsbD_maskOf_lanes (x : SliceSt) (p : Nat → Bool) (i : Nat) :
    (maskOf ((List.range 4).filter (fun i => x.mask.getLsbD i && p i)) : BitVec 4).getLsbD i = (x.mask.getLsbD i && p i) := by
  by_cases hi : i < 4
  · rw [getLsbD_maskOf _ _ hi, Bool.eq_iff_iff, decide_eq_true_eq, List.mem_filter, List.mem_range, and_iff_right hi]
  · rw [BitVec.getLsbD_of_ge _ _ (Nat.le_of_not_lt hi), BitVec.getLsbD_of_ge _ _ (Nat.le_of_not_lt hi), Bool.false_and]

/-- The lanes of a slice that go to an address. -/
def SliceSt.lanesTo (x : SliceSt) (lane0 : Nat) (tgt : Nat → Nat) (a : Nat) : BitVec 4 :=
  maskOf ((List.range 4).filter (fun i => x.mask.getLsbD i && tgt (lane0 + i) == a))

theorem SliceSt.getLsbD_lanesTo (x : SliceSt) (lane0 : Nat) (tgt : Nat → Nat) (a i : Nat) :
    (x.lanesTo lane0 tgt a).getLsbD i = (x.mask.getLsbD i && tgt (lane0 + i) == a) :=
  getLsbD_maskOf_lanes x (fun i => tgt (lane0 + i) == a) i

/-- The address where a slice goes on, of the ascending ones that its lanes go to. -/
def goesOn (fall low : Nat) (others : List Nat) (indirect : Bool) : Nat :=
  if others = [] ∨ indirect then low else ((low :: others).find? (· != fall)).getD low

/-- A slice of which some lane is active goes on at one of its addresses and keeps the others pending. -/
theorem SliceSt.transfer_of_addresses {x : SliceSt} {lane0 : Nat} {tgt : Nat → Nat} {fall low : Nat} {others : List Nat} {ind : Bool}
    (hs : (low :: others).Pairwise (· < ·)) (h : ∀ a, a ∈ low :: others ↔ ∃ i, x.mask.getLsbD i = true ∧ tgt (lane0 + i) = a) :
    x.transfer lane0 tgt fall ind =
      let cur := goesOn fall low others ind
      let pend : List Path := ((low :: others).filter (· != cur)).map (fun a => ⟨a, x.lanesTo lane0 tgt a⟩)
      if x.stack.length + pend.length > 8 then none
      else some { x with pc := cur, mask := x.lanesTo lane0 tgt cur, stack := x.stack ++ pend, clause := none, wait := none } := by
  have ha : (sortBy Nat.ble ((bitsOf x.mask).map (fun i => tgt (lane0 + i)))).dedup = low :: others :=
    sortBy_dedup_eq hs fun a => by
      rw [h, List.mem_map]
      exact exists_congr fun i => and_congr_left' (mem_bitsOf x.mask i).symm
  unfold SliceSt.transfer
  dsimp only
  rw [ha]
  rfl

/-- Whatever its addresses are, a slice keeps its exited lanes, its window, its flags and its strand. -/
theorem SliceSt.transfer_keeps {x y : SliceSt} {lane0 : Nat} {tgt : Nat → Nat} {fall : Nat} {ind : Bool}
    (h : x.transfer lane0 tgt fall ind = some y) :
    y.exited = x.exited ∧ y.window = x.window ∧ y.flags = x.flags ∧ y.strand = x.strand := by
  unfold SliceSt.transfer at h
  extract_lets at_ addrs at h
  generalize addrs = l at h
  split at h
  · cases h
    exact ⟨rfl, rfl, rfl, rfl⟩
  · extract_lets cur pend at h
    split at h
    · cases h
    · cases h
      exact ⟨rfl, rfl, rfl, rfl⟩

theorem exists_active {m : BitVec 4} (h : m ≠ 0) : ∃ i, m.getLsbD i = true := by
  obtain ⟨i, hi⟩ := List.exists_mem_of_ne_nil _ (mt (bitsOf_eq_nil m).mp h)
  exact ⟨i, (mem_bitsOf m i).mp hi⟩

section Slice
variable {x : SliceSt} {lane0 : Nat} {tgt : Nat → Nat} {fall t : Nat}

/-- Lanes that go to one address stay together there. -/
theorem SliceSt.transfer_together {ind : Bool} (hm : x.mask ≠ 0) (ht : ∀ i, x.mask.getLsbD i = true → tgt (lane0 + i) = t)
    (hl : x.stack.length ≤ 8) : ∃ y, x.transfer lane0 tgt fall ind = some y ∧ y.pc = t ∧ y.mask = x.mask ∧ y.stack = x.stack := by
  obtain ⟨k, hk⟩ := exists_active hm
  have ha : ∀ a, a ∈ [t] ↔ ∃ i, x.mask.getLsbD i = true ∧ tgt (lane0 + i) = a := fun a => by
    rw [List.mem_singleton]
    exact ⟨fun h => ⟨k, hk, (ht k hk).trans h.symm⟩, fun ⟨i, hi, hia⟩ => hia.symm.trans (ht i hi)⟩
  have hcur : goesOn fall t [] ind = t := if_pos (Or.inl rfl)
  have hmask : x.lanesTo lane0 tgt t = x.mask := BitVec.eq_of_getLsbD_eq fun i _ => by
    rw [SliceSt.getLsbD_lanesTo, Bool.and_eq_left_iff_imp]
    exact fun hi => beq_iff_eq.mpr (ht i hi)
  rw [SliceSt.transfer_of_addresses (List.pairwise_singleton _ _) ha, hcur]
  simp [hmask, Nat.not_lt.mpr hl]

/-- Lanes that split between a target and the fall-through: the target is current, the fall-through is pending. -/
theorem SliceSt.transfer_split (hne : t ≠ fall)
    (hall : ∀ i, x.mask.getLsbD i = true → tgt (lane0 + i) = t ∨ tgt (lane0 + i) = fall)
    (ht : ∃ i, x.mask.getLsbD i = true ∧ tgt (lane0 + i) = t) (hf : ∃ i, x.mask.getLsbD i = true ∧ tgt (lane0 + i) = fall)
    (hl : x.stack.length < 8) :
    ∃ y, x.transfer lane0 tgt fall false = some y ∧ y.pc = t ∧ y.mask = x.lanesTo lane0 tgt t ∧
      y.stack = x.stack ++ [⟨fall, x.lanesTo lane0 tgt fall⟩] := by
  have ha (a : Nat) : (a = t ∨ a = fall) ↔ ∃ i, x.mask.getLsbD i = true ∧ tgt (lane0 + i) = a := by
    constructor
    · rintro (rfl | rfl)
      · exact ht
      · exact hf
    · rintro ⟨i, hi, rfl⟩
      exact hall i hi
  rcases Nat.lt_or_gt_of_ne hne with hlt | hlt
  · have hcur : goesOn fall t [fall] false = t := by simp [goesOn, hne]
    rw [SliceSt.transfer_of_addresses (low := t) (others := [fall]) (by simpa using hlt) (by simpa using ha), hcur]
    simp [hne.symm, Nat.not_le.mpr hl]
  · have hcur : goesOn fall fall [t] false = t := by simp [goesOn, hne]
    rw [SliceSt.transfer_of_addresses (low := fall) (others := [t]) (by simpa using hlt) (by simpa [or_comm] using ha), hcur]
    simp [hne.symm, Nat.not_le.mpr hl]

/-- Lanes of an indirect transfer: the lowest address is current, the others are pending, ascending. -/
theorem SliceSt.transfer_indirect {low : Nat} {others : List Nat} (hs : (low :: others).Pairwise (· < ·))
    (h : ∀ a, a ∈ low :: others ↔ ∃ i, x.mask.getLsbD i = true ∧ tgt (lane0 + i) = a) :
    x.transfer lane0 tgt fall true =
      if x.stack.length + others.length > 8 then none
      else some { x with
        pc := low, mask := x.lanesTo lane0 tgt low
        stack := x.stack ++ others.map (fun a => ⟨a, x.lanesTo lane0 tgt a⟩), clause := none, wait := none } := by
  have hcur : goesOn fall low others true = low := if_pos (Or.inr rfl)
  have hf : (low :: others).filter (· != low) = others := by
    rw [List.filter_cons_of_neg (by simp), List.filter_eq_self]
    exact fun a ha => bne_iff_ne.mpr (Nat.ne_of_gt (List.rel_of_pairwise_cons hs ha))
  rw [SliceSt.transfer_of_addresses hs h, hcur]
  dsimp only
  rw [hf, List.length_map]

end Slice

/-! ## A strand -/

theorem Wave.slice_modSlicesI {w : Wave} {sl : BitVec 8} {f : Nat → SliceSt → SliceSt} {i : Nat} (hi : i < w.task.slices.length) :
    (w.modSlicesI sl f).slice i = if sl.getLsbD i then f i (w.slice i) else w.slice i := by
  simp only [Wave.slice, TaskCtx.slice, Wave.modSlicesI, List.getD_eq_getElem?_getD, modWhere_getElem?, List.getElem?_eq_getElem hi,
    Option.map_some, Option.getD_some, Nat.zero_add]

theorem length_modWhere {α : Type} {p : Nat → Bool} {f : Nat → α → α} : ∀ {n : Nat} {l : List α}, (modWhere p f n l).length = l.length
  | _, [] => rfl
  | _, _ :: _ => by rw [modWhere, List.length_cons, List.length_cons, length_modWhere]

@[simp] theorem Wave.clauseStep_task (w : Wave) (st : BitVec 8) : (w.clauseStep st).task = w.task := by
  unfold Wave.clauseStep
  split <;> rfl

@[simp] theorem Wave.clauseStep_slice (w : Wave) (st : BitVec 8) (i : Nat) : (w.clauseStep st).slice i = w.slice i := by
  rw [Wave.slice, Wave.clauseStep_task]
  rfl

/-- Parting the strands changes the strand number of a slice and nothing else of it. -/
theorem Wave.slice_reStrand {w : Wave} {i : Nat} (hi : i < w.task.slices.length) :
    w.reStrand.slice i = { w.slice i with strand := newStrand w.task.slices i } := by
  simp only [Wave.slice, TaskCtx.slice, Wave.reStrand, List.getD_eq_getElem?_getD, modWhere_getElem?, List.getElem?_eq_getElem hi,
    Option.map_some, Option.getD_some, Nat.zero_add, if_true]

/-- Two live slices are of one strand after the parting exactly if they were before and stand at one program counter. -/
theorem newStrand_eq_iff {w : Wave} {i j : Nat} (hi : i < 8) (hj : j < 8) (hil : (w.slice i).live = true) (hjl : (w.slice j).live = true) :
    newStrand w.task.slices i = newStrand w.task.slices j ↔
      (w.slice i).strand = (w.slice j).strand ∧ (w.slice i).pc = (w.slice j).pc := by
  have found (i : Nat) (hi : i < 8) (hl : (w.slice i).live = true) :
      (w.slice (newStrand w.task.slices i)).strand = (w.slice i).strand ∧ (w.slice (newStrand w.task.slices i)).pc = (w.slice i).pc := by
    have hself : ((w.slice i).live && (w.slice i).strand == (w.slice i).strand && (w.slice i).pc == (w.slice i).pc) = true := by simp [hl]
    obtain ⟨k, hk⟩ := Option.isSome_iff_exists.mp 
      (List.find?_isSome (p := fun k => (w.slice k).live && (w.slice k).strand == (w.slice i).strand && (w.slice k).pc == (w.slice i).pc)
        |>.mpr ⟨i, List.mem_range.mpr hi, hself⟩)
    have hp := List.find?_some hk
    simp only [Bool.and_eq_true, beq_iff_eq] at hp
    have hn : newStrand w.task.slices i = k := (congrArg (·.getD i) hk).trans rfl
    rw [hn]
    exact ⟨hp.1.2, hp.2⟩
  constructor
  · intro h
    obtain ⟨hsi, hpi⟩ := found i hi hil
    obtain ⟨hsj, hpj⟩ := found j hj hjl
    rw [h] at hsi hpi
    exact ⟨hsi.symm.trans hsj, hpi.symm.trans hpj⟩
  · rintro ⟨hs, hp⟩
    have hself : ((w.slice i).live && (w.slice i).strand == (w.slice j).strand && (w.slice i).pc == (w.slice j).pc) = true := by
      simp [hil, hs, hp]
    obtain ⟨k, hk⟩ := Option.isSome_iff_exists.mp
      (List.find?_isSome (p := fun k => (w.slice k).live && (w.slice k).strand == (w.slice j).strand && (w.slice k).pc == (w.slice j).pc)
        |>.mpr ⟨i, List.mem_range.mpr hi, hself⟩)
    have hj' : newStrand w.task.slices j = k := (congrArg (·.getD j) hk).trans rfl
    have hi' : newStrand w.task.slices i = k := by
      rw [← hs, ← hp] at hk
      exact (congrArg (·.getD i) hk).trans rfl
    rw [hi', hj']

section Strand
variable {w w' : Wave} {st : BitVec 8} {tgt : Nat → Nat} {fall : Nat} {ind : Bool}

/-- A transfer gives every slice of the strand its next paths and the other slices a strand number. -/
theorem Wave.slice_transfer (hlen : w.task.slices.length = 8) (h : w.transfer st tgt fall ind = .ok w') {i : Nat} (hi : i < 8) :
    ∃ n y, (st.getLsbD i = true → (w.slice i).transfer (4 * i) tgt fall ind = some y) ∧ (st.getLsbD i = false → y = w.slice i) ∧
      w'.slice i = { y with strand := n } := by
  unfold Wave.transfer at h
  split at h
  · cases h
  next hnone =>
  cases h
  have hi' : i < w.task.slices.length := hlen ▸ hi
  refine ⟨newStrand (w.modSlicesI st (fun i x => (x.transfer (4 * i) tgt fall ind).getD x)).task.slices i,
    if st.getLsbD i then ((w.slice i).transfer (4 * i) tgt fall ind).getD (w.slice i) else w.slice i, fun hs => ?_,
    fun hs => ?_, ?_⟩
  · have hsome := List.find?_eq_none.mp hnone i ((mem_bitsOf st i).mpr hs)
    obtain ⟨y, hy⟩ := Option.ne_none_iff_exists'.mp (by simpa using hsome)
    rw [if_pos hs, hy, Option.getD_some]
  · rw [hs]
    rfl
  · rw [Wave.clauseStep_slice, Wave.slice_reStrand (by simpa only [Wave.modSlicesI, length_modWhere] using hi'),
      Wave.slice_modSlicesI hi']

/-- The strand numbers after a transfer are those that the parting gives from the strands before and the addresses after. -/
theorem Wave.transfer_strands (hlen : w.task.slices.length = 8) (h : w.transfer st tgt fall ind = .ok w') {i j : Nat} (hi : i < 8)
    (hj : j < 8) (hil : (w.slice i).live = true) (hjl : (w.slice j).live = true) :
    (w'.slice i).strand = (w'.slice j).strand ↔ (w.slice i).strand = (w.slice j).strand ∧ (w'.slice i).pc = (w'.slice j).pc := by
  unfold Wave.transfer at h
  split at h
  · cases h
  cases h
  have hlen' (f : Nat → SliceSt → SliceSt) : (w.modSlicesI st f).task.slices.length = 8 := by
    simpa only [Wave.modSlicesI, length_modWhere] using hlen
  have keeps (k : Nat) (hk : k < 8) :
      ((w.modSlicesI st (fun i x => (x.transfer (4 * i) tgt fall ind).getD x)).slice k).exited = (w.slice k).exited ∧
      ((w.modSlicesI st (fun i x => (x.transfer (4 * i) tgt fall ind).getD x)).slice k).strand = (w.slice k).strand := by
    rw [Wave.slice_modSlicesI (hlen ▸ hk)]
    split
    · cases ht : (w.slice k).transfer (4 * k) tgt fall ind with
      | none => exact ⟨rfl, rfl⟩
      | some y =>
        obtain ⟨he, -, -, hs⟩ := SliceSt.transfer_keeps ht
        exact ⟨he, hs⟩
    · exact ⟨rfl, rfl⟩
  obtain ⟨hie, his⟩ := keeps i hi
  obtain ⟨hje, hjs⟩ := keeps j hj
  simp only [Wave.clauseStep_slice]
  rw [Wave.slice_reStrand (by rw [hlen']; exact hi), Wave.slice_reStrand (by rw [hlen']; exact hj), ← his, ← hjs]
  exact newStrand_eq_iff hi hj (by rw [SliceSt.live, hie]; exact hil) (by rw [SliceSt.live, hje]; exact hjl)

end Strand

/-! ## The instructions -/

section Instructions
variable {s : State} {g : Guard} {e : Env} {i : Instr} {w' : Wave}

theorem Tab.put_put {α : Type} (k : Nat) (a b : α) : ∀ t : Tab α, Tab.put (Tab.put t k a) k b = Tab.put t k b
  | [] => by simp [Tab.put]
  | (k', v) :: r => by
    by_cases hlt : k < k'
    · simp [Tab.put, hlt]
    · by_cases he : k = k'
      · subst he
        simp [Tab.put]
      · simp [Tab.put, hlt, he, Tab.put_put k a b r]

theorem State.setWave_setWave (s : State) (u : Nat) (v w : Wave) : (s.setWave u v).setWave u w = s.setWave u w := by
  simp only [State.setWave, Tab.put_put]

/-- A transfer of a state whose executing wave has just been written. -/
theorem State.transfer_setWave {v : Wave} {tgt : Nat → Nat} {ind : Bool}
    (h : v.transfer e.st (fun l => if e.part.getLsbD l then tgt l else e.fall i) (e.fall i) ind = .ok w') :
    (s.setWave e.u v).transfer e i tgt ind = .ok (s.setWave e.u w') := by
  simp only [State.transfer, State.wave_setWave, h, State.setWave_setWave]

theorem State.transfer_of_env {tgt : Nat → Nat} {ind : Bool} (he : s.env g = some e)
    (h : e.w.transfer e.st (fun l => if e.part.getLsbD l then tgt l else e.fall i) (e.fall i) ind = .ok w') :
    s.transfer e i tgt ind = .ok (s.setWave e.u w') := by
  simp only [State.transfer, State.wave_of_env he, h]

/-- Outside a wide region, or where no lane or every lane takes part, the guard does not part the lanes of the region. -/
theorem Env.not_mixed_wide (h : e.w.task.wide = none ∨ e.part = 0 ∨ e.part = e.act) : (e.w.task.wide.isSome && e.mixed) = false := by
  rcases h with h | h | h
  · rw [h]
    rfl
  · simp [Env.mixed, h]
  · simp [Env.mixed, h]

/-- An indirect transfer of a state in which the executing strand's transfer succeeds. -/
theorem State.indirect_of {t : State} {a : Opd} (hp : e.w.task.wide = none ∨ e.part = 0 ∨ e.part = e.act)
    (hl : ∀ l, e.part.getLsbD l = true → (e.w.rdq a l).toNat % 4 = 0 ∧ (e.w.rdq a l).toNat < 2 ^ 56)
    (h : s.transfer e i (fun l => (e.w.rdq a l).toNat) true = .ok t) : s.indirect e i a = .ok t := by
  have hb : e.badTarget a = none := List.find?_eq_none.mpr fun l hlm => by
    obtain ⟨h4, h56⟩ := hl l ((mem_bitsOf _ _).mp hlm)
    rw [codeAddrOk, h4, decide_eq_true h56]
    decide
  simp only [State.indirect, Env.not_mixed_wide hp, Bool.false_eq_true, if_false, h, hb]

end Instructions

theorem transfers_instructions (s : State) (g : Guard) (off : BitVec 21) (d a : Opd) (e : Env) (w' : Wave) :
     let plain : Prop := e.w.task.wide = none ∨ e.part = 0 ∨ e.part = e.act
     let goes (i : Instr) (w : Wave) (tgt : Nat → Nat) (ind : Bool) : Prop :=
       w.transfer e.st (fun l => if e.part.getLsbD l then tgt l else e.pc + 4 * (encode i).length)
         (e.pc + 4 * (encode i).length) ind = .ok w'
     let rel : Nat := (((e.pc : Int) + 4 * off.toInt) % (2 ^ 56 : Nat)).toNat
     let reg (l : Nat) : Nat := (e.w.rdq a l).toNat
     let legal : Prop := ∀ l, e.part.getLsbD l = true → reg l % 4 = 0 ∧ reg l < 2 ^ 56
     let link (i : Instr) (p : Opd) : Wave := e.w.wrq p e.part (fun _ => BitVec.ofNat 64 (e.pc + 4 * (encode i).length))
     plain →
       (Executes s g [] e → goes (.br g off) e.w (fun _ => rel) false → exec (.br g off) s = .next (s.setWave e.u w')) ∧
       (Executes s g [(.s 30, 2)] e → goes (.call g off) (link (.call g off) (.s 30)) (fun _ => rel) false →
         exec (.call g off) s = .next (s.setWave e.u w')) ∧
       (legal → Reads s g [] [(a, 2)] e → goes (.jmpi g a) e.w reg true → exec (.jmpi g a) s = .next (s.setWave e.u w')) ∧
       (legal → Reads s g [] [(a, 2)] e → goes (.ret g a) e.w reg true → exec (.ret g a) s = .next (s.setWave e.u w')) ∧
       (legal → Reads s g [(d, 2)] [(a, 2)] e → goes (.calli g d a) (link (.calli g d a) d) reg true →
         exec (.calli g d a) s = .next (s.setWave e.u w')) := by
  intro plain goes rel reg legal link hp
  refine ⟨fun he h => ?_, fun he h => ?_, fun hl he h => ?_, fun hl he h => ?_, fun hl he h => ?_⟩
  · refine (runShort_reads he (by
      rw [Env.not_mixed_wide hp]
      exact State.transfer_of_env he.env h) he.reads.clean)
  · refine (runShort_reads he (by
      rw [Env.not_mixed_wide hp]
      exact State.transfer_setWave h) he.reads.clean)
  · exact runShort_reads he.toExecutes (State.indirect_of hp hl (State.transfer_of_env he.env h)) he.clean
  · exact runShort_reads he.toExecutes (State.indirect_of hp hl (State.transfer_of_env he.env h)) he.clean
  · exact runShort_reads he.toExecutes (State.indirect_of hp hl (State.transfer_setWave h)) he.clean

/-- Settles O10. -/
theorem transfers : Obligations.Transfers := by
  refine ⟨transfers_instructions, fun x lane0 tgt fall t ind hm => ⟨fun ht hl => ?_, fun hne hall ht hf hl => ?_,
    fun low others hs h => ⟨fun hl => ?_, fun hl => ?_⟩⟩, fun w w' st tgt fall ind hlen h => ⟨fun i hi hs => ?_, fun i hi hs => ?_,
    fun i j hi hj hil hjl => Wave.transfer_strands hlen h hi hj hil hjl⟩⟩
  · obtain ⟨y, hy, hpc, hmask, hstack⟩ := SliceSt.transfer_together (fall := fall) (ind := ind) hm ht hl
    obtain ⟨hex, hwin, hfl, hst⟩ := SliceSt.transfer_keeps hy
    exact ⟨y, hy, hpc, hmask, hstack, hex, hwin, hfl, hst⟩
  · obtain ⟨y, hy, hpc, hmask, hstack⟩ := SliceSt.transfer_split hne hall ht hf hl
    obtain ⟨hex, hwin, hfl, -⟩ := SliceSt.transfer_keeps hy
    exact ⟨y, _, hy, hpc, hstack, rfl, fun i => by rw [hmask, SliceSt.getLsbD_lanesTo], SliceSt.getLsbD_lanesTo x lane0 tgt fall,
      hex, hwin, hfl⟩
  · rw [SliceSt.transfer_indirect hs h, if_pos hl]
  · refine ⟨_, others.map (fun a => ⟨a, x.lanesTo lane0 tgt a⟩), (SliceSt.transfer_indirect hs h).trans (if_neg (Nat.not_lt.mpr hl)), rfl, rfl,
      SliceSt.getLsbD_lanesTo x lane0 tgt low, ?_, ?_, rfl, rfl, rfl⟩
    · rw [List.map_map]
      exact List.map_id' others
    · intro p hp
      obtain ⟨a, -, rfl⟩ := List.mem_map.mp hp
      exact SliceSt.getLsbD_lanesTo x lane0 tgt a
  · obtain ⟨n, y, hin, -, hy⟩ := Wave.slice_transfer hlen h hi
    exact ⟨y, hin hs, by rw [hy], by rw [hy], by rw [hy]⟩
  · obtain ⟨n, y, -, hout, hy⟩ := Wave.slice_transfer hlen h hi
    rw [hy, hout hs]
    exact ⟨rfl, rfl⟩

end Sys2Proof.Machine

/-! PROOFS. Strands merge at `regang`, and wide regions open and close. -/

namespace Sys2Proof.Machine

set_option Elab.async false

/-! ## The least of some numbers, and the live slices -/

theorem le_of_least_eq : ∀ {l : List Nat} {n : Nat}, least l = some n → n ∈ l ∧ ∀ a ∈ l, n ≤ a
  | b :: r, n, h => by
    rw [least] at h
    cases hr : least r with
    | none =>
      rw [hr] at h
      cases h
      cases r with
      | nil => exact ⟨List.mem_singleton_self _, fun a ha => (List.mem_singleton.mp ha).ge⟩
      | cons c r =>
        rw [least] at hr
        split at hr <;> cases hr
    | some m =>
      rw [hr] at h
      cases h
      obtain ⟨hm, hle⟩ := le_of_least_eq hr
      refine ⟨?_, fun a ha => ?_⟩
      · rcases Nat.le_total b m with hbm | hbm
        · rw [Nat.min_eq_left hbm]
          exact List.mem_cons_self
        · rw [Nat.min_eq_right hbm]
          exact List.mem_cons_of_mem _ hm
      · rcases List.mem_cons.mp ha with rfl | ha
        · exact Nat.min_le_left _ _
        · exact (Nat.min_le_right _ _).trans (hle a ha)

theorem least_eq_none : ∀ {l : List Nat}, least l = none → l = []
  | [], _ => rfl
  | b :: r, h => by
    rw [least] at h
    split at h <;> cases h

theorem least_eq_of_le {l : List Nat} {n : Nat} (hn : n ∈ l) (hle : ∀ a ∈ l, n ≤ a) : least l = some n := by
  cases h : least l with
  | none =>
    rw [least_eq_none h] at hn
    cases hn
  | some m =>
    obtain ⟨hm, hmle⟩ := le_of_least_eq h
    rw [Nat.le_antisymm (hmle n hn) (hle m hm)]

theorem Wave.getLsbD_liveSlices {w : Wave} {i : Nat} : w.liveSlices.getLsbD i = true ↔ i < 8 ∧ (w.slice i).live = true := by
  by_cases hi : i < 8
  · rw [Wave.liveSlices, getLsbD_maskOf _ _ hi, decide_eq_true_eq, List.mem_filter, List.mem_range]
  · rw [BitVec.getLsbD_of_ge _ _ (Nat.le_of_not_lt hi)]
    exact ⟨fun h => absurd h Bool.false_ne_true, fun h => absurd h.1 hi⟩

/-- The slices of a list that satisfy a condition, as a set. -/
theorem getLsbD_maskOf_filter {n : Nat} {m : BitVec n} {p : Nat → Bool} {i : Nat} (hi : i < n) :
    (maskOf ((bitsOf m).filter p) : BitVec n).getLsbD i = true ↔ m.getLsbD i = true ∧ p i = true := by
  rw [getLsbD_maskOf _ _ hi, decide_eq_true_eq, List.mem_filter, mem_bitsOf]

theorem bitsOf_eq_cons {n : Nat} {m : BitVec n} {i : Nat} (h : m.getLsbD i = true) : ∃ j r, bitsOf m = j :: r ∧ m.getLsbD j = true := by
  cases hb : bitsOf m with
  | nil => exact absurd ((mem_bitsOf m i).mpr h) (by rw [hb]; exact List.not_mem_nil)
  | cons j r => exact ⟨j, r, rfl, (mem_bitsOf m j).mp (by rw [hb]; exact List.mem_cons_self)⟩

/-! ## Waits in a gang -/

section Settle
variable {s : State} {u low : Nat} {w : Wave}

/-- Where a live slice stands in no wait of its gang, nothing proceeds. -/
theorem State.settleGang_of_other (hw : s.wave u = some w) {i : Nat} (hi : w.liveSlices.getLsbD i = true)
    (hn : (w.slice i).gangWait = none) : s.settleGang u = s := by
  have hany : (bitsOf w.liveSlices).any (fun i => (w.slice i).gangWait.isNone) = true :=
    List.any_eq_true.mpr ⟨i, (mem_bitsOf _ _).mpr hi, by rw [hn]; rfl⟩
  unfold State.settleGang
  simp only [hw, hany, Bool.or_true, if_true]

/-- A wave whose live slices all stand in a wait of their gang comes to what the waits say. -/
theorem State.settleGang_of_all (ha : s.awake w = true) {i : Nat} (hi : w.liveSlices.getLsbD i = true)
    (hall : ∀ i, w.liveSlices.getLsbD i = true → (w.slice i).gangWait ≠ none) :
    ((!s.awake w || (bitsOf w.liveSlices).isEmpty || (bitsOf w.liveSlices).any (fun i => (w.slice i).gangWait.isNone))) = false := by
  obtain ⟨j, r, hb, -⟩ := bitsOf_eq_cons hi
  have hany : (bitsOf w.liveSlices).any (fun i => (w.slice i).gangWait.isNone) = false := by
    rw [List.any_eq_false]
    intro i hi
    simpa using hall i ((mem_bitsOf _ _).mp hi)
  rw [ha, hany, hb]
  rfl

/-- The slices that wait at a `regang` with the lowest address. -/
def Wave.regangAt (w : Wave) (low : Nat) : BitVec 8 :=
  maskOf (((bitsOf w.liveSlices).filter (fun i => (w.slice i).gangWait == some false)).filter (fun i => (w.slice i).pc == low))

theorem Wave.getLsbD_regangAt (hall : ∀ i, w.liveSlices.getLsbD i = true → (w.slice i).wait = some .regang ∨ (w.slice i).wait = some .wide)
    {i : Nat} (hi : i < 8) : (w.regangAt low).getLsbD i = true ↔
      w.liveSlices.getLsbD i = true ∧ (w.slice i).wait = some .regang ∧ (w.slice i).pc = low := by
  rw [Wave.regangAt, List.filter_filter, getLsbD_maskOf_filter hi, Bool.and_eq_true, beq_iff_eq, beq_iff_eq]
  refine and_congr_right fun hl => ?_
  rw [and_comm]
  refine and_congr_left' ?_
  rcases hall i hl with h | h <;> simp [SliceSt.gangWait, h]

/-- The slices that wait at the lowest `regang` form one strand and go on. -/
theorem State.settleGang_regang (hw : s.wave u = some w) (ha : s.awake w = true)
    (hall : ∀ i, w.liveSlices.getLsbD i = true → (w.slice i).wait = some .regang ∨ (w.slice i).wait = some .wide)
    (hex : ∃ i, w.liveSlices.getLsbD i = true ∧ (w.slice i).wait = some .regang ∧ (w.slice i).pc = low)
    (hlow : ∀ i, w.liveSlices.getLsbD i = true → (w.slice i).wait = some .regang → low ≤ (w.slice i).pc) :
    s.settleGang u = s.setWave u ((w.mergeSlices (w.regangAt low)).resume (w.regangAt low)) := by
  obtain ⟨i, hi, hreg, hpc⟩ := hex
  have hi8 := (Wave.getLsbD_liveSlices.mp hi).1
  have hgo := State.settleGang_of_all ha hi fun j hj => by
    rcases hall j hj with h | h <;> simp [SliceSt.gangWait, h]
  have hleast : least (((bitsOf w.liveSlices).filter (fun i => (w.slice i).gangWait == some false)).map (fun i => (w.slice i).pc)) =
      some low := by
    refine least_eq_of_le (List.mem_map.mpr ⟨i, List.mem_filter.mpr ⟨(mem_bitsOf _ _).mpr hi, by rw [SliceSt.gangWait, hreg]; rfl⟩, hpc⟩) ?_
    intro a ha
    obtain ⟨j, hj, rfl⟩ := List.mem_map.mp ha
    obtain ⟨hj, hjw⟩ := List.mem_filter.mp hj
    have hjl := (mem_bitsOf _ _).mp hj
    rcases hall j hjl with h | h
    · exact hlow j hjl h
    · rw [SliceSt.gangWait, h] at hjw
      cases hjw
  have hhead : (w.slice ((bitsOf (w.regangAt low)).headD 0)).wait ≠ some .trapret := by
    obtain ⟨j, r, hb, hj⟩ := bitsOf_eq_cons ((Wave.getLsbD_regangAt hall hi8).mpr ⟨hi, hreg, hpc⟩)
    have hj8 : j < 8 := BitVec.lt_of_getLsbD hj
    rw [hb, List.headD_cons, ((Wave.getLsbD_regangAt hall hj8).mp hj).2.1]
    exact fun h => Wait.noConfusion (Option.some.inj h)
  unfold State.settleGang
  simp only [hw, hgo, Bool.false_eq_true, if_false, hleast]
  exact if_neg hhead

/-- The program counters of the live slices, ascending. -/
def Wave.livePcs (w : Wave) : List Nat := (sortBy Nat.ble ((bitsOf w.liveSlices).map (fun i => (w.slice i).pc))).dedup

theorem Wave.mem_livePcs {p : Nat} : p ∈ w.livePcs ↔ ∃ i, w.liveSlices.getLsbD i = true ∧ (w.slice i).pc = p := by
  rw [Wave.livePcs, List.mem_dedup, (sortBy_perm _ _).mem_iff, List.mem_map]
  exact exists_congr fun i => and_congr_left' (mem_bitsOf _ _)

theorem Wave.livePcs_ascending : w.livePcs.Pairwise (· < ·) :=
  (((sortBy_ascending _).sublist (List.dedup_sublist _)).and (List.nodup_dedup _)).imp fun hx => Nat.lt_of_le_of_ne hx.1 hx.2

/-- The lowest program counter stands first. -/
theorem Wave.livePcs_eq (hex : ∃ i, w.liveSlices.getLsbD i = true ∧ (w.slice i).pc = low)
    (hlow : ∀ i, w.liveSlices.getLsbD i = true → low ≤ (w.slice i).pc) : ∃ r, w.livePcs = low :: r := by
  cases h : w.livePcs with
  | nil => exact absurd (Wave.mem_livePcs.mpr hex) (by rw [h]; exact List.not_mem_nil)
  | cons p r =>
    have hle : p ≤ low := by
      have hm := Wave.mem_livePcs.mpr hex
      rw [h] at hm
      rcases List.mem_cons.mp hm with he | hm
      · exact he.ge
      · exact (List.rel_of_pairwise_cons (h ▸ Wave.livePcs_ascending) hm).le
    obtain ⟨i, hi, hp⟩ := Wave.mem_livePcs.mp (h ▸ List.mem_cons_self)
    exact ⟨r, by rw [Nat.le_antisymm hle (hp ▸ hlow i hi)]⟩

/-- Live slices that all wait at `wide` stand in no other wait. -/
theorem Wave.no_regang_of_wide (hall : ∀ i, w.liveSlices.getLsbD i = true → (w.slice i).wait = some .wide) :
    (bitsOf w.liveSlices).filter (fun i => (w.slice i).gangWait == some false) = [] :=
  List.filter_eq_nil_iff.mpr fun i hi => by simp [SliceSt.gangWait, hall i ((mem_bitsOf _ _).mp hi)]

/-- Where all wait at one `wide`, the region opens. -/
theorem State.settleGang_wide (hw : s.wave u = some w) (ha : s.awake w = true)
    (hall : ∀ i, w.liveSlices.getLsbD i = true → (w.slice i).wait = some .wide) (hpcs : w.livePcs = [low]) :
    s.settleGang u = s.setWave u (w.openWide w.liveSlices) := by
  obtain ⟨i, hi, -⟩ := Wave.mem_livePcs.mp (hpcs ▸ List.mem_cons_self)
  have hgo := State.settleGang_of_all ha hi fun j hj => by simp [SliceSt.gangWait, hall j hj]
  unfold State.settleGang
  simp only [hw, hgo, Bool.false_eq_true, if_false, Wave.no_regang_of_wide hall]
  have hl : least (([] : List Nat).map (fun i => (w.slice i).pc)) = none := rfl
  rw [hl]
  dsimp only
  split
  · next h => cases hpcs.symm.trans h
  · rfl
  · next hne h =>
    obtain ⟨-, hr⟩ := List.cons.inj (hpcs.symm.trans h)
    exact (hne hr.symm).elim

/-- The live slices that stand at an address. -/
def Wave.liveAt (w : Wave) (low : Nat) : BitVec 8 := maskOf ((bitsOf w.liveSlices).filter (fun i => (w.slice i).pc == low))

/-- The trap of slices that wait at one `wide` while others wait at another. -/
def Wave.wideTrap (w : Wave) (low : Nat) : TrapReq :=
  (⟨6, 3, w.livePcs.length, 0xFF, none⟩ : Bad).req none (w.liveAt low) low (w.activeLanes (w.liveAt low))

/-- Where they wait at several, the slices at the lowest trap. -/
theorem State.settleGang_wides (hw : s.wave u = some w) (ha : s.awake w = true)
    (hall : ∀ i, w.liveSlices.getLsbD i = true → (w.slice i).wait = some .wide) {p : Nat} {r : List Nat}
    (hpcs : w.livePcs = low :: p :: r) :
    s.settleGang u = (s.setWave u (w.modSlices (w.liveAt low) (fun x => { x with wait := none }))).stopWave u (w.wideTrap low) := by
  obtain ⟨i, hi, -⟩ := Wave.mem_livePcs.mp (hpcs ▸ List.mem_cons_self)
  have hgo := State.settleGang_of_all ha hi fun j hj => by simp [SliceSt.gangWait, hall j hj]
  unfold State.settleGang
  simp only [hw, hgo, Bool.false_eq_true, if_false, Wave.no_regang_of_wide hall]
  have hl : least (([] : List Nat).map (fun i => (w.slice i).pc)) = none := rfl
  rw [hl]
  dsimp only
  split
  · next h => cases hpcs.symm.trans h
  · next h => cases hpcs.symm.trans h
  · next h =>
    obtain ⟨rfl, -⟩ := List.cons.inj (hpcs.symm.trans h)
    rfl

end Settle

/-! ## Wide regions -/

section Wide
variable {w : Wave} {i : Nat} {x : SliceSt}

theorem SliceSt.skip_keeps (x : SliceSt) (n : Nat) : (x.skip n).mask = x.mask ∧ (x.skip n).exited = x.exited ∧
    (x.skip n).stack = x.stack ∧ (x.skip n).window = x.window ∧ (x.skip n).flags = x.flags := by
  unfold SliceSt.skip
  split <;> exact ⟨rfl, rfl, rfl, rfl, rfl⟩

theorem Wave.slices_openWide {live : BitVec 8} (hx : w.task.slices[i]? = some x) :
    ∃ y, (w.openWide live).task.slices[i]? = some y ∧ y.mask = 0xF ∧ y.exited = 0 ∧ y.stack = [] ∧ y.strand = 0 ∧ y.wait = none ∧
      y.window = x.window ∧ y.flags = x.flags ∧
      ((w.openWide live).task.wide.bind (fun v => v[i]?)) = some ⟨x.mask, x.exited, x.stack⟩ := by
  simp only [Wave.openWide, Wave.clauseStep_task, List.getElem?_map, hx, Option.map_some, Option.bind_some]
  obtain ⟨-, -, -, hwin, hfl⟩ := SliceSt.skip_keeps { x with
    pc := (w.slice ((bitsOf live).headD 0)).pc, clause := (w.slice ((bitsOf live).headD 0)).clause } 2
  exact ⟨_, rfl, rfl, rfl, rfl, rfl, rfl, hwin, hfl, trivial⟩

/-- A slice of a wave that has just left a wide region, before the live slices become one strand. -/
theorem Wave.slices_closeWide {st : BitVec 8} {save : List WideSave} {v : WideSave} (hx : w.task.slices[i]? = some x)
    (hv : save[i]? = some v) : ∃ y, (w.closeWide st save).task.slices[i]? = some y ∧ y.mask = v.mask ∧ y.exited = v.exited ∧
      y.stack = v.stack := by
  have hv' : save.getD i ⟨0xF, 0, []⟩ = v := by rw [List.getD_eq_getElem?_getD, hv, Option.getD_some]
  simp only [Wave.closeWide, Wave.mergeSlices, Wave.modSlices, modWhere_getElem?, List.getElem?_map, List.getElem?_zipIdx, hx,
    Option.map_some]
  obtain ⟨hm, he, hs, -, -⟩ := SliceSt.skip_keeps { x with
    pc := (w.slice ((bitsOf st).headD 0)).pc, clause := (w.slice ((bitsOf st).headD 0)).clause, mask := v.mask, exited := v.exited,
    stack := v.stack } 2
  refine ⟨_, rfl, ?_⟩
  by_cases hex : v.exited = 0xF
  · simp only [Nat.zero_add, hv', hex, if_true]
    split <;> exact ⟨rfl, rfl, rfl⟩
  · simp only [Nat.zero_add, hv', hex, if_false]
    split <;> exact ⟨hm, he, hs⟩

theorem Wave.liveSlices_mergeSlices (sl : BitVec 8) : (w.mergeSlices sl).liveSlices = w.liveSlices := by
  unfold Wave.liveSlices Wave.mergeSlices
  simp only [Wave.slice_modSlices_keeps (f := fun x => { x with strand := (least (bitsOf sl)).getD 0 }) (r := SliceSt.live) (fun _ => rfl)]

/-- The slices of a set are one strand after they have been merged, that of the lowest of them. -/
theorem Wave.strand_mergeSlices {sl : BitVec 8} (hi : sl.getLsbD i = true) (hlen : w.task.slices.length = 8) :
    ((w.mergeSlices sl).slice i).strand = (List.find? (fun j => sl.getLsbD j) (List.range 8)).getD 0 := by
  have hi8 : i < 8 := BitVec.lt_of_getLsbD hi
  rw [Wave.mergeSlices, Wave.slice_modSlices (hlen ▸ hi8), if_pos hi]
  obtain ⟨j, r, hb, -⟩ := bitsOf_eq_cons hi
  have hfirst : List.find? (fun j => sl.getLsbD j) (List.range 8) = (bitsOf sl).head? := List.head?_filter.symm
  have hasc : (bitsOf sl).Pairwise (· < ·) := List.pairwise_lt_range.filter _
  have hleast : least (bitsOf sl) = some j := least_eq_of_le (by rw [hb]; exact List.mem_cons_self) fun a ha => by
    rw [hb] at ha hasc
    rcases List.mem_cons.mp ha with rfl | ha
    · exact le_rfl
    · exact (List.rel_of_pairwise_cons hasc ha).le
  show (least (bitsOf sl)).getD 0 = _
  rw [hfirst, hleast, hb]
  rfl

theorem Wave.length_closeWide {st : BitVec 8} {save : List WideSave} :
    (w.closeWide st save).task.slices.length = w.task.slices.length := by
  simp only [Wave.closeWide, Wave.mergeSlices, Wave.modSlices, length_modWhere, List.length_map, List.length_zipIdx]

theorem Wave.strand_closeWide {st : BitVec 8} {save : List WideSave} (hlen : w.task.slices.length = 8)
    (hi : (w.closeWide st save).liveSlices.getLsbD i = true) : ((w.closeWide st save).slice i).strand =
      (List.find? (fun j => (w.closeWide st save).liveSlices.getLsbD j) (List.range 8)).getD 0 := by
  have hlen' := (Wave.length_closeWide (w := w) (st := st) (save := save)).trans hlen
  unfold Wave.closeWide at hi hlen' ⊢
  rw [Wave.liveSlices_mergeSlices] at hi ⊢
  simp only [Wave.mergeSlices, Wave.modSlices, length_modWhere] at hlen'
  exact Wave.strand_mergeSlices hi hlen'

end Wide

/-- Settles O12. -/
theorem strandsMerge : Obligations.StrandsMerge := by
  refine ⟨fun s u low w hw ha => ?_, fun w live hlen => ⟨fun i hi => ?_, fun st save hsave => ⟨rfl, fun i hi => ?_,
    fun i hi => Wave.strand_closeWide hlen hi⟩⟩⟩
  · refine ⟨fun ⟨i, hi, hr, hwd, ht⟩ => State.settleGang_of_other hw hi ?_, fun hall hex hlow =>
      ⟨w.regangAt low, fun i hi => Wave.getLsbD_regangAt hall hi, State.settleGang_regang hw ha hall hex hlow⟩,
      fun hall hex hlow => ?_⟩
    · unfold SliceSt.gangWait
      split
      · exact absurd ‹_› hr
      · exact absurd ‹_› ht
      · exact absurd ‹_› hwd
      · rfl
    · obtain ⟨r, hpcs⟩ := Wave.livePcs_eq hex hlow
      refine ⟨fun hone => State.settleGang_wide (low := low) hw ha hall ?_, fun ⟨i, hi, hne⟩ => ?_⟩
      · cases r with
        | nil => exact hpcs
        | cons p r =>
          obtain ⟨i, hi, hp⟩ := Wave.mem_livePcs.mp (hpcs ▸ List.mem_cons_of_mem _ List.mem_cons_self)
          have hlt := List.rel_of_pairwise_cons (hpcs ▸ Wave.livePcs_ascending) (List.mem_cons_self (a := p) (l := r))
          exact absurd ((hone i hi).symm.trans hp) (Nat.ne_of_lt hlt)
      · cases r with
        | nil => exact absurd (List.mem_singleton.mp (hpcs ▸ Wave.mem_livePcs.mpr ⟨i, hi, rfl⟩)) hne
        | cons p r =>
          refine ⟨w.liveAt low, w.livePcs, w.wideTrap low, fun i hi => ?_, List.nodup_dedup _, fun p => Wave.mem_livePcs, rfl, rfl, rfl,
            rfl, rfl, State.settleGang_wides hw ha hall hpcs⟩
          rw [Wave.liveAt, getLsbD_maskOf_filter hi, beq_iff_eq]
  · have hx : w.task.slices[i]? = some w.task.slices[i] := List.getElem?_eq_getElem _
    obtain ⟨y, hy⟩ := Wave.slices_openWide (live := live) hx
    exact ⟨_, y, hx, hy⟩
  · have hx : w.task.slices[i]? = some w.task.slices[i] := List.getElem?_eq_getElem _
    have hv : save[i]? = some save[i] := List.getElem?_eq_getElem _
    obtain ⟨y, hy⟩ := Wave.slices_closeWide (st := st) hx hv
    exact ⟨_, y, hv, hy⟩

end Sys2Proof.Machine

/-! PROOFS. Accumulator tiles: the columns that `accz` and `accld` write, and the order of an element's sums. -/

namespace Sys2Proof

set_option Elab.async false

/-- A key that is written with one value only reads that value afterwards. -/
theorem Store.get_setAll_eq {w : Nat} {k : Nat} {v : BitVec w} : ∀ {l : List (Nat × BitVec w)} {m : Store w}, Store.wf m = true →
    (∀ x ∈ l, x.1 = k → x.2 = v) → (∃ x ∈ l, x.1 = k) → Store.get (Store.setAll m l) k = v
  | [], _, _, _, ⟨_, hx, _⟩ => absurd hx List.not_mem_nil
  | y :: r, m, hm, hall, hex => by
    rw [Store.setAll]
    by_cases hr : ∃ x ∈ r, x.1 = k
    · exact Store.get_setAll_eq (Store.wf_set _ _ _ hm) (fun x hx => hall x (List.mem_cons_of_mem _ hx)) hr
    · have hy : y.1 = k := by
        obtain ⟨x, hx, hk⟩ := hex
        rcases List.mem_cons.mp hx with rfl | hx
        · exact hk
        · exact absurd ⟨x, hx, hk⟩ hr
      rw [Store.get_setAll_ne r k (fun x hx hk => hr ⟨x, hx, hk⟩), ← hy, Store.get_set_self _ _ _ 0 hm]
      exact hall y List.mem_cons_self hy

namespace Machine

theorem tileKey_inj {t t' i i' j j' : Nat} (hi : i < 32) (hi' : i' < 32) (hj : j < 128) (hj' : j' < 128)
    (h : tileKey t i j = tileKey t' i' j') : t = t' ∧ i = i' ∧ j = j' := by
  unfold tileKey at h
  omega

theorem Cols.last_le (c : Cols) : Cols.first c + Cols.count c ≤ 128 := by cases c <;> decide

/-- The elements that a tile access names, and where each stands in the scratchpad. -/
theorem mem_accElems {m : AccMods} {a b i j x : Nat} : (i, j, x) ∈ accElems m a b ↔
    i < 32 ∧ Cols.first m.cols ≤ j ∧ j < Cols.first m.cols + Cols.count m.cols ∧
      x = a + i * accPitch m b + (j - Cols.first m.cols) * ((accFmt m.aty).width / 8) := by
  simp only [accElems, List.mem_flatMap, List.mem_map, List.mem_range, Prod.mk.injEq]
  constructor
  · rintro ⟨_, hi, n, hn, rfl, rfl, rfl⟩
    refine ⟨hi, Nat.le_add_right _ _, Nat.add_lt_add_left hn _, ?_⟩
    rw [Nat.add_sub_cancel_left]
  · rintro ⟨hi, hlo, hhi, rfl⟩
    exact ⟨i, hi, j - Cols.first m.cols, by omega, rfl, by omega, rfl⟩

section Written
variable {tiles : Store 32} {m : AccMods} {a b i j : Nat} {f : Nat × Nat × Nat → W32}

/-- A named element takes its value. -/
theorem get_setAll_accElems (hw : Store.wf tiles = true) (hi : i < 32) (hlo : Cols.first m.cols ≤ j)
    (hhi : j < Cols.first m.cols + Cols.count m.cols) :
    (tiles.setAll ((accElems m a b).map (fun e => (tileKey m.tile.val e.1 e.2.1, f e)))).get (tileKey m.tile.val i j) =
      f (i, j, a + i * accPitch m b + (j - Cols.first m.cols) * ((accFmt m.aty).width / 8)) := by
  have hlast := Cols.last_le m.cols
  refine Store.get_setAll_eq hw ?_ ⟨_, List.mem_map.mpr ⟨_, mem_accElems.mpr ⟨hi, hlo, hhi, rfl⟩, rfl⟩, rfl⟩
  intro x hx hk
  obtain ⟨⟨i', j', z⟩, he, rfl⟩ := List.mem_map.mp hx
  obtain ⟨hi', hlo', hhi', rfl⟩ := mem_accElems.mp he
  obtain ⟨-, rfl, rfl⟩ := tileKey_inj hi' hi (hhi'.trans_le hlast) (hhi.trans_le hlast) hk
  rfl

/-- Every other element of every tile stays. -/
theorem get_setAll_accElems_ne {t : Nat} (hi : i < 32) (hj : j < 128)
    (hn : t ≠ m.tile.val ∨ ¬(Cols.first m.cols ≤ j ∧ j < Cols.first m.cols + Cols.count m.cols)) :
    (tiles.setAll ((accElems m a b).map (fun e => (tileKey m.tile.val e.1 e.2.1, f e)))).get (tileKey t i j) =
      tiles.get (tileKey t i j) := by
  have hlast := Cols.last_le m.cols
  refine Store.get_setAll_ne _ _ (fun x hx hk => ?_) _
  obtain ⟨⟨i', j', z⟩, he, rfl⟩ := List.mem_map.mp hx
  obtain ⟨hi', hlo', hhi', rfl⟩ := mem_accElems.mp he
  obtain ⟨ht, -, rfl⟩ := tileKey_inj hi' hi (hhi'.trans_le hlast) hj hk
  rcases hn with hn | hn
  · exact hn ht.symm
  · exact hn ⟨hlo', hhi'⟩

end Written

/-- Settles O32. -/
theorem tiles : Obligations.Tiles := by
  refine ⟨fun s grp a b m g hg hw => ?_, fun x y h => if_pos h, fun _ _ _ _ _ => rfl, fun _ _ _ _ _ _ _ => rfl⟩
  intro named w
  have found (f : Group → Group) : (s.modGroup grp f).group grp = some (f g) := by rw [State.group_modGroup, hg, Option.map_some]
  refine ⟨_, _, found _, found _, rfl, rfl, fun i j hi hj => ⟨?_, ?_⟩, fun t i j hi hj hn => ⟨?_, ?_⟩⟩
  · exact get_setAll_accElems (f := fun _ => 0) hw hi hj.1 hj.2
  · exact get_setAll_accElems (f := fun e => rne32 ((accFmt m.aty).val (leNat (g.spad.bytes e.2.2 w)))) hw hi hj.1 hj.2
  · exact get_setAll_accElems_ne (f := fun _ => 0) hi hj hn
  · exact get_setAll_accElems_ne (f := fun e => rne32 ((accFmt m.aty).val (leNat (g.spad.bytes e.2.2 w)))) hi hj hn

end Machine
end Sys2Proof

/-! PROOFS. What waits and the tasks that end by them leave alone. A property of states that ignores the memory system, the crews of
a group and every table of KILN but that of the groups is kept when waits are evaluated afresh. -/

namespace Sys2Proof.Machine

set_option Elab.async false

/-! ## Reading objects -/

namespace IgnoresMemory

section
variable {P : State → Prop} (hP : IgnoresMemory P) {s t : State}
include hP

theorem cohPull {cl : Nat} {p : Place} (h : P s) : P (s.cohPull cl p) := by
  have h1 : P ((s.cohHolders (some cl) p).foldl (fun s c => s.l2WriteBack c p) s) := foldl_keeps (fun _ _ hs => hP.l2WriteBack hs) h
  unfold State.cohPull
  dsimp only
  split
  · exact h1
  · exact foldl_keeps (fun _ _ hs => hP.homeBack hs) (hP.mapCopies h1)

theorem readAt {ag : Agent} {pt : Point} {p : Place} {n : Nat} {a : Attr} {alloc : Bool} (h : P s) :
    P (s.readAt ag pt p n a alloc).1 := by
  have h0 : P (if a.coh then s.cohPull ag.cluster p.sector else s) := ite_keeps (hP.cohPull h) h
  unfold State.readAt
  dsimp only
  generalize (if a.coh then s.cohPull ag.cluster p.sector else s) = s at h0
  have h1 : P (s.noteRead p.sector) := hP.noteRead h0
  split
  · rw [fst_ite_zero]
    exact ite_keeps (ite_keeps h0 h1) (ite_keeps (hP.l2Put (ite_keeps (ite_keeps h0 h1) (hP.mscFill (ite_keeps h0 h1))))
      (ite_keeps (ite_keeps h0 h1) (hP.mscFill (ite_keeps h0 h1))))
  · rw [fst_ite_zero]
    have h2 := hP.noteRead (p := p.sector) (hP.settle (ag := ag) (pt := pt) (p := p) h0)
    exact ite_keeps (hP.mscFill h2) h2

theorem l1Drop {ag : Agent} {va : Nat} (h : P s) : P (s.l1Drop ag va) := by
  unfold State.l1Drop
  exact hP.modCore h

theorem readObj {ag : Agent} {sc : Scope} {fuel : Nat} :
    ∀ {s t : State} {va n : Nat} {bs : List Byte}, P s → s.readObj ag sc va fuel n = .ok (t, bs) → P t := by
  induction fuel with
  | zero =>
    intro s t va n bs h ht
    cases ht
    exact h
  | succ fuel ih =>
    intro s t va n bs h ht
    rw [State.readObj] at ht
    split at ht
    · cases ht
      exact h
    · dsimp only at ht
      split at ht
      · cases ht
      · split at ht
        · cases ht
        · have h0 : P (if (s.l1Hit ag va).isSome = true then s.l1Drop ag va else s) := ite_keeps (hP.l1Drop h) h
          generalize (if (s.l1Hit ag va).isSome = true then s.l1Drop ag va else s) = s0 at h0 ht
          split at ht
          · cases ht
          · split at ht
            · cases ht
            · next hrest =>
              cases ht
              exact ih (hP.readAt (hP.tlbFill h0)) hrest

theorem obj {ag : Agent} {sc : Scope} {va n : Nat} {bs : List Byte} (h : P s) (ht : s.obj ag sc va n = .ok (t, bs)) : P t :=
  hP.readObj h ht

theorem putObj {ag : Agent} {sc : Scope} {fuel : Nat} : ∀ {s : State} {va : Nat} {bs : List Byte}, P s → P (s.putObj ag sc va fuel bs) := by
  induction fuel with
  | zero => exact fun h => h
  | succ fuel ih =>
    intro s va bs h
    rw [State.putObj]
    refine ite_keeps h (ih ?_)
    split
    · exact h
    · exact hP.storeAt (hP.tlbFill h)

theorem setObj {ag : Agent} {sc : Scope} {va : Nat} {bs : List Byte} (h : P s) : P (s.setObj ag sc va bs) := hP.putObj h

theorem putNum {ag : Agent} {a n v : Nat} (h : P s) : P (s.putNum ag a n v) := hP.setObj h

theorem release {ag : Agent} {sc : Scope} (h : P s) : P (s.release ag sc) :=
  have h1 := foldl_keeps (fun _ _ hs => hP.l2WriteBack hs) h
  ite_keeps h (ite_keeps h1 (foldl_keeps (fun _ _ hs => hP.mscFlush hs) h1))

theorem acquire {ag : Agent} {sc : Scope} (h : P s) : P (s.acquire ag sc) :=
  have h1 := hP.modCore h
  ite_keeps h (ite_keeps h1 (ite_keeps (hP.modCluster h1) (hP.loc _ (hP.modCluster h1))))

theorem downFor {ag : Agent} {a : Nat} (h : P s) : P (s.downFor ag a) := by
  unfold State.downFor
  split
  · split
    · exact h
    · exact foldl_keeps (fun _ _ hs => foldl_keeps (fun _ _ hs => hP.l2WriteBack hs) hs) h
  · exact h

/-! ## Task records and queues -/

theorem taskRec {ag : Agent} {tr : Nat} {r : TaskRec} (h : P s) (ht : s.taskRec ag tr = .ok (t, r)) : P t := by
  unfold State.taskRec at ht
  split at ht
  · cases ht
  · next hobj =>
    cases ht
    exact hP.obj h hobj

theorem queueWords {ag : Agent} {hdr : Nat} {q : Queue} (h : P s) (ht : s.queueWords ag hdr = .ok (t, q)) : P t := by
  unfold State.queueWords at ht
  split at ht
  · cases ht
  · next hobj =>
    cases ht
    exact hP.obj h hobj

theorem queue {ag : Agent} {hdr : Nat} {q : Queue} (h : P s) (ht : s.queue ag hdr = .ok (t, q)) : P t := by
  unfold State.queue at ht
  split at ht
  · cases ht
  · next hq =>
    have h1 := hP.queueWords (hP.downFor h) hq
    split at ht
    · cases ht
      exact h1
    · split at ht
      · cases ht
      · next hobj =>
        cases ht
        exact hP.obj h1 hobj

theorem segment {ag : Agent} {seg : Nat} {x : Nat × Nat} (h : P s) (ht : s.segment ag seg = .ok (t, x)) : P t := by
  unfold State.segment at ht
  split at ht
  · cases ht
  · next hobj =>
    cases ht
    exact hP.obj h hobj

theorem reserve {ag : Agent} {hdr : Nat} {x : Queue × Option Nat} (h : P s) (ht : s.reserve ag hdr = .ok (t, x)) : P t := by
  unfold State.reserve at ht
  split at ht
  · cases ht
  · next hq =>
    have h1 := hP.queue h hq
    split at ht
    · cases ht
      exact h1
    · split at ht
      · cases ht
      · next hseg =>
        have h2 := hP.segment h1 hseg
        split at ht
        · cases ht
          exact h2
        · dsimp only at ht
          split at ht
          · cases ht
          · cases ht
            exact hP.setObj h2

end

end IgnoresMemory

/-! ## Waits -/

/-- A property of states that ignores the memory system, KILN's tables but the groups and the spans, and of a group all but its
scratchpad. -/
structure IgnoresWaits (P : State → Prop) : Prop extends IgnoresMemory P where
  kiln : ∀ {s : State} (k : Kiln), k.groups = s.kiln.groups → k.spans = s.kiln.spans → P s → P { s with kiln := k }
  group : ∀ {s : State} (g : Nat) (f : Group → Group), (∀ x, (f x).spad = x.spad) → P s → P (s.modGroup g f)

namespace IgnoresWaits

section
variable {P : State → Prop} (hP : IgnoresWaits P) {s t : State} {u : Nat}
include hP

theorem setWave {w : Wave} (h : P s) : P (s.setWave u w) := hP.kiln _ rfl rfl h

theorem modWave {f : Wave → Wave} (h : P s) : P (s.modWave u f) := hP.kiln _ rfl rfl h

theorem modLaunch {f : Launch → Launch} (h : P s) : P (s.modLaunch u f) := hP.kiln _ rfl rfl h

theorem pushTask {ag : Agent} {hdr : Nat} {tr : W64} (h : P s) : P (s.pushTask ag hdr tr) := by
  unfold State.pushTask
  dsimp only
  split
  · exact hP.kiln _ rfl rfl h
  · split
    · exact hP.kiln _ rfl rfl h
    · next hr => exact hP.kiln _ rfl rfl (hP.reserve h hr)
    · next hr => exact hP.setObj (hP.reserve h hr)

theorem withdraw (h : P s) : P (s.withdraw u) := by
  unfold State.withdraw
  split
  · exact h
  · exact hP.modWave (hP.group _ _ (fun _ => rfl) h)

theorem unclaim (h : P s) : P (s.unclaim u) := by
  unfold State.unclaim
  split
  · exact h
  · split
    · exact h
    · exact hP.modWave (hP.pushTask (hP.putNum (hP.putNum h)))

theorem keepTakes {n : Nat} (h : P s) : P (s.keepTakes u n) := by
  unfold State.keepTakes
  split
  · exact h
  · refine hP.sched _ (fun hn => ?_) (ite_keeps h (hP.modCore h))
    dsimp only
    rw [hn, Option.map_none]

theorem stopWave {r : TrapReq} (h : P s) : P (s.stopWave u r) := by
  refine ite_keeps ?_ (hP.modWave h)
  split
  · exact hP.viral _ (hP.modWave h)
  · exact hP.modWave h

theorem taskFault {nest : Bool} (h : P s) : P (s.taskFault u nest) := by
  unfold State.taskFault
  split
  · exact h
  · have h0 : P (((s.withdraw u).keepTakes u 0).unclaim u) := hP.unclaim (hP.keepTakes (hP.withdraw h))
    have h1 (l : Nat) (f : Launch → Launch) : P (if nest = true then
        (((s.withdraw u).keepTakes u 0).unclaim u).modLaunch l f else ((s.withdraw u).keepTakes u 0).unclaim u) :=
      ite_keeps (hP.modLaunch h0) h0
    refine ite_keeps (hP.modWave (hP.putNum (hP.modLaunch (h1 _ _)))) ?_
    split
    · exact hP.modWave (h1 _ _)
    · next hrec =>
      have h3 := hP.taskRec (h1 _ _) hrec
      refine hP.modWave ?_
      split
      · exact hP.modLaunch (ite_keeps (hP.putNum h3) (hP.putNum (hP.release (hP.putNum h3))))
      · exact ite_keeps (hP.putNum h3) (hP.putNum (hP.release (hP.putNum h3)))

theorem settleClaim (h : P s) : P (s.settleClaim u) := by
  unfold State.settleClaim
  split
  · exact h
  · exact ite_keeps h (hP.unclaim h)

theorem leaveTrap (h : P s) : P (s.leaveTrap u) := by
  unfold State.leaveTrap
  split
  · exact h
  · extract_lets ag frame
    split
    · exact hP.taskFault h
    · dsimp only
      split
      · refine ite_keeps (hP.taskFault h) (ite_keeps h ?_)
        refine hP.settleClaim (hP.keepTakes (hP.modCore ?_))
        refine hP.kiln (s := State.setWave _ u _) _ rfl rfl (hP.setWave ?_)
        next hframe _ _ _ _ _ _ =>
          unfold frame at hframe
          split at hframe
          · cases hframe
          · exact hP.obj h hframe
      · exact hP.taskFault h

theorem reportAt {q : AsyncErr → Bool} (h : P s) (ht : s.reportAt u q = some t) : P t := by
  unfold State.reportAt at ht
  split at ht
  · cases ht
  · split at ht
    · cases ht
    · split at ht
      · cases ht
      · cases ht
        exact hP.stopWave (hP.modWave h)

theorem pollAsync (h : P s) : P (s.pollAsync u) := by
  unfold State.pollAsync
  split
  · exact h
  · refine ite_keeps h ?_
    cases hf : List.findSome? _ _ with
    | none => exact h
    | some t =>
      obtain ⟨n, -, hn⟩ := List.exists_of_findSome?_eq_some hf
      dsimp only at hn
      split at hn
      · split at hn
        · exact hP.reportAt h hn
        · cases hn
      · cases hn

theorem evalWait {st : BitVec 8} (h : P s) : P (s.evalWait u st) := by
  have hgo : P (s.modWave u (fun w => w.resume st)) := hP.modWave h
  unfold State.evalWait
  split
  · exact h
  · split
    · exact h
    · dsimp only
      split
      · exact ite_keeps h (hP.acquire hgo)
      · exact ite_keeps h hgo
      · refine ite_keeps h ?_
        split
        · exact hP.setWave h
        · exact h
      · exact ite_keeps h (hP.acquire hgo)
      · split
        · exact ite_keeps (hP.acquire (hP.modCore hgo)) h
        · exact h
      · exact h

theorem wakeStrands (h : P s) : P (s.wakeStrands u) := by
  unfold State.wakeStrands
  split
  · exact h
  · exact ite_keeps (foldl_keeps (fun _ _ hs => hP.evalWait hs) h) h

theorem settleGang (h : P s) : P (s.settleGang u) := by
  unfold State.settleGang
  split
  · exact h
  · refine ite_keeps h ?_
    dsimp only
    split
    · exact ite_keeps (hP.pollAsync (hP.wakeStrands (hP.leaveTrap (hP.setWave h)))) (hP.setWave h)
    · split
      · exact h
      · exact hP.setWave h
      · exact hP.stopWave (hP.setWave h)

theorem wake (h : P s) : P (s.wake u) := hP.settleGang (hP.wakeStrands h)

end

end IgnoresWaits

/-- No change of the clock is being gathered. -/
def Immediate (s : State) : Prop := s.sched.changes = none

theorem Immediate.ignores : IgnoresWaits Immediate where
  sched _ hx h := hx h
  clusters _ h := h
  cores _ h := h
  mem _ _ h := h
  hit _ _ h := h
  viral _ h := ite_keeps (P := Immediate) h h
  lost _ _ h := h
  loc _ h := h
  kiln _ _ _ h := h
  group _ _ _ h := h

/-- The scratchpad of every group is that of another state. -/
def SameSpads (a s : State) : Prop := ∀ g, (s.group g).map (fun x => x.spad) = (a.group g).map (fun x => x.spad)

theorem SameSpads.of_groups {a s t : State} (h : SameSpads a s) (hg : t.kiln.groups = s.kiln.groups) : SameSpads a t := fun g => by
  rw [State.group, hg]
  exact h g

theorem SameSpads.ignores (a : State) : IgnoresWaits (SameSpads a) where
  sched _ _ h := h
  clusters _ h := h
  cores _ h := h
  mem _ _ h := h
  hit _ _ h := h
  viral _ h := ite_keeps (P := SameSpads a) h h
  lost _ _ h := h
  loc _ h := h
  kiln _ hk _ h := h.of_groups hk
  group k f hf h := fun g => by
    rw [← h g]
    by_cases hg : g = k
    · subst hg
      rw [State.group_modGroup, Option.map_map]
      exact congrArg (Option.map · _) (funext hf)
    · rw [State.group_modGroup_ne _ _ _ _ hg]

/-- A write of a scratchpad, whatever it wakes, leaves the groups' scratchpads as the bytes written make them. -/
theorem IgnoresWaits.spadWrite {P : State → Prop} (hP : IgnoresWaits P) {s : State} {g a : Nat} {bs : List Byte}
    (h : P (s.modGroup g (fun x => { x with spad := x.spad.setBytes a bs, spadPoison := clearPoison x.spadPoison a bs.length }))) :
    P (s.spadWrite g a bs) := foldl_keeps (fun _ _ hs => hP.wake hs) h

end Sys2Proof.Machine

/-! PROOFS. COPY_DELIVERY: one line of a `cp.tile` reaches the scratchpad, and what the copy then comes to. -/

namespace Sys2Proof.Machine

set_option Elab.async false

/-! ## The bytes of an object -/

/-- An object that the pieces of a read cover is read whole. -/
theorem State.length_readObj {ag : Agent} {sc : Scope} : ∀ {fuel : Nat} {s t : State} {va n : Nat} {bs : List Byte},
    n = 0 ∨ va % 128 + n ≤ 128 * fuel → s.readObj ag sc va fuel n = .ok (t, bs) → bs.length = n
  | 0, s, t, va, n, bs, hn, h => by
    cases h
    rw [List.length_nil]
    omega
  | fuel + 1, s, t, va, n, bs, hn, h => by
    rw [State.readObj] at h
    split at h
    · next h0 =>
      cases h
      exact h0.symm
    · dsimp only at h
      split at h
      · cases h
      · split at h
        · cases h
        · generalize (if (s.l1Hit ag va).isSome = true then s.l1Drop ag va else s) = s0 at h
          split at h
          · cases h
          · split at h
            · cases h
            · next hrest =>
              cases h
              have hlen := State.length_readObj (by omega) hrest
              rw [List.length_append, length_leBytes, hlen]
              omega

theorem State.length_obj {s t : State} {ag : Agent} {sc : Scope} {va n : Nat} {bs : List Byte} (hn : n ≤ 256)
    (h : s.obj ag sc va n = .ok (t, bs)) : bs.length = n := State.length_readObj (Or.inr (by omega)) h

theorem lineAt_length_le (a n k : Nat) : (lineAt a n k).2 ≤ 256 := by
  simp only [lineAt]
  split
  · omega
  · have := Nat.mod_lt a (show 0 < 256 by decide)
    omega

/-! ## Bytes of a scratchpad -/

section Spad
variable {s : State} {g a : Nat} {bs : List Byte}

theorem SameSpads.spadByte {t : State} (h : SameSpads s t) (g y : Nat) : t.spadByte g y = s.spadByte g y := by
  have hm := congrArg (fun m => (m.map (fun m : Store 8 => m.get y)).getD 0) (h g)
  simp only [Option.map_map] at hm
  exact hm

theorem SameSpads.group {t : State} {x : Group} (h : SameSpads s t) (hx : s.group g = some x) :
    ∃ z, t.group g = some z ∧ z.spad = x.spad := by
  have hm := h g
  rw [hx, Option.map_some] at hm
  exact Option.map_eq_some_iff.mp hm

/-- After a write of a scratchpad its bytes are those that the write makes. -/
theorem State.spadByte_spadWrite {x : Group} (hx : s.group g = some x) (y : Nat) :
    (s.spadWrite g a bs).spadByte g y = (x.spad.setBytes a bs).get y := by
  rw [((SameSpads.ignores _).spadWrite (fun _ => rfl)).spadByte, State.spadByte, State.group_modGroup, hx]
  rfl

theorem State.spadByte_spadWrite_out {y : Nat} (hy : y < a ∨ a + bs.length ≤ y) :
    (s.spadWrite g a bs).spadByte g y = s.spadByte g y := by
  cases hx : s.group g with
  | none =>
    rw [((SameSpads.ignores _).spadWrite (fun _ => rfl)).spadByte, State.spadByte, State.spadByte, State.group_modGroup, hx]
    rfl
  | some x =>
    rw [State.spadByte_spadWrite hx, Store.get_setBytes_out _ _ _ _ hy, State.spadByte, hx]
    rfl

theorem State.change_deliver {n id : Nat} (hs : Immediate s) :
    s.change (.deliver g a n id) = s.bobjDeliver g a n [id] := by
  unfold State.change
  rw [hs]
  rfl

theorem Immediate.change_deliver {n id : Nat} (hs : Immediate s) : Immediate (s.change (.deliver g a n id)) := by
  rw [State.change_deliver hs]
  exact Immediate.ignores.spadWrite (ite_keeps (P := Immediate) hs hs)

/-- A delivery that reaches its object at once changes no byte of the scratchpad but those of the object. -/
theorem State.spadByte_deliver {n id y : Nat} (hs : Immediate s) (hy : y < a ∨ a + 16 ≤ y) :
    (s.change (.deliver g a n id)).spadByte g y = s.spadByte g y := by
  have hsame : SameSpads s (if (s.bobj g a).overflows n then s.overrun [id] else s) :=
    ite_keeps ((SameSpads.ignores s).cores _ (fun _ => rfl)) (fun _ => rfl)
  rw [State.change_deliver hs, State.bobjDeliver, State.putBobj, State.spadByte_spadWrite_out (by rw [length_leBytes]; exact hy), hsame.spadByte]

end Spad

/-! ## One line of a `cp.tile` -/

section Line
variable {s s1 : State} {grp row k : Nat} {ag : Agent} {c : Copy}

/-- The place of a line in the scratchpad, and the bytes of it that lie inside the tensor. -/
def Copy.lineSpad (c : Copy) (row k : Nat) : Nat := c.spad + row * c.box.box 0 + (lineAt (c.row row).1 (c.box.box 0) k).1
def Copy.lineLen (c : Copy) (row k : Nat) : Nat := (lineAt (c.row row).1 (c.box.box 0) k).2
def Copy.lineInside (c : Copy) (row k : Nat) : Nat :=
  min (c.lineLen row k) ((c.row row).2 - (lineAt (c.row row).1 (c.box.box 0) k).1)

/-- A line that is moved in: the bytes of the tensor are read, and zeros follow them. -/
theorem State.lineIn_tile {gd : Guard} {d a b p : Opd} {m : CpMods} (hi : c.instr = .cpTile gd d a b p m)
    (h : s.lineIn grp ag c row k = .ok s1) :
    ∃ s2 bs, bs.length = c.lineInside row k ∧ (c.lineInside row k = 0 ∧ s2 = s ∨
        s.obj ag .clus ((c.row row).1 + (lineAt (c.row row).1 (c.box.box 0) k).1) (c.lineInside row k) = .ok (s2, bs)) ∧
      s1 = (s2.spadWrite grp (c.lineSpad row k) (bs ++ List.replicate (c.lineLen row k - c.lineInside row k) 0)).change
        (.deliver grp c.obj (c.lineLen row k) c.id) := by
  unfold State.lineIn at h
  dsimp only at h
  have hgone : s.receiverGone grp c.instr = none := by
    rw [hi]
    rfl
  have hrec (t : State) : t.receivers grp c.instr = [grp] := by
    rw [hi]
    rfl
  rw [hgone] at h
  dsimp only at h
  split at h
  · cases h
  · next s2 bs hread =>
    cases h
    rw [hrec]
    refine ⟨s2, bs, ?_, ?_, rfl⟩
    · split at hread
      · next h0 =>
        cases hread
        exact h0.symm
      · exact State.length_obj ((Nat.min_le_left _ _).trans (lineAt_length_le _ _ _)) hread
    · split at hread
      · next h0 =>
        cases hread
        exact Or.inl ⟨h0, rfl⟩
      · exact Or.inr hread

/-- The scratchpad after a line has been moved in. -/
theorem State.spadByte_lineIn {gd : Guard} {d a b p : Opd} {m : CpMods} (hi : c.instr = .cpTile gd d a b p m) (hs : Immediate s)
    (h : s.lineIn grp ag c row k = .ok s1) :
    ∃ s2 bs, bs.length = c.lineInside row k ∧ (c.lineInside row k = 0 ∧ s2 = s ∨
        s.obj ag .clus ((c.row row).1 + (lineAt (c.row row).1 (c.box.box 0) k).1) (c.lineInside row k) = .ok (s2, bs)) ∧
      ∀ y, (y < c.obj ∨ c.obj + 16 ≤ y) → (∀ x, s.group grp = some x → s1.spadByte grp y =
          (x.spad.setBytes (c.lineSpad row k) (bs ++ List.replicate (c.lineLen row k - c.lineInside row k) 0)).get y) ∧
        ((y < c.lineSpad row k ∨ c.lineSpad row k + c.lineLen row k ≤ y) → s1.spadByte grp y = s.spadByte grp y) := by
  obtain ⟨s2, bs, hlen, hread, rfl⟩ := State.lineIn_tile hi h
  have hs2 : Immediate s2 ∧ SameSpads s s2 := by
    rcases hread with ⟨-, rfl⟩ | hread
    · exact ⟨hs, fun _ => rfl⟩
    · exact ⟨Immediate.ignores.obj hs hread, (SameSpads.ignores s).obj (fun _ => rfl) hread⟩
  obtain ⟨himm, hsame⟩ := hs2
  refine ⟨s2, bs, hlen, hread, fun y hy => ⟨fun x hx => ?_, fun hout => ?_⟩⟩
  · obtain ⟨z, hz, hzx⟩ := hsame.group hx
    rw [State.spadByte_deliver (Immediate.ignores.spadWrite himm) hy, State.spadByte_spadWrite hz, hzx]
  · have hle : c.lineInside row k ≤ c.lineLen row k := Nat.min_le_left _ _
    rw [State.spadByte_deliver (Immediate.ignores.spadWrite himm) hy, State.spadByte_spadWrite_out (by
      rw [List.length_append, List.length_replicate, hlen, Nat.add_sub_cancel' hle]
      exact hout), hsame.spadByte]

theorem Immediate.lineIn {gd : Guard} {d a b p : Opd} {m : CpMods} (hs : Immediate s) (hi : c.instr = .cpTile gd d a b p m)
    (h : s.lineIn grp ag c row k = .ok s1) : Immediate s1 := by
  obtain ⟨s2, bs, -, hread, rfl⟩ := State.lineIn_tile hi h
  have hs2 : Immediate s2 := by
    rcases hread with ⟨-, rfl⟩ | hread
    · exact hs
    · exact Immediate.ignores.obj hs hread
  exact (Immediate.ignores.spadWrite hs2).change_deliver

end Line

/-! ## Delivery -/

section Delivery
variable {s s1 : State} {grp core id row k : Nat} {ag : Agent} {c : Copy} {w : Wave} {o : Op}

theorem State.copyLine_tile {gd : Guard} {d a b p : Opd} {m : CpMods} (hi : c.instr = .cpTile gd d a b p m) :
    s.copyLine grp ag c row k = s.lineIn grp ag c row k := by
  unfold State.copyLine
  rw [hi]

/-- With no more lines asked for, a copy is done or has more to do. -/
theorem State.moveLines_zero (s : State) (grp : Nat) (ag : Agent) (c : Copy) (fuel : Nat) :
    s.moveLines grp ag c (fuel + 1) 0 = (s, c, if c.pos = none then .all else .more) := by
  rw [State.moveLines]
  cases c.pos with
  | none => rfl
  | some x => rfl

theorem maxLines_pos : maxLines = 1114111 + 1 := by norm_num [maxLines]

/-- One line is asked for and can be moved. -/
theorem State.moveLines_one (hp : c.pos = some (row, k)) (h : s.copyLine grp ag c row k = .ok s1) :
    s.moveLines grp ag c (maxLines + 1) 1 = (s1, c.step 1, if (c.step 1).pos = none then .all else .more) := by
  rw [State.moveLines, hp]
  dsimp only
  rw [if_neg Nat.one_ne_zero, h, maxLines_pos]
  exact State.moveLines_zero _ _ _ _ _

/-- One line is asked for and meets an error. -/
theorem State.moveLines_error {er : ObjErr} (hp : c.pos = some (row, k)) (h : s.copyLine grp ag c row k = .error er) :
    s.moveLines grp ag c (maxLines + 1) 1 =
      (s, c, .err er row k ((c.row row).1 + (lineAt (c.row row).1 (c.box.box 0) k).1)) := by
  rw [State.moveLines, hp]
  dsimp only
  rw [if_neg Nat.one_ne_zero, h]

/-- The state with a copy as the moving of lines has left it. -/
def State.holdCopy (s : State) (core id : Nat) (y : Copy) : State :=
  s.modCore core (fun q => { q with copies := q.copies.map (fun x => if x.id = id then { y with excess := x.excess } else x) })

/-- The state to which a copy that has been moved by some lines comes. -/
def State.copyComesTo (s : State) (core id : Nat) (ag : Agent) (o : Op) (m : CpMods) (sc : Scope) (y : Copy) (fin : CopyEnd) : State :=
  let t := s.holdCopy core id y
  let now := t.copyNow core y
  match fin with
  | .more => t
  | .err e row k a => ((t.dropCopy core id).copyFail ag.ctx now o e a row k).copyExcess ag.ctx now o row k
  | .all => (t.dropCopy core id).copyLast ag now o m sc

theorem State.counting_immediate (hs : Immediate s) : s.counting id = false := by
  unfold State.counting
  rw [hs]
  rfl

/-- What is delivered of a `cp.tile` with no release and no acquire, at a time when no changes are being gathered. -/
theorem execCopyDelivery_tile {gd : Guard} {d a b p : Opd} {m : CpMods} {c1 : Copy} {fin : CopyEnd}
    (hc : (s.core core).copies.find? (fun c => c.id == id) = some c) (hw : s.wave c.wave = some w)
    (ho : w.ops.find? (fun o => o.id == c.op) = some o) (hi : c.instr = .cpTile gd d a b p m) (ha : m.acq = false)
    (hold : w.olderThan c.op = false)
    (hm : s.moveLines w.group (s.agentOf w.group) c (maxLines + 1) 1 = (s1, c1, fin)) (hs : Immediate s1) :
    exec (.copyDelivery core id 1) s =
      .next (s1.copyComesTo core id (s.agentOf w.group) o m (s.capScope (s.agentOf w.group).ctx m.fscope) c1 fin) := by
  have hcount : (s1.holdCopy core id c1).counting id = false := State.counting_immediate (s := s1.holdCopy core id c1) hs
  have hmods : cpMods c.instr = m := by rw [hi]; rfl
  rw [exec_copyDelivery]
  unfold execCopyDelivery
  simp only [hc, hw, ho, hold, Bool.false_eq_true, if_false, hmods, ha, and_false]
  simp only [hi, Bool.false_eq_true, if_false, hm]
  unfold State.holdCopy at hcount
  rw [hcount]
  cases fin <;> rfl

theorem State.copyLast_tile {gd : Guard} {d a b p : Opd} {m : CpMods} {sc : Scope} {y : Copy} (hi : y.instr = .cpTile gd d a b p m)
    (hr : m.rel = false) : s.copyLast ag y o m sc = s.copyExcess ag.ctx y o y.box.rows 0 := by
  unfold State.copyLast
  rw [hi]
  simp only [hr, Bool.false_eq_true, if_false]

/-- The copy that a port holds after lines have been moved is the one that was moved, but for its mark of an excess. -/
theorem State.copyNow_instr {y : Copy} (hy : y.id = id) : ((s.holdCopy core id y).copyNow core y).instr = y.instr := by
  unfold State.copyNow
  cases hf : ((s.holdCopy core id y).core core).copies.find? (fun x => x.id == y.id) with
  | none => rfl
  | some z =>
    have hz : z.id = id := (by simpa using List.find?_some hf : z.id = y.id).trans hy
    have hmem := List.mem_of_find?_eq_some hf
    rw [State.holdCopy, State.modCore, State.core_setCore] at hmem
    obtain ⟨x, -, hx⟩ := List.mem_map.mp hmem
    split at hx
    · cases hx
      rfl
    · next hne =>
      cases hx
      exact absurd hz hne

end Delivery

/-- Settles O34. -/
theorem copyMoves : Obligations.CopyMoves := by
  intro s s1 core id u row k c w o gd d a b p m hc hu hw ho hi ha hr hs ag adr inside lo len at_ held now
  subst hu
  have himm : Immediate s := hs
  have hid : c.id = id := by simpa using List.find?_some hc
  refine ⟨fun hold => ?_, fun hold hp => ⟨fun hline => ⟨fun hmore => ?_, fun hdone => ?_⟩, fun er hline => ?_⟩,
    fun hline hobj hwf hex => ?_⟩
  · rw [exec_copyDelivery]
    unfold execCopyDelivery
    simp only [hc, hw, ho, hold, if_true]
  · rw [execCopyDelivery_tile hc hw ho hi ha hold 
      ((State.moveLines_one hp ((State.copyLine_tile hi).trans hline)).trans (by rw [if_neg hmore])) (himm.lineIn hi hline)]
    rfl
  · rw [execCopyDelivery_tile hc hw ho hi ha hold 
      ((State.moveLines_one hp ((State.copyLine_tile hi).trans hline)).trans (by rw [if_pos hdone])) (himm.lineIn hi hline)]
    refine congrArg _ ?_
    exact State.copyLast_tile ((State.copyNow_instr (y := c.step 1) hid).trans hi) hr
  · rw [execCopyDelivery_tile hc hw ho hi ha hold (State.moveLines_error hp ((State.copyLine_tile hi).trans hline)) hs]
    rfl
  · obtain ⟨x, hx⟩ := Option.isSome_iff_exists.mp hex
    obtain ⟨s2, bs, hlen, hread, hbytes⟩ := State.spadByte_lineIn hi hs hline
    have hle : c.lineInside row k ≤ c.lineLen row k := Nat.min_le_left _ _
    have hdata : (bs ++ List.replicate (c.lineLen row k - c.lineInside row k) 0).length = c.lineLen row k := by
      rw [List.length_append, List.length_replicate, hlen, Nat.add_sub_cancel' hle]
    have line (i : Nat) (hi : i < len) : s1.spadByte w.group (at_ + i) =
        (bs ++ List.replicate (c.lineLen row k - c.lineInside row k) 0).getD i 0 := by
      have hy : at_ + i < c.obj ∨ c.obj + 16 ≤ at_ + i := by omega
      have hi' : i < (bs ++ List.replicate (c.lineLen row k - c.lineInside row k) (0 : Byte)).length := hi.trans_eq hdata.symm
      rw [(hbytes _ hy).1 x hx, List.getD_eq_getElem _ _ hi']
      exact Store.get_setBytes_in _ _ _ _ (hwf x hx) hi'
    refine ⟨fun i hi hout => ?_, fun i t us hi hin hus => ?_, fun y hy hobj => (hbytes y hobj).2 hy⟩
    · have hge : c.lineInside row k ≤ i := (Nat.min_le_right _ _).trans (Nat.sub_le_of_le_add (Nat.add_comm lo i ▸ hout))
      rw [line i hi, List.getD_append_right _ _ _ _ (hlen ▸ hge), List.getD_eq_getElem?_getD, List.getElem?_replicate]
      split <;> rfl
    · have hlt : i < c.lineInside row k := Nat.lt_min.mpr ⟨hi, Nat.lt_sub_of_add_lt (Nat.add_comm lo i ▸ hin)⟩
      rcases hread with ⟨h0, -⟩ | hread
      · exact absurd (h0 ▸ hlt) (Nat.not_lt_zero i)
      · have hbs : us = bs := by
          have he := hus.symm.trans hread
          cases he
          rfl
        rw [line i hi, List.getD_append _ _ _ _ (hlen ▸ hlt), hbs]

end Sys2Proof.Machine

/-! PROOFS. The bytes of a trap frame: where its fields and the records of its slices stand, and what is read back of them. -/

namespace Sys2Proof

set_option Elab.async false

/-! ## Fields of byte lists -/

theorem fieldAt_append_right {a b : List Byte} {off n : Nat} : fieldAt (a ++ b) (a.length + off) n = fieldAt b off n := by
  rw [fieldAt, fieldAt, List.drop_length_add_append]

theorem fieldAt_append_left {a b : List Byte} {off n : Nat} (h : off + n ≤ a.length) : fieldAt (a ++ b) off n = fieldAt a off n := by
  rw [fieldAt, fieldAt, List.take_drop, List.take_drop, List.take_append_of_le_length h]

theorem fieldAt_leBytes (v n : Nat) : fieldAt (leBytes v n) 0 n = v % 256 ^ n := by
  rw [fieldAt, List.drop_zero, List.take_of_length_le (length_leBytes v n).le, leNat_leBytes]

/-- A field that stands in a part which two byte lists have in common. -/
theorem fieldAt_of_take {a b : List Byte} {k off n : Nat} (h : a.take k = b.take k) (hk : off + n ≤ k) : fieldAt a off n = fieldAt b off n := by
  have take (c : List Byte) : c.take (off + n) = (c.take k).take (off + n) := by rw [List.take_take, Nat.min_eq_left hk]
  rw [fieldAt, fieldAt, List.take_drop, List.take_drop, take a, take b, h]

/-- Numbers in a row, each with its count of bytes. -/
def packed (l : List (Nat × Nat)) : List Byte := l.flatMap (fun x => leBytes x.1 x.2)

theorem length_packed (l : List (Nat × Nat)) : (packed l).length = (l.map (·.2)).sum := by
  simp only [packed, List.length_flatMap, length_leBytes]

/-- The k-th of some numbers in a row. -/
theorem fieldAt_packed {rest : List Byte} : ∀ {l : List (Nat × Nat)} {k v n : Nat}, l[k]? = some (v, n) →
    fieldAt (packed l ++ rest) ((l.take k).map (·.2)).sum n = v % 256 ^ n
  | [], _, _, _, h => by cases h
  | x :: l, 0, v, n, h => by
    cases h
    show fieldAt (leBytes v n ++ packed l ++ rest) 0 n = _
    rw [List.append_assoc, fieldAt_append_left (by rw [length_leBytes, Nat.zero_add]), fieldAt_leBytes]
  | x :: l, k + 1, v, n, h => by
    have hx : (leBytes x.1 x.2).length + ((l.take k).map (·.2)).sum = (((x :: l).take (k + 1)).map (·.2)).sum := by
      rw [length_leBytes, List.take_succ_cons, List.map_cons, List.sum_cons]
    show fieldAt (leBytes x.1 x.2 ++ packed l ++ rest) _ n = _
    rw [← hx, List.append_assoc, fieldAt_append_right]
    exact fieldAt_packed h

/-- A field of the i-th of some records of one length. -/
theorem fieldAt_flatMap {α : Type} {f : α → List Byte} {size off n : Nat} {rest : List Byte} (ho : off + n ≤ size) :
    ∀ {l : List α} {i : Nat} {x : α}, (∀ y ∈ l, (f y).length = size) → l[i]? = some x →
      fieldAt (l.flatMap f ++ rest) (size * i + off) n = fieldAt (f x) off n
  | [], _, _, _, h => by cases h
  | y :: l, 0, x, hf, h => by
    cases h
    rw [List.flatMap_cons, List.append_assoc, Nat.mul_zero, Nat.zero_add, fieldAt_append_left (ho.trans (hf _ List.mem_cons_self).ge)]
  | y :: l, i + 1, x, hf, h => by
    have hi : size * (i + 1) + off = (f y).length + (size * i + off) := by
      rw [hf _ List.mem_cons_self, Nat.mul_succ]
      omega
    rw [hi, List.flatMap_cons, List.append_assoc, fieldAt_append_right]
    exact fieldAt_flatMap ho (fun z hz => hf z (List.mem_cons_of_mem _ hz)) h

theorem length_flatMap_of_length {α : Type} {f : α → List Byte} {size : Nat} {l : List α} (h : ∀ y ∈ l, (f y).length = size) :
    (l.flatMap f).length = size * l.length := by
  rw [List.length_flatMap, List.map_congr_left h, List.map_const', List.sum_replicate_nat, Nat.mul_comm]

/-! ## Digits -/

theorem ofDigits_digit : ∀ {l : List Nat} {i d : Nat}, (∀ x ∈ l, x < 16) → l[i]? = some d → Nat.ofDigits 16 l / 16 ^ i % 16 = d
  | [], _, _, _, h => by cases h
  | x :: l, 0, d, hl, h => by
    cases h
    have hx := hl _ (List.mem_cons_self (a := x) (l := l))
    rw [Nat.ofDigits_cons, pow_zero, Nat.div_one]
    omega
  | x :: l, i + 1, d, hl, h => by
    have hx := hl _ (List.mem_cons_self (a := x) (l := l))
    rw [Nat.ofDigits_cons, pow_succ', ← Nat.div_div_eq_div_mul, show (x + 16 * Nat.ofDigits 16 l) / 16 = Nat.ofDigits 16 l by omega]
    exact ofDigits_digit (fun y hy => hl y (List.mem_cons_of_mem _ hy)) h

namespace Machine

/-- The digit of a slice in a strand map. -/
def SliceSt.digit (x : SliceSt) : Nat := if x.live then x.strand else 15

theorem strandMap_eq (ss : List SliceSt) : strandMap ss = Nat.ofDigits 16 (ss.map SliceSt.digit) := by
  have go : ∀ (l : List SliceSt) (k m : Nat), (l.zipIdx k).foldl (fun m x => m + (if x.1.live then x.1.strand else 15) * 16 ^ x.2) m =
      m + 16 ^ k * Nat.ofDigits 16 (l.map SliceSt.digit) := by
    intro l
    induction l with
    | nil => simp
    | cons x l ih =>
      intro k m
      rw [List.zipIdx_cons, List.foldl_cons, ih, List.map_cons, Nat.ofDigits_cons, SliceSt.digit]
      ring
  rw [strandMap, go, pow_zero, Nat.one_mul, Nat.zero_add]

section Map
variable {ss : List SliceSt} (h : ∀ x ∈ ss, x.strand < 16)
include h

theorem SliceSt.digit_lt : ∀ d ∈ ss.map SliceSt.digit, d < 16 := by
  intro d hd
  obtain ⟨x, hx, rfl⟩ := List.mem_map.mp hd
  rw [SliceSt.digit]
  split
  · exact h x hx
  · decide

theorem strandMap_lt (hl : ss.length = 8) : strandMap ss < 2 ^ 32 := by
  have hlt := Nat.ofDigits_lt_base_pow_length (b := 16) (l := ss.map SliceSt.digit) (by decide) (SliceSt.digit_lt h)
  rw [List.length_map, hl] at hlt
  rw [strandMap_eq]
  exact hlt

/-- The digit of a slice is read back from the map. -/
theorem strandMap_digit {i : Nat} {x : SliceSt} (hx : ss[i]? = some x) : strandMap ss / 16 ^ i % 16 = x.digit := by
  rw [strandMap_eq]
  exact ofDigits_digit (SliceSt.digit_lt h) (by rw [List.getElem?_map, hx, Option.map_some])

end Map

/-! ## Records of slices -/

/-- One entry of a mask stack: a path, or nothing. -/
def pathBytes (p : Option Path) : List Byte := match p with
  | some p => packed [(p.pc, 8), (p.mask.toNat, 4)]
  | none => List.replicate 12 0

theorem length_pathBytes (p : Option Path) : (pathBytes p).length = 12 := by
  cases p with
  | none => exact List.length_replicate
  | some p => rw [pathBytes, length_packed]; rfl

theorem stackBytes_eq (st : List Path) : stackBytes st = (List.range 8).flatMap (fun i => pathBytes st[i]?) := by
  unfold stackBytes
  refine congrArg (List.flatMap · _) (funext fun i => ?_)
  cases st[i]? with
  | none => rfl
  | some p => simp [pathBytes, packed]

theorem length_stackBytes (st : List Path) : (stackBytes st).length = 96 := by
  rw [stackBytes_eq, length_flatMap_of_length (fun i _ => length_pathBytes _)]
  rfl

theorem SliceSt.record_eq (x : SliceSt) : x.record =
    packed [(x.pc, 8), (stateWord x.mask x.exited x.stack.length x.wait.isSome, 4), (x.window, 4)] ++ stackBytes x.stack := by
  simp [SliceSt.record, packed]

theorem SliceSt.length_record (x : SliceSt) : x.record.length = 112 := by
  rw [SliceSt.record_eq, List.length_append, length_packed, length_stackBytes]
  rfl

/-- The parts of a state word. -/
theorem stateWord_parts (m e : BitVec 4) {n : Nat} (hn : n ≤ 8) (b : Bool) :
    stateWord m e n b < 2 ^ 32 ∧ BitVec.ofNat 4 (stateWord m e n b) = m ∧ BitVec.ofNat 4 (stateWord m e n b / 16) = e ∧
      stateWord m e n b / 256 % 16 = n ∧ (stateWord m e n b / 4096 % 2 == 1) = b := by
  have hm := m.isLt
  have he := e.isLt
  have hb : (if b then 4096 else 0) = 4096 * b.toNat := by cases b <;> rfl
  have hb1 := b.toNat_lt
  have hw : stateWord m e n b = m.toNat + e.toNat * 16 + n * 256 + 4096 * b.toNat := by rw [stateWord, hb]
  rw [hw]
  refine ⟨by omega, ?_, ?_, by omega, ?_⟩
  · apply BitVec.eq_of_toNat_eq
    rw [BitVec.toNat_ofNat]
    omega
  · apply BitVec.eq_of_toNat_eq
    rw [BitVec.toNat_ofNat]
    omega
  · rw [show (m.toNat + e.toNat * 16 + n * 256 + 4096 * b.toNat) / 4096 % 2 = b.toNat by omega]
    cases b <;> rfl

section Record
variable {x : SliceSt} {off n : Nat}

theorem fieldAt_record_head {k v : Nat}
    (h : [(x.pc, 8), (stateWord x.mask x.exited x.stack.length x.wait.isSome, 4), (x.window, 4)][k]? = some (v, n)) :
    fieldAt x.record (([(x.pc, 8), (stateWord x.mask x.exited x.stack.length x.wait.isSome, 4), (x.window, 4)].take k).map (·.2)).sum n =
      v % 256 ^ n := by
  rw [SliceSt.record_eq]
  exact fieldAt_packed h

theorem fieldAt_record_stack {k : Nat} {p : Path} (hk : k < 8) (hp : x.stack[k]? = some p) (h : off + n ≤ 12) :
    fieldAt x.record (16 + (12 * k + off)) n = fieldAt (packed [(p.pc, 8), (p.mask.toNat, 4)]) off n := by
  have hr : (List.range 8)[k]? = some k := List.getElem?_range hk
  have hs := fieldAt_flatMap (rest := []) h (fun i _ => length_pathBytes x.stack[i]?) hr
  rw [SliceSt.record_eq]
  rw [List.append_nil, ← stackBytes_eq, hp] at hs
  exact (fieldAt_append_right (a := packed [(x.pc, 8), (stateWord x.mask x.exited x.stack.length x.wait.isSome, 4), (x.window, 4)])).trans hs

/-- A path that stands in a record is read back. -/
theorem path_of_fields {p : Path} (hp : p.pc < 2 ^ 64) :
    (⟨fieldAt (packed [(p.pc, 8), (p.mask.toNat, 4)]) 0 8, BitVec.ofNat 4 (fieldAt (packed [(p.pc, 8), (p.mask.toNat, 4)]) 8 4)⟩ : Path) = p := by
  have hpc := fieldAt_packed (rest := []) (l := [(p.pc, 8), (p.mask.toNat, 4)]) (k := 0) rfl
  have hm := fieldAt_packed (rest := []) (l := [(p.pc, 8), (p.mask.toNat, 4)]) (k := 1) rfl
  rw [List.append_nil] at hpc hm
  have hlt := p.mask.isLt
  obtain ⟨pc, m⟩ := p
  have hm' : BitVec.ofNat 4 (fieldAt (packed [(pc, 8), (m.toNat, 4)]) 8 4) = m := by
    rw [show fieldAt (packed [(pc, 8), (m.toNat, 4)]) 8 4 = m.toNat % 256 ^ 4 from hm, Nat.mod_eq_of_lt (by dsimp only at hlt; omega),
      BitVec.ofNat_toNat, BitVec.setWidth_eq]
  have hpc' : fieldAt (packed [(pc, 8), (m.toNat, 4)]) 0 8 = pc :=
    hpc.trans (Nat.mod_eq_of_lt hp)
  rw [hm', hpc']

/-- What a frame or an area can say of a slice. -/
structure SliceSt.storable (x : SliceSt) : Prop where
  pc : x.pc < 2 ^ 64
  window : x.window < 2 ^ 32
  stack : x.stack.length ≤ 8
  paths : ∀ p ∈ x.stack, p.pc < 2 ^ 64

/-- What is read of a slice where its record stands. -/
theorem sliceAt_of_record {bs : List Byte} {base strands i : Nat} {old : SliceSt} (hx : x.storable)
    (hr : ∀ off n, off + n ≤ 112 → fieldAt bs (base + 112 * i + off) n = fieldAt x.record off n) :
    sliceAt bs base strands old i =
      ({ old with
          pc := x.pc, mask := x.mask, exited := x.exited, stack := x.stack, window := x.window
          strand := strands / 16 ^ i % 16, clause := none, wait := none }, x.wait.isSome) := by
  obtain ⟨hlt, hmask, hexited, hdepth, hwait⟩ := stateWord_parts x.mask x.exited hx.stack x.wait.isSome
  have hpc : fieldAt bs (base + 112 * i) 8 = x.pc :=
    (hr 0 8 (by decide)).trans ((fieldAt_record_head (k := 0) rfl).trans (Nat.mod_eq_of_lt hx.pc))
  have hsw : fieldAt bs (base + 112 * i + 8) 4 = stateWord x.mask x.exited x.stack.length x.wait.isSome :=
    (hr 8 4 (by decide)).trans ((fieldAt_record_head (k := 1) rfl).trans (Nat.mod_eq_of_lt hlt))
  have hwin : fieldAt bs (base + 112 * i + 12) 4 = x.window :=
    (hr 12 4 (by decide)).trans ((fieldAt_record_head (k := 2) rfl).trans (Nat.mod_eq_of_lt hx.window))
  have hstack : stackAt bs (base + 112 * i + 16) x.stack.length = x.stack := by
    refine List.ext_getElem (by rw [stackAt, List.length_map, List.length_range]) fun k hk hk' => ?_
    have hk8 : k < 8 := hk'.trans_le hx.stack
    have hp : x.stack[k]? = some x.stack[k] := List.getElem?_eq_getElem hk'
    have field (off n : Nat) (h : off + n ≤ 12) : fieldAt bs (base + 112 * i + 16 + 12 * k + off) n =
        fieldAt (packed [(x.stack[k].pc, 8), (x.stack[k].mask.toNat, 4)]) off n := by
      rw [← fieldAt_record_stack hk8 hp h, ← hr _ _ (by omega), Nat.add_assoc, Nat.add_assoc _ 16]
    simp only [stackAt, List.getElem_map, List.getElem_range, pathAt]
    rw [← Nat.add_zero (base + 112 * i + 16 + 12 * k), field 0 8 (by decide), Nat.add_zero, field 8 4 (by decide)]
    exact path_of_fields (hx.paths _ (List.getElem_mem hk'))
  unfold sliceAt
  dsimp only
  rw [hpc, hsw, hwin, hdepth, hmask, hexited, hwait, hstack]

end Record

/-! ## The frame -/

section Frame
variable (w : Wave) (r : TrapReq)

/-- The first fields of a frame, and its chain. -/
def frameHead : List (Nat × Nat) :=
  [(r.causeWord.toNat, 4), (r.infoWord.toNat, 4), (r.addr, 8), (r.fpc, 8), (r.lanes.toNat, 4),
    (controlWord w.liveSlices false (!w.held.isEmpty) w.task.wide.isSome, 4), (strandMap w.task.slices, 4), (r.rows, 4), (r.lines, 4),
    (0, 4), (w.trapbase, 8), (0, 8)]
def frameChainFields : List (Nat × Nat) :=
  (List.range 5).map (fun i => ((w.task.record.toNat :: w.chain.map (fun h => h.task.record.toNat)).getD i 0, 8))

/-- What stands behind the records of the slices. -/
def frameTail : List Byte :=
  (match w.task.wide with
    | some l => l.flatMap WideSave.record
    | none => List.replicate 0x340 0) ++ List.replicate 0xC0 0

theorem frameBytes_eq : frameBytes w r = packed (frameHead w r) ++ (packed (frameChainFields w) ++ (List.replicate 24 0 ++
    (w.task.slices.flatMap SliceSt.record ++ frameTail w))) := by
  have hhead : packed (frameHead w r) = leBytes r.causeWord.toNat 4 ++ leBytes r.infoWord.toNat 4 ++ leBytes r.addr 8 ++ leBytes r.fpc 8
      ++ leBytes r.lanes.toNat 4 ++ leBytes (controlWord w.liveSlices false (!w.held.isEmpty) w.task.wide.isSome) 4
      ++ leBytes (strandMap w.task.slices) 4 ++ leBytes r.rows 4 ++ leBytes r.lines 4 ++ leBytes 0 4 ++ leBytes w.trapbase 8
      ++ leBytes 0 8 := by
    simp only [packed, frameHead, List.flatMap_cons, List.flatMap_nil, List.append_nil, List.append_assoc]
  have hchain : packed (frameChainFields w) = (List.range 5).flatMap (fun i =>
      leBytes ((w.task.record.toNat :: w.chain.map (fun h => h.task.record.toNat)).getD i 0) 8) := by
    rw [packed, frameChainFields, List.flatMap_map]
  rw [hhead, hchain, frameBytes, frameTail]
  simp only [List.append_assoc] <;> rfl

/-- The k-th of the first fields. -/
theorem fieldAt_frameHead {k v n : Nat} (h : (frameHead w r)[k]? = some (v, n)) :
    fieldAt (frameBytes w r) (((frameHead w r).take k).map (·.2)).sum n = v % 256 ^ n := by
  rw [frameBytes_eq]
  exact fieldAt_packed h

theorem length_frameFields : (packed (frameHead w r) ++ (packed (frameChainFields w) ++ List.replicate 24 (0 : Byte))).length = 0x80 := by
  rw [List.length_append, List.length_append, length_packed, length_packed, List.length_replicate]
  rfl

/-- The record of a slice in a frame. -/
theorem fieldAt_frame_record {i : Nat} {x : SliceSt} (hx : w.task.slices[i]? = some x) {off n : Nat} (h : off + n ≤ 112) :
    fieldAt (frameBytes w r) (0x80 + 112 * i + off) n = fieldAt x.record off n := by
  have hb : frameBytes w r = (packed (frameHead w r) ++ (packed (frameChainFields w) ++ List.replicate 24 (0 : Byte))) ++
      (w.task.slices.flatMap SliceSt.record ++ frameTail w) := by
    rw [frameBytes_eq]
    simp only [List.append_assoc]
  rw [hb, Nat.add_assoc, ← length_frameFields w r, fieldAt_append_right]
  exact fieldAt_flatMap h (fun y _ => SliceSt.length_record y) hx

theorem length_frameBytes (hl : w.task.slices.length = 8) (hw : w.task.wide = none) : (frameBytes w r).length = 0x800 := by
  have hs : (w.task.slices.flatMap SliceSt.record).length = 896 := by
    rw [length_flatMap_of_length (fun y _ => SliceSt.length_record y), hl]
  have ht : (frameTail w).length = 1024 := by
    rw [frameTail, hw, List.length_append, List.length_replicate, List.length_replicate]
  have hf := length_frameFields w r
  rw [frameBytes_eq]
  simp only [List.length_append] at hf ⊢
  omega

end Frame

end Machine

end Sys2Proof

/-! PROOFS. Traps are taken, and a handler that leaves its frame alone returns to what was interrupted. -/

namespace Sys2Proof.Machine

set_option Elab.async false

/-! ## Taking a trap -/

section Taken
variable {s : State} {core wid u a : Nat} {w : Wave} {r : TrapReq}

theorem execTrapEntry_drained (hat : s.waveAt core wid = some (u, w)) (hr : w.stop = some r) (hd : s.drained u = true) :
    exec (.trapEntry core wid) s = .next ((s.takeTrap u).ifGone u w.group) := by
  show execTrapEntry core wid s = _
  unfold execTrapEntry
  simp only [hat, hr, hd, Option.isNone_some, Bool.not_true, Bool.or_false, Bool.false_eq_true, if_false]

/-- Without a usable handler the wave is killed. -/
theorem State.takeTrap_killed (hw : s.wave u = some w) (hr : w.stop = some r) (he : w.ended ≠ some .fault) (hk : w.killed = true) :
    s.takeTrap u = s.taskFault u true := by
  unfold State.takeTrap
  simp only [hw, hr, he, hk, if_false, if_true]

/-- With one the frame is written and the handler starts. -/
theorem State.takeTrap_handled (hw : s.wave u = some w) (hr : w.stop = some r) (he : w.ended ≠ some .fault) (hk : w.killed = false)
    (ha : s.frameAddr u (w.depth + 1) = .ok a) (hc : s.canWrite (s.agentOf w.group) a 0x800 = none) :
    s.takeTrap u = (s.setObj (s.agentOf w.group) .wave a (frameBytes w (w.taking r))).modWave u (fun v => v.enterHandler (w.taking r)) := by
  unfold State.takeTrap
  simp only [hw, hr, he, hk, ha, hc, Bool.false_eq_true, if_false]

theorem Wave.killed_iff : w.killed = true ↔ w.trapbase = 0 ∨ (w.depth = 1 ∧ w.narm = false) ∨ 2 ≤ w.depth := by
  simp [Wave.killed, or_assoc]

end Taken

theorem TrapReq.toNat_causeWord {r : TrapReq} (h : r.cls < 16) : r.causeWord.toNat = r.cls * 2 ^ 28 + r.code % 65536 := by
  rw [TrapReq.causeWord, BitVec.toNat_ofNat]
  omega

/-- A slice of a handler that starts. -/
theorem Wave.slices_enterHandler {w : Wave} {r : TrapReq} {i : Nat} {x : SliceSt} (hx : w.task.slices[i]? = some x) :
    (w.enterHandler r).task.slices[i]? = some { x with
      pc := w.trapbase, mask := 0xF, exited := 0, stack := [], flags := List.replicate 12 0, strand := 0, clause := none, wait := none } := by
  simp only [Wave.enterHandler, List.getElem?_map, hx, Option.map_some]

/-- Settles O38. -/
theorem trapsTaken : Obligations.TrapsTaken := by
  refine ⟨fun s core wid u w r hat hw hr hd he => ?_, fun w r hcls => ?_⟩
  · refine ⟨fun hk => ?_, ⟨rfl, rfl, rfl, rfl, rfl, rfl⟩, fun a hb hdep ha hc => ?_⟩
    · rw [execTrapEntry_drained hat hr hd, State.takeTrap_killed hw hr he (Wave.killed_iff.mpr hk)]
    · have hk : w.killed = false := by
        rw [Bool.eq_false_iff, Ne, Wave.killed_iff]
        rintro (h | ⟨h, hn⟩ | h)
        · exact hb h
        · rcases hdep with hdep | ⟨-, hdep⟩
          · omega
          · rw [hn] at hdep
            cases hdep
        · omega
      rw [execTrapEntry_drained hat hr hd, State.takeTrap_handled hw hr he hk ha hc]
  · have word (v : W32) : v.toNat % 256 ^ 4 = v.toNat := Nat.mod_eq_of_lt v.isLt
    refine ⟨rfl, rfl, rfl, rfl, rfl, rfl, TrapReq.toNat_causeWord hcls, rfl,
      fun i x hx => ⟨_, Wave.slices_enterHandler hx, rfl, rfl, rfl, rfl, rfl, rfl, rfl, rfl, rfl⟩,
      (fieldAt_frameHead w r (k := 0) rfl).trans (word _), (fieldAt_frameHead w r (k := 1) rfl).trans (word _),
      fieldAt_frameHead w r (k := 2) rfl, fieldAt_frameHead w r (k := 3) rfl, (fieldAt_frameHead w r (k := 4) rfl).trans (word _),
      fun hl _ hw _ => length_frameBytes w r hl hw⟩

/-! ## The return -/

section Return
variable {w : Wave} {r : TrapReq} {bs : List Byte}

/-- A slice as its frame gives it back. -/
def SliceSt.framed (x : SliceSt) : SliceSt :=
  { x with flags := List.replicate 12 0, strand := x.digit, clause := none, wait := none }

/-- What the device keeps beside the frame of a trap. -/
def Wave.kept (w : Wave) : TrapSave :=
  ⟨w.task.slices.map (·.pc), w.task.slices.map (·.clause), w.task.slices.map (·.wait), w.task.slices.map (·.strand),
    w.task.slices.map (·.flags), w.held⟩

theorem Wave.slice_of_getElem? {i : Nat} {x : SliceSt} (hx : w.task.slices[i]? = some x) : w.slice i = x := by
  rw [Wave.slice, TaskCtx.slice, List.getD_eq_getElem?_getD, hx, Option.getD_some]

/-- The slices that a frame left alone gives. -/
theorem framed_slices (hl : w.task.slices.length = 8) (hs : ∀ x ∈ w.task.slices, x.storable ∧ x.strand < 16)
    (hb : bs.take 0x740 = (frameBytes w r).take 0x740) :
    (List.range 8).map (fun i => sliceAt bs 0x80 (fieldAt bs 0x20 4) ((w.enterHandler r).slice i) i) =
      w.task.slices.map (fun x => (x.framed, x.wait.isSome)) := by
  have hstrands : ∀ x ∈ w.task.slices, x.strand < 16 := fun x hx => (hs x hx).2
  have hmap : fieldAt bs 0x20 4 = strandMap w.task.slices :=
    (fieldAt_of_take hb (by decide)).trans ((fieldAt_frameHead w r (k := 6) rfl).trans (Nat.mod_eq_of_lt (strandMap_lt hstrands hl)))
  refine List.ext_getElem (by rw [List.length_map, List.length_map, List.length_range, hl]) fun i hi _ => ?_
  have hi8 : i < 8 := by simpa using hi
  have hx : w.task.slices[i]? = some w.task.slices[i] := List.getElem?_eq_getElem (hl ▸ hi8)
  obtain ⟨hstore, -⟩ := hs _ (List.getElem_mem (hl ▸ hi8))
  rw [List.getElem_map, List.getElem_range, List.getElem_map, Wave.slice_of_getElem? (Wave.slices_enterHandler hx),
    sliceAt_of_record hstore (fun off n h => (fieldAt_of_take hb (by omega)).trans (fieldAt_frame_record w r hx h)), hmap,
    strandMap_digit hstrands hx]
  rfl

theorem getD_map_congr {α : Type} {f g : SliceSt → SliceSt} {q : SliceSt → α} (h : ∀ x, q (f x) = q (g x)) (l : List SliceSt) (i : Nat) :
    q ((l.map f).getD i (.fresh 0)) = q ((l.map g).getD i (.fresh 0)) := by
  rw [List.getD_eq_getElem?_getD, List.getD_eq_getElem?_getD, List.getElem?_map, List.getElem?_map]
  cases l[i]? with
  | none => rfl
  | some x => exact h x

/-- The ranges of a frame are about the program counters, stacks, windows, strands and exited lanes alone. -/
theorem frameOk_map_congr {f g : SliceSt → SliceSt} (hpc : ∀ x, (f x).pc = (g x).pc) (hstack : ∀ x, (f x).stack = (g x).stack)
    (hwin : ∀ x, (f x).window = (g x).window) (hstrand : ∀ x, (f x).strand = (g x).strand) (hlive : ∀ x, (f x).live = (g x).live)
    (alloc : Nat) (l : List SliceSt) : frameOk alloc (l.map f) none = frameOk alloc (l.map g) none := by
  unfold frameOk
  simp only [List.all_map, Function.comp_def, hpc, hstack, hwin, getD_map_congr hlive, getD_map_congr hstrand]

theorem frameOk_framed {alloc : Nat} (l : List SliceSt) :
    frameOk alloc (l.map SliceSt.framed) none = frameOk alloc (l.map (fun x => if x.live then x else { x with strand := 15 })) none := by
  refine frameOk_map_congr (fun x => ?_) (fun x => ?_) (fun x => ?_) (fun x => ?_) (fun x => ?_) alloc l
  all_goals
    unfold SliceSt.framed SliceSt.digit SliceSt.live
    split <;> rfl

theorem zipWith_add_zero : ∀ {n : Nat} {l : List Nat}, l.length = n → List.zipWith (· + ·) (List.replicate n 0) l = l
  | 0, [], _ => rfl
  | n + 1, a :: l, h => by
    rw [List.replicate_succ, List.zipWith_cons_cons, Nat.zero_add, zipWith_add_zero (Nat.succ.inj h)]

/-- A slice is back with its clause, its wait and its flags. -/
theorem backSlice_framed {i : Nat} {x : SliceSt} (hx : w.task.slices[i]? = some x) (hf : x.flags.length = 12) (hn : x.wait ≠ some .entered) :
    backSlice w.kept (w.enterHandler r).task.slices i x.framed x.wait.isSome = { x with strand := x.digit } := by
  have hh := Wave.slices_enterHandler (r := r) hx
  unfold backSlice
  simp only [Wave.kept, List.getD_eq_getElem?_getD, List.getElem?_map, hx, hh, Option.map_some, Option.getD_some, SliceSt.framed,
    zipWith_add_zero hf, if_true]
  cases hw : x.wait with
  | none => rfl
  | some v =>
    simp only [Option.isSome_some, if_true]

/-- The slices of the wave that a frame left alone gives, before the strands part. -/
theorem backSlices (hs : ∀ x ∈ w.task.slices, x.flags.length = 12 ∧ x.wait ≠ some .entered) :
    ((w.task.slices.map (fun x => (x.framed, x.wait.isSome))).zipIdx).map
        (fun x => backSlice w.kept (w.enterHandler r).task.slices x.2 x.1.1 x.1.2) =
      w.task.slices.map (fun x => { x with strand := x.digit }) := by
  refine List.ext_getElem (by simp) fun i hi _ => ?_
  have hi8 : i < w.task.slices.length := by simpa using hi
  obtain ⟨hf, hn⟩ := hs _ (List.getElem_mem hi8)
  simp only [List.getElem_map, List.getElem_zipIdx, Nat.zero_add]
  exact backSlice_framed (List.getElem?_eq_getElem hi8) hf hn

/-- The wave after the return from a handler that has left its frame alone, before the strands part. -/
def Wave.returned (w : Wave) (r : TrapReq) : Wave :=
  { w.enterHandler r with
    task := { w.task with slices := w.task.slices.map (fun x => { x with strand := x.digit }), wide := none }
    depth := w.depth, narm := decide (w.depth = 1), saves := w.saves
    ended := if w.task.slices.any (·.live) then none else some .done
    cause := 0, tinfo := 0, taddr := 0
    pending := w.pending.map (fun x => { x with depth := min w.depth x.depth })
    ops := w.ops.map (fun o => { o with depth := min w.depth o.depth }) }

theorem Wave.fromFrame_unchanged {id : Nat} (hl : w.task.slices.length = 8) (hwide : w.task.wide = none) (hheld : w.held = [])
    (hbase : w.trapbase < 2 ^ 64)
    (hs : ∀ x ∈ w.task.slices, (x.storable ∧ x.strand < 16) ∧ x.flags.length = 12 ∧ x.wait ≠ some .entered)
    (hok : frameOk (regCount w.task.regs) (w.task.slices.map (fun x => if x.live then x else { x with strand := 15 })) none = true)
    (hb : bs.take 0x740 = (frameBytes w r).take 0x740) :
    (w.enterHandler r).fromFrame id bs none = some (w.returned r).reStrand := by
  have hctl : fieldAt bs 0x1C 4 = controlWord w.liveSlices false false false := by
    refine (fieldAt_of_take hb (by decide)).trans ((fieldAt_frameHead w r (k := 5) rfl).trans ?_)
    rw [hheld, hwide]
    have := w.liveSlices.isLt
    refine Nat.mod_eq_of_lt ?_
    simp only [controlWord, List.isEmpty_nil, Bool.not_true, Option.isSome_none, Bool.false_eq_true, if_false]
    omega
  have hnowide : ¬fieldAt bs 0x1C 4 % 2 = 1 := by
    rw [hctl]
    simp only [controlWord, Bool.false_eq_true, if_false]
    omega
  have htb : fieldAt bs 0x30 8 = w.trapbase :=
    (fieldAt_of_take hb (by decide)).trans ((fieldAt_frameHead w r (k := 10) rfl).trans (Nat.mod_eq_of_lt hbase))
  have hrecs := framed_slices (r := r) hl (fun x hx => (hs x hx).1) hb
  have hback := backSlices (r := r) (fun x hx => (hs x hx).2)
  have hframe : frameOk (regCount w.task.regs) (w.task.slices.map SliceSt.framed) none = true := (frameOk_framed _).trans hok
  have hany : (w.task.slices.map (fun x => { x with strand := x.digit })).any (·.live) = w.task.slices.any (·.live) := by
    rw [List.any_map]
    rfl
  have hsaves : (w.enterHandler r).saves = w.kept :: w.saves := rfl
  have hregs : regCount (w.enterHandler r).task.regs = regCount w.task.regs := rfl
  have hfirst : (w.task.slices.map (fun x => (x.framed, x.wait.isSome))).map (·.1) = w.task.slices.map SliceSt.framed := by
    rw [List.map_map]
    rfl
  have hreplay : w.kept.replay = [] := hheld
  unfold Wave.fromFrame
  simp only [hsaves, hrecs, hnowide, if_false, hregs, hfirst, hframe, Bool.not_true, Bool.false_eq_true, hback, hreplay, ite_self,
    List.zipIdx_nil, List.map_nil, List.foldl_nil, List.append_nil, hany, htb]
  rfl

end Return

theorem Wave.slices_reStrand {w : Wave} {i : Nat} {x : SliceSt} (hx : w.task.slices[i]? = some x) :
    ∃ n, w.reStrand.task.slices[i]? = some { x with strand := n } :=
  ⟨newStrand w.task.slices (0 + i), by simp only [Wave.reStrand, modWhere_getElem?, hx, Option.map_some, if_true]⟩

section Leave
variable {s s1 : State} {u a : Nat} {w w' : Wave} {bs : List Byte} {ch : List Helper}

/-- The operations that a return issues again. -/
def reissued (w w' : Wave) : List Op := w'.ops.drop w.ops.length

/-- The state to which a return comes where it does not stall, before takes and claims are settled. -/
def State.backFrom (s s1 : State) (u : Nat) (w w' : Wave) (bs : List Byte) (ch : List Helper) : State :=
  let s2 := s1.setWave u { w' with chain := ch, task := { w'.task with record := BitVec.ofNat 64 (frameChain bs).1 } }
  ({ s2 with kiln := { s2.kiln with nextUid := s2.kiln.nextUid + (reissued w w').length } } : State).modCore
    (s.coreOf w.group) (fun k => { k with array := k.array ++ (reissued w w').filterMap (Op.tileEntry u) })

/-- A return from a handler of depth 1 whose frame is read and gives a wave and its chain. -/
theorem State.leaveTrap_eq (hw : s.wave u = some w) (hd : w.depth = 1) (ha : s.frameAddr u 1 = .ok a)
    (hobj : s.obj (s.agentOf w.group) .wave a 0x740 = .ok (s1, bs)) (hw1 : s1.wave u = some w)
    (hf : w.fromFrame s1.kiln.nextUid bs none = some w') (hch : s1.chainOf (s.agentOf w.group) w.chain (frameChain bs).2 = some ch)
    (htr : (frameChain bs).1 = w.task.record.toNat ∨ s1.ownTask (s.agentOf w.group) (frameChain bs).1 = true) :
    s.leaveTrap u = if (!w'.flagsFit && !s.drained u) || (reissued w w').any (fun o => o.clashes w.ops) then s
      else ((s.backFrom s1 u w w' bs ch).keepTakes u w'.takes).settleClaim u := by
  have hdep : ¬(1 : Nat) = 2 := by decide
  have htr' : ¬((frameChain bs).1 ≠ w.task.record.toNat ∧ (!s1.ownTask (s.agentOf w.group) (frameChain bs).1) = true) := by
    rintro ⟨hne, hno⟩
    rcases htr with h | h
    · exact hne h
    · rw [h] at hno
      cases hno
  unfold State.leaveTrap
  simp only [hw, hd, ha, hobj, hw1, Option.getD_some, hdep, if_false, hf, hch]
  rw [if_neg htr']
  rfl

end Leave

/-- Settles O39. -/
theorem trapRoundTrip : Obligations.TrapRoundTrip := by
  refine ⟨fun s s1 u a w w' bs ch hw hd ha hobj hw1 hf hch htr => ⟨fun hfit hclash => ?_, fun hstall => ?_⟩,
    fun w r bs id hl hwide hheld hbase hs hok hb => ?_⟩
  · have hgo : ((!w'.flagsFit && !s.drained u) || (reissued w w').any (fun o => o.clashes w.ops)) = false := by
      rw [hfit]
      exact hclash
    rw [State.leaveTrap_eq hw hd ha hobj hw1 hf hch htr, if_neg (by rw [hgo]; exact Bool.false_ne_true)]
    rfl
  · have hgo : ((!w'.flagsFit && !s.drained u) || (reissued w w').any (fun o => o.clashes w.ops)) = true := by
      rcases hstall with ⟨hfit, hdr⟩ | hclash
      · rw [hfit, hdr]
        rfl
      · rw [Bool.or_eq_true]
        exact Or.inr hclash
    rw [State.leaveTrap_eq hw hd ha hobj hw1 hf hch htr, if_pos hgo]
  · have hslices : ∀ x ∈ w.task.slices, (x.storable ∧ x.strand < 16) ∧ x.flags.length = 12 ∧ x.wait ≠ some .entered := by
      intro x hx
      obtain ⟨hpc, hwin, hst, hpaths, hfl, hstr, hwait⟩ := hs x hx
      exact ⟨⟨⟨hpc, hwin, hst, hpaths⟩, hstr⟩, hfl, hwait⟩
    refine ⟨_, Wave.fromFrame_unchanged hl hwide hheld hbase hslices hok hb, rfl, rfl, rfl, rfl, rfl, rfl, rfl, rfl, fun i x hx => ?_⟩
    obtain ⟨n, hn⟩ := Wave.slices_reStrand (w := w.returned r) (i := i) (x := { x with strand := x.digit })
      (by rw [Wave.returned, List.getElem?_map, hx, Option.map_some])
    exact ⟨_, hn, rfl, rfl, rfl, rfl, rfl, rfl, rfl, rfl⟩

end Sys2Proof.Machine

/-! PROOFS. Where sectors of the L2s and of the MSC may stand: writing back and dropping adds none, and a drop takes its sector away. -/

namespace Sys2Proof.Machine

set_option Elab.async false

theorem Tab.find_map {α β : Type} (g : Nat × α → β) (k : Nat) : ∀ t : Tab α,
    Tab.find (t.map (fun c => (c.1, g c))) k = (Tab.find t k).map (fun v => g (k, v))
  | [] => rfl
  | (j, v) :: r => by
    simp only [List.map_cons, Tab.find]
    split
    · next h =>
      subst h
      rfl
    · exact Tab.find_map g k r

/-- Every sector of the MSC (`none`) and of a cluster's L2 (`some`) stands at a place that its holder may hold. -/
structure Within (A : Option Nat → Place → Prop) (s : State) : Prop where
  msc : ∀ z ∈ s.mem.msc, A none z.place
  l2 : ∀ c, ∀ z ∈ (s.cluster c).l2, A (some c) z.place

/-- Every sector of some caches stands where one of others stands. -/
def PlacesFrom (l m : List PSector) : Prop := ∀ z ∈ l, ∃ y ∈ m, y.place = z.place

theorem PlacesFrom.refl (l : List PSector) : PlacesFrom l l := fun z hz => ⟨z, hz, rfl⟩

theorem PlacesFrom.filterMap {l : List PSector} {f : PSector → Option PSector} (hf : ∀ x y, f x = some y → y.place = x.place) :
    PlacesFrom (l.filterMap f) l := by
  intro z hz
  obtain ⟨y, hy, hfy⟩ := List.mem_filterMap.mp hz
  exact ⟨y, hy, (hf y z hfy).symm⟩

theorem PlacesFrom.filter {l : List PSector} {p : PSector → Bool} : PlacesFrom (l.filter p) l :=
  fun z hz => ⟨z, (List.mem_filter.mp hz).1, rfl⟩

/-- The L2 of a cluster after all have been changed. -/
theorem l2_map {s t : State} {F : Nat × Cluster → List PSector}
    (ht : t.clusters = s.clusters.map (fun c => (c.1, { c.2 with l2 := F c }))) (hF : ∀ c, PlacesFrom (F c) c.2.l2) (c : Nat) :
    PlacesFrom (t.cluster c).l2 (s.cluster c).l2 := by
  have hc : t.cluster c = ((Tab.find s.clusters c).map (fun v => { v with l2 := F (c, v) })).getD .reset := by
    rw [State.cluster, ht, Tab.find_map (fun c : Nat × Cluster => ({ c.2 with l2 := F c } : Cluster))]
  rw [hc, State.cluster]
  cases Tab.find s.clusters c with
  | none => exact .refl _
  | some v => exact hF (c, v)

section
variable {A : Option Nat → Place → Prop} {s t : State}

/-- What holds fewer places holds none that it may not hold. -/
theorem Within.of_places (h : Within A s) (hm : PlacesFrom t.mem.msc s.mem.msc)
    (hc : ∀ c, PlacesFrom (t.cluster c).l2 (s.cluster c).l2) : Within A t := by
  refine ⟨fun z hz => ?_, fun c z hz => ?_⟩
  · obtain ⟨y, hy, hp⟩ := hm z hz
    rw [← hp]
    exact h.msc y hy
  · obtain ⟨y, hy, hp⟩ := hc c z hz
    rw [← hp]
    exact h.l2 c y hy

theorem Within.congr (h : Within A s) (hm : t.mem.msc = s.mem.msc) (hc : t.clusters = s.clusters) : Within A t :=
  h.of_places (by rw [hm]; exact .refl _) (fun c => by rw [State.cluster, hc]; exact .refl _)

theorem Within.noteWait {p : Place} (h : Within A s) : Within A (s.noteWait p) := ite_keeps (h.congr rfl rfl) h

theorem Within.emberHit {p : Place} {n : Nat} (h : Within A s) : Within A (s.emberHit p n) := h.congr rfl rfl

theorem Within.goViral {c : Nat} (h : Within A s) : Within A (s.goViral c) := ite_keeps (h.congr rfl rfl) h

theorem Within.noteLost {cl : Option Nat} {t a : Nat} (h : Within A s) : Within A (s.noteLost cl t a) :=
  foldl_keeps (fun _ _ hs => hs.goViral) (h.congr rfl rfl)

theorem Within.forget {p : Place} (h : Within A s) : Within A (s.forget p) := by
  unfold State.forget
  extract_lets f
  refine h.of_places (.refl _) (fun c => l2_map (F := fun c => c.2.l2.filterMap f) rfl (fun _ => .filterMap fun x y hxy => ?_) c)
  simp only [f] at hxy
  split at hxy
  · cases hxy
    rfl
  · split at hxy
    · cases hxy
    · cases hxy
      rfl

theorem Within.homeBack {cl : Option Nat} {x : PSector} (h : Within A s) : Within A (s.homeBack cl x) := by
  unfold State.homeBack
  split
  · exact ite_keeps h (ite_keeps h.forget (ite_keeps h.forget.noteLost (h.noteWait.congr rfl rfl)))
  · exact h

theorem Within.bisnp {keep : Option Nat → Place → Bool} {p : Place} (h : Within A s) : Within A (s.bisnp keep p) := by
  refine ite_keeps h (Within.emberHit (foldl_keeps (fun _ _ hs => hs.homeBack) ?_))
  unfold State.mapCopies
  refine h.of_places (.filterMap fun x y hxy => ?_)
    (fun c => l2_map (F := fun c => c.2.l2.filterMap _) rfl (fun c => .filterMap fun x y hxy => ?_) c)
  all_goals
    dsimp only at hxy
    split at hxy
    · cases hxy
    · cases hxy
      rfl

theorem Within.cohHome {cl : Option Nat} {p : Place} (h : Within A s) : Within A (s.cohHome cl p) := h.bisnp

/-- Writing back and dropping a sector of the MSC adds no place, and takes the sector's away. -/
theorem Within.mscFlush {cl : Option Nat} {p : Place} (h : Within A s) :
    Within (fun c q => A c q ∧ (c = none → q ≠ p)) (s.mscFlush cl p) := by
  unfold State.mscFlush
  split
  · next hf =>
    refine ⟨fun z hz => ⟨h.msc z hz, fun _ hp => ?_⟩, fun c z hz => ⟨h.l2 c z hz, fun hc => by cases hc⟩⟩
    exact absurd (beq_iff_eq.mpr hp) (by simpa using List.find?_eq_none.mp hf z hz)
  · next x hx =>
    have h1 : Within (fun c q => A c q ∧ (c = none → q ≠ p)) { s with mem := { s.mem with msc := s.mem.msc.filter (fun y => y.place != p) } } := by
      refine ⟨fun z hz => ?_, fun c z hz => ⟨h.l2 c z hz, fun hc => by cases hc⟩⟩
      obtain ⟨hz, hp⟩ := List.mem_filter.mp hz
      exact ⟨h.msc z hz, fun _ => bne_iff_ne.mp hp⟩
    exact Within.homeBack (ite_keeps h1 h1.cohHome)

theorem Within.mono {B : Option Nat → Place → Prop} (h : Within A s) (hAB : ∀ c p, A c p → B c p) : Within B s :=
  ⟨fun z hz => hAB _ _ (h.msc z hz), fun c z hz => hAB _ _ (h.l2 c z hz)⟩

theorem Within.mscFlush_keeps {cl : Option Nat} {p : Place} (h : Within A s) : Within A (s.mscFlush cl p) :=
  h.mscFlush.mono fun _ _ hA => hA.1

theorem Within.mscRoom {l : Place} (h : Within A s) : Within A (s.mscRoom l) := by
  unfold State.mscRoom
  dsimp only
  split
  · exact h
  · exact h.congr rfl rfl
  · exact foldl_keeps (fun _ _ hs => hs.mscFlush_keeps) (h.congr rfl rfl)

theorem Within.mscHold {p : Place} (h : Within A s) : Within A (s.mscHold p) :=
  foldl_keeps (fun _ _ hs => ite_keeps hs (hs.mscRoom.congr rfl rfl)) h

theorem PlacesFrom.putSec {l : List PSector} {x : PSector} {P : Place → Prop} (hx : P x.place) (hl : ∀ z ∈ l, P z.place) :
    ∀ z ∈ Machine.putSec l x, P z.place := by
  intro z hz
  rcases List.mem_cons.mp hz with rfl | hz
  · exact hx
  · exact hl z (List.mem_filter.mp hz).1

theorem Within.mscPut {x : PSector} (h : Within A s) (hx : A none x.place) : Within A (s.mscPut x) :=
  ⟨PlacesFrom.putSec hx h.mscRoom.msc, h.mscRoom.l2⟩

theorem MemSys.msc_poisonWrites (m : MemSys) (l : List (Nat × Bool × Nat)) : (l.foldl MemSys.poisonWrite m).msc = m.msc :=
  foldl_keeps (P := fun x : MemSys => x.msc = m.msc) (fun x u hx => by
    unfold MemSys.poisonWrite
    dsimp only
    split
    · exact hx
    · split <;> exact hx) rfl

/-- Where the MSC may hold every place, a write behind the L2 puts nothing where it may not be. -/
theorem Within.backWrite {x : PSector} {mask : BitVec 128} (hA : ∀ p, A none p) (h : Within A s) : Within A (s.backWrite x mask) := by
  have hs : Within A (if x.place.isHome then s else s.noteWait x.place) := ite_keeps h h.noteWait
  unfold State.backWrite
  dsimp only
  generalize (if x.place.isHome then s else s.noteWait x.place) = s at hs
  split
  · exact hs.congr (MemSys.msc_poisonWrites _ _) rfl
  · exact foldl_keeps (fun _ _ ht => ht.emberHit) (hs.congr (MemSys.msc_poisonWrites _ _) rfl)
  · exact ite_keeps hs (hs.mscPut (hA _))
  · exact hs

theorem Within.l2Set {cl : Nat} {x : PSector} (h : Within A s) (hx : A (some cl) x.place) : Within A (s.l2Set cl x) := by
  refine ⟨h.msc, fun c => ?_⟩
  by_cases hc : c = cl
  · subst hc
    rw [State.l2Set, State.cluster_modCluster]
    exact PlacesFrom.putSec hx (h.l2 c)
  · rw [State.l2Set, State.cluster_modCluster_ne _ _ hc]
    exact h.l2 c

theorem Within.of_l2Find {cl : Nat} {p : Place} {x : PSector} (h : Within A s) (hx : s.l2Find cl p = some x) : A (some cl) x.place :=
  h.l2 cl x (List.mem_of_find?_eq_some hx)

theorem Within.l2WriteBack {cl : Nat} {p : Place} (hA : ∀ p, A none p) (h : Within A s) : Within A (s.l2WriteBack cl p) := by
  unfold State.l2WriteBack
  split
  · exact h
  · next x hx =>
    have hp : A (some cl) x.place := h.of_l2Find hx
    have hset : Within A (s.l2Set cl { x with dirty := 0 }) := h.l2Set hp
    exact ite_keeps h (ite_keeps hset.forget.noteLost (ite_keeps hset.forget ((h.mscHold.backWrite hA).l2Set hp)))

/-- Writing back and dropping a sector of an L2 adds no place to an L2, and takes the sector's away. -/
theorem Within.l2Flush {cl : Nat} {p : Place} (hA : ∀ p, A none p) (h : Within A s) :
    Within (fun c q => A c q ∧ (c = some cl → q ≠ p)) (s.l2Flush cl p) := by
  have hw := h.l2WriteBack (cl := cl) (p := p) hA
  refine ⟨fun z hz => ⟨hA _, fun hc => by cases hc⟩, fun c z hz => ?_⟩
  rw [State.l2Flush, State.l2Drop] at hz
  by_cases hc : c = cl
  · subst hc
    rw [State.cluster_modCluster] at hz
    obtain ⟨hz, hp⟩ := List.mem_filter.mp hz
    exact ⟨hw.l2 c z hz, fun _ => bne_iff_ne.mp hp⟩
  · rw [State.cluster_modCluster_ne _ _ hc] at hz
    exact ⟨hw.l2 c z hz, fun he => absurd (Option.some.inj he) hc⟩

end

end Sys2Proof.Machine

/-! PROOFS. Extents come and go, and inbound requests are admitted by key. -/

namespace Sys2Proof

set_option Elab.async false

/-! ## Clearing, and the bytes of a number -/

/-- Clearing a range makes its keys read 0 and leaves every other. -/
theorem Store.get_clear {w : Nat} (lo hi k : Nat) : ∀ m : Store w, Store.get (Store.clear lo hi m) k = if lo ≤ k ∧ k < hi then 0 else Store.get m k
  | [] => by simp [Store.clear, Store.get]
  | (j, v) :: r => by
    have ih := Store.get_clear lo hi k r
    rw [Store.clear]
    split
    · next hj =>
      rw [ih]
      split
      · rfl
      · next hk =>
        have hne : j ≠ k := fun h => hk (h ▸ hj)
        rw [Store.get, if_neg hne]
    · next hj =>
      rw [Store.get, ih, Store.get]
      by_cases he : j = k
      · subst he
        rw [if_pos rfl, if_pos rfl, if_neg hj]
      · rw [if_neg he, if_neg he]

theorem leNat_byte : ∀ (l : List Byte) (i : Nat), i < l.length → leNat l / 2 ^ (8 * i) % 256 = (l.getD i 0).toNat
  | b :: r, 0, _ => by
    have hb := b.isLt
    rw [leNat, Nat.mul_zero, Nat.pow_zero, Nat.div_one, List.getD_cons_zero]
    omega
  | b :: r, i + 1, h => by
    have hb := b.isLt
    have hpow : 2 ^ (8 * (i + 1)) = 2 ^ 8 * 2 ^ (8 * i) := by rw [Nat.mul_succ, Nat.pow_add, Nat.mul_comm]
    rw [leNat, hpow, ← Nat.div_div_eq_div_mul, List.getD_cons_succ, ← leNat_byte r i (Nat.lt_of_succ_lt_succ h)]
    have hdiv : (b.toNat + 256 * leNat r) / 2 ^ 8 = leNat r := by omega
    rw [hdiv]

namespace Machine

/-! ## What is dropped of memory elsewhere -/

/-- Whether a place stands in a range of the memory elsewhere that a key names. -/
def Place.farIn (k base size : Nat) : Place → Bool
  | .home _ _ d a => homeKey d == k && decide (base ≤ a) && decide (a < base + size)
  | _ => false

theorem Place.farIn_iff {k base size : Nat} {p : Place} :
    p.farIn k base size = true ↔ ∃ tn pa d y, p = .home tn pa d y ∧ homeKey d = k ∧ base ≤ y ∧ y < base + size := by
  cases p <;> simp [Place.farIn, and_assoc]

section Drop
variable {A : Option Nat → Place → Prop} {s : State}

theorem Within.l2FlushAll {cl : Nat} : ∀ {l : List Place} {A : Option Nat → Place → Prop} {s : State}, (∀ p, A none p) → Within A s →
    Within (fun c q => A c q ∧ (c = some cl → q ∉ l)) (l.foldl (fun s p => s.l2Flush cl p) s)
  | [], _, _, _, h => h.mono fun _ _ hA => ⟨hA, fun _ => List.not_mem_nil⟩
  | p :: r, A, s, hA, h => by
    have hp := h.l2Flush (cl := cl) (p := p) hA
    refine (Within.l2FlushAll (l := r) (fun q => ⟨hA q, fun hc => by cases hc⟩) hp).mono fun c q hq => ?_
    obtain ⟨⟨hAq, hne⟩, hr⟩ := hq
    refine ⟨hAq, fun hc hmem => ?_⟩
    rcases List.mem_cons.mp hmem with he | hmem
    · exact hne hc he
    · exact hr hc hmem

theorem Within.mscFlushAll {cl : Option Nat} : ∀ {l : List Place} {A : Option Nat → Place → Prop} {s : State}, Within A s →
    Within (fun c q => A c q ∧ (c = none → q ∉ l)) (l.foldl (fun s p => s.mscFlush cl p) s)
  | [], _, _, h => h.mono fun _ _ hA => ⟨hA, fun _ => List.not_mem_nil⟩
  | p :: r, A, s, h => by
    refine (Within.mscFlushAll (l := r) (h.mscFlush (cl := cl) (p := p))).mono fun c q hq => ?_
    obtain ⟨⟨hAq, hne⟩, hr⟩ := hq
    refine ⟨hAq, fun hc hmem => ?_⟩
    rcases List.mem_cons.mp hmem with he | hmem
    · exact hne hc he
    · exact hr hc hmem

/-- What a cluster's L2 holds of some places is flushed from it. -/
theorem Within.clearL2 {cl : Nat} {m : Place → Bool} (hA : ∀ p, A none p) (h : Within A s) :
    Within (fun c q => A c q ∧ (c = some cl → m q = false)) ((s.l2Places cl (fun x => m x.place)).foldl (fun s p => s.l2Flush cl p) s) := by
  have hs : Within (fun c q => A c q ∧ (c = some cl → ∃ z ∈ (s.cluster cl).l2, z.place = q)) s :=
    ⟨fun z hz => ⟨h.msc z hz, fun hc => by cases hc⟩, fun c z hz => ⟨h.l2 c z hz, fun hc => by
      cases hc
      exact ⟨z, hz, rfl⟩⟩⟩
  refine (hs.l2FlushAll (l := s.l2Places cl (fun x => m x.place)) (fun p => ⟨hA p, fun hc => by cases hc⟩)).mono fun c q hq => ?_
  obtain ⟨⟨hAq, hin⟩, hout⟩ := hq
  refine ⟨hAq, fun hc => Bool.eq_false_iff.mpr fun hm => ?_⟩
  obtain ⟨z, hz, rfl⟩ := hin hc
  exact hout hc (List.mem_map.mpr ⟨z, List.mem_filter.mpr ⟨hz, hm⟩, rfl⟩)

theorem Within.clearL2s {m : Place → Bool} : ∀ {l : List Nat} {A : Option Nat → Place → Prop} {s : State}, (∀ p, A none p) → Within A s →
    Within (fun c q => A c q ∧ ∀ j ∈ l, c = some j → m q = false)
      (l.foldl (fun s c => (s.l2Places c (fun x => m x.place)).foldl (fun s p => s.l2Flush c p) s) s)
  | [], _, _, _, h => h.mono fun _ _ hA => ⟨hA, fun j hj => absurd hj List.not_mem_nil⟩
  | k :: r, A, s, hA, h => by
    refine (Within.clearL2s (l := r) (fun p => ⟨hA p, fun hc => by cases hc⟩) (h.clearL2 (cl := k) (m := m) hA)).mono fun c q hq => ?_
    obtain ⟨⟨hAq, hk⟩, hr⟩ := hq
    refine ⟨hAq, fun j hj hc => ?_⟩
    rcases List.mem_cons.mp hj with rfl | hj
    · exact hk hc
    · exact hr j hj hc

/-- The L2 of every cluster that has one is among those of the table. -/
theorem State.mem_keys_of_l2 {c : Nat} {z : PSector} (hz : z ∈ (s.cluster c).l2) : c ∈ Tab.keys s.clusters := by
  rw [State.cluster] at hz
  cases hf : Tab.find s.clusters c with
  | none =>
    rw [hf] at hz
    cases hz
  | some v => exact Tab.mem_keys_of_find hf

/-- After what stands here of a range elsewhere has been dropped, no L2 and no MSC holds any of it. -/
theorem Within.dropFar (s : State) (k base size : Nat) :
    Within (fun _ q => q.farIn k base size = false) (s.dropFar k base size) := by
  let s1 := ((s.copies (fun _ x => x.coh && x.place.farIn k base size)).map (·.place)).foldl (fun s p => s.cohHome none p) s
  let s2 := (Tab.keys s1.clusters).foldl (fun s c =>
    (s.l2Places c (fun x => x.place.farIn k base size)).foldl (fun s p => s.l2Flush c p) s) s1
  let s3 := ((s2.mem.msc.map (·.place)).filter (Place.farIn k base size)).foldl (fun s p => s.mscFlush none p) s2
  have hs1 : Within (fun c _ => ∀ j, c = some j → j ∈ Tab.keys s1.clusters) s1 :=
    ⟨fun z _ j hj => (by cases hj), fun c z hz j hj => by
      cases hj
      exact State.mem_keys_of_l2 hz⟩
  have hs2 := hs1.clearL2s (m := Place.farIn k base size) (l := Tab.keys s1.clusters) (fun p j hj => by cases hj)
  have hs2' : Within (fun c q => (∀ j, c = some j → q.farIn k base size = false) ∧ (c = none → ∃ z ∈ s2.mem.msc, z.place = q)) s2 := by
    refine ⟨fun z hz => ⟨fun j hj => (by cases hj), fun _ => ⟨z, hz, rfl⟩⟩, fun c z hz => ⟨fun j hj => ?_, fun hc => by cases hc⟩⟩
    cases hj
    obtain ⟨hkeys, hno⟩ := hs2.l2 c z hz
    exact hno c (hkeys c rfl) rfl
  have hs3 : Within (fun _ q => q.farIn k base size = false) s3 := by
    refine (hs2'.mscFlushAll (cl := none) (l := (s2.mem.msc.map (·.place)).filter (Place.farIn k base size))).mono fun c q hq => ?_
    obtain ⟨⟨hl2, hmsc⟩, hout⟩ := hq
    cases c with
    | some j => exact hl2 j rfl
    | none =>
      refine Bool.eq_false_iff.mpr fun hm => ?_
      obtain ⟨z, hz, rfl⟩ := hmsc rfl
      exact hout rfl (List.mem_filter.mpr ⟨List.mem_map.mpr ⟨z, hz, rfl⟩, hm⟩)
  exact hs3.congr (t := s.dropFar k base size) rfl rfl

/-- Nor does a core's cache. -/
theorem State.dropFar_cores {s : State} {k base size : Nat} {c : Nat × Core} (hc : c ∈ (s.dropFar k base size).cores) {z : VSector}
    (hz : z ∈ c.2.l1 ∨ z ∈ c.2.cc ∨ z ∈ c.2.ic) : z.place.farIn k base size = false := by
  unfold State.dropFar at hc
  obtain ⟨c0, -, rfl⟩ := List.mem_map.mp hc
  have keep : ∀ {l : List VSector}, z ∈ l.filter (fun x => !x.place.farIn k base size) → z.place.farIn k base size = false :=
    fun h => by simpa using (List.mem_filter.mp h).2
  rcases hz with hz | hz | hz
  · exact keep hz
  · exact keep hz
  · exact keep hz

end Drop

/-! ## A write that arrives for local memory -/

section Arrive
variable {s : State}

theorem stackOf_within {a i : Nat} (h : a % 128 + i < 128) : stackOf (a + i) = stackOf a := by
  rw [← stackOf_sector (a + i), ← stackOf_sector a]
  congr 1
  omega

/-- The state after a piece of a write that arrives. -/
def State.inPiece (s : State) (bad : Bool) (a k : Nat) (bs : List Byte) : State :=
  if s.dev.stands a then
    (s.backWrite ⟨.loc (a / 128 * 128), 0, 0, false, secPut 0 (a % 128) k (leNat (bs.take k)), 0, 0, wirePoison bad⟩
      (byteMask (a % 128) k)).emberHit (.loc a) k
  else s

theorem State.inPiece_dev {bad : Bool} {a k : Nat} {bs : List Byte} : (s.inPiece bad a k bs).dev = s.dev := by
  have h : SameTables s (s.inPiece bad a k bs) :=
    ite_keeps ((SameTables.ignoresMemory s).hit _ _ ((SameTables.ignoresMemory s).backWrite (.refl s))) (.refl s)
  exact h.dev

theorem State.inPiece_loc {bad : Bool} {a k : Nat} {bs : List Byte} : (s.inPiece bad a k bs).mem.loc =
    if s.dev.stands a then s.mem.loc.setAll (maskedBytes (a - a % 128) (secPut 0 (a % 128) k (leNat (bs.take k))) (byteMask (a % 128) k))
    else s.mem.loc := by
  have ha : a / 128 * 128 = a - a % 128 := by omega
  unfold State.inPiece
  split
  · rw [← ha]
    exact State.backWrite_loc rfl
  · rfl

/-- What one piece leaves: its own bytes where their stack is ready, and no other byte changed. -/
theorem State.inPiece_get {bad : Bool} {a k : Nat} {bs : List Byte} (hm : Store.wf s.mem.loc = true) (hfit : a % 128 + k ≤ 128)
    (hk : k ≤ bs.length) :
    (∀ y, (y < a ∨ a + k ≤ y ∨ s.dev.stands y = false) → (s.inPiece bad a k bs).mem.loc.get y = s.mem.loc.get y) ∧
    (∀ i, i < k → s.dev.stands (a + i) = true → (s.inPiece bad a k bs).mem.loc.get (a + i) = bs.getD i 0) := by
  have same (i : Nat) (hi : i < k) : s.dev.stands (a + i) = s.dev.stands a := by
    rw [Dev.stands, Dev.stands, stackOf_within (by omega)]
  rw [State.inPiece_loc]
  refine ⟨fun y hy => ?_, fun i hi hst => ?_⟩
  · split
    · next hst =>
      refine get_setAll_maskedBytes ?_
      rcases hy with hy | hy | hy
      · exact Or.inl hy
      · exact Or.inr hy
      · by_contra hin
        have hi := same (y - a) (by omega)
        rw [show a + (y - a) = y by omega, hy, hst] at hi
        cases hi
    · rfl
  · rw [if_pos ((same i hi).symm.trans hst)]
    apply BitVec.eq_of_toNat_eq
    have hlen : (bs.take k).length = k := by rw [List.length_take, Nat.min_eq_left hk]
    rw [get_setAll_maskedBytes_stored hm hfit hi, leNat_byte _ _ (hlen.symm ▸ hi), List.getD_eq_getElem?_getD, List.getElem?_take,
      if_pos hi, List.getD_eq_getElem?_getD]

theorem State.inPiece_wf {bad : Bool} {a k : Nat} {bs : List Byte} (hm : Store.wf s.mem.loc = true) :
    Store.wf (s.inPiece bad a k bs).mem.loc = true := by
  rw [State.inPiece_loc]
  split
  · exact Store.wf_setAll _ _ hm
  · exact hm

/-- An admitted write leaves its bytes at their addresses, where their stack is ready, and no other byte changed. -/
theorem State.inWrite_get {bad : Bool} : ∀ {fuel : Nat} {s : State} {a : Nat} {bs : List Byte}, bs.length < fuel → Store.wf s.mem.loc = true →
    (∀ y, (y < a ∨ a + bs.length ≤ y ∨ s.dev.stands y = false) → (s.inWrite bad a fuel bs).mem.loc.get y = s.mem.loc.get y) ∧
    (∀ i, i < bs.length → s.dev.stands (a + i) = true → (s.inWrite bad a fuel bs).mem.loc.get (a + i) = bs.getD i 0)
  | 0, _, _, _, h, _ => absurd h (Nat.not_lt_zero _)
  | fuel + 1, s, a, bs, h, hm => by
    rw [State.inWrite]
    split
    · next he =>
      rw [List.isEmpty_iff] at he
      subst he
      exact ⟨fun _ _ => rfl, fun i hi => absurd hi (Nat.not_lt_zero i)⟩
    · next he =>
      have hpos : 0 < bs.length := List.length_pos_iff.mpr fun h0 => he (List.isEmpty_iff.mpr h0)
      extract_lets k x s1
      have hk : k ≤ bs.length := Nat.min_le_left _ _
      have hfit : a % 128 + k ≤ 128 := by omega
      have hk0 : 0 < k := by omega
      have hs1 : s1 = s.inPiece bad a k bs := rfl
      obtain ⟨hout, hin⟩ := State.inPiece_get (bad := bad) hm hfit hk
      have hlen : (bs.drop k).length = bs.length - k := List.length_drop
      obtain ⟨hrout, hrin⟩ := State.inWrite_get (bad := bad) (fuel := fuel) (s := s1) (a := a + k) (bs := bs.drop k) (by omega)
        (State.inPiece_wf hm)
      rw [hs1, State.inPiece_dev, hlen] at hrout hrin
      rw [hs1]
      refine ⟨fun y hy => ?_, fun i hi hst => ?_⟩
      · have hfirst : y < a ∨ a + k ≤ y ∨ s.dev.stands y = false := by
          rcases hy with hy | hy | hy
          · exact Or.inl hy
          · exact Or.inr (Or.inl ((Nat.add_le_add_left hk a).trans hy))
          · exact Or.inr (Or.inr hy)
        have hrest : y < a + k ∨ a + k + (bs.length - k) ≤ y ∨ s.dev.stands y = false := by
          rcases hy with hy | hy | hy
          · exact Or.inl (hy.trans_le (Nat.le_add_right a k))
          · exact Or.inr (Or.inl (by rwa [Nat.add_assoc, Nat.add_sub_cancel' hk]))
          · exact Or.inr (Or.inr hy)
        rw [hrout y hrest, hout y hfirst]
      · by_cases hik : i < k
        · rw [hrout (a + i) (Or.inl (Nat.add_lt_add_left hik a)), hin i hik hst]
        · have hki : k ≤ i := Nat.le_of_not_lt hik
          have hai : a + k + (i - k) = a + i := by rw [Nat.add_assoc, Nat.add_sub_cancel' hki]
          have hr := hrin (i - k) (Nat.sub_lt_sub_right hki hi) (by rwa [hai])
          rw [hai] at hr
          rw [hr, List.getD_eq_getElem?_getD, List.getElem?_drop, Nat.add_sub_cancel' hki, List.getD_eq_getElem?_getD]

end Arrive

/-! ## Extents -/

section Extents
variable {s : State} {tenant base size : Nat} {home : WinKind × Nat}

theorem extentOk_of (h0 : base % 2 ^ 28 = 0) (h1 : size % 2 ^ 28 = 0) (h2 : size ≠ 0) : extentOk base size = true := by
  rw [extentOk, extentUnit, h0, h1, bne_iff_ne.mpr h2]
  rfl

/-- A range that meets none of some lists of blocks is taken by none. -/
theorem any_any_eq_false {α β : Type} {l : List α} {f : α → List β} {q : β → Bool} (h : ∀ x ∈ l, ∀ b ∈ f x, q b = false) :
    l.any (fun x => (f x).any q) = false := by
  rw [List.any_eq_false]
  intro x hx
  rw [Bool.not_eq_true, List.any_eq_false]
  exact fun b hb => Bool.not_eq_true _ ▸ h x hx b hb

theorem execExtentAdd_here (hfit : s.dev.fitting = .l900) (ht : tenant < 16) (hok : extentOk base size = true)
    (hpop : base + size ≤ s.dev.populated) (hcount : (s.tenant tenant).extents.length < 1024)
    (hfree : ∀ x ∈ s.kiln.tenants, ∀ b ∈ x.2.ranges, blocksMeet (base, size) b = false) :
    exec (.extentAdd tenant ⟨none, base⟩ size) s = .next ((s.declareDead base size).modTenant tenant (fun t => { t with
        extents := t.extents ++ [(base, size)]
        ranges := t.ranges ++ [(base, size)]
        released := t.released.filter (fun b => !blocksMeet b (base, size)) })) := by
  show execExtentAdd tenant ⟨none, base⟩ size s = _
  have htaken := any_any_eq_false (f := fun y : Nat × Tenant => y.2.ranges) hfree
  have h1 : ¬(16 ≤ tenant ∨ (!extentOk base size) = true) := by
    rw [hok]
    simpa using ht
  have h2 : ¬(s.dev.fitting ≠ .l900 ∨ s.dev.populated < base + size ∨ 1024 ≤ (s.tenant tenant).extents.length ∨
      (s.kiln.tenants.any (fun y => y.2.ranges.any (blocksMeet (base, size)))) = true) := by
    rw [htaken]
    simp only [hfit, ne_eq, not_true_eq_false, Bool.false_eq_true, or_false, false_or, not_or, not_lt, not_le]
    exact ⟨hpop, hcount⟩
  unfold execExtentAdd
  dsimp only
  rw [if_neg h1, if_neg h2]

theorem execExtentAdd_other (hfit : s.dev.fitting ≠ .l900) : exec (.extentAdd tenant ⟨none, base⟩ size) s = .next s := by
  show execExtentAdd tenant ⟨none, base⟩ size s = _
  unfold execExtentAdd
  dsimp only
  rw [if_pos (Or.inl hfit), ite_self]

theorem execExtentAdd_there (ht : tenant < 16) (hok : extentOk base size = true)
    (hcount : ((s.tenant tenant).away.filter (fun z => z.1 == farKey home)).length < 1024)
    (hfree : ∀ x ∈ s.kiln.tenants, ∀ z ∈ x.2.away, z.1 = farKey home → blocksMeet z.2 (base, size) = false) :
    exec (.extentAdd tenant ⟨some home, base⟩ size) s =
      .next (((s.dropFar (farKey home) base size).farDead (farKey home) base size).modTenant tenant (fun t => { t with
        away := t.away ++ [(farKey home, (base, size))]
        gone := t.gone.filter (fun z => !(z.1 == farKey home && blocksMeet z.2 (base, size))) })) := by
  show execExtentAdd tenant ⟨some home, base⟩ size s = _
  have htaken := any_any_eq_false (f := fun y : Nat × Tenant => y.2.away)
    (q := fun z => z.1 == farKey home && blocksMeet z.2 (base, size)) (l := s.kiln.tenants) fun x hx z hz => by
      rw [Bool.and_eq_false_imp, beq_iff_eq]
      exact hfree x hx z hz
  have h1 : ¬(16 ≤ tenant ∨ (!extentOk base size) = true) := by
    rw [hok]
    simpa using ht
  unfold execExtentAdd
  dsimp only
  rw [if_neg h1, if_neg (by
    rw [htaken]
    simpa using hcount)]

/-- A launch of a packet that names an extent of a tenant. -/
def State.namesExtent (s : State) (tenant base : Nat) : Prop :=
  ∃ l ∈ s.kiln.launches, ∃ b es, l.2.source = .packet b es ∧ base ∈ es ∧ ∃ c, s.ctx l.2.record.ctx = some c ∧ c.tenant = tenant

theorem namesExtent_iff (ht : tenant < 16) : (s.kiln.launches.any (fun l => match l.2.source with
      | .packet _ es => es.contains base && ((s.ctx l.2.record.ctx).map (·.tenant)).getD 16 == tenant
      | _ => false)) = true ↔ s.namesExtent tenant base := by
  rw [List.any_eq_true]
  refine exists_congr fun l => and_congr_right fun _ => ?_
  cases hs : l.2.source with
  | packet b es =>
    simp only [Bool.and_eq_true, List.contains_iff_mem, beq_iff_eq, Source.packet.injEq]
    constructor
    · rintro ⟨hm, hc⟩
      refine ⟨b, es, ⟨rfl, rfl⟩, hm, ?_⟩
      cases hctx : s.ctx l.2.record.ctx with
      | none =>
        rw [hctx] at hc
        exact absurd hc (Nat.ne_of_gt ht)
      | some c =>
        rw [hctx] at hc
        exact ⟨c, rfl, hc⟩
    · rintro ⟨_, _, ⟨-, rfl⟩, hm, c, hc, hct⟩
      rw [hc]
      exact ⟨hm, hct⟩
  | _ =>
    constructor
    · intro h
      cases h
    · rintro ⟨_, _, h, -⟩
      cases h

theorem State.answerRelease_wait {x : Nat × Nat} (hx : (s.tenant tenant).releasing.find? (fun y => y.1 == base) = some x)
    (h : s.accessesOpen tenant = true ∨ (tenant < 16 ∧ s.namesExtent tenant base)) : s.answerRelease tenant base = s := by
  unfold State.answerRelease
  rw [hx]
  refine if_pos ?_
  rw [Bool.or_eq_true]
  rcases h with h | ⟨ht, hn⟩
  · exact Or.inr h
  · exact Or.inl ((namesExtent_iff ht).mpr hn)

theorem State.answerRelease_done {x : Nat × Nat} (hx : (s.tenant tenant).releasing.find? (fun y => y.1 == base) = some x)
    (ht : tenant < 16) (ho : s.accessesOpen tenant = false) (hn : ¬s.namesExtent tenant base) : s.answerRelease tenant base =
      ((s.kiln.sessions.filter (fun y => y.2.tenant == tenant && y.2.extent == base)).map (fun y => y.1)).foldl
          (fun s n => s.dropSession n) ((s.declareDead x.1 x.2).modTenant tenant (fun t => { t with
            extents := t.extents.filter (fun y => y != x)
            ranges := t.ranges.filter (fun y => y != x)
            releasing := t.releasing.filter (fun y => y != x)
            released := t.released ++ [x] })) := by
  unfold State.answerRelease
  rw [hx]
  refine if_neg ?_
  rw [Bool.or_eq_true, ho]
  rintro (h | h)
  · exact hn ((namesExtent_iff ht).mp h)
  · cases h

theorem execExtentRelease_here {x : Nat × Nat} (hx : (s.tenant tenant).extents.find? (fun y => y.1 == base) = some x) :
    exec (.extentRelease tenant ⟨none, base⟩) s = .next (s.modTenant tenant (fun t =>
        if t.releasing.contains x then t else { t with releasing := t.releasing ++ [x] })) := by
  show execExtentRelease tenant ⟨none, base⟩ s = _
  unfold execExtentRelease
  dsimp only
  rw [hx]

theorem execExtentReleaseAnswer_there {z : Nat × Nat × Nat}
    (hz : (s.tenant tenant).away.find? (fun y => y.1 == farKey home && y.2.1 == base) = some z) :
    exec (.extentReleaseAnswer tenant ⟨some home, base⟩) s =
      .next (((s.modTenant tenant (fun t => { t with away := t.away.filter (fun y => y != z), gone := t.gone ++ [z] })).dropFar
        z.1 z.2.1 z.2.2).farDead z.1 z.2.1 z.2.2) := by
  show execExtentReleaseAnswer tenant ⟨some home, base⟩ s = _
  unfold execExtentReleaseAnswer
  dsimp only
  rw [hz]

end Extents

/-! ## Requests for members of a span -/

section Members
variable {s : State} {k : SpanMsg}

theorem mem_spanOfKey {y : Nat × Group} (h : y ∈ s.spanOfKey k) :
    ∃ l, s.launch y.2.launch = some l ∧ l.record.spanId = spanIdOf k.ctx k.key ∧ s.keyFits k.ctx k.pkey = true := by
  unfold State.spanOfKey at h
  split at h
  · cases h
  · next hc =>
    obtain ⟨-, hl⟩ := List.mem_filter.mp h
    obtain ⟨l, hl, hid⟩ := Option.any_eq_true _ _ |>.mp hl
    refine ⟨l, hl, beq_iff_eq.mp hid, ?_⟩
    by_contra hk
    exact hc (Or.inr (Or.inr (by simpa using hk)))

end Members

/-- Settles O45. -/
theorem extentsAndInbound : Obligations.ExtentsAndInbound := by
  intro s tenant base size home key a data bad t here there far inside
  have far_iff (p : Place) : ¬inside p ↔ p.farIn far base size = false := by
    rw [← Bool.not_eq_true, Place.farIn_iff]
  have quiet (r : InReq) (h : s.linkWaits = false) : s.arrivalWaits r = false := by
    unfold State.arrivalWaits
    rw [h, Bool.false_and]
  have request (r : InReq) : exec (.inboundRequest r) s = .next (if s.arrivalWaits r then s.hold else s.inbound r) := rfl
  refine ⟨fun hf ht h0 h1 h2 hp hc hfree => execExtentAdd_here hf ht (extentOk_of h0 h1 h2) hp hc hfree, execExtentAdd_other,
    fun ht h0 h1 h2 hc hfree => execExtentAdd_there ht (extentOk_of h0 h1 h2) hc hfree, fun x hx _ => execExtentRelease_here hx, rfl,
    fun x hx => ⟨fun ho => congrArg _ (State.answerRelease_wait hx (Or.inl ho)), ?_⟩, fun z hz => execExtentReleaseAnswer_there hz,
    ⟨fun c z hz => (far_iff _).mpr ((Within.dropFar s far base size).l2 c z hz),
      fun z hz => (far_iff _).mpr ((Within.dropFar s far base size).msc z hz),
      fun c hc z hz => (far_iff _).mpr (State.dropFar_cores hc hz)⟩,
    fun _ y => Store.get_clear base (base + size) y _, fun m hm _ => ⟨_, ?_, fun y => Store.get_clear base (base + size) y m⟩,
    request, fun r h => quiet r h, fun hq => ?_⟩
  · intro named
    exact ⟨fun ht hn => congrArg _ (State.answerRelease_wait hx (Or.inr ⟨ht, hn⟩)),
      fun ht ho hn => congrArg _ (State.answerRelease_done hx ht ho hn)⟩
  · show Tab.find (Tab.modify s.mem.homes far _) far = _
    rw [Tab.find_modify_self, hm, Option.map_some]
  · have go (r : InReq) : exec (.inboundRequest r) s = .next (s.inbound r) := by
      rw [request, quiet r hq]
      rfl
    refine ⟨fun hno => ?_, fun hm => ?_, go _, fun k m g y rest hk => ?_, fun k m hk => ?_, fun k y hy => mem_spanOfKey hy,
      fun k m off g hk hfit => ?_⟩
    · rw [go]
      refine congrArg _ (if_neg ?_)
      rw [Bool.and_eq_true]
      rintro ⟨hb, ha⟩
      rcases hno with h | h
      · rw [h] at ha
        cases ha
      · rw [h] at hb
        cases hb
    · refine ⟨_, go _, fun y => ?_⟩
      obtain ⟨hout, hin⟩ := State.inWrite_get (bad := bad) (s := s) (a := a) (bs := data) (Nat.lt_succ_self _) hm
      show (_ → (if (s.dev.busUp && s.admits key a data.length) = true then s.inWrite bad a (data.length + 1) data else s).mem.loc.get y = _) ∧
        (∀ i, _ → _ → _ → _ → (if (s.dev.busUp && s.admits key a data.length) = true then s.inWrite bad a (data.length + 1) data
          else s).mem.loc.get (a + i) = _)
      refine ⟨fun hy => ?_, fun i hb ha hi hst => ?_⟩
      · split
        · exact hout y hy
        · rfl
      · rw [if_pos (by rw [hb, ha]; rfl)]
        exact hin i hi hst
    · rw [go]
      show Host.Outcome.next (s.remoteSays k m _) = _
      rw [State.remoteSays, hk]
    · rw [go]
      show Host.Outcome.next (s.remoteSays k m _) = _
      rw [State.remoteSays, hk]
    · rw [go]
      show Host.Outcome.next (match s.inMember k m with | some g => _ | none => s) = _
      rw [hk]
      exact congrArg _ (if_pos hfit)

end Machine

end Sys2Proof

-- ==== Sys2Proof/Proofs/Issues.lean ====
section
/-! PROOF. Long-latency issue where the checks pass, with or without lanes: tasks and system operations (O23, O36). -/

namespace Sys2Proof.Machine

set_option Elab.async false

/-! ## Issue with or without lanes -/

/-- A long-latency instruction whose check passes is begun. -/
theorem issueLong_begins {i : Instr} {g : Guard} {fs : FlagSel} {caps dsts : List (Opd × Nat)} {s : State}
    {pre : Env → Except Bad State} {e : Env} (h : Issues s g fs dsts caps e) (hp : pre e = .ok s) :
    issueLong i g fs caps dsts s (fun _ => false) pre = .next (s.begun e i fs caps dsts) := by
  by_cases hn : e.part = 0
  · have hn' : e.part = 0#32 := hn
    simp [issueLong, issueWith, h.env, h.guard, h.free, h.flag, hp, State.begun, hn']
  · rw [issueLong_issues h hp hn, State.begun, if_neg hn]

/-- A check that fails stops the wave, whatever the sources hold. -/
theorem issueLong_stops {i : Instr} {g : Guard} {fs : FlagSel} {caps dsts : List (Opd × Nat)} {s : State}
    {pre : Env → Except Bad State} {rd : Env → W32} {e : Env} {b : Bad} (h : Executes s g dsts e)
    (hf : e.w.flagFull e.sl (e.flag fs) = false) (hp : pre e = .error b) :
    issueLong i g fs caps dsts s (fun _ => false) pre rd = .next (s.stopAt e (e.flag fs) b) := by
  simp [issueLong, issueWith, h.env, h.guard, h.free, hf, hp]

/-- No lane's operand is bad where every participating lane's passes. -/
theorem Env.badLane_none {e : Env} {o : Opd} {p : Nat → Bool}
    (h : ∀ l, e.part.getLsbD l = true → p (e.w.rdq o l).toNat = false) : e.badLane o p = none := by
  unfold Env.badLane
  rw [List.find?_eq_none]
  intro l hl
  simp [h l ((mem_bitsOf _ _).mp hl)]

end Sys2Proof.Machine

namespace Sys2Proof.Proofs.Issues

open Sys2Proof.Machine

/-! ## Tasks -/

/-- A record that is misaligned, or that a lower lane names too, is illegal. -/
theorem spawnCheck_refuses {s : State} {ag : Agent} {o : Op} {l k : Nat} (h : (o.val64 0 l).toNat % 64 ≠ 0 ∨
    (k < l ∧ o.lanes.getLsbD k = true ∧ o.val64 0 k = o.val64 0 l)) :
    s.spawnCheck ag o l = .error (illegalIn 0x0F 1 l) := by
  have hc : (o.val64 0 l).toNat % 64 ≠ 0 ∨
      (bitsOf o.lanes).any (fun k => decide (k < l) && o.val64 0 k == o.val64 0 l) = true := by
    refine h.imp_right ?_
    rintro ⟨hk, hb, he⟩
    exact List.any_eq_true.mpr ⟨k, (mem_bitsOf _ _).mpr hb, by simp [hk, he]⟩
  unfold State.spawnCheck
  exact if_pos hc

/-- Settles O23: the operations of group TASK are issued where their check of alignment passes, and the check of a spawned
record looks at its alignment and at the lower lanes first. -/
theorem taskOperationsIssue : Obligations.TaskOperationsIssue := by
  unfold Obligations.TaskOperationsIssue
  refine ⟨?_, fun s ag o l k h => spawnCheck_refuses h⟩
  intro s g d a b form o sc fs e aligned
  have pass (ha : aligned) : e.badLane b (fun x => x % 16 != 0) = none :=
    Env.badLane_none (fun l hl => by simp [ha l hl])
  refine ⟨fun h => (exec_spawn ..).trans (issueLong_begins h rfl), fun h => (exec_launch ..).trans (issueLong_begins h rfl),
    fun h hf => (exec_qpush ..).trans (issueLong_begins h ?_), fun h ha => (exec_qpop ..).trans (issueLong_begins h ?_)⟩
  · by_cases hr : form = .rsv
    · simp [hr]
    · simp [hr, pass (hf.resolve_left hr)]
  · simp [pass ha]

/-! ## System operations -/

/-- Settles O36: each check of the leader's operands passes under the statement's premises, and a scan is refused a context that
may not manage the device. -/
theorem systemOperationsIssue : Obligations.SystemOperationsIssue := by
  unfold Obligations.SystemOperationsIssue
  intro s g d a b c op ty rnd sat inv fs e l hl mgmt n x
  have hn := Env.part_ne_zero hl
  refine ⟨fun hlow h => ⟨?_, ?_⟩, fun h _ hf => ?_, fun h hm => ⟨fun hr => ?_, ?_⟩, fun h hm => ?_, fun h hc h64 hlow => ?_⟩
  · exact (exec_cctl ..).trans (issueLong_leads h (by rw [hl]; exact if_neg (Nat.not_le.mpr hlow)) hn)
  · exact (exec_tlbinv ..).trans (issueLong_leads h (by rw [hl]; exact if_neg (Nat.not_le.mpr hlow)) hn)
  · refine (exec_probe ..).trans ?_
    unfold execProbe issueLong
    exact issueWith_issues h hf rfl rfl (Wave.poisonLane_none _ _) hn
  · have hin : ¬(191 < n ∧ n ≠ 0xFFFFFFFF) := by omega
    have hm' : ((s.ctx e.ag.ctx).map (·.mgmt)).getD false = true := hm
    refine (exec_scanStart ..).trans (issueLong_leads h ?_ hn)
    have : s.scanBad e (some n) = none := by
      simp only [State.scanBad, hl, hm']
      simpa using hin
    simp only [hl, Option.map_some]
    rw [this]
  · have hm' : ((s.ctx e.ag.ctx).map (·.mgmt)).getD false = true := hm
    refine (exec_scanPoll ..).trans (issueLong_leads h ?_ hn)
    simp [State.scanBad, hl, hm']
  · have hm' : ((s.ctx e.ag.ctx).map (·.mgmt)).getD false = false := hm
    refine (exec_scanPoll ..).trans (issueLong_stops h.toExecutes h.flag ?_)
    simp [State.scanBad, hl, hm']
  · refine (exec_cvtHad ..).trans (issueLong_leads h ?_ hn)
    rw [hl]
    dsimp only
    rw [if_neg (by simpa using h64), if_neg (Nat.not_le.mpr hlow), hc]

end Sys2Proof.Proofs.Issues
end

