-- ==== Sys2Proof/Proofs/Accesses.lean ====
section
/-! PROOF. Memory accesses at issue: where they are begun (O15), and what an atomic leaves in memory (O19). -/

namespace Sys2Proof.Machine

set_option Elab.async false

/-! ## Memory accesses -/

/-- The operand fields that stand first among the captured ones of a memory instruction, as its lanes' addresses read them. -/
theorem val64_zero {e : Env} {i : Instr} {f : Option Nat} {a : Opd} {caps dsts : List (Opd × Nat)} {l : Nat}
    (hl : e.part.getLsbD l = true) : (e.op i 0 f ((a, 2) :: caps) dsts).val64 0 l = e.w.rdq a l := by
  rw [Op.val64, Env.op_val e i 0 f _ _ 0 l (a, 2) rfl hl]
  simp [Wave.rdk]

theorem val32_zero {e : Env} {i : Instr} {f : Option Nat} {a : Opd} {caps dsts : List (Opd × Nat)} {l : Nat}
    (hl : e.part.getLsbD l = true) : (e.op i 0 f ((a, 1) :: caps) dsts).val32 0 l = e.w.rd a l := by
  rw [Op.val32, Env.op_val e i 0 f _ _ 0 l (a, 1) rfl hl]
  simp [Wave.rdk]

theorem val32_one {e : Env} {i : Instr} {f : Option Nat} {x : Opd × Nat} {b : Opd} {caps dsts : List (Opd × Nat)} {l : Nat}
    (hl : e.part.getLsbD l = true) : (e.op i 0 f (x :: (b, 1) :: caps) dsts).val32 1 l = e.w.rd b l := by
  rw [Op.val32, Env.op_val e i 0 f _ _ 1 l (b, 1) rfl hl]
  simp [Wave.rdk]

/-- A lane's address lies outside the space of its access, or in GLAZE space where FAR forbids that. -/
def Outside (s : State) (e : Env) (a : Acc) (x : Nat) : Prop :=
  s.outside e.w.group a x = true ∨ s.farAlias e.ag a x = true

/-- No illegal use where every lane's address is aligned and inside. -/
theorem accBad_none {s : State} {e : Env} {o : Op} {a : Acc} (h : ∀ l, o.lanes.getLsbD l = true →
    o.addr l % a.n = 0 ∧ ¬Outside s e a (o.addr l)) : s.accBad e o a = none := by
  have h1 : (bitsOf o.lanes).find? (fun l => o.addr l % a.n != 0) = none := by
    rw [List.find?_eq_none]
    intro l hl
    simp [(h l ((mem_bitsOf _ _).mp hl)).1]
  have h2 : (bitsOf o.lanes).find? (fun l => s.outside e.w.group a (o.addr l) || s.farAlias e.ag a (o.addr l)) = none := by
    rw [List.find?_eq_none]
    intro l hl
    simpa [Outside] using (h l ((mem_bitsOf _ _).mp hl)).2
  unfold State.accBad
  simp only [h1, h2]

/-- A scope that is not capped passes the ceiling. -/
theorem ceiling_uncapped {s : State} {e : Env} {sc : Scope} (h : s.uncapped e sc) (d : Nat) : s.ceiling e sc d = .ok s := by
  unfold State.ceiling
  split
  · rfl
  · rename_i c hc
    refine if_neg fun hx => ?_
    obtain ⟨hs, hcap, -⟩ := hx
    rw [h hs c hc] at hcap
    cases hcap

/-- The check of a memory instruction at issue, where its addresses are legal: the ceiling, then the path. -/
def State.accCheck (s : State) (e : Env) (o : Op) (a : Acc) : Except Bad State :=
  if a.space = .const then .ok s
  else match s.ceiling e a.scope 0 with
    | .error b => .error b
    | .ok t => match s.pathBad e.ag o a with
      | some b => .error b
      | none => .ok t

/-- A memory instruction is checked lane by lane, and then by ceiling and path. -/
theorem issueMem_eq {i : Instr} {a : Acc} (ha : accOf i = some a) (g : Guard) (fs : FlagSel) (caps dsts : List (Opd × Nat))
    (s : State) : issueMem i g fs caps dsts s = issueLong i g fs caps dsts s (fun _ => false) (fun e =>
      match s.accBad e (e.op i 0 none caps dsts) a with
      | some b => .error b
      | none => s.accCheck e (e.op i 0 none caps dsts) a) := by
  unfold issueMem
  rw [ha]
  rfl

/-- An access below the ceiling, on a path that performs it, passes. -/
theorem accCheck_passes {s : State} {e : Env} {o : Op} {a : Acc} (hc : a.space ≠ .const → s.uncapped e a.scope)
    (hp : s.pathBad e.ag o a = none) : s.accCheck e o a = .ok s := by
  unfold State.accCheck
  split
  · rfl
  · rename_i hs
    rw [ceiling_uncapped (hc hs) 0]
    dsimp only
    rw [hp]

/-- The path of a global atomic performs it in every lane. -/
theorem pathBad_none {s : State} {ag : Agent} {o : Op} {a : Acc} (h : ∀ l, o.lanes.getLsbD l = true → ∀ p at_,
    s.translate ag (o.addr l) .write = .ok (p, at_) → s.atomErr ag o.instr p (o.addr l) = none) : s.pathBad ag o a = none := by
  unfold State.pathBad
  split
  · rfl
  · rw [List.findSome?_eq_none_iff]
    intro l hl
    split
    · rfl
    · rename_i p at_ ht
      rw [h l ((mem_bitsOf _ _).mp hl) p at_ ht]
      rfl

/-! ### Addresses, instruction by instruction (R257) -/

/-- The address of a global access, of a scratchpad or window access, and of a `gather`. -/
def globAddr (e : Env) (a b : Opd) (l : Nat) : Nat := (e.w.rdq a l + (e.w.rd b l).signExtend 64).toNat
def nearAddr (e : Env) (a b : Opd) (l : Nat) : Nat := (e.w.rd a l + e.w.rd b l).toNat
def leadAddr (e : Env) (a b : Opd) (l : Nat) : Nat :=
  (e.w.rdq a (e.leader.getD 0) + (e.w.rd b l).signExtend 64).toNat

/-- The instructions that form their address from a base and an offset of the same lane. -/
def basePlusOffset (i : Instr) : Bool :=
  match i with
  | .gather .. | .rmwCas .. => false
  | _ => true

/-- The address of an access whose base and offset are of one lane. -/
theorem addr_basePlusOffset {o : Op} {x : Acc} (hb : basePlusOffset o.instr = true) (hx : accOf o.instr = some x) (l : Nat) :
    o.addr l = if x.space = .glob ∨ x.space = .const then (o.val64 0 l + (o.val32 1 l).signExtend 64).toNat
      else (o.val32 0 l + o.val32 1 l).toNat := by
  unfold Op.addr
  split
  · rename_i hi
    rw [hi] at hb
    cases hb
  · rename_i hi
    rw [hi] at hb
    cases hb
  · rw [hx]

section
variable {e : Env} {g : Guard} {d a b c : Opd} {f : Option Nat} {caps dsts : List (Opd × Nat)} {l : Nat} {x : Acc}

theorem addr_glob {i : Instr} (hb : basePlusOffset i = true) (hx : accOf i = some x)
    (hs : x.space = .glob ∨ x.space = .const) (hl : e.part.getLsbD l = true) :
    (e.op i 0 f ((a, 2) :: (b, 1) :: caps) dsts).addr l = globAddr e a b l := by
  rw [addr_basePlusOffset hb hx, if_pos hs, val64_zero hl, val32_one hl, globAddr]

theorem addr_near {i : Instr} (hb : basePlusOffset i = true) (hx : accOf i = some x)
    (hs : ¬(x.space = .glob ∨ x.space = .const)) (hl : e.part.getLsbD l = true) :
    (e.op i 0 f ((a, 1) :: (b, 1) :: caps) dsts).addr l = nearAddr e a b l := by
  rw [addr_basePlusOffset hb hx, if_neg hs, val32_zero hl, val32_one hl, nearAddr]

theorem addr_gather {m : MemMods} (hl : e.part.getLsbD l = true) :
    (e.op (.gather g d a b m) 0 f ((a, 2) :: (b, 1) :: caps) dsts).addr l = leadAddr e a b l := by
  obtain ⟨k, hk⟩ := Option.isSome_iff_exists.mp (List.isSome_head?.mpr (List.ne_nil_of_mem ((mem_bitsOf _ _).mpr hl)))
  have hp : e.part.getLsbD k = true := (mem_bitsOf _ _).mp (List.mem_of_head? hk)
  have hlead : (e.op (.gather g d a b m) 0 f ((a, 2) :: (b, 1) :: caps) dsts).leader = k := by
    show (bitsOf e.part).headD 0 = k
    rw [List.headD_eq_head?_getD, show (bitsOf e.part).head? = some k from hk]
    rfl
  show ((e.op (.gather g d a b m) 0 f ((a, 2) :: (b, 1) :: caps) dsts).val64 0 (Op.leader _) + _).toNat = _
  rw [hlead, val64_zero hp, val32_one hl, leadAddr, show e.leader = some k from hk]
  rfl

theorem addr_rmwCas_glob {r : RmwMods} (hs : r.spad = false) (hl : e.part.getLsbD l = true) :
    (e.op (.rmwCas g d a b c r) 0 f ((a, 2) :: caps) dsts).addr l = (e.w.rdq a l).toNat := by
  show (if r.spad = true then (Op.val32 _ 0 l).toNat else (Op.val64 _ 0 l).toNat) = _
  rw [hs, if_neg (by decide), val64_zero hl]

theorem addr_rmwCas_near {r : RmwMods} (hs : r.spad = true) (hl : e.part.getLsbD l = true) :
    (e.op (.rmwCas g d a b c r) 0 f ((a, 1) :: caps) dsts).addr l = (e.w.rd a l).toNat := by
  show (if r.spad = true then (Op.val32 _ 0 l).toNat else (Op.val64 _ 0 l).toNat) = _
  rw [hs, if_pos rfl, val32_zero hl]

end

/-! ### The memory instructions -/

/-- An instruction is a memory access of a kind, whose lanes' addresses are these. -/
structure Accesses (e : Env) (i : Instr) (g : Guard) (fs : FlagSel) (caps dsts : List (Opd × Nat)) (a : Acc) (x : Nat → Nat) :
    Prop where
  runs : ∀ s, exec i s = issueMem i g fs caps dsts s
  acc : accOf i = some a
  addr : ∀ l, e.part.getLsbD l = true → (e.op i 0 none caps dsts).addr l = x l

section
variable (e : Env) (g : Guard) (d a b c : Opd) (m : MemMods) (r : RmwMods) (ty : Ty) (fs : FlagSel)

/-- The access of a load or a store, and that of an atomic. -/
def plainAcc (sp : Space) (k : Kind) (m : MemMods) (way : Way) : Acc := ⟨sp, k, m.ty, m.order, m.scope, false, way⟩
def atomicAcc (sp : Space) (r : RmwMods) : Acc := ⟨sp, .atomic, r.ty, r.order, r.scope, r.far, .plain false⟩

theorem accesses_ld : Accesses e (.ld g d a b m) g m.fs [(a, 2), (b, 1)] [(d, Ty.regs m.ty)]
    (plainAcc .glob .load m (.plain (m.hint == .nl1))) (globAddr e a b) :=
  ⟨fun _ => rfl, rfl, fun _ hl => addr_glob rfl rfl (.inl rfl) hl⟩

theorem accesses_st : Accesses e (.st g a b c m) g m.fs [(a, 2), (b, 1), (c, Ty.regs m.ty)] []
    (plainAcc .glob .store m (.plain false)) (globAddr e a b) :=
  ⟨fun _ => rfl, rfl, fun _ hl => addr_glob rfl rfl (.inl rfl) hl⟩

theorem accesses_gather : Accesses e (.gather g d a b m) g m.fs [(a, 2), (b, 1)] [(d, Ty.regs m.ty)]
    (plainAcc .glob .load m (.packed (m.hint == .nl1))) (leadAddr e a b) :=
  ⟨fun _ => rfl, rfl, fun _ hl => addr_gather hl⟩

theorem accesses_ldc : Accesses e (.ldc g d a b ty fs) g fs [(a, 2), (b, 1)] [(d, Ty.regs ty)]
    ⟨.const, .load, ty, .rlx, .wave, false, .plain false⟩ (globAddr e a b) :=
  ⟨fun _ => rfl, rfl, fun _ hl => addr_glob rfl rfl (.inr rfl) hl⟩

theorem accesses_lds : Accesses e (.lds g d a b m) g m.fs [(a, 1), (b, 1)] [(d, Ty.regs m.ty)]
    (plainAcc .spad .load m (.plain false)) (nearAddr e a b) :=
  ⟨fun _ => rfl, rfl, fun _ hl => addr_near rfl rfl nofun hl⟩

theorem accesses_sts : Accesses e (.sts g a b c m) g m.fs [(a, 1), (b, 1), (c, Ty.regs m.ty)] []
    (plainAcc .spad .store m (.plain false)) (nearAddr e a b) :=
  ⟨fun _ => rfl, rfl, fun _ hl => addr_near rfl rfl nofun hl⟩

theorem accesses_ldw : Accesses e (.ldw g d a b m) g m.fs [(a, 1), (b, 1)] [(d, Ty.regs m.ty)]
    (plainAcc .win .load m (.plain false)) (nearAddr e a b) :=
  ⟨fun _ => rfl, rfl, fun _ hl => addr_near rfl rfl nofun hl⟩

theorem accesses_stw : Accesses e (.stw g a b c m) g m.fs [(a, 1), (b, 1), (c, Ty.regs m.ty)] []
    (plainAcc .win .store m (.plain false)) (nearAddr e a b) :=
  ⟨fun _ => rfl, rfl, fun _ hl => addr_near rfl rfl nofun hl⟩

variable {r}

theorem accOf_rmw_glob (hs : r.spad = false) : accOf (.rmw g d a b c r) = some (atomicAcc .glob r) := by
  simp [accOf, atomicAcc, hs]

theorem accOf_rmw_spad (hs : r.spad = true) : accOf (.rmw g d a b c r) = some (atomicAcc .spad r) := by
  simp [accOf, atomicAcc, hs]

theorem accesses_rmw_glob (hs : r.spad = false) : Accesses e (.rmw g d a b c r) g r.fs [(a, 2), (b, 1), (c, Ty.regs r.ty)]
    [(d, Ty.regs r.ty)] (atomicAcc .glob r) (globAddr e a b) :=
  ⟨fun s => (exec_rmw ..).trans (by rw [execRmw, hs]; rfl), accOf_rmw_glob g d a b c hs,
    fun _ hl => addr_glob rfl (accOf_rmw_glob g d a b c hs) (.inl rfl) hl⟩

theorem accesses_fold_glob (hs : r.spad = false) : Accesses e (.fold g a b c r) g r.fs [(a, 2), (b, 1), (c, Ty.regs r.ty)]
    [] (atomicAcc .glob r) (globAddr e a b) :=
  ⟨fun s => (exec_fold ..).trans (by rw [execFold, hs]; rfl), accOf_rmw_glob g a a b c hs,
    fun _ hl => addr_glob rfl (accOf_rmw_glob g a a b c hs) (.inl rfl) hl⟩

theorem accesses_rmwCas_glob (hs : r.spad = false) : Accesses e (.rmwCas g d a b c r) g r.fs
    [(a, 2), (b, Ty.regs r.ty), (c, Ty.regs r.ty)] [(d, Ty.regs r.ty)] (atomicAcc .glob r) (fun l => (e.w.rdq a l).toNat) :=
  ⟨fun s => (exec_rmwCas ..).trans (by rw [execRmwCas, hs]; rfl), accOf_rmw_glob g d a b c hs,
    fun _ hl => addr_rmwCas_glob hs hl⟩

theorem accesses_rmw_spad (hs : r.spad = true) : Accesses e (.rmw g d a b c r) g r.fs [(a, 1), (b, 1), (c, Ty.regs r.ty)]
    [(d, Ty.regs r.ty)] (atomicAcc .spad r) (nearAddr e a b) :=
  ⟨fun s => (exec_rmw ..).trans (by rw [execRmw, hs]; rfl), accOf_rmw_spad g d a b c hs,
    fun _ hl => addr_near rfl (accOf_rmw_spad g d a b c hs) nofun hl⟩

theorem accesses_fold_spad (hs : r.spad = true) : Accesses e (.fold g a b c r) g r.fs [(a, 1), (b, 1), (c, Ty.regs r.ty)]
    [] (atomicAcc .spad r) (nearAddr e a b) :=
  ⟨fun s => (exec_fold ..).trans (by rw [execFold, hs]; rfl), accOf_rmw_spad g a a b c hs,
    fun _ hl => addr_near rfl (accOf_rmw_spad g a a b c hs) nofun hl⟩

theorem accesses_rmwCas_spad (hs : r.spad = true) : Accesses e (.rmwCas g d a b c r) g r.fs
    [(a, 1), (b, Ty.regs r.ty), (c, Ty.regs r.ty)] [(d, Ty.regs r.ty)] (atomicAcc .spad r) (fun l => (e.w.rd a l).toNat) :=
  ⟨fun s => (exec_rmwCas ..).trans (by rw [execRmwCas, hs]; rfl), accOf_rmw_spad g d a b c hs,
    fun _ hl => addr_rmwCas_near hs hl⟩

end

/-! ### Outside a space (R403) -/

section
variable {s : State} {e : Env} {a : Acc} {x : Nat}

theorem outside_far (hs : a.space = .glob ∨ a.space = .const) : Outside s e a x ↔
    2 ^ 56 ≤ x ∨ (a.far = true ∧ ∃ tn y at_, s.translate e.ag x .write = .ok (.inAlias tn y, at_)) := by
  refine or_congr ?_ ?_
  · unfold State.outside
    rcases hs with hs | hs <;> simp only [hs, decide_eq_true_eq]
  · unfold State.farAlias
    rw [Bool.and_eq_true]
    refine and_congr_right fun _ => ?_
    split
    · rename_i tn y at_ ht
      exact ⟨fun _ => ⟨tn, y, at_, ht⟩, fun _ => rfl⟩
    · rename_i hn
      exact ⟨nofun, fun ⟨tn, y, at_, ht⟩ => absurd ht (hn tn y at_)⟩

theorem outside_near (hf : a.far = false) : Outside s e a x ↔ s.outside e.w.group a x = true := by
  rw [Outside, State.farAlias, hf, Bool.false_and]
  simp

theorem outside_high (hs : a.space = .glob ∨ a.space = .const) (hf : a.far = false) : Outside s e a x ↔ 2 ^ 56 ≤ x := by
  rw [outside_far hs, hf]
  simp

theorem outside_spad (hs : a.space = .spad) (hf : a.far = false) : Outside s e a x ↔ s.spadSize e.w.group < x + a.n := by
  rw [outside_near hf]
  unfold State.outside
  simp only [hs, decide_eq_true_eq]

theorem outside_win (hs : a.space = .win) (hf : a.far = false) : Outside s e a x ↔ 2 ^ 28 ≤ x ∨
    s.member e.w.group (x / 2 ^ 21) = .absent ∨ s.memberSize e.w.group < x % 2 ^ 21 + a.n := by
  rw [outside_near hf]
  unfold State.outside
  simp only [hs, Bool.or_eq_true, decide_eq_true_eq, beq_iff_eq, or_assoc]

end

/-! ### Legal addresses -/

/-- Every participating lane's address is aligned and inside its space. -/
def Legal (s : State) (e : Env) (a : Acc) (x : Nat → Nat) : Prop :=
  ∀ l, e.part.getLsbD l = true → x l % a.n = 0 ∧ ¬Outside s e a (x l)

section
variable {s : State} {e : Env} {a : Acc} {x : Nat → Nat}

theorem legal_high (hs : a.space = .glob ∨ a.space = .const) (hf : a.far = false)
    (h : ∀ l, e.part.getLsbD l = true → x l % a.n = 0 ∧ x l < 2 ^ 56) : Legal s e a x :=
  fun l hl => ⟨(h l hl).1, mt (outside_high hs hf).mp (Nat.not_le.mpr (h l hl).2)⟩

theorem legal_far (hs : a.space = .glob) (h : ∀ l, e.part.getLsbD l = true → x l % a.n = 0 ∧ x l < 2 ^ 56 ∧
    (a.far = true → ∀ tn y at_, s.translate e.ag (x l) .write ≠ .ok (.inAlias tn y, at_))) : Legal s e a x := by
  intro l hl
  obtain ⟨hm, hx, hf⟩ := h l hl
  refine ⟨hm, fun ho => ?_⟩
  rcases (outside_far (.inl hs)).mp ho with hh | ⟨hfar, tn, y, at_, ht⟩
  · exact absurd hx (Nat.not_lt.mpr hh)
  · exact hf hfar tn y at_ ht

theorem legal_spad (hs : a.space = .spad) (hf : a.far = false)
    (h : ∀ l, e.part.getLsbD l = true → x l % a.n = 0 ∧ x l + a.n ≤ s.spadSize e.w.group) : Legal s e a x :=
  fun l hl => ⟨(h l hl).1, mt (outside_spad hs hf).mp (Nat.not_lt.mpr (h l hl).2)⟩

theorem legal_win (hs : a.space = .win) (hf : a.far = false) (h : ∀ l, e.part.getLsbD l = true → x l % a.n = 0 ∧ x l < 2 ^ 28 ∧
    s.member e.w.group (x l / 2 ^ 21) ≠ .absent ∧ x l % 2 ^ 21 + a.n ≤ s.memberSize e.w.group) : Legal s e a x := by
  intro l hl
  obtain ⟨hm, hx, hp, hn⟩ := h l hl
  refine ⟨hm, fun ho => ?_⟩
  rcases (outside_win hs hf).mp ho with hh | hh | hh
  · exact absurd hx (Nat.not_lt.mpr hh)
  · exact hp hh
  · exact absurd hn (Nat.not_le.mpr hh)

end

/-! ### What a memory instruction does at issue -/

section
variable {i : Instr} {g : Guard} {fs : FlagSel} {caps dsts : List (Opd × Nat)} {s : State} {e : Env} {a : Acc} {x : Nat → Nat}

/-- Its addresses are in order. -/
theorem Accesses.accBad_none (hi : Accesses e i g fs caps dsts a x) (hl : Legal s e a x) :
    s.accBad e (e.op i 0 none caps dsts) a = none :=
  Machine.accBad_none (fun l hm => by
    rw [hi.addr l hm]
    exact hl l hm)

/-- The path of a global atomic performs it, where every lane's does. -/
theorem Accesses.path_atomic (hi : Accesses e i g fs caps dsts a x) (h : ∀ l, e.part.getLsbD l = true → ∀ p at_,
    s.translate e.ag (x l) .write = .ok (p, at_) → s.atomErr e.ag i p (x l) = none) :
    s.pathBad e.ag (e.op i 0 none caps dsts) a = none :=
  pathBad_none (fun l hl p at_ ht => by
    rw [hi.addr l hl] at ht ⊢
    exact h l hl p at_ ht)

/-- With its addresses, ceiling and path in order it is begun. -/
theorem Accesses.begins (hi : Accesses e i g fs caps dsts a x) (hl : Legal s e a x)
    (hc : a.space ≠ .const → s.uncapped e a.scope) (hp : s.pathBad e.ag (e.op i 0 none caps dsts) a = none)
    (h : Issues s g fs dsts caps e) : exec i s = .next (s.begun e i fs caps dsts) := by
  rw [hi.runs, issueMem_eq hi.acc]
  refine issueLong_begins h ?_
  rw [hi.accBad_none hl]
  exact accCheck_passes hc hp

end

/-! ## Atomics -/

/-- A code of f32 is its sign and a magnitude up to that of the infinity. -/
theorem f32_lt {neg : Bool} {x : Nat} (h : x ≤ 0x7F800000) : fF32.sign neg + x < 2 ^ 32 := by
  have : fF32.sign neg ≤ 2 ^ 31 := by cases neg <;> decide
  omega

/-- What the overflow rule delivers is such a code. -/
theorem roundQ_f32_lt (mode : Rnd) (neg : Bool) (n d : Nat) : fF32.roundQ mode neg n d < 2 ^ 32 := by
  unfold Fmt.roundQ
  extract_lets e
  split
  rename_i n' d' hsc
  extract_lets k k' code
  split
  · rename_i hc
    exact f32_lt (Nat.le_trans hc (by decide))
  · refine f32_lt ?_
    cases mode <;> cases neg <;> decide

/-- Converting a number that is not 0. -/
theorem conv_fin (f : Fmt) (mode : Rnd) (sat neg : Bool) {m : Nat} (e : Int) (hm : m ≠ 0) :
    f.conv mode sat (.fin neg m e) = if !f.signed && neg then 0 else
      if sat && f.inf == some (f.roundQ mode neg (scale m 1 e).1 (scale m 1 e).2 - f.sign neg) then f.sign neg + f.maxf
      else f.roundQ mode neg (scale m 1 e).1 (scale m 1 e).2 := by
  cases m with
  | zero => exact absurd rfl hm
  | succ m => rfl

theorem conv_f32_lt (mode : Rnd) (sat : Bool) (v : Val) : fF32.conv mode sat v < 2 ^ 32 := by
  rcases v with _ | neg | ⟨neg, m | m, e⟩
  · show 0x7FC00000 < 2 ^ 32
    decide
  · exact f32_lt (x := if sat then 0x7F7FFFFF else 0x7F800000) (by cases sat <;> decide)
  · exact f32_lt (x := 0) (by decide)
  · rw [conv_fin _ _ _ _ _ m.succ_ne_zero]
    split
    · decide
    · split
      · exact f32_lt (x := 0x7F7FFFFF) (by decide)
      · exact roundQ_f32_lt ..

/-- On a number below 2^n, truncation to n bits reads the sign bit. -/
theorem truncS_of_lt {n v : Nat} (h : v < 2 ^ n) : truncS v n = if v < 2 ^ (n - 1) then (v : Int) else (v : Int) - 2 ^ n := by
  have hm : (v : Int) % ((2 ^ n : Nat) : Int) = v := Int.emod_eq_of_lt (by omega) (by exact_mod_cast h)
  unfold truncS
  simp only [hm, Nat.cast_lt]
  push_cast
  rfl

end Sys2Proof.Machine

namespace Sys2Proof.Proofs.Accesses

open Sys2Proof.Machine

/-! ## Issue -/

/-- Settles O15: each instruction forms the statement's addresses, lies inside its space there, is not capped, and an atomic's
path performs it. -/
theorem accessesIssue : Obligations.AccessesIssue := by
  unfold Obligations.AccessesIssue
  intro s g d a b c m r ty fs e hm hr glob near lead each low lowAtomic inSpad inWin k kr done
  have far {i x} (h : each x (tyBytes r.ty) (lowAtomic i)) : Legal s e (atomicAcc .glob r) x :=
    legal_far rfl (fun l hl => ⟨(h l hl).1, (h l hl).2.1, (h l hl).2.2.1⟩)
  have path {i x} (h : each x (tyBytes r.ty) (lowAtomic i)) : ∀ l, e.part.getLsbD l = true → ∀ p at_,
      s.translate e.ag (x l) .write = .ok (p, at_) → s.atomErr e.ag i p (x l) = none := fun l hl => (h l hl).2.2.2
  refine ⟨fun h => ⟨?_, ?_⟩, fun h => ?_, fun h => ?_, fun h => ⟨?_, ?_⟩, fun h => ⟨?_, ?_⟩, fun hs => ⟨fun h => ?_, fun h => ?_⟩,
    fun hs hf h => ⟨?_, ?_⟩, fun hs h => ?_, fun hs hf h => ?_⟩
  · exact (accesses_ld ..).begins (legal_high (.inl rfl) rfl h) (fun _ => hm) (pathBad_plain (.inl nofun))
  · exact (accesses_st ..).begins (legal_high (.inl rfl) rfl h) (fun _ => hm) (pathBad_plain (.inl nofun))
  · exact (accesses_gather ..).begins (legal_high (.inl rfl) rfl h) (fun _ => hm) (pathBad_plain (.inl nofun))
  · exact (accesses_ldc ..).begins (legal_high (.inr rfl) rfl h) (absurd rfl) (pathBad_plain (.inl nofun))
  · exact (accesses_lds ..).begins (legal_spad rfl rfl h) (fun _ => hm) (pathBad_plain (.inl nofun))
  · exact (accesses_sts ..).begins (legal_spad rfl rfl h) (fun _ => hm) (pathBad_plain (.inl nofun))
  · exact (accesses_ldw ..).begins (legal_win rfl rfl h) (fun _ => hm) (pathBad_plain (.inl nofun))
  · exact (accesses_stw ..).begins (legal_win rfl rfl h) (fun _ => hm) (pathBad_plain (.inl nofun))
  · exact (accesses_rmw_glob _ _ _ _ _ _ hs).begins (far h) (fun _ => hr) ((accesses_rmw_glob _ _ _ _ _ _ hs).path_atomic (path h))
  · exact (accesses_fold_glob _ _ _ _ _ hs).begins (far h) (fun _ => hr) ((accesses_fold_glob _ _ _ _ _ hs).path_atomic (path h))
  · exact (accesses_rmw_spad _ _ _ _ _ _ hs).begins (legal_spad rfl hf h) (fun _ => hr) (pathBad_plain (.inr nofun))
  · exact (accesses_fold_spad _ _ _ _ _ hs).begins (legal_spad rfl hf h) (fun _ => hr) (pathBad_plain (.inr nofun))
  · exact (accesses_rmwCas_glob _ _ _ _ _ _ hs).begins (far h) (fun _ => hr)
      ((accesses_rmwCas_glob _ _ _ _ _ _ hs).path_atomic (path h))
  · exact (accesses_rmwCas_spad _ _ _ _ _ _ hs).begins (legal_spad rfl hf h) (fun _ => hr) (pathBad_plain (.inr nofun))

/-! ## Atomics -/

/-- Settles O19: what each operation of an atomic computes from numbers below 2^n, where the signed reading is that of the top bit. -/
theorem atomicValues : Obligations.AtomicValues := by
  unfold Obligations.AtomicValues
  intro o l old g d a b c m hold n x cmp sg signed
  have hx : x < 2 ^ n := Nat.mod_lt _ (by positivity)
  have hsgn {v : Nat} (hv : v < 2 ^ n) : truncS v n = sg v := truncS_of_lt hv
  have hnew (hi : o.instr = .rmw g d a b c m ∨ o.instr = .fold g a b c m) : o.atomicNew l old = some (rmwOp m.op m.ty old x) := by
    unfold Op.atomicNew
    rcases hi with hi | hi <;> rw [hi]
  refine ⟨fun hi => ?_, fun hi ht => ⟨_, hnew hi, ?_, ?_, ?_⟩, fun hi ht => ⟨_, hnew hi, ?_, ?_, ?_, ?_, ?_, ?_, ?_, ?_, ?_⟩⟩
  · unfold Op.atomicNew
    rw [hi]
  · intro hop
    rw [hop, rmwOp, if_pos ht, Fmt.add, rne32, BitVec.toNat_ofNat, Nat.mod_eq_of_lt (conv_f32_lt _ _ _)]
    rfl
  · intro hop
    rw [hop, rmwOp, if_pos ht]
  · intro hop
    rw [hop, rmwOp, if_pos ht]
  · intro hop
    rw [hop, rmwOp, if_neg ht]
  · intro hop
    rw [hop, rmwOp]
  · intro hop
    rw [hop, rmwOp]
  · intro hop
    rw [hop, rmwOp]
  · intro hop
    rw [hop, rmwOp]
  · intro hop hsg
    rw [hop, rmwOp, if_neg ht, if_pos (by simpa using hsg)]
    exact if_congr (by rw [← hsgn hold, ← hsgn hx]) rfl rfl
  · intro hop hsg
    rw [hop, rmwOp, if_neg ht, if_pos (by simpa using hsg)]
    exact if_congr (by rw [← hsgn hold, ← hsgn hx]) rfl rfl
  · intro hop hsg
    rw [hop, rmwOp, if_neg ht, if_neg (by simpa [signed] using hsg)]
  · intro hop hsg
    rw [hop, rmwOp, if_neg ht, if_neg (by simpa [signed] using hsg)]
end Sys2Proof.Proofs.Accesses
end

