-- ==== Sys2Proof/Proofs/Prefetch.lean ====
section
/-! PROOF. The line that `prefetch` brings in need not hold the byte it was asked for, where a window of fabric space is not aligned
as R323 has it (O16). -/

namespace Sys2Proof.Proofs.Prefetch

set_option Elab.async false

open Sys2Proof.Machine

/-- A window of fabric space whose target is no multiple of 2 MiB. -/
def skewWindow : Window := ⟨0, 4096, 133, 0x80⟩

/-- A wave in whose lane 0 alone p1 is true. -/
def skewWave : Wave := { probeWave [] with task := { (probeWave []).task with preds := [(0, 2)] } }

/-- A state in which lane 0 of one strand participates in an instruction guarded by p1, whose cluster translates address 0 to the
byte of that window at the home, behind a port that is ready. -/
def skewState : State :=
  let s := State.oneStrand skewWave
  { s with
    dev := { s.dev with ports := 1 }
    kiln := { s.kiln with tenants := [((s.agentOf 0).tenant, { Tenant.reset 0 with windows := [skewWindow] })] }
    clusters := [((s.agentOf 0).cluster, ⟨[], [⟨0, 0, 4096, 2 ^ 45, ⟨true, true, 0, false, 0, 0⟩⟩]⟩)] }

/-- The strand about to execute there. -/
def skewEnv : Env := skewWave.env 0 (skewState.agentOf 0) 0xFF ⟨false, 1⟩

theorem skewEnv_reads : Reads skewState ⟨false, 1⟩ [] [(.zero, 2), (.zero, 1)] skewEnv :=
  ⟨⟨rfl, rfl, rfl⟩, rfl⟩

/-- `prefetch` brings in the two sectors of the byte's line, which are not the sector that the byte itself stands in. -/
theorem skew_not_held : ∀ t : State, exec (.prefetch ⟨false, 1⟩ .zero .zero .l2) skewState = .next t →
    t.l2Find skewEnv.ag.cluster (Place.home 0 0 0 133).sector = none := by
  intro t ht
  cases ht
  rfl

/-- Refutes O16: a window whose TARGET is no multiple of 2 MiB gives a byte's physical address another offset in its line than its
address at the home has, and the line that `prefetch` brings in does not hold the byte's sector. -/
theorem not_accessStops : ¬ Obligations.AccessStops := by
  intro h
  obtain ⟨-, -, -, hp⟩ := h
  obtain ⟨t, hx, -, -, -, hf⟩ := hp skewState ⟨false, 1⟩ .zero .zero .l2 skewEnv skewEnv_reads
  obtain ⟨hheld, -⟩ := hf 0 (.home 0 0 0 133) ⟨true, true, 0, false, 0, 0⟩ rfl (by decide) (by decide) rfl
  have hn : t.l2Find skewEnv.ag.cluster (Place.home 0 0 0 133).sector = none :=
    skew_not_held (t.next skewEnv (.prefetch ⟨false, 1⟩ .zero .zero .l2)) hx
  have hs : (t.l2Find skewEnv.ag.cluster (Place.home 0 0 0 133).sector).isSome = true :=
    hheld (.inr ⟨⟨by decide, by decide⟩, rfl⟩) rfl rfl
  rw [hn] at hs
  cases hs

end Sys2Proof.Proofs.Prefetch
end

