-- ==== Sys2Proof/Proofs/StrandControl.lean ====
section
/-! PROOF. The instructions that control strands and waves (O11), and the exits of lanes, slices and waves (O13). -/

namespace Sys2Proof.Machine

set_option Elab.async false

/-! ## The paths that a slice resumes -/

/-- The lanes of some paths together. -/
theorem getLsbD_foldl_mask (ps : List Path) (m : BitVec 4) (i : Nat) :
    (ps.foldl (fun m p => m ||| p.mask) m).getLsbD i = (m.getLsbD i || ps.any (fun p => p.mask.getLsbD i)) := by
  induction ps generalizing m with
  | nil => simp
  | cons p r ih => rw [List.foldl_cons, ih, BitVec.getLsbD_or, List.any_cons, Bool.or_assoc]

namespace SliceSt

variable (x : SliceSt) (gone : BitVec 4) (fall : Nat)

theorem exitLanes_exited : (x.exitLanes gone fall).exited = x.exited ||| gone := by
  unfold SliceSt.exitLanes
  extract_lets y
  split
  · rfl
  · split <;> rfl

theorem exitLanes_falls (h : x.mask &&& ~~~gone ≠ 0) : (x.exitLanes gone fall).pc = fall ∧
    (x.exitLanes gone fall).mask = x.mask &&& ~~~gone ∧ (x.exitLanes gone fall).stack = x.stack := by
  unfold SliceSt.exitLanes
  rw [if_pos h]
  exact ⟨rfl, rfl, rfl⟩

theorem exitLanes_resumes {low : Nat} (h : x.mask &&& ~~~gone = 0) (hex : ∃ p ∈ x.stack, p.pc = low)
    (hle : ∀ p ∈ x.stack, low ≤ p.pc) :
    (x.exitLanes gone fall).pc = low ∧ (x.exitLanes gone fall).stack = x.stack.filter (fun p => p.pc != low) ∧
      (x.exitLanes gone fall).mask = (x.stack.filter (fun p => p.pc == low)).foldl (fun m p => m ||| p.mask) 0 := by
  have hl : least (x.stack.map (·.pc)) = some low := by
    obtain ⟨p, hp, hpc⟩ := hex
    refine least_eq_of_le (List.mem_map.mpr ⟨p, hp, hpc⟩) fun a ha => ?_
    obtain ⟨q, hq, rfl⟩ := List.mem_map.mp ha
    exact hle q hq
  unfold SliceSt.exitLanes
  rw [if_neg (not_not_intro h)]
  dsimp only
  rw [hl]
  exact ⟨rfl, rfl, rfl⟩

end SliceSt

end Sys2Proof.Machine

namespace Sys2Proof.Proofs.StrandControl

open Sys2Proof.Machine

/-- Settles O13: `exit` in one strand, what a slice makes of it, and the event that a wave's exit is. -/
theorem exits : Obligations.Exits := by
  unfold Obligations.Exits
  refine ⟨⟨fun s g e h hn hw hh => ?_, fun x gone fall low => ⟨?_, ?_, ?_⟩⟩, ?_⟩
  · refine (exec_exit ..).trans (runWait_reads h.toExecutes h.quiet ?_ h.clean)
    rw [if_neg hn, hw, hh]
    rfl
  · exact x.exitLanes_exited gone fall
  · exact x.exitLanes_falls gone fall
  · intro h hex hle
    obtain ⟨hpc, hst, hm⟩ := x.exitLanes_resumes gone fall h hex hle
    refine ⟨hpc, hst, fun i => ?_⟩
    rw [hm, getLsbD_foldl_mask, Bool.eq_iff_iff, decide_eq_true_eq]
    simp
  · intro s core wid u w hw hroot hops hstop hended s1 s2
    show execWaveExit core wid s = _
    have hgo : (!w.task.root || !w.ops.isEmpty || w.stop.isSome || !(w.ended == some .done || w.ended == some .fault)) = false := by
      rcases hended with he | he <;> simp [hroot, hops, hstop, he]
    unfold execWaveExit
    rw [hw]
    dsimp only
    rw [hgo]
    rfl

/-- A guard that is always true is no other guard. -/
theorem guardOther_of_always {g : Guard} (h : guardAlways g = true) : guardOther g = false := by
  rw [guardOther, h]
  rfl

/-- The new window of a slice, as `wbase` finds it: from its lowest participating lane. -/
theorem wbase_legal {e : Env} {a : Opd} {add : Bool}
    (h : ∀ i v, i < 8 → newWindow e a add i = some v → windowOk (regCount e.w.task.regs) v = true) :
    (List.range 8).find? (fun i => match newWindow e a add i with
      | some v => !windowOk (regCount e.w.task.regs) v
      | none => false) = none := by
  rw [List.find?_eq_none]
  intro i hi
  cases hv : newWindow e a add i with
  | none => simp
  | some v => simp [h i v (List.mem_range.mp hi) hv]

/-- Settles O11: each instruction passes its checks under the statement's premises and has the effect it names. -/
theorem gangInstructions : Obligations.GangInstructions := by
  unfold Obligations.GangInstructions
  refine ⟨⟨fun s g e h ha => ⟨fun hw => ⟨?_, ?_⟩, fun hw => ?_, fun hh hn => ?_⟩, fun s g a add save e => ⟨fun h ha hw => ?_,
    fun h hn => ?_, ?_⟩⟩, fun s g a b c fs e l hl => ⟨?_, fun h hb hw ht ho h4 hlt => ?_⟩⟩
  · exact (exec_regang ..).trans (runShort_reads h (t := s.waitIn e .regang) (by simp [guardOther_of_always ha, hw]) h.reads.clean)
  · exact (exec_wide ..).trans (runShort_reads h (t := s.waitIn e .wide) (by simp [guardOther_of_always ha, hw]) h.reads.clean)
  · have hs : e.w.task.wide.isSome = true := Option.isSome_iff_ne_none.mpr hw
    exact (exec_regang ..).trans (runShort_reads h (t := s.next e (.regang g)) (by simp [guardOther_of_always ha, hs]) h.reads.clean)
  · exact (exec_trapret ..).trans (runShort_reads h (t := s.waitIn e .trapret) (by rw [if_neg hn, hh]; rfl) h.reads.clean)
  · refine (exec_endwide ..).trans (runShort_reads h (t := (s.setWave e.u ((e.w.closeWide e.st save).clauseStep
      (e.w.closeWide e.st save).liveSlices)).wake e.u) ?_ h.reads.clean)
    rw [guardOther_of_always ha, hw]
    rfl
  · refine (exec_ifence ..).trans (runShort_reads h (t := s.modWave e.u (fun w => { w with loop := [] })) ?_ h.reads.clean)
    rw [if_neg hn]
  · intro h v first hv
    have hfirst (i : Nat) : newWindow e a add i = (first i).map (v i) := by
      unfold newWindow
      cases add <;> rfl
    have hok : ∀ i x, i < 8 → newWindow e a add i = some x → windowOk (regCount e.w.task.regs) x = true := by
      intro i x hi hx
      rw [hfirst, Option.map_eq_some_iff] at hx
      obtain ⟨l, hl, rfl⟩ := hx
      obtain ⟨hm, h0, ha⟩ := hv i l hi hl
      rw [windowOk, regCount]
      simpa [hm, h0] using ha
    refine (exec_wbase ..).trans (runShort_reads h.toExecutes (t := s.setWave e.u (e.w.modSlicesI 0xFF (fun i x =>
      match first i with
      | some l => { x with window := (v i l).toNat }
      | none => x))) ?_ h.clean)
    have hset : (fun (i : Nat) (x : SliceSt) => match newWindow e a add i with
        | some v => { x with window := v.toNat }
        | none => x) = fun i x => match first i with
        | some l => { x with window := (v i l).toNat }
        | none => x := by
      funext i x
      rw [hfirst]
      cases first i <;> rfl
    dsimp only
    split
    · rename_i i hi
      exact absurd ((wbase_legal hok).symm.trans hi) nofun
    · exact congrArg (fun f => Except.ok (s.setWave e.u (e.w.modSlicesI 0xFF f))) hset
  · intro h hlt t
    refine (exec_icinv ..).trans ?_
    unfold execIcinv
    rw [issueWith_issues h.toExecutes h.flag rfl (t := s) ?_ h.clean (Env.part_ne_zero hl), hl]
    · rfl
    · rw [hl]
      exact if_neg (Nat.not_le.mpr hlt)
  · obtain ⟨t, ht⟩ := ht
    refine (exec_yieldto ..).trans (runWaitOrdered_waits h hb ?_)
    have hc : codeAddrOk (e.w.rdq c l).toNat = true := by
      rw [codeAddrOk, h4, decide_eq_true hlt]
      rfl
    rw [hl]
    dsimp only
    rw [hw, ht, ho, hc]
    rfl

end Sys2Proof.Proofs.StrandControl
end

