-- ==== Sys2Proof/Proofs/Barriers.lean ====
section
/-! PROOF. Fences and named barriers (O20). -/

namespace Sys2Proof.Machine

set_option Elab.async false

/-- A fence with nothing before it and no error to report: the ceiling, then the cache actions. -/
theorem execFence_eq {s : State} {g : Guard} {o : Order} {sc : Scope} {e : Env} (h : Waits s g [] e)
    (hq : s.reportAt e.u (fun _ => true) = none) (hb : e.w.behind e.sl = false) (hc : s.uncapped e sc) :
    execFence g o sc s = .next ((if e.part = 0 then s else (s.before e.ag o (s.capScope e.ag.ctx sc)).after e.ag o
      (s.capScope e.ag.ctx sc)).next e (.fence g o sc)) := by
  have hr : s.reportHere e (fun _ => true) = none := by rw [State.reportHere, hq]; rfl
  unfold execFence
  rw [h.env]
  dsimp only
  rw [h.guard, if_neg Bool.false_ne_true, hr]
  refine runOrdered_leads h.toLeads hb ?_
  rw [ceiling_uncapped hc 0]

/-- The scope of an access that is not capped is its own. -/
theorem capScope_uncapped {s : State} {e : Env} {sc : Scope} (h : s.uncapped e sc) : s.capScope e.ag.ctx sc = sc := by
  unfold State.capScope
  refine if_neg fun hx => ?_
  obtain ⟨hs, hcap⟩ := hx
  cases hc : s.ctx e.ag.ctx with
  | none => simp [hc] at hcap
  | some c => simp [hc, h hs c hc] at hcap

theorem getElem?_modAt_self {α : Type} (f : α → α) : ∀ (l : List α) (n : Nat), (modAt l n f)[n]? = l[n]?.map f
  | [], _ => by simp [modAt]
  | _ :: _, 0 => by simp [modAt]
  | _ :: r, n + 1 => by simpa [modAt] using getElem?_modAt_self f r n

/-! ## Named barriers (R273, R274) -/

section
variable {s : State} {g : Guard} {a : Opd} {bar : Fin 16} {e : Env} {l : Nat} {b : Bar} {x : Group}

/-- The count that an arrival expects. -/
def State.expects (s : State) (e : Env) (a : Opd) (bar : Fin 16) (l : Nat) : Nat :=
  if bar = 0 then s.wavesLeft e.w.group else (e.w.rd a l).toNat

/-- An arrival that is only counted. -/
def State.counted (s : State) (e : Env) (bar : Fin 16) (n : Nat) : State :=
  (s.release e.ag .core).modGroup e.w.group (fun y => { y with bars := modAt y.bars bar.val (fun q => ⟨n, q.count + 1, q.phase⟩) })

theorem gateCount_ok (hl : e.leader = some l) (hw : e.whole = true) (hx : s.group e.w.group = some x)
    (hb : x.bars[bar.val]? = some b)
    (hn : bar ≠ 0 → 1 ≤ s.expects e a bar l ∧ s.expects e a bar l ≤ 32 ∧ (b.count = 0 ∨ b.expected = s.expects e a bar l)) :
    s.gateCount e a bar = .ok (some (s.expects e a bar l)) := by
  unfold State.gateCount
  rw [hw, hl]
  by_cases h0 : bar = 0
  · simp [h0, State.expects]
  · obtain ⟨h1, h32, hcount⟩ := hn h0
    rw [State.expects, if_neg h0] at *
    simp only [Bool.not_true, Bool.false_eq_true, if_false, if_neg h0, hx, Option.bind_some, hb, Option.getD_some]
    rw [if_neg (by omega), if_neg]
    rintro ⟨hc, he⟩
    exact hcount.elim hc he

/-- The groups are those before a release. -/
theorem State.group_release (s : State) (ag : Agent) (sc : Scope) (k : Nat) : (s.release ag sc).group k = s.group k := by
  rw [State.group, ((SameTables.ignoresMemory s).release (SameTables.refl s)).groups]
  rfl

/-- The barrier after an arrival has been counted. -/
theorem counted_bar (hx : s.group e.w.group = some x) (hb : x.bars[bar.val]? = some b) (n : Nat) :
    ((s.counted e bar n).group e.w.group).bind (fun x => x.bars[bar.val]?) = some ⟨n, b.count + 1, b.phase⟩ := by
  rw [State.counted, State.group_modGroup, State.group_release, hx, Option.map_some, Option.bind_some, getElem?_modAt_self, hb]
  rfl

theorem gateArrive_counted (hx : s.group e.w.group = some x) (hb : x.bars[bar.val]? = some b) {n : Nat} (hn : b.count + 1 < n) :
    s.gateArrive e bar n = s.counted e bar n := by
  unfold State.gateArrive
  rw [show State.modGroup _ _ _ = s.counted e bar n from rfl]
  dsimp only
  rw [counted_bar hx hb]
  exact if_neg (Nat.not_le.mpr hn)

theorem gateArrive_completes (hx : s.group e.w.group = some x) (hb : x.bars[bar.val]? = some b) {n : Nat} (hn : n ≤ b.count + 1) :
    s.gateArrive e bar n = (s.counted e bar n).barComplete e.w.group bar.val := by
  unfold State.gateArrive
  rw [show State.modGroup _ _ _ = s.counted e bar n from rfl]
  dsimp only
  rw [counted_bar hx hb]
  exact if_pos hn

theorem gatePhase_eq (hx : s.group e.w.group = some x) (hb : x.bars[bar.val]? = some b) : s.gatePhase e.w.group bar = b.phase := by
  rw [State.gatePhase, hx, Option.bind_some, hb]
  rfl

end

end Sys2Proof.Machine

namespace Sys2Proof.Proofs.Barriers

open Sys2Proof.Machine

/-- Settles O20: a fence performs its order's cache actions, and an arrival is counted or completes the phase. -/
theorem fencesAndBarriers : Obligations.FencesAndBarriers := by
  unfold Obligations.FencesAndBarriers
  constructor
  · intro s g o sc e h hq hb hc
    rw [exec_fence, execFence_eq h hq hb hc, capScope_uncapped hc]
    cases o <;> rfl
  · intro s g a bar e l b x n t hl hw hbehind hx hb hn
    have hcount : s.gateCount e a bar = .ok (some n) := gateCount_ok hl hw hx hb hn
    refine ⟨fun h => ?_, fun h => ?_⟩
    · have hgo : exec (.gatePass g a bar) s = .next ((s.gateArrive e bar n).next e (.gatePass g a bar)) :=
        (exec_gatePass ..).trans (runOrdered_leads h hbehind (by rw [hcount]))
      refine ⟨fun hlt => ?_, fun hle => ?_⟩
      · rw [hgo, gateArrive_counted hx hb hlt]
        rfl
      · rw [hgo, gateArrive_completes hx hb hle]
        rfl
    · have hgo : exec (.gateWait g a bar) s = .next ((s.gateArrive e bar n).waitIn e (.gate bar.val b.phase)) :=
        (exec_gateWait ..).trans (runWaitOrdered_waits h hbehind (by rw [hcount, gatePhase_eq hx hb]))
      refine ⟨fun hlt => ?_, fun hle => ?_⟩
      · rw [hgo, gateArrive_counted hx hb hlt]
        rfl
      · rw [hgo, gateArrive_completes hx hb hle]
        rfl

end Sys2Proof.Proofs.Barriers
end

