-- ==== Sys2Proof/Proofs/Waitables.lean ====
section
/-! PROOF. `await`, `lock.take`, `park`, and the instructions that make a waitable ready (O24, O25). -/

namespace Sys2Proof.Machine

set_option Elab.async false

/-! ## The operand of `await`, `lock.take` and `park` -/

/-- A whole strand outside a wide region and a handler, whose registers are clean, reads the operand of its wave's lowest lane. -/
theorem awaitBad_reads {e : Env} {l : Nat} (a : Opd) (hw : e.w.task.wide = none) (hwhole : e.whole = true)
    (hh : e.inHandler = false) (hl : e.w.awaitLane = some l) (hp : e.w.task.poison = []) :
    e.awaitBad a = .ok (some (l, (e.w.rdq a l).toNat)) := by
  have hclean : e.w.poisonLane [(a, 2)] (maskOf [l]) = none := by simp [Wave.poisonLane, hp]
  unfold Env.awaitBad
  rw [hw, hwhole, hh, hl]
  dsimp only
  rw [hclean]
  rfl

/-- A write that is possible. -/
theorem needWrite_ok {s : State} {ag : Agent} {l a n : Nat} (h : s.canWrite ag a n = none) : s.needWrite ag l a n = .ok () := by
  rw [State.needWrite, h]

/-! ## The decision (R92) -/

section
variable {s s1 : State} {w : Wave} {ag : Agent} {lock : Bool} {l x : Nat} {f : Waitable}

/-- What is left to decide once a well-formed waitable has been read. -/
theorem decideWait_eq (hf : s.waitable ag x = .ok (s1, f)) (hok : f.ok = true) (hclean : s1.futureClean ag l x f = .ok ())
    (hk : lock = true → f.kind = 1) : s.decideWait w ag lock l x =
      if f.ready then
        if lock then match s1.canWrite ag x 16 with
          | some e => .error (objBad e l)
          | none => .ok (s1, .ready true)
        else .ok (s1, .ready (!(f.kind == 0 && f.st == 2)))
      else match s1.decideOwner w ag l f with
        | .error b => .error b
        | .ok (s2, d) => match s2.canDecide w ag l d with
          | .error b => .error b
          | .ok () => .ok (s2, d) := by
  have hbad : ¬((!f.ok) = true ∨ (lock = true ∧ f.kind ≠ 1)) := by
    rw [hok]
    rintro (h | ⟨h, hn⟩)
    · cases h
    · exact hn (hk h)
  unfold State.decideWait
  rw [hf]
  dsimp only
  rw [if_neg hbad, hclean] <;> rfl

theorem decideWait_ready (hf : s.waitable ag x = .ok (s1, f)) (hok : f.ok = true) (hclean : s1.futureClean ag l x f = .ok ())
    (hr : f.ready = true) : s.decideWait w ag false l x = .ok (s1, .ready (!(f.kind == 0 && f.st == 2))) := by
  rw [decideWait_eq hf hok hclean (fun h => absurd h Bool.false_ne_true), if_pos hr]
  rfl

theorem decideWait_lock (hf : s.waitable ag x = .ok (s1, f)) (hok : f.ok = true) (hclean : s1.futureClean ag l x f = .ok ())
    (hr : f.ready = true) (hk : f.kind = 1) (hw : s1.canWrite ag x 16 = none) :
    s.decideWait w ag true l x = .ok (s1, .ready true) := by
  rw [decideWait_eq hf hok hclean (fun _ => hk), if_pos hr, if_pos rfl, hw]

/-- One that no task owns is waited for. -/
theorem decideWait_unowned (hf : s.waitable ag x = .ok (s1, f)) (hok : f.ok = true) (hclean : s1.futureClean ag l x f = .ok ())
    (hk : lock = true → f.kind = 1) (hr : f.ready = false) (ho : f.owner = 0)
    (hw : s1.canWrite ag (w.task.record.toNat + 0x20) 16 = none) : s.decideWait w ag lock l x = .ok (s1, .wait) := by
  have hd : s1.decideOwner w ag l f = .ok (s1, .wait) := by
    unfold State.decideOwner
    exact if_pos (.inl ho)
  rw [decideWait_eq hf hok hclean hk, hr, if_neg Bool.false_ne_true, hd]
  dsimp only
  rw [State.canDecide, needWrite_ok hw]

end

end Sys2Proof.Machine

namespace Sys2Proof.Proofs.Waitables

open Sys2Proof.Machine

/-- Settles O24: the decision on the waitable is followed. -/
theorem awaitsComplete : Obligations.AwaitsComplete := by
  unfold Obligations.AwaitsComplete
  intro s s1 g a pd e l f h hw hwhole hh hl hp x hx hf hok hclean
  have hread : e.awaitBad a = .ok (some (l, x)) := awaitBad_reads a hw hwhole hh hl hp
  have h16 : ¬x % 16 ≠ 0 := not_not_intro hx
  refine ⟨fun hr => ⟨?_, fun hk hcan => ?_⟩, fun hr ho hcan lock hk => ?_⟩
  · refine (exec_await ..).trans (runWait_reads h.toExecutes h.quiet ?_ h.clean)
    rw [hread]
    dsimp only
    rw [if_neg h16, decideWait_ready hf hok hclean hr]
    dsimp only
    rw [if_neg Bool.false_ne_true]
  · refine (exec_lockTake ..).trans (runWait_reads h.toExecutes h.quiet ?_ h.clean)
    rw [hread]
    dsimp only
    rw [if_neg h16, decideWait_lock hf hok hclean hr hk hcan]
    dsimp only
    rw [if_pos rfl]
  · have hd := decideWait_unowned (w := e.w) hf hok hclean hk hr ho hcan
    intro i t
    have hi : exec i s = runAwait i g a pd lock s := by
      cases lock
      · exact exec_await ..
      · exact exec_lockTake ..
    refine hi.trans (runWait_reads h.toExecutes h.quiet ?_ h.clean)
    rw [hread]
    dsimp only
    rw [if_neg h16, hd]

/-- A waitable whose words are 0 is an unset future with nothing reserved in it. -/
theorem unset_of_zero {f : Waitable} (hs : f.state = 0) (he : f.entry = 0) : f.reserved = false ∧ f.kind = 0 ∧ f.st = 0 := by
  refine ⟨?_, ?_, ?_⟩
  · simp [Waitable.reserved, Waitable.kind, hs, he]
  · simp [Waitable.kind, hs]
  · simp [Waitable.st, hs]

/-- State 5 is that of a lock that is taken. -/
theorem taken_of_five {f : Waitable} (hs : f.state = 5) (he : f.entry = 0) : f.reserved = false ∧ f.kind = 1 ∧ f.st = 1 := by
  refine ⟨?_, ?_, ?_⟩
  · simp [Waitable.reserved, Waitable.kind, hs, he]
  · simp [Waitable.kind, hs]
  · simp [Waitable.st, hs]

/-- Settles O25: each instruction's checks pass under the statement's premises. -/
theorem futureLockPark : Obligations.FutureLockPark := by
  unfold Obligations.FutureLockPark
  refine ⟨?_, ?_, ?_⟩
  · intro s s1 g a b e l bs h hb hl x hx hobj hst hent hres hcan
    obtain ⟨hr, hk, hs⟩ := unset_of_zero (f := ⟨fieldAt bs 0 8, fieldAt bs 8 4, fieldAt bs 12 4⟩) hst hent
    refine (exec_futSet ..).trans (runOrdered_leads h hb ?_)
    rw [hl]
    dsimp only
    rw [if_neg (not_not_intro hx), hobj]
    dsimp only
    rw [hr, hk, hs, hres, if_neg (by decide), if_neg (by decide), hcan]
  · intro s s1 g a e l f h hb hl x t hx hf hst hent how hcan
    obtain ⟨hr, hk, hs⟩ := taken_of_five hst hent
    have hgive {t' : State} (ht : (if t.discards e.ag x then Except.ok t
        else match (t.lockHelpers e.ag.ctx (BitVec.ofNat 64 x))[Config.freeChoice t.sched.fresh %
            (t.lockHelpers e.ag.ctx (BitVec.ofNat 64 x)).length]? with
          | none => .ok ((t.putNum e.ag x 8 0).putNum e.ag (x + 8) 4 4)
          | some (v, k, tr) => .ok ((t.bumpFresh.takeLock e.ag x tr).modWave v (fun w => w.lockTaken k)) : Except Bad State) = .ok t') :
        exec (.lockGive g a) s = .next (t'.next e (.lockGive g a)) := by
      refine (exec_lockGive ..).trans (runOrdered_leads h hb ?_)
      rw [hl]
      dsimp only
      rw [if_neg (not_not_intro hx), hf]
      dsimp only
      rw [hr, hk, hs, how, if_neg (by decide), if_neg (by simp), hcan]
      exact ht
    refine ⟨fun hd => hgive (if_pos hd), fun hd hn => hgive ?_, fun hd hn => ?_⟩
    · rw [hd, hn]
      rfl
    · have hlt : Config.freeChoice t.sched.fresh % (t.lockHelpers e.ag.ctx (BitVec.ofNat 64 x)).length <
          (t.lockHelpers e.ag.ctx (BitVec.ofNat 64 x)).length := Nat.mod_lt _ (List.length_pos_iff.mpr hn)
      obtain ⟨v, k, tr, hv⟩ : ∃ v k tr, (t.lockHelpers e.ag.ctx (BitVec.ofNat 64 x))[Config.freeChoice t.sched.fresh %
          (t.lockHelpers e.ag.ctx (BitVec.ofNat 64 x)).length]? = some (v, k, tr) := ⟨_, _, _, List.getElem?_eq_getElem hlt⟩
      refine ⟨v, k, tr, List.mem_of_getElem? hv, hgive ?_⟩
      rw [hd, hv]
      rfl
  · intro s s1 g a e l q w h hd hw hwhole hh hl hp hq hes tr x s2 hcan hs2 hroot
    have hread : e.awaitBad a = .ok (some (l, x)) := awaitBad_reads a hw hwhole hh hl hp
    show execPark g a s = _
    unfold execPark
    rw [h.env]
    dsimp only
    rw [hd, Bool.not_true, Bool.and_false, if_neg Bool.false_ne_true]
    refine runWait_reads h.toExecutes h.quiet ?_ h.clean
    rw [hread]
    dsimp only
    rw [hq]
    dsimp only
    rw [if_neg (not_not_intro hes), needWrite_ok hcan]
    dsimp only
    rw [show State.wave _ e.u = some w from hs2]
    dsimp only
    rw [if_pos hroot]

end Sys2Proof.Proofs.Waitables
end

