-- ==== Sys2Proof/Proofs/Adoption.lean ====
section
/-! PROOF. The precise stop of an awaiting wave clears the waits of the slices that live when it is made, which are those of the
event's wave only where no two waves stand under one number (O26). -/

namespace Sys2Proof.Proofs.Adoption

set_option Elab.async false

open Sys2Proof.Machine

/-- A stop leaves the slices of every wave. -/
theorem slices_stopWave {s : State} {u v : Nat} {r : TrapReq} {w : Wave} (h : s.wave v = some w) :
    ∃ w', (s.stopWave u r).wave v = some w' ∧ w'.task = w.task := by
  have hmod : ∃ w', (s.modWave u (fun w => if w.stop.isSome then w else { w with stop := some r })).wave v = some w' ∧
      w'.task = w.task := by
    by_cases huv : v = u
    · subst huv
      rw [State.wave_modWave, h]
      refine ⟨_, rfl, ?_⟩
      dsimp only
      split <;> rfl
    · rw [State.wave_modWave_ne _ _ _ _ huv, h]
      exact ⟨w, rfl, rfl⟩
  obtain ⟨w', hw', ht⟩ := hmod
  refine ⟨w', ?_, ht⟩
  unfold State.stopWave
  dsimp only
  split
  · split
    · rw [← hw']
      unfold State.goViral
      split <;> rfl
    · exact hw'
  · exact hw'

/-- A slice that stands in an `await` on an address that no page has. -/
def twinSlice (gone : BitVec 4) : SliceSt :=
  { probeSlice [] with exited := gone, wait := some (.await false 0 0x8000000000000000) }

/-- A wave of eight such slices, of which the last has the given lanes exited. -/
def twinWave (wid : Nat) (gone : BitVec 4) : Wave :=
  { probeWave [] with wid := wid, task := { (probeWave []).task with slices := List.replicate 7 (twinSlice 0) ++ [twinSlice gone] } }

/-- Two waves under one number: the first has identifier 1, and no live lane in its last slice. -/
def twinState : State :=
  let s := State.reset.placeWords []
  { s with kiln := { s.kiln with waves := [(0, twinWave 1 0xF), (0, twinWave 0 0)] } }

/-- The cause that the decision finds there. -/
def twinBad : Bad := memBad ⟨1, 3⟩ false false 0 0x8000000000000000

theorem twin_decides : twinState.decideWait (twinWave 0 0) (twinState.agentOf (twinWave 0 0).group) false 0
    (0x8000000000000000 : W64).toNat = .error twinBad := rfl

/-- What the event makes of the last slice of the wave under that number: its wait stays. -/
theorem twin_keeps_wait {t : State} (h : exec (.adopt 0 0) twinState = .next t) :
    ∀ w, t.wave 0 = some w → ((w.task.slices[7]?).bind (·.wait)).isSome = true := by
  cases h
  intro w hw
  cases hw
  rfl

/-- Refutes O26: two waves under one number, of which the event's is the second; the stop clears the waits of the slices that live in
the first. -/
theorem not_adoptDecides : ¬ Obligations.AdoptDecides := by
  intro h
  obtain ⟨h, -⟩ := h
  obtain ⟨-, -, -, -, hbad, -⟩ := h twinState twinState 0 0 0 0 (twinWave 0 0) false 0 0x8000000000000000 (.ofBytes [])
    ⟨0, false, 0, 0, none, false⟩ rfl rfl rfl rfl rfl
  obtain ⟨r, -, -, hx⟩ := hbad twinBad rfl twin_decides
  obtain ⟨w', hw', ht⟩ := slices_stopWave (u := 0) (r := r) (v := 0) (w := (twinWave 1 0xF).modSlices (twinWave 0 0).liveSlices
    (fun x => { x with wait := none })) (s := twinState.modWave 0 (fun w' => w'.modSlices (twinWave 0 0).liveSlices
      (fun x => { x with wait := none }))) rfl
  have hkeep := twin_keeps_wait hx w' hw'
  rw [ht] at hkeep
  exact absurd hkeep (by decide)

end Sys2Proof.Proofs.Adoption
end

