-- ==== Sys2Proof/Proofs/Slots.lean ====
section
/-! PROOF. Slots that are left and taken, adoptions that end, monitors, and the linking of queue segments (O27). -/

namespace Sys2Proof.Machine

set_option Elab.async false

section
variable {s : State} {core wid u : Nat} {w : Wave}

/-! ## SLOT_TAKE_TASK (R88) -/

/-- A slot whose task has left: its wave has nothing outstanding, helps nobody, and is neither stopped nor halted. -/
structure LeftSlot (s : State) (core wid u : Nat) (w : Wave) : Prop where
  here : s.waveAt core wid = some (u, w)
  drained : s.drained u = true
  running : w.halted = false
  unstopped : w.stop = none
  ended : w.ended ≠ none
  alone : w.chain = []
  stays : w.exited = false

theorem LeftSlot.exec_eq (h : LeftSlot s core wid u w) (hr : w.root = none → w.task.root = false) :
    execSlotTakeTask core wid s =
      let ag := s.agentOf w.group
      let empty := match w.queue with
        | none => false
        | some q => match s.queue ag q.toNat with | .ok (_, x) => x.pop == x.push | .error _ => false
      match w.root with
      | some (t, some (_, _, a)) =>
        if w.rootReady || s.waitReady ag a.toNat then .next (s.resumeRoot u ag t) else .next (s.dispatch u w ag)
      | some (t, none) => if empty then .next (s.resumeRoot u ag t) else .next (s.dispatch u w ag)
      | none => .next (s.dispatch u w ag) := by
  have hroot : (w.task.root && w.root.isNone) = false := by
    cases hw : w.root with
    | none => rw [hr hw]; rfl
    | some x => simp
  have hgo : (w.ended.isNone || w.stop.isSome || !w.chain.isEmpty || w.exited || w.task.root && w.root.isNone || w.halted
      || !s.drained u) = false := by
    rw [hroot, h.drained, h.running, h.unstopped, h.alone, h.stays, Option.isNone_eq_false_iff.mpr (Option.isSome_iff_ne_none.mpr h.ended)]
    rfl
  unfold execSlotTakeTask
  rw [h.here]
  dsimp only
  rw [hgo]
  exact if_neg Bool.false_ne_true

/-- It turns to its queue where its root task stands aside and cannot go on, or there is none. -/
theorem LeftSlot.dispatches (h : LeftSlot s core wid u w) {q : W64} (hq : w.queue = some q)
    (hnone : w.root = none → w.task.root = false)
    (hwait : ∀ k lock pd a, w.root = some (k, some (lock, pd, a)) →
      w.rootReady = false ∧ s.waitReady (s.agentOf w.group) a.toNat = false)
    (hpark : ∀ k sq (xq : Queue), w.root = some (k, none) → s.queue (s.agentOf w.group) q.toNat = .ok (sq, xq) → xq.pop ≠ xq.push) :
    execSlotTakeTask core wid s = .next (s.dispatch u w (s.agentOf w.group)) := by
  rw [h.exec_eq hnone]
  dsimp only
  split
  · rename_i t lock pd a hr
    obtain ⟨h1, h2⟩ := hwait t lock pd a hr
    rw [h1, h2]
    rfl
  · rename_i t hr
    refine if_neg ?_
    rw [hq]
    dsimp only
    split
    · rename_i sq xq hx
      simpa using hpark t sq xq hr hx
    · exact Bool.false_ne_true
  · rfl

/-- It takes its root task again where that one's wait is over, or it was parked and the queue is empty. -/
theorem LeftSlot.resumes (h : LeftSlot s core wid u w) {k : TaskCtx} {y : Option (Bool × Fin 8 × W64)} (hr : w.root = some (k, y))
    (hwait : ∀ lock pd a, y = some (lock, pd, a) → w.rootReady = true ∨ s.waitReady (s.agentOf w.group) a.toNat = true)
    {q : W64} {s1 : State} {x : Queue}
    (hpark : y = none → w.queue = some q ∧ s.queue (s.agentOf w.group) q.toNat = .ok (s1, x) ∧ x.pop = x.push) :
    execSlotTakeTask core wid s = .next (s.resumeRoot u (s.agentOf w.group) k) := by
  rw [h.exec_eq (fun hn => absurd (hr.symm.trans hn) nofun)]
  dsimp only
  rw [hr]
  cases y with
  | none =>
    obtain ⟨hq, hx, he⟩ := hpark rfl
    refine if_pos ?_
    rw [hq]
    dsimp only
    rw [hx]
    exact beq_iff_eq.mpr he
  | some y =>
    obtain ⟨lock, pd, a⟩ := y
    refine if_pos ?_
    rcases hwait lock pd a rfl with h1 | h1 <;> simp [h1]

/-! ## Dispatch -/

section
variable {ag : Agent} {q : W64} {s1 s2 : State} {x : Queue} {h : HeadEntry} {r : TaskRec}

/-- What a slot makes of the head of its queue, once its record has been read. -/
theorem dispatch_eq (hq : w.queue = some q) (hh : s.headEntry ag q.toNat = .ok (s1, x, some h)) (hs : h.state % 4 = 2)
    (ho : h.owner % 64 = 0) (hr : s1.taskRec ag h.owner = .ok (s2, r)) :
    s.dispatch u w ag = if !s2.takeable ag.ctx h.owner r then (if r.st = 4 then s else s2.popEntry ag q.toNat h)
      else if !s2.fits w h.owner r then s
      else ((((s2.popEntry ag q.toNat h).dropStale ag.ctx h.owner r).putState ag h.owner 0 1).runTask u ag h.owner r r.prio
        []).acquire ag .ten := by
  unfold State.dispatch
  rw [hq]
  dsimp only
  rw [hh]
  dsimp only
  rw [if_neg (not_not_intro hs), if_pos ho, hr]

end

/-! ## Tasks that stood aside (R96) -/

/-- One whose area lies in its ranges and names no further helper runs again alone. -/
theorem resumeTask_alone {ag : Agent} {k t : TaskCtx} {s2 : State} (hi : s.readImage ag k [] = (s2, t, []))
    (hok : s2.imageOk ag k t = true) : s.resumeTask u ag k [] false =
      (s2.modWave u (fun w => { w with task := t.still, chain := [], ended := none })).acquire ag .ten := by
  unfold State.resumeTask
  rw [List.map_nil, hi]
  dsimp only
  rw [hok]
  rfl

/-! ## ADOPTION_END -/

/-- The only helper of a wave whose running task has left is the one whose adoption ends. -/
theorem endingHelper_only {h : Helper} (hd : s.drained u = true) (hh : w.halted = false) (hs : w.stop = none)
    (he : w.ended ≠ none) (hdepth : w.depth = 0) (ha : w.adopting = none) (hc : w.chain = [h]) :
    s.endingHelper u w = some (0, h) := by
  unfold State.endingHelper
  rw [if_pos (Option.isSome_iff_ne_none.mpr he), hd, hh, hs, hdepth, ha, hc]
  rfl

/-- It is restored from its park area alone. -/
theorem resumeHelper_only {h : Helper} (he : w.ended ≠ none) (hc : w.chain = [h]) :
    s.resumeHelper u w 0 h =
      let ag := s.agentOf w.group
      let s2 := (s.leaveWaits u).release ag .ten
      let s3 := s2.putState ag h.task.record.toNat 0 1
      let now := ((s3.wave u).map (·.chain)).getD w.chain
      s3.resumeTask u ag ((now[0]?).getD h).task (now.drop 1) (s2.badState ag h.task.record.toNat) := by
  unfold State.resumeHelper
  dsimp only
  rw [if_pos (Option.isSome_iff_ne_none.mpr he), hc]
  rfl

end

end Sys2Proof.Machine

namespace Sys2Proof.Proofs.Slots

open Sys2Proof.Machine

/-- Settles O27: each event finds the case that the statement's premises name. -/
theorem slotsAndSegments : Obligations.SlotsAndSegments := by
  unfold Obligations.SlotsAndSegments
  refine ⟨⟨?_, ?_⟩, ?_, ?_⟩
  · intro s s1 s2 core wid u w w1 q h r x k t y hw hd hh hs he hc hx ag rootWaits
    have hslot : LeftSlot s core wid u w := ⟨hw, hd, hh, hs, he, hc, hx⟩
    refine ⟨fun ⟨hnone, hwait, hpark⟩ hq hhead hst ho hrec => ?_, ?_⟩
    · have hgo : exec (.slotTakeTask core wid) s = .next (s.dispatch u w ag) := hslot.dispatches hq hnone hwait hpark
      rw [hgo, dispatch_eq hq hhead hst ho hrec]
      refine ⟨fun ht hf => ?_, fun ht hf => ?_, fun ht h4 => ?_⟩
      · rw [ht, hf]
        rfl
      · rw [ht, hf]
        rfl
      · rw [ht]
        exact congrArg _ (if_neg h4)
    · intro k0 hr hwait hpark s0 hw1 hr1 himg hbad hok
      refine (hslot.resumes hr hwait hpark).trans ?_
      have hkept : (((s0.wave u).bind (·.root)).map (·.1)).getD k0 = k := by rw [hw1, Option.bind_some, hr1]; rfl
      unfold State.resumeRoot
      dsimp only
      rw [show (((State.wave _ u).bind (·.root)).map (·.1)).getD k0 = k from hkept, hbad, resumeTask_alone himg hok]
  · intro s s4 s6 core wid u w w3 w5 h h3 t v hw hwu hd hh hs he hdepth ha hc ag s2 s3 hw3 hc3 hbad himg hok s5 hw5 he5
    have hres : s.resumeHelper u w 0 h = s5 := by
      rw [resumeHelper_only he hc]
      dsimp only
      rw [show State.wave _ u = some w3 from hw3, hbad]
      show s3.resumeTask u ag ((w3.chain[0]?).getD h).task (w3.chain.drop 1) false = _
      rw [hc3]
      exact resumeTask_alone himg hok
    have hgo : exec (.adoptionEnd core wid) s = .next (s5.helperGoesOn u h) := by
      show execAdoptionEnd core wid s = _
      unfold execAdoptionEnd State.settleAdoption
      rw [hw]
      dsimp only
      rw [hwu, Option.map_some, hc, Option.getD_some, List.length_singleton, State.endAdoption, hwu]
      dsimp only
      rw [endingHelper_only hd hh hs he hdepth ha hc]
      dsimp only
      rw [hres, State.endAdoption]
    rw [hgo]
    unfold State.helperGoesOn
    rw [hw5]
    dsimp only
    rw [he5, if_neg (by simp)]
    refine ⟨fun hst => ?_, fun hst hp hdec => ?_⟩
    · rw [hst]
    · rw [hst]
      dsimp only
      rw [hp, if_neg (by simp), hdec]
  · intro s ctx tr p a mine hfind hwaits hready s1
    show execWaitableReady ctx tr s = _
    have hgo : (!p.past && !s.waitReady (s.agentFor ctx) a.toNat) = false := by
      rcases hready with h | h <;> simp [h]
    unfold execWaitableReady
    dsimp only
    rw [show s.kiln.parked.find? _ = some p from hfind]
    dsimp only
    rw [hwaits]
    dsimp only
    rw [hgo, if_neg Bool.false_ne_true]
  · intro s s1 s2 ctx queue seg next first c q hup hctx held hheld hq hseg h64 hfree hquota ag s3 listed pushed
    have hwork : (!s.kilnUp || !(s.kiln.heldPushes.any held || s.pendingPushes.contains (ctx, queue))) = false := by
      rcases hheld with h | h
      · rw [hup, h]
        rfl
      · rw [hup, List.contains_iff_mem.mpr h, Bool.or_true]
        rfl
    have hroom : ¬(seg = 0 ∨ seg % 64 ≠ 0 ∨ (!c.arenaFree seg q.segSize) = true ∨
        2 ^ 28 < (s.tenant c.tenant).quotaUsed + q.segSize) := by
      rw [hfree]
      rintro (h | h | h | h)
      · exact hseg h
      · exact h h64
      · cases h
      · exact absurd hquota (Nat.not_le.mpr h)
    refine ⟨fun ht => ?_, fun ht hsg hper => ⟨fun hsp => ?_, fun hh hpop => ?_⟩⟩
    · show execSegmentLink ctx queue seg s = _
      have hspent : (q.tail != 0 && q.head == q.tail && decide (q.per ≤ q.pop - 0)) = false := by rw [ht]; rfl
      unfold execSegmentLink
      dsimp only
      rw [hwork, if_neg Bool.false_ne_true, hctx, hq]
      dsimp only
      rw [if_pos ht]
      dsimp only
      rw [if_neg hroom, hspent, if_pos ht, if_pos (show q.tail = 0 ∨ false = true from .inl ht)]
      rfl
    · show execSegmentLink ctx queue seg s = _
      have hspent : (q.tail != 0 && q.head == q.tail && decide (q.per ≤ q.pop - first)) = false := by
        rcases hsp with h | h
        · simp [h]
        · simp [Nat.not_le.mpr h]
      unfold execSegmentLink
      dsimp only
      rw [hwork, if_neg Bool.false_ne_true, hctx, hq]
      dsimp only
      rw [if_neg ht, hsg]
      dsimp only
      rw [if_pos hper]
      dsimp only
      rw [if_neg hroom, hspent, if_neg ht, if_neg (show ¬(q.tail = 0 ∨ false = true) by simp [ht])]
      rfl
    · show execSegmentLink ctx queue seg s = _
      have hspent : (q.tail != 0 && q.head == q.tail && decide (q.per ≤ q.pop - first)) = true := by simp [ht, hh, hpop]
      unfold execSegmentLink
      dsimp only
      rw [hwork, if_neg Bool.false_ne_true, hctx, hq]
      dsimp only
      rw [if_neg ht, hsg]
      dsimp only
      rw [if_pos hper]
      dsimp only
      rw [if_neg hroom, hspent, if_neg ht, if_pos (show q.tail = 0 ∨ true = true from .inr rfl)]
      rfl

end Sys2Proof.Proofs.Slots
end

