-- ==== Sys2Proof/Proofs/SpanBarriers.lean ====
section
/-! PROOF. The span instructions (O28). -/

namespace Sys2Proof.Proofs.SpanBarriers

set_option Elab.async false

open Sys2Proof.Machine

/-- Settles O28: an arrival counts and settles the span, a detachment marks the group, and `span.peer` reads a member's state by
where it stands. -/
theorem spanInstructions : Obligations.SpanInstructions := by
  unfold Obligations.SpanInstructions
  refine ⟨fun s g e hn => ?_, fun s g d a e h => ?_, fun s g m c x hx hc => ⟨fun hm => ?_, fun hm hg hd hdet hfr hex => ?_,
    fun hm hg hr => ?_⟩⟩
  · intro sc ph t
    refine ⟨fun h hb hw => ?_, fun h hb hw => ?_, fun h hq hd => ?_⟩
    · refine (exec_spanArrive ..).trans (runOrdered_leads h hb ?_)
      rw [hw, if_neg hn]
      rfl
    · refine (exec_spanSync ..).trans (runWaitOrdered_waits h hb ?_)
      rw [hw, if_neg hn]
      rfl
    · show execSpanDetach g s = _
      unfold execSpanDetach
      rw [h.env]
      dsimp only
      rw [hq, Bool.and_false, if_neg Bool.false_ne_true]
      refine (runShort_reads h ?_ h.reads.clean).trans rfl
      rw [hd, if_neg (by simpa using hn)]
  · exact gives32_of_run32 h (exec_spanPeer g d a s) fun _ => rfl
  · rw [State.peer, hm]
    rfl
  · have hcore : s.coreOf g = c := by rw [State.coreOf, hx, Option.bind_some, hc]; rfl
    rw [State.peer, hm, hg, hd, hcore]
    simp [hc, hdet, hfr, hex]
  · rw [State.peer, hm, hg, hr]
    rfl

end Sys2Proof.Proofs.SpanBarriers
end

