-- ==== Sys2Proof/Proofs/Tokens.lean ====
section
/-! PROOF. Crews and the ownership token (O29). -/

namespace Sys2Proof.Proofs.Tokens

set_option Elab.async false

open Sys2Proof.Machine

/-- Settles O29: each instruction passes its checks under the statement's premises, and the first taker is served. -/
theorem crewAndToken : Obligations.CrewAndToken := by
  unfold Obligations.CrewAndToken
  refine ⟨fun s g a b e l c x hl => ?_, fun s k g c p u r => ⟨fun hc => ?_, fun ht htk => ?_⟩⟩
  · intro k me n busy
    have hn : e.part ≠ 0 := Env.part_ne_zero hl
    refine ⟨fun h hb => ?_, fun h hc => ⟨fun ht => ?_, fun ht htk hch => ?_, fun ht hbusy => ?_⟩,
      fun hbeh hc ht => ⟨fun h => ?_, fun h hnc hcrew => ?_⟩⟩
    · refine (exec_crewSet ..).trans ((runShort_reads h.toExecutes ?_ h.clean).trans rfl)
      rw [hl]
      dsimp only
      rw [hb, if_neg Bool.false_ne_true]
    · refine (exec_tokTake ..).trans (runWait_reads h.toExecutes h.quiet ?_ h.clean)
      rw [if_neg hn, hc]
      exact if_pos ht
    · refine (exec_tokTake ..).trans (runWait_reads h.toExecutes h.quiet ?_ h.clean)
      rw [if_neg hn, hc]
      dsimp only
      rw [if_neg (by rw [ht]; nofun), if_pos ⟨ht, htk, hch⟩]
    · refine (exec_tokTake ..).trans (runWait_reads h.toExecutes h.quiet ?_ h.clean)
      have hnot : ¬((s.core k).token = none ∧ (s.core k).takers = [] ∧ s.sched.changes = none) := by
        rintro ⟨h1, h2, h3⟩
        exact hbusy.elim (fun hx => hx h1) (fun hx => hx.elim (fun hx => hx h2) (fun hx => hx h3))
      rw [if_neg hn, hc]
      dsimp only
      rw [if_neg ht, if_neg hnot]
    · refine (exec_tokGive ..).trans (runOrdered_leads h hbeh ?_)
      rw [hl]
      dsimp only
      rw [hc]
      dsimp only
      rw [if_neg (not_not_intro ht), if_neg Bool.false_ne_true]
    · refine (exec_tokGive ..).trans (runOrdered_leads h hbeh ?_)
      have hok : ¬(n = c ∨ (s.crew e.w.group n).isNone = true) := by
        rintro (h1 | h1)
        · exact hnc h1
        · rw [Option.isNone_iff_eq_none.mp h1] at hcrew
          cases hcrew
      rw [hl]
      dsimp only
      rw [hc]
      dsimp only
      rw [if_neg (not_not_intro ht), if_pos rfl, if_neg hok]
  · rw [State.change, hc]
    rfl
  · rw [State.tokServe, ht, htk]

end Sys2Proof.Proofs.Tokens
end

