-- ==== Sys2Proof/Proofs/Matrix.lean ====
section
/-! PROOF. Matrix instructions at issue (O30), and joint operations that enter the array and finish (O31). -/

namespace Sys2Proof.Machine

set_option Elab.async false

/-- A member's checks pass under the premises that R402, R403 and R405 name. -/
theorem mmaBad_none {s : State} {e : Env} {g : Guard} {a : Opd} {m : MmaMods} {sparse : Bool} {l c : Nat} {x : Crew}
    (hg : guardAlways g = true) (hl : e.leader = some l) (hw : e.w.task.wide ≠ none) (hc : s.crewOf e.w = some (c, x))
    (h256 : (e.w.rd a l).toNat % 256 = 0) (hs : (e.w.rd a l).toNat + 8192 ≤ s.spadSize e.w.group)
    (ht : m.tile.val < accUnits (s.poolOf e.w.group))
    (hx : ∀ y ∈ x.latch, y.mods.slot = m.slot ∧ y.mods.afmt = m.afmt ∧ y.mods.rotb = m.rotb ∧ y.sparse = sparse) :
    s.mmaBad e g a m sparse = none := by
  have hwide : e.w.task.wide.isNone = false := Option.isNone_eq_false_iff.mpr (Option.isSome_iff_ne_none.mpr hw)
  have hsame : x.latch.any (fun y => !sameB y m sparse) = false := by
    rw [List.any_eq_false]
    intro y hy
    obtain ⟨h1, h2, h3, h4⟩ := hx y hy
    simp [sameB, h1, h2, h3, h4]
  have haddr : ¬((e.w.rd a l).toNat % 256 ≠ 0 ∨ s.spadSize e.w.group < (e.w.rd a l).toNat + 8192) := by omega
  unfold State.mmaBad
  rw [show guardOther g = false by rw [guardOther, hg]; rfl, hwide, hc, hl]
  dsimp only
  rw [hsame, if_neg (Nat.not_le.mpr ht), if_neg haddr]
  rfl

/-- In a latch that no wave has reached twice every arrival is a first one. -/
theorem firsts_of_nodup : ∀ {l : List Arrival}, (l.map (·.wave)).Nodup → firsts l = l
  | [], _ => rfl
  | a :: r, h => by
    rw [List.map_cons, List.nodup_cons] at h
    obtain ⟨ha, hr⟩ := h
    rw [firsts, firsts_of_nodup hr, List.filter_eq_self.mpr]
    intro b hb
    simp only [bne_iff_ne, ne_eq]
    exact fun he => ha (he ▸ List.mem_map_of_mem hb)

end Sys2Proof.Machine

namespace Sys2Proof.Proofs.Matrix

open Sys2Proof.Machine

/-- A member that passes its checks arrives in its crew's latch. -/
theorem runMma_arrives {s : State} {i : Instr} {g : Guard} {a : Opd} {m : MmaMods} {sparse : Bool} {e : Env} {l c : Nat} {x : Crew}
    (h : LeadIssues s g m.fs [] [(a, 1)] e) (hl : e.leader = some l) (hc : s.crewOf e.w = some (c, x))
    (hb : s.mmaBad e g a m sparse = none) :
    runMma i g a m sparse s = .next ((s.takeUid.2.modWave e.u (fun w =>
         ({ w.raise e.sl (e.flag m.fs) with ops := w.ops ++ [e.op i s.takeUid.1 (e.flag m.fs) [(a, 1)] []] } : Wave).modSlices e.st
             (fun y => { y with wait := some .latch, clause := y.clause.map (fun c => { c with young := false }) }))).arrive
      e.w.group c ⟨e.u, s.takeUid.1, ((bitsOf x.mask).filter (fun j => decide (j < e.w.idx))).length, m, sparse,
        (e.w.rd a l).toNat⟩) := by
  have hp : e.w.poisonLane [(a, 1)] (maskOf e.leader.toList) = none := h.clean
  unfold runMma
  rw [h.env]
  dsimp only
  rw [h.guard, if_neg Bool.false_ne_true, h.flag, if_neg Bool.false_ne_true, hb]
  dsimp only
  rw [hp, hc, hl]

/-- Settles O30: the checks at issue pass, and the operation enters the latch or the array. -/
theorem matrixIssues : Obligations.MatrixIssues := by
  unfold Obligations.MatrixIssues
  constructor
  · intro s g a m e l c x h hg hl hw hc adr h256 hs ht sparse hx i k
    have hb : s.mmaBad e g a m sparse = none := mmaBad_none hg hl hw hc h256 hs ht hx
    cases sparse
    · exact (exec_mma ..).trans (runMma_arrives h hl hc hb)
    · exact (exec_mmas ..).trans (runMma_arrives h hl hc hb)
  · intro s g a b w m e l hl x y enter
    have hn : e.part ≠ 0 := Env.part_ne_zero hl
    refine ⟨fun h hb hu => ?_, fun ht => ⟨fun h => ?_, fun h hb => ⟨?_, ?_⟩⟩⟩
    · refine (exec_wbload ..).trans ?_
      unfold execWbload
      refine (issueWith_issues h.toExecutes h.flag rfl (t := s) ?_ h.clean hn).trans rfl
      rw [hl]
      dsimp only
      rw [hb, if_neg Bool.false_ne_true, ceiling_uncapped hu, ite_self]
    · refine (exec_accz ..).trans ?_
      unfold execAccz
      refine (issueWith_issues h.toExecutes h.flag rfl (t := s) ?_ h.clean hn).trans rfl
      rw [hl]
      exact if_neg (Nat.not_le.mpr ht)
    · refine (exec_accld ..).trans ?_
      unfold execAccld
      refine (issueWith_issues h.toExecutes h.flag rfl (t := s) ?_ h.clean hn).trans rfl
      rw [hl]
      dsimp only
      rw [hb, if_neg Bool.false_ne_true]
    · refine (exec_accst ..).trans ?_
      unfold execAccst
      refine (issueWith_issues h.toExecutes h.flag rfl (t := s) ?_ h.clean hn).trans rfl
      rw [hl]
      dsimp only
      rw [hb, if_neg Bool.false_ne_true]

/-- Settles O31: what the two events find where a crew's first arrivals stand in its latch, and where a joint operation is the
first of the array. -/
theorem matrixEvents : Obligations.MatrixEvents := by
  unfold Obligations.MatrixEvents
  constructor
  · intro s core grp c g x a r hg hx hf l joint
    refine ⟨fun hstay => ?_, fun hcore hformed htok hfew hbad hpois => ?_, firsts_of_nodup⟩
    · show execMatrixEntry core grp c s = _
      unfold execMatrixEntry
      rw [hg, hx]
      dsimp only
      rw [hf]
      refine if_pos (.inr ?_)
      exact hstay.imp (fun h => by rw [h]; rfl) id
    · show execMatrixEntry core grp c s = _
      have hgo : ¬(g.core ≠ some core ∨ (!x.formed) = true ∨ (s.core core).token ≠ some (grp, c) ∨
          4 ≤ ((s.core core).array.filter joint).length) := by
        rintro (h | h | h | h)
        · exact h hcore
        · rw [hformed] at h; cases h
        · exact h htok
        · exact absurd hfew (Nat.not_lt.mpr h)
      unfold execMatrixEntry
      rw [hg, hx]
      dsimp only
      rw [hf]
      refine (if_neg hgo).trans ?_
      rw [show entryBad _ grp (a :: r) = none from hbad, show poisonedMembers g _ (a :: r) = [] from hpois]
      rfl
  · intro s core grp c sp a r rest ha hold b s1
    have hdue : (a :: r).any (fun z => ((s.wave z.wave).map (fun w => w.olderThan z.op)).getD false) = false := by
      rw [List.any_eq_false]
      intro z hz
      cases hw : s.wave z.wave with
      | none => simp
      | some w => simp [hold z hz w hw]
    have hgo : execMatrixOpFinish core s = .next (match b.bad with
        | some g => (a :: r).foldl (fun s z => s.memberDone z (some (1, 8 * g + a.mods.slot.val))) s1
        | none =>
          if !b.poison.isEmpty then (a :: r).foldl (fun s z => s.memberDone z (some (10, a.mods.slot.val))) s1
          else (a :: r).foldl (fun s z => s.memberCompute grp z b) s1) := by
      unfold execMatrixOpFinish
      dsimp only
      rw [ha]
      simp only [List.find?_cons, List.takeWhile_cons, Bool.not_true, Bool.false_eq_true, if_false, List.any_nil, hdue, Bool.or_false]
      rfl
    refine ⟨fun hb hp => ?_, fun n hb => ?_, fun hb hp => ?_⟩
    · refine hgo.trans ?_
      rw [hb, hp]
      rfl
    · refine hgo.trans ?_
      rw [hb]
    · refine hgo.trans ?_
      rw [hb]
      exact congrArg _ (if_pos (by simpa using hp))

end Sys2Proof.Proofs.Matrix
end

/-! PROOFS. Special registers and `halt` (R308 to R310, R315). -/

namespace Sys2Proof.Machine
set_option Elab.async false

/-! ## Bits of a word as a number -/

theorem getLsbD_zero_eq_mod {n : Nat} (x : BitVec n) : x.getLsbD 0 = (x.toNat % 2 == 1) := by
  rw [BitVec.getLsbD, Nat.testBit_zero]
  rfl

theorem getLsbD_one_eq_mod {n : Nat} (x : BitVec n) : x.getLsbD 1 = (x.toNat / 2 % 2 == 1) := by
  rw [BitVec.getLsbD, Nat.testBit_succ, Nat.testBit_zero]
  rfl

section
variable {s : State} {g : Guard} {d a : Opd} {sreg : Byte} {e : Env} {l : Nat}

/-! ## `sget` -/

/-- A special register that R309 lists is not refused in any lane. -/
theorem special_listed (hs : (s.special e.w sreg.toNat 0).isSome = true) :
    ¬(e.part ≠ 0 ∧ (s.special e.w sreg.toNat 0).isNone) := by
  rintro ⟨-, hn⟩
  rw [Option.isNone_iff_eq_none.mp hn] at hs
  cases hs

theorem sget_gives32 (h : Executes s g [(d, 1)] e) (hs : (s.special e.w sreg.toNat 0).isSome = true)
    (h64 : sregIs64 sreg.toNat = false) :
    Gives32 s e (.sget g d sreg) d (fun j => BitVec.ofNat 32 ((s.special e.w sreg.toNat j).getD 0)) := by
  have hex : Executes s g [(d, if sregIs64 sreg.toNat then 2 else 1)] e := by rw [h64]; exact h
  rw [Gives32, exec_sget, execSget]
  refine (runShort_reads hex (if_neg (special_listed hs)) hex.reads.clean).trans ?_
  rw [h64]
  rfl

theorem sget_gives64 (h : Executes s g [(d, 2)] e) (hs : (s.special e.w sreg.toNat 0).isSome = true)
    (h64 : sregIs64 sreg.toNat = true) :
    Gives64 s e (.sget g d sreg) d (fun j => BitVec.ofNat 64 ((s.special e.w sreg.toNat j).getD 0)) := by
  have hex : Executes s g [(d, if sregIs64 sreg.toNat then 2 else 1)] e := by rw [h64]; exact h
  rw [Gives64, exec_sget, execSget]
  refine (runShort_reads hex (if_neg (special_listed hs)) hex.reads.clean).trans ?_
  rw [h64]
  rfl

/-! ## `sset` -/

/-- A write of `sset` that its register permits is made, and the strand passes. -/
theorem sset_writes {t : State} {n : Nat} (hl : e.leader = some l) (h : Leads s g [] [(a, n)] e)
    (hn : (if sregIs64 sreg.toNat then 2 else 1) = n) (hrw : sreg.toNat = 0x20 ∨ sreg.toNat = 0x29 ∨ sreg.toNat = 0x30)
    (hw : s.ssetWrite e sreg.toNat (if sregIs64 sreg.toNat then (e.w.rdq a l).toNat else (e.w.rd a l).toNat) = some t) :
    exec (.sset g a sreg) s = .next (t.next e (.sset g a sreg)) := by
  have hlisted : ¬(s.special e.w sreg.toNat 0).isNone = true := by
    rcases hrw with hc | hc | hc <;> rw [hc] <;> exact Bool.false_ne_true
  have hkind : ¬(sreg.toNat ≠ 0x20 ∧ sreg.toNat ≠ 0x29 ∧ sreg.toNat ≠ 0x30) := by omega
  rw [exec_sset, execSset, hn]
  refine runShort_reads (adv := true) h.toExecutes ?_ h.clean
  simp only [hl, if_neg hlisted, if_neg hkind, hw]

theorem sset_trapbase (hl : e.leader = some l) (hc : sreg.toNat = 0x20) (h : Leads s g [] [(a, 2)] e) (hd : e.w.depth ≠ 1)
    (hok : codeAddrOk (e.w.rdq a l).toNat = true) :
    exec (.sset g a sreg) s =
      .next ((s.modWave e.u (fun w => { w with trapbase := (e.w.rdq a l).toNat })).next e (.sset g a sreg)) := by
  refine sset_writes hl h (by rw [hc]; rfl) (.inl hc) ?_
  rw [hc]
  exact (if_pos hok).trans (if_neg hd)

theorem sset_scopenote (hl : e.leader = some l) (hc : sreg.toNat = 0x29) (h : Leads s g [] [(a, 1)] e) :
    exec (.sset g a sreg) s =
      .next ((s.modWave e.u (fun w => { w with note := w.note && (e.w.rd a l).getLsbD 0 })).next e (.sset g a sreg)) := by
  refine sset_writes hl h (by rw [hc]; rfl) (.inr (.inl hc)) ?_
  rw [hc, getLsbD_zero_eq_mod]
  rfl

theorem sset_dbgctl (hl : e.leader = some l) (hc : sreg.toNat = 0x30) (h : Leads s g [] [(a, 1)] e) :
    exec (.sset g a sreg) s = .next ((s.modWave e.u (fun w => { w with
      clstep := (((s.ctx e.ag.ctx).map (·.att)).getD false) && (e.w.rd a l).getLsbD 1
      brkstop := (((s.ctx e.ag.ctx).map (·.att)).getD false) && (e.w.rd a l).getLsbD 0 })).next e (.sset g a sreg)) := by
  refine sset_writes hl h (by rw [hc]; rfl) (.inr (.inr hc)) ?_
  rw [hc, getLsbD_zero_eq_mod, getLsbD_one_eq_mod]
  rfl

/-! ## `halt` -/

theorem halt_attached (h : Executes s g [] e) (hp : e.part ≠ 0) (hatt : ((s.ctx e.ag.ctx).map (·.att)).getD false = true) :
    exec (.halt g) s = .next ((s.next e (.halt g)).modWave e.u (fun w => { w with halted := true })) := by
  rw [exec_halt, execHalt]
  exact runShort_reads h ((if_neg hp).trans (if_neg (by rw [hatt]; exact Bool.false_ne_true))) h.reads.clean

theorem halt_unattached (h : Executes s g [] e) (hp : e.part ≠ 0) (hatt : ((s.ctx e.ag.ctx).map (·.att)).getD false = false) :
    exec (.halt g) s = .next (s.stopAt e none (illegal 0x11 2)) := by
  rw [exec_halt, execHalt]
  unfold runShort
  rw [h.env]
  dsimp only
  rw [h.guard, h.free, hatt, if_neg hp]
  rfl

end

/-- Settles O35: a register of R309 is read in every lane, the registers of type RW are written from the leader, and `halt`
needs a debugger. -/
theorem specialRegisters : Obligations.SpecialRegisters := by
  unfold Obligations.SpecialRegisters
  intro s g d a sreg e l code put att
  refine ⟨fun hs => ⟨fun h => sget_gives32 h hs, fun h => sget_gives64 h hs⟩, ⟨rfl, rfl, rfl, rfl, rfl, rfl⟩,
    fun hl => ⟨sset_trapbase hl, sset_scopenote hl, sset_dbgctl hl⟩, fun h hp => ⟨halt_attached h hp, halt_unattached h hp⟩⟩

end Sys2Proof.Machine

/-! PROOFS. A clause starts, waits or traps; reserved encodings (R187, R188, R394, R395, R398, R411). -/

namespace Sys2Proof.Machine
set_option Elab.async false

/-- A strand of a wave that is awake stands at a clause boundary: it has lanes, no clause and no wait. -/
structure AtClause (s : State) (e : Env) : Prop where
  env : s.env ⟨false, 0⟩ = some e
  clause : (e.w.slice ((bitsOf e.st).headD 0)).clause = none
  wait : (e.w.slice ((bitsOf e.st).headD 0)).wait = none
  act : e.act ≠ 0
  awake : s.awake e.w = true

namespace AtClause
variable {s s1 s2 : State} {e : Env} (hat : AtClause s e) {h : W32} {er : MemErr} {ws : List W32}
include hat

theorem goes_on : ¬((e.w.slice ((bitsOf e.st).headD 0)).clause.isSome || (e.w.slice ((bitsOf e.st).headD 0)).wait.isSome ||
    e.act == 0 || !s.awake e.w) = true := by
  rw [hat.clause, hat.wait, hat.awake, beq_eq_false_iff_ne.mpr hat.act]
  exact Bool.false_ne_true

theorem unfetched (hf : s.fetchWord e.u e.ag e.pc = .error er) :
    exec .clauseStart s = .next (s.stopStart e (memBad er false true 0xFF e.pc)) := by
  rw [exec_clauseStart, execClauseStart, hat.env]
  dsimp only
  rw [if_neg hat.goes_on, hf]

section
variable (hf : s.fetchWord e.u e.ag e.pc = .ok (s1, h))
include hf

theorem waits (hw : e.w.waitClear e.sl (hdrWait h) = false) : exec .clauseStart s = .next s1 := by
  rw [exec_clauseStart, execClauseStart, hat.env]
  dsimp only
  rw [if_neg hat.goes_on, hf]
  dsimp only
  rw [hw]
  rfl

variable (hw : e.w.waitClear e.sl (hdrWait h) = true) (hr : s1.reportAt e.u (fun x => x.atClause e.st (hdrWait h)) = none)
include hw hr

theorem malformed (hok : hdrOk h = false) : exec .clauseStart s = .next (s1.stopStart e (illegal 0x03 1)) := by
  rw [exec_clauseStart, execClauseStart, hat.env]
  dsimp only
  rw [if_neg hat.goes_on, hf]
  dsimp only
  rw [hw, Bool.not_true, if_neg Bool.false_ne_true, hr, hok]
  rfl

/-- The slices of a strand that stands together hold the words behind the header. -/
theorem starts {w : Wave} (hok : hdrOk h = true) (htok : hdrToken h = false) (hwave : s1.wave e.u = some w)
    (hpc : ∀ i ∈ bitsOf e.st, (w.slice i).pc = e.pc)
    (hws : s1.fetchWords e.u e.ag ((e.pc + 4) % 2 ^ 56) (hdrLen h) = .ok (s2, ws)) :
    exec .clauseStart s = .next (s2.modWave e.u (fun w => (w.modSlices e.st (fun y =>
      { y with pc := e.pc + 4, clause := some ⟨ws, hdrSeta h, hdrSetb h, hdrYield h⟩ })).loopKeep e.pc (h :: ws))) := by
  have hstand : ¬(bitsOf e.st).any (fun i => (w.slice i).pc != e.pc) = true := by
    simp only [List.any_eq_true, bne_iff_ne, not_exists, not_and, not_not]
    exact hpc
  rw [exec_clauseStart, execClauseStart, hat.env]
  dsimp only
  rw [if_neg hat.goes_on, hf]
  dsimp only
  rw [hw, Bool.not_true, if_neg Bool.false_ne_true, hr, hok, htok]
  dsimp only [Bool.not_true]
  simp only [Bool.false_eq_true, if_false]
  rw [hwave]
  dsimp only
  rw [if_neg hstand, hws] <;> rfl

end
end AtClause

/-- A reserved encoding traps with the code and the detail of its kind. -/
theorem unassigned_stops {s : State} {e : Env} (maj : BitVec 7) (he : s.env s.guardHere = some e) :
    let flag := (rejectFlag e.clause.rest).bind (flagOf e.clause)
    exec (.unassignedEncoding maj none) s = .next (s.stopAt e flag ⟨2, 1, 0, 0xFF, none⟩) ∧
    ∀ sub, exec (.unassignedEncoding maj (some sub)) s = .next (s.stopAt e flag ⟨2, 2, maj.toNat, 0xFF, none⟩) := by
  have hstop (r : Reject) : s.rejectAt s.guardHere r =
      .next (s.stopAt e ((rejectFlag e.clause.rest).bind (flagOf e.clause)) ⟨2, r.causeCode, r.detail, 0xFF, none⟩) := by
    rw [State.rejectAt, he]
  exact ⟨hstop _, fun _ => hstop _⟩

/-- Settles O37: the start of a clause, by what the header's fetch and its fields say, and the two reserved encodings. -/
theorem clauseStarts : Obligations.ClauseStarts := by
  unfold Obligations.ClauseStarts
  intro s s1 s2 e h er ws maj sub
  refine ⟨fun henv hc hwt ha haw => ?_, fun he => ?_⟩
  · have hat : AtClause s e := ⟨henv, hc, hwt, ha, haw⟩
    exact ⟨hat.unfetched, fun hf => ⟨hat.waits hf, fun hw hr => ⟨hat.malformed hf hw hr,
      fun _ hok htok hwave hpc hws => hat.starts hf hw hr hok htok hwave hpc hws⟩⟩⟩
  · obtain ⟨hmajor, hsub⟩ := unassigned_stops maj he
    exact ⟨hmajor, hsub sub⟩

end Sys2Proof.Machine

/-! PROOFS. Doorbells and the records of host queues (R61, R366, R444, R450). -/

namespace Sys2Proof.Machine
set_option Elab.async false

/-- Changing a host queue of a context. -/
def State.modHostQueue (s : State) (ctx queue : Nat) (f : HostQueue → HostQueue) : State :=
  s.modCtx ctx (fun c => { c with queues := Tab.modify c.queues queue f })

/-- KILN has advanced the read index of a queue. -/
def State.advanceQueue (s : State) (ctx queue : Nat) (q : HostQueue) : State :=
  (s.modHostQueue ctx queue (fun q => { q with read := q.read + 1 })).kilnWrite ctx .sys (q.header + 0x10) (leBytes (q.read + 1) 8)

theorem HostQueue.tooFar_iff (q : HostQueue) (w : Nat) : q.tooFar w = true ↔ 2 ^ q.log2 < (w + 2 ^ 64 - q.read) % 2 ^ 64 :=
  decide_eq_true_iff

section
variable {s s1 : State} {fn ctx queue : Nat} {value : W32} {c : Ctx} {q : HostQueue} {bs : List Byte}
  (hc : s.ctx ctx = some c) (hq : Tab.find c.queues queue = some q)
include hc hq

theorem hostQueue_eq : (s.ctx ctx).bind (fun c => Tab.find c.queues queue) = some q := by
  rw [hc, Option.bind_some, hq]

/-! ## The doorbell -/

section
variable (hctx : value.toNat / 8 % 64 = ctx) (hqueue : value.toNat % 8 = queue)
include hctx hqueue

theorem doorbell_refused (h : c.tenant ≠ fn ∨ q.overrun = true) : exec (.doorbell fn value) s = .next s := by
  show execDoorbell fn value s = _
  unfold execDoorbell
  dsimp only
  rw [hctx, hqueue, hc]
  dsimp only
  rw [hq]
  exact if_pos h

theorem doorbell_rings (ht : c.tenant = fn) (ho : q.overrun = false) :
    exec (.doorbell fn value) s = .next (if s.kilnUp then
      (s.modHostQueue ctx queue (fun q => { q with rung := true })).readWriteIndex ctx queue
      else s.modHostQueue ctx queue (fun q => { q with rung := true })) := by
  have hpass : ¬(c.tenant ≠ fn ∨ q.overrun = true) := by simp [ht, ho]
  show execDoorbell fn value s = _
  unfold execDoorbell
  dsimp only
  rw [hctx, hqueue, hc]
  dsimp only
  rw [hq]
  exact if_neg hpass

end

/-! ## The write index -/

theorem readWriteIndex_reads (hobj : s.obj (s.agentFor ctx) .sys (q.header + 8) 8 = .ok (s1, bs)) :
    s.readWriteIndex ctx queue = if q.tooFar (leNat bs) then
        ((s1.acquire (s.agentFor ctx) .sys).modHostQueue ctx queue (fun q =>
          { q with write := leNat bs, rung := false })).overrunQueue ctx queue q.header
      else (s1.acquire (s.agentFor ctx) .sys).modHostQueue ctx queue (fun q => { q with write := leNat bs, rung := false }) := by
  unfold State.readWriteIndex
  rw [hostQueue_eq hc hq]
  dsimp only
  rw [hobj]
  rfl

/-! ## The next record -/

section
variable (hup : s.kilnUp = true) (hr : q.rung = false) (ho : q.overrun = false) (hne : q.read ≠ q.write)
include hup hr ho hne

/-- The turn of a queue with a record to read, by what stops it and by what its record is. -/
theorem hostQueueRecordRead_eq : exec (.hostQueueRecordRead ctx queue) s =
    if q.tooFar q.write then .next (s.overrunQueue ctx queue q.header)
    else if maxLive ≤ s.kiln.launches.length then .next s
    else .next (State.advanceQueue (match s.obj (s.agentFor ctx) .sys (q.ring + 64 * (q.read % 2 ^ q.log2)) 64 with
        | .error _ => s
        | .ok (s1, bs) => if s1.recordOk ctx bs then s1.accept .host (Record.ofBytes bs)
          else s1.rejectRecord ctx (Record.ofBytes bs)) ctx queue q) := by
  have hring : (s.kilnUp && ((s.ctx ctx).map (fun c => ((Tab.find c.queues queue).map (·.rung)).getD false)).getD false) =
      false := by
    rw [hc, Option.map_some, Option.getD_some, hq, Option.map_some, Option.getD_some, hr, Bool.and_false]
  have hgo : ¬(!s.kilnUp || q.overrun || q.read == q.write) = true := by
    rw [hup, ho, beq_eq_false_iff_ne.mpr hne]
    exact Bool.false_ne_true
  show execHostQueueRecordRead ctx queue s = _
  unfold execHostQueueRecordRead
  dsimp only
  rw [hring]
  simp only [Bool.false_eq_true, if_false]
  rw [hostQueue_eq hc hq]
  dsimp only
  exact if_neg hgo

theorem hostQueueRecordRead_record (hnear : ¬q.tooFar q.write = true) (hroom : s.kiln.launches.length < 4096)
    (hobj : s.obj (s.agentFor ctx) .sys (q.ring + 64 * (q.read % 2 ^ q.log2)) 64 = .ok (s1, bs)) :
    exec (.hostQueueRecordRead ctx queue) s = .next (State.advanceQueue (if s1.recordOk ctx bs then s1.accept .host (Record.ofBytes bs)
      else s1.rejectRecord ctx (Record.ofBytes bs)) ctx queue q) := by
  have hlive : ¬maxLive ≤ s.kiln.launches.length := Nat.not_le.mpr hroom
  rw [hostQueueRecordRead_eq hc hq hup hr ho hne, if_neg hnear, if_neg hlive, hobj]

theorem hostQueueRecordRead_full (hnear : ¬q.tooFar q.write = true) (hroom : 4096 ≤ s.kiln.launches.length) :
    exec (.hostQueueRecordRead ctx queue) s = .next s := by
  have hlive : maxLive ≤ s.kiln.launches.length := hroom
  rw [hostQueueRecordRead_eq hc hq hup hr ho hne, if_neg hnear, if_pos hlive]

end
end

/-- Settles O40: a doorbell, a write index and the next record, each by the branch that its hypotheses choose. -/
theorem hostQueues : Obligations.HostQueues := by
  unfold Obligations.HostQueues
  intro s s1 fn ctx queue value c q bs hc hq put ahead advance
  refine ⟨fun hctx hqueue => ⟨doorbell_refused hc hq hctx hqueue, fun ht ho => ⟨fun hup => ?_, fun hup => ?_⟩⟩, fun hobj => ?_,
    fun hup hr ho hne => ⟨fun hfar => ?_, fun hnear hroom hobj => ⟨fun hok => ?_, fun hok => ?_⟩, fun hnear hroom => ?_⟩⟩
  · rw [doorbell_rings hc hq hctx hqueue ht ho, hup]
    rfl
  · rw [doorbell_rings hc hq hctx hqueue ht ho, hup]
    rfl
  · rw [readWriteIndex_reads hc hq hobj]
    exact if_congr (q.tooFar_iff _) rfl rfl
  · rw [hostQueueRecordRead_eq hc hq hup hr ho hne, if_pos ((q.tooFar_iff _).mpr hfar)]
    rfl
  · have hbelow : ¬q.tooFar q.write = true := fun h => absurd ((q.tooFar_iff _).mp h) (Nat.not_lt.mpr hnear)
    rw [hostQueueRecordRead_record hc hq hup hr ho hne hbelow hroom hobj, if_pos hok]
    rfl
  · have hbelow : ¬q.tooFar q.write = true := fun h => absurd ((q.tooFar_iff _).mp h) (Nat.not_lt.mpr hnear)
    rw [hostQueueRecordRead_record hc hq hup hr ho hne hbelow hroom hobj, hok]
    rfl
  · have hbelow : ¬q.tooFar q.write = true := fun h => absurd ((q.tooFar_iff _).mp h) (Nat.not_lt.mpr hnear)
    exact hostQueueRecordRead_full hc hq hup hr ho hne hbelow hroom

end Sys2Proof.Machine

/-! PROOFS. Gangs are placed, restored, expired, marked and saved (R52, R54, R67 to R70). -/

namespace Sys2Proof.Machine
set_option Elab.async false

section
variable {s s1 : State} {arena save : List Nat} {l n gn : Nat} {x : Launch} {y : Gang} {spots : List (Nat × Nat)}

/-! ## Placing and restoring -/

theorem gangPlace_fits (hup : s.kilnUp = true) (hf : s.firstFitting = some (⟨l, n, none⟩, spots)) (hl : s.launch l = some x)
    (hm : s.takeMemory x.record arena save = some s1) :
    exec (.gangPlace arena save) s = .next (s1.placeGang l x n spots arena save) := by
  show execGangPlace arena save s = _
  unfold execGangPlace
  rw [hup, hf]
  simp only [Bool.not_true, Bool.false_eq_true, if_false, hl, hm]

theorem gangPlace_none (hup : s.kilnUp = true) (hf : s.firstFitting = none) : exec (.gangPlace arena save) s = .next s := by
  show execGangPlace arena save s = _
  unfold execGangPlace
  rw [hup, hf]
  rfl

theorem gangRestore_fits (hup : s.kilnUp = true) (hg : s.gang gn = some y)
    (hf : s.firstFitting = some (⟨l, n, some gn⟩, spots)) :
    exec (.gangRestore gn) s = .next (if s.gangWaits gn then s.hold else s.restoreGang gn y spots) := by
  show execGangRestore gn s = _
  unfold execGangRestore
  rw [hup, hf, hg]
  simp only [Bool.not_true, Bool.false_eq_true, if_false, ne_eq, not_true_eq_false]

/-! ## Gangs of one launch -/

section
variable (hg : s.gang gn = some y) (hl : s.launch y.launch = some x)
include hg hl

/-- A time slice has passed where the gang is Resident, its launch does not persist, and its 2,000,000 ticks are over. -/
theorem timeSliceExpiry_eq : exec (.timeSliceExpiry gn) s =
    if y.state = .resident ∧ x.record.persist = false ∧ y.since + 2000000 ≤ s.dev.tick then
      .next (s.modGang gn (fun z => { z with expired := true })) else .next s := by
  show execTimeSliceExpiry gn s = _
  unfold execTimeSliceExpiry
  rw [hg]
  simp only [hl, Option.map_some, Option.getD_some, Bool.not_eq_true', sliceTicks]

omit hg in
theorem spanOf_launch : s.spanOf y.launch = x.record.spanId := by
  rw [State.spanOf, hl, Option.map_some, Option.getD_some]

theorem together_alone (h0 : x.record.spanKey = 0) : s.together gn = [gn] := by
  unfold State.together
  rw [hg]
  dsimp only
  rw [spanOf_launch hl, Record.spanId, if_pos h0, if_pos rfl]

/-- Marking: a Resident gang of the chosen set, or of a span over several devices. -/
theorem gangPreempt_eq (hup : s.kilnUp = true) (hres : y.state = .resident) : exec (.gangPreempt gn) s =
    if gn ∈ s.victims ∨ (x.record.spanKey ≠ 0 ∧ 1 < x.record.spanDevices) then
      .next ((s.together gn).foldl (fun s g => s.modGang g (fun z => { z with marked := true })) s) else .next s := by
  have hset : ((x.record.spanKey != 0 && decide (1 < x.record.spanDevices)) || s.victims.contains gn) = true ↔
      (gn ∈ s.victims ∨ (x.record.spanKey ≠ 0 ∧ 1 < x.record.spanDevices)) := by
    rw [Bool.or_eq_true, Bool.and_eq_true, bne_iff_ne, decide_eq_true_eq, List.contains_iff_mem, or_comm]
  have hcond : ((!s.kilnUp) = true ∨ y.state ≠ .resident ∨
      (!((x.record.spanKey != 0 && decide (1 < x.record.spanDevices)) || s.victims.contains gn)) = true) ↔
      ¬(gn ∈ s.victims ∨ (x.record.spanKey ≠ 0 ∧ 1 < x.record.spanDevices)) := by
    rw [hup, Bool.not_eq_true' (_ || _), ← Bool.not_eq_true (_ || _), hset]
    simp only [Bool.not_true, Bool.false_eq_true, hres, ne_eq, not_true_eq_false, false_or]
  show execGangPreempt gn s = _
  unfold execGangPreempt
  rw [hg]
  dsimp only
  rw [hl]
  dsimp only
  rw [if_congr hcond rfl rfl, ite_not]

end

/-! ## Saving -/

/-- The groups of the gangs that are saved together. -/
def State.togetherGroups (s : State) (gn : Nat) : List (Nat × Group) :=
  s.kiln.groups.filter (fun z => (s.together gn).contains z.2.gang)

theorem mem_togetherGroups {z : Nat × Group} : z ∈ s.togetherGroups gn ↔ z ∈ s.kiln.groups ∧ z.2.gang ∈ s.together gn := by
  rw [State.togetherGroups, List.mem_filter, List.contains_iff_mem]

/-- Every gang that is saved with one is marked and Resident. -/
def State.allMarked (s : State) (gn : Nat) : Bool :=
  (s.together gn).all (fun g => ((s.gang g).map (fun y => y.marked && y.state == .resident)).getD false)

theorem allMarked_of_marked (h : ∀ g ∈ s.together gn, ∃ z, s.gang g = some z ∧ z.marked = true ∧ z.state = .resident) :
    s.allMarked gn = true := by
  rw [State.allMarked, List.all_eq_true]
  intro g hg
  obtain ⟨z, hz, hmark, hres⟩ := h g hg
  rw [hz, Option.map_some, Option.getD_some, hmark, hres]
  rfl

theorem allMarked_of_unmarked (h : ∃ g ∈ s.together gn, ∃ z, s.gang g = some z ∧ z.marked = false) : s.allMarked gn = false := by
  obtain ⟨g, hg, z, hz, hmark⟩ := h
  rw [State.allMarked, List.all_eq_false]
  refine ⟨g, hg, ?_⟩
  rw [hz, Option.map_some, Option.getD_some, hmark, Bool.false_and]
  exact Bool.false_ne_true

theorem gangSave_unmarked (h : s.allMarked gn = false) : exec (.gangSave gn) s = .next s := by
  show execGangSave gn s = _
  unfold execGangSave
  dsimp only
  exact if_pos (.inr (.inr (.inl ((Bool.not_eq_true' _).mpr h))))

section
variable (hg : s.gang gn = some y) (hl : s.launch y.launch = some x) (hup : s.kilnUp = true) (hne : s.together gn ≠ [])
  (hmark : s.allMarked gn = true)
  (hstop : ∀ z ∈ s.kiln.groups, z.2.gang ∈ s.together gn → ∀ w ∈ s.wavesOf z.1, s.waveStopped w.1 w.2 = true)
include hg hl hup hne hmark hstop

/-- The marked gangs, all stopped, are saved unless an area waits. -/
theorem gangSave_eq :
    let s2 : State := (s.together gn).foldl (fun s g => s.modGang g (fun z =>
        { z with state := .saved, marked := false, expired := false }))
      ((s.togetherGroups gn).foldl (fun s z => s.saveGroup z.1 z.2) s)
    let s3 : State := { s2 with kiln := { s2.kiln with
      spans := Tab.modify s2.kiln.spans x.record.spanId (fun p => { p with committed := false, ready := false }) } }
    exec (.gangSave gn) s = if (s.togetherGroups gn).any (fun z => s.areaWaits z.1) then .next s.hold
      else .next ((((s.together gn).filterMap (fun g => (s.gang g).map (fun z => z.launch))).dedup).foldl
        (fun s l => s.settleLaunch l) s3) := by
  intro s2 s3
  have hstopped : (s.togetherGroups gn).all (fun z => (s.wavesOf z.1).all (fun w => s.waveStopped w.1 w.2)) = true := by
    simp only [List.all_eq_true]
    exact fun z hz => hstop z (mem_togetherGroups.mp hz).1 (mem_togetherGroups.mp hz).2
  have hgo : ¬((!s.kilnUp) = true ∨ s.together gn = [] ∨ (!s.allMarked gn) = true ∨
      (!(s.togetherGroups gn).all (fun z => (s.wavesOf z.1).all (fun w => s.waveStopped w.1 w.2))) = true) := by
    simp only [hup, hne, hmark, hstopped, Bool.not_true, Bool.false_eq_true, or_self, not_false_eq_true]
  have hspan : ((s.gang gn).map (fun y => s.spanOf y.launch)).getD 0 = x.record.spanId := by
    rw [hg, Option.map_some, Option.getD_some, spanOf_launch hl]
  show execGangSave gn s = _
  unfold execGangSave
  dsimp only
  rw [hspan]
  exact if_neg hgo

end

/-! ## A wave that has stopped -/

theorem waveStopped_means {u : Nat} {w : Wave} (h : s.waveStopped u w = true) :
    w.stop = none ∧ s.drained u = true ∧ (w.halted = true ∨ w.ended.isSome = true ∨
      ∀ n ∈ w.strands, (w.slice n).clause = none ∨ (w.slice n).wait.isSome = true) := by
  simpa only [State.waveStopped, Bool.and_eq_true, Bool.or_eq_true, List.all_eq_true, Option.isNone_iff_eq_none, or_assoc,
    and_assoc] using h

end

/-- Settles O42: each turn of KILN for a gang, by the condition under which it acts. -/
theorem gangsMove : Obligations.GangsMove := by
  unfold Obligations.GangsMove
  intro s s1 arena save l n gn x y spots hup
  refine ⟨gangPlace_fits hup, gangPlace_none hup, fun hg hf => ⟨fun hw => ?_, fun hw => ?_⟩, fun hg hl =>
    ⟨fun hres hp ht => ?_, fun h => ?_, together_alone hg hl, fun hres => ⟨fun h => ?_, fun hv hspan => ?_⟩,
      fun hne hmark hstop => ?_, fun h => gangSave_unmarked (allMarked_of_unmarked h), fun u w => waveStopped_means⟩⟩
  · rw [gangRestore_fits hup hg hf, hw]
    rfl
  · rw [gangRestore_fits hup hg hf, hw]
    rfl
  · rw [timeSliceExpiry_eq hg hl, if_pos ⟨hres, hp, ht⟩]
  · rw [timeSliceExpiry_eq hg hl, if_neg]
    rintro ⟨hres, hp, ht⟩
    rcases h with h | h | h
    · exact h hres
    · rw [hp] at h
      cases h
    · exact absurd ht (Nat.not_le.mpr h)
  · rw [gangPreempt_eq hg hl hup hres, if_pos h]
  · rw [gangPreempt_eq hg hl hup hres, if_neg]
    rintro (h | ⟨hkey, hdev⟩)
    · exact hv h
    · rcases hspan with h | h
      · exact hkey h
      · exact absurd hdev (Nat.not_lt.mpr h)
  · intro s2 s3
    have heq := gangSave_eq hg hl hup hne (allMarked_of_marked hmark) hstop
    refine ⟨fun hfree => heq.trans (if_neg ?_), fun hwait => heq.trans (if_pos ?_)⟩
    · simp only [List.any_eq_true, not_exists, not_and, Bool.not_eq_true]
      exact fun z hz => hfree z (mem_togetherGroups.mp hz).1 (mem_togetherGroups.mp hz).2
    · obtain ⟨z, hz, hgang, hw⟩ := hwait
      exact List.any_eq_true.mpr ⟨z, mem_togetherGroups.mpr ⟨hz, hgang⟩, hw⟩

end Sys2Proof.Machine

/-! PROOFS. Spans are reserved, committed, given priority, and lose members (R66, R71, R335 to R337, R425). -/

namespace Sys2Proof.Machine
set_option Elab.async false

/-! ## What keeps a span's departed members -/

/-- The departed members of a span are these. -/
def Departed (key : Nat) (d : List Nat) (s : State) : Prop := (s.span key).departed = d

section
variable {key u g : Nat} {d : List Nat} {s t : State}

theorem Departed.of_spans (h : Departed key d s) (ht : t.kiln.spans = s.kiln.spans) : Departed key d t := by
  rw [Departed, State.span, ht]
  exact h

theorem Departed.ignores (key : Nat) (d : List Nat) : IgnoresWaits (Departed key d) where
  sched _ _ h := h
  clusters _ h := h
  cores _ h := h
  mem _ _ h := h
  hit _ _ h := h
  viral _ h := ite_keeps (P := Departed key d) h h
  lost _ _ h := h
  loc _ h := h
  kiln _ _ hk h := h.of_spans hk
  group _ _ _ h := h

namespace Departed

theorem wakeGroup (h : Departed key d s) : Departed key d (s.wakeGroup g) := foldl_keeps (fun _ _ ht => (ignores key d).wake ht) h

theorem tokServe (h : Departed key d s) : Departed key d (s.tokServe u) := by
  unfold State.tokServe
  split
  · exact wakeGroup ((ignores key d).modCore h)
  · exact h

theorem freeGroup (h : Departed key d s) : Departed key d (s.freeGroup g) := by
  unfold State.freeGroup
  split
  · exact h
  · split
    · exact h
    · exact tokServe ((ignores key d).modCore (s := s.modGroup g _) h)

theorem settleGangExit (h : Departed key d s) : Departed key d (s.settleGangExit g) := by
  unfold State.settleGangExit
  split
  · exact h
  · dsimp only
    exact ite_keeps h (ite_keeps h h)

theorem settleHeld (h : Departed key d s) : Departed key d (s.settleHeld g) := by
  unfold State.settleHeld
  refine foldl_keeps (fun _ _ ht => settleGangExit ht) (foldl_keeps (fun t y ht => ?_) h)
  split
  · exact ite_keeps (freeGroup ht) ht
  · exact ht

theorem modSpan {k : Nat} {f : Span → Span} (h : Departed key d s) (hf : ∀ x, (f x).departed = x.departed) :
    Departed key d (s.modSpan k f) := by
  rw [Departed, State.span, State.modSpan, State.setSpan]
  dsimp only
  by_cases hk : k = key
  · subst hk
    rw [Tab.find_put_self, Option.getD_some, hf]
    exact h
  · rw [Tab.find_put_ne _ _ _ _ (Ne.symm hk)]
    exact h

/-- A change of one span in the table that leaves its departed members. -/
theorem modTab {k : Nat} {f : Span → Span} (hf : ∀ x, (f x).departed = x.departed) (h : Departed key d s) :
    Departed key d { s with kiln := { s.kiln with spans := Tab.modify s.kiln.spans k f } } := by
  rw [← show (s.span key).departed = d from h, Departed, State.span, State.span]
  dsimp only
  by_cases hk : key = k
  · subst hk
    rw [Tab.find_modify_self]
    cases Tab.find s.kiln.spans key with
    | none => rfl
    | some x => exact hf x
  · rw [Tab.find_modify_ne _ _ _ _ hk]

theorem spanNext (h : Departed key d s) : Departed key d (s.spanNext g) := by
  unfold State.spanNext
  refine foldl_keeps (fun _ _ ht => wakeGroup ht) ?_
  split
  · split
    · exact h
    · exact h
  · exact modTab (fun _ => rfl) h

theorem spanSettle {n : Nat} (h : Departed key d s) : Departed key d (s.spanSettle g n) := by
  induction n generalizing s with
  | zero => exact h
  | succ n ih => exact ite_keeps (ih h.spanNext) h

theorem settleSpan (h : Departed key d s) : Departed key d (s.settleSpan g) := spanSettle h

theorem addAsync {x : AsyncErr} (h : Departed key d s) : Departed key d (s.addAsync u x) :=
  (ignores key d).pollAsync ((ignores key d).modWave h)

theorem faultChain {l : List Helper} (h : Departed key d s) : Departed key d (s.faultChain u l) := by
  induction l generalizing s with
  | nil => exact (ignores key d).taskFault h
  | cons x r ih => exact ih ((ignores key d).modWave ((ignores key d).taskFault h))

theorem faultTasks {w : Wave} (h : Departed key d s) : Departed key d (s.faultTasks u w) := by
  unfold State.faultTasks
  refine ite_keeps (faultChain h) ?_
  split
  · exact h
  · exact faultChain ((ignores key d).modWave h)

theorem removeGroup (h : Departed key d s) : Departed key d (s.removeGroup g) := by
  unfold State.removeGroup
  refine settleGangExit (freeGroup (of_spans ?_ rfl))
  refine foldl_keeps (fun t v ht => ?_) ((ignores key d).modCore h)
  split
  · exact ht
  · exact ite_keeps ht ((ignores key d).modWave (faultTasks ht))

theorem releaseSpan {k : Nat} (h : Departed key d s) : Departed key d (s.releaseSpan k) :=
  of_spans (s := s.modSpan k (fun x => { x with reserved := [], ready := false })) (modSpan h fun _ => rfl) rfl

end Departed
end

/-! ## The messages of the negotiation -/

/-- A message of the negotiation is heard: it has the tenant's key, and FLUE is up where the span lies on several devices. -/
def State.hears (s : State) (m : SpanMsg) : Prop :=
  s.keyFits m.ctx m.pkey = true ∧ (s.spanDevices (spanIdOf m.ctx m.key) ≤ 1 ∨ s.dev.links ≠ 0)

section
variable {s : State} {m : SpanMsg} {arena save : List Nat} {prio : Nat} {remotes : List (Nat × Nat)}

theorem hears_iff : s.hears m ↔ (s.keyFits m.ctx m.pkey && (decide (s.spanDevices (spanIdOf m.ctx m.key) ≤ 1) || s.dev.flueUp)) = true := by
  rw [State.hears, Bool.and_eq_true, Bool.or_eq_true, decide_eq_true_eq, Dev.flueUp, bne_iff_ne]

theorem negotiated_heard (h : s.hears m) : s.negotiated m = spanIdOf m.ctx m.key := if_pos (hears_iff.mp h)

theorem negotiated_unheard (h : ¬s.hears m) : s.negotiated m = 0 := if_neg (mt hears_iff.mpr h)

/-- The committed gangs of a span go on, or its reservation is given up where there are none. -/
def State.afterCommit (s : State) (key : Nat) (got : Option State) : State :=
  match got with
  | some t => ((s.span key).reserved.filterMap (·.gang)).foldl (fun s g => s.resumeGang g) t
  | none => s.releaseSpan key

/-! What each message does, by the span that it negotiates. -/

theorem spanReserve_nothing (h : s.negotiated m = 0) : exec (.spanReserve m arena save) s = .next s := by
  show execSpanReserve m arena save s = _
  unfold execSpanReserve
  dsimp only
  exact if_pos (.inr (.inl h))

theorem spanCommit_nothing (h : s.negotiated m = 0 ∨ (s.span (s.negotiated m)).ready = false) :
    exec (.spanCommit m prio remotes) s = .next s := by
  show execSpanCommit m prio remotes s = _
  unfold execSpanCommit
  dsimp only
  refine if_pos (.inr ?_)
  rcases h with h | h
  · exact .inl h
  · exact .inr (.inl ((Bool.not_eq_true' _).mpr h))

theorem spanPriorityUpdate_nothing (h : s.negotiated m = 0) : exec (.spanPriorityUpdate m prio) s = .next s := by
  show execSpanPriorityUpdate m prio s = _
  unfold execSpanPriorityUpdate
  dsimp only
  rw [h]
  refine if_neg ?_
  rw [bne_self_eq_false, Bool.and_false, Bool.false_and]
  exact Bool.false_ne_true

section
variable {key : Nat} (hk : s.negotiated m = key) (hne : key ≠ 0) (hup : s.kilnUp = true)
include hk hne hup

theorem spanReserve_eq (hl : s.spanLaunches key ≠ []) (hc : (s.span key).committed = false) :
    let low := (Tab.keys s.kiln.spans).filter (fun k => k != key && !(s.span k).committed && !(s.span k).reserved.isEmpty
      && s.spanBefore key k)
    let s1 : State := low.foldl (fun s k => s.releaseSpan k) (s.modSpan key id)
    let s2 : State := s1.reserveAll key
      (s1.wants.length + (s1.spanLaunches key).foldl (fun n x => n + x.2.record.groups) 0) arena save
    exec (.spanReserve m arena save) s = .next (s2.modSpan key (fun x => { x with ready := s2.spanPlanned key })) := by
  intro low s1 s2
  show execSpanReserve m arena save s = _
  unfold execSpanReserve
  rw [hk]
  dsimp only
  refine if_neg ?_
  simp only [hup, hne, hc, List.isEmpty_iff, hl, Bool.not_true, Bool.false_eq_true, or_self, not_false_eq_true]

theorem spanCommit_eq (hr : (s.span key).ready = true) (hc : (s.span key).committed = false) (hp : s.spanPlanned key = true)
    (hm : s.spanNew key = true → s.membersOk key remotes = true) :
    exec (.spanCommit m prio remotes) s =
      if (s.span key).reserved.any (fun p => p.gang.any (fun g => s.gangWaits g)) then .next s.hold
      else .next (s.afterCommit key (State.commitAll (s.span key).reserved (s.setSpan key { s.span key with
          reserved := []
          ready := false
          committed := true
          remotes := if s.spanNew key then remotes.map (freshRemote ((((s.spanLaunches key).head?).map (fun y =>
            y.2.record.pool.toNat % 128)).getD 0)) else (s.span key).remotes
          prio := s.spanAgreed key prio }))) := by
  have hmember : ¬(s.spanNew key && !s.membersOk key remotes) = true := by
    rw [Bool.and_eq_true, Bool.not_eq_true']
    rintro ⟨hnew, hbad⟩
    rw [hm hnew] at hbad
    cases hbad
  show execSpanCommit m prio remotes s = _
  unfold execSpanCommit
  rw [hk]
  dsimp only
  refine if_neg ?_
  simp only [hup, hne, hr, hc, hp, Bool.not_true, Bool.false_eq_true, hmember, or_self, not_false_eq_true]

theorem spanPriorityUpdate_eq {x : Span} (hx : Tab.find s.kiln.spans key = some x) : exec (.spanPriorityUpdate m prio) s =
    if x.committed then .next (s.modSpan key (fun x => { x with prio := s.spanAgreed key prio })) else .next s := by
  show execSpanPriorityUpdate m prio s = _
  unfold execSpanPriorityUpdate
  rw [hk]
  dsimp only
  rw [hup, hx, bne_iff_ne.mpr hne]
  rfl

end

/-! ## A member departs -/

section
variable {member : Nat}

theorem memberDepart_replaced (hup : s.kilnUp = false) (hk : s.dev.kiln = true) :
    exec (.memberDepart m member) s = .next s.hold := by
  show execMemberDepart m member s = _
  unfold execMemberDepart
  dsimp only
  rw [hup, hk]
  rfl

theorem memberDepart_misfit (hup : s.kilnUp = true) (hf : s.keyFits m.ctx m.pkey = false) :
    exec (.memberDepart m member) s = .next s := by
  show execMemberDepart m member s = _
  unfold execMemberDepart
  dsimp only
  rw [hup, hf]
  rfl

/-- The member of a span that is on this device. -/
def State.memberHere (s : State) (key member : Nat) : Option (Nat × Group) :=
  s.kiln.groups.find? (fun y => s.spanOf y.2.launch == key
    && ((s.launch y.2.launch).map (·.record.spanFirst)).getD 0 + y.2.number == member && !y.2.exited)

/-- The departure is recorded, and an uncommitted reservation given up. -/
def State.recordDeparture (s : State) (key member : Nat) (x : Span) : State :=
  let t := s.modSpan key (fun x => { x with
    departed := x.departed ++ [member]
    remotes := x.remotes.map (fun r => if r.member = member then { r with departed := true } else r) })
  if x.committed then t else t.releaseSpan key

/-- The groups of a span that have not exited. -/
def State.spanRest (s : State) (key : Nat) : List (Nat × Group) :=
  s.kiln.groups.filter (fun y => s.spanOf y.2.launch == key && !y.2.exited)

/-- The waves of some groups learn of a departure, and their gangs are marked. -/
def State.tellDeparture (s : State) (member : Nat) (rest : List (Nat × Group)) : State :=
  rest.foldl (fun s y => s.modGang y.2.gang (fun z => if z.state = .resident then { z with marked := true } else z))
    (rest.foldl (fun s y => (s.wavesOf y.1).foldl (fun s w =>
      if w.2.exited then s else s.addAsync w.1 (looseErr w.2 9 member 0)) s) s)

/-- The departed member's group, where it is on this device, is removed. -/
def State.dropHere (s : State) (here : Option (Nat × Group)) : State :=
  match here with
  | some (g, _) => s.removeGroup g
  | none => s

section
variable {key : Nat} {x : Span} (hk : spanIdOf m.ctx m.key = key) (hup : s.kilnUp = true) (hf : s.keyFits m.ctx m.pkey = true)
  (hx : Tab.find s.kiln.spans key = some x) (hd : x.departed.contains member = false)
  (hwho : (s.memberHere key member).isSome = true ∨ ∃ r ∈ x.remotes, r.member = member ∧ r.exited = false)
include hk hup hf hx hd hwho

theorem memberDepart_eq : exec (.memberDepart m member) s =
    let s2 := (s.recordDeparture key member x).dropHere (s.memberHere key member)
    let s4 := s2.tellDeparture member (s2.spanRest key)
    match (s2.spanRest key).head? with
    | some (g, _) => .next ((s4.settleSpan g).settleHeld g)
    | none => match s4.kiln.groups.find? (fun y => s4.spanOf y.2.launch == key) with
      | some (g, _) => .next (s4.settleHeld g)
      | none => .next s4 := by
  have hgo : ¬(x.departed.contains member = true ∨
      (!((s.memberHere key member).isSome || x.remotes.any (fun r => r.member == member && !r.exited))) = true) := by
    rw [hd, Bool.not_eq_true', ← Bool.not_eq_true, Bool.or_eq_true, List.any_eq_true]
    simp only [Bool.false_eq_true, false_or, not_not, Bool.and_eq_true, beq_iff_eq, Bool.not_eq_true']
    exact hwho
  show execMemberDepart m member s = _
  unfold execMemberDepart
  rw [hk]
  dsimp only
  rw [hup, hf]
  simp only [Bool.not_true, Bool.false_eq_true, if_false, if_true]
  rw [hx]
  exact if_neg hgo

end

theorem Departed.recordDeparture {key : Nat} {x : Span} (hx : Tab.find s.kiln.spans key = some x) :
    Departed key (x.departed ++ [member]) (s.recordDeparture key member x) := by
  have h0 : Departed key (x.departed ++ [member]) (s.modSpan key (fun x => { x with
      departed := x.departed ++ [member]
      remotes := x.remotes.map (fun r => if r.member = member then { r with departed := true } else r) })) := by
    rw [Departed, State.span, State.modSpan, State.setSpan, State.span, hx]
    dsimp only
    rw [Tab.find_put_self]
    rfl
  exact ite_keeps h0 h0.releaseSpan

theorem Departed.dropHere {key : Nat} {d : List Nat} {here : Option (Nat × Group)} (h : Departed key d s) :
    Departed key d (s.dropHere here) := by
  cases here with
  | none => exact h
  | some y => exact h.removeGroup

theorem Departed.tellDeparture {key : Nat} {d : List Nat} {rest : List (Nat × Group)} (h : Departed key d s) :
    Departed key d (s.tellDeparture member rest) :=
  foldl_keeps (fun t _ (ht : Departed key d t) => ht.of_spans rfl)
    (foldl_keeps (fun _ _ ht => foldl_keeps (fun _ _ ht => ite_keeps ht ht.addAsync) ht) h)

/-- The departure is recorded, whatever follows it. -/
theorem memberDepart_departs {key : Nat} {x : Span} (hk : spanIdOf m.ctx m.key = key) (hup : s.kilnUp = true)
    (hf : s.keyFits m.ctx m.pkey = true) (hx : Tab.find s.kiln.spans key = some x) (hd : x.departed.contains member = false)
    (hwho : (s.memberHere key member).isSome = true ∨ ∃ r ∈ x.remotes, r.member = member ∧ r.exited = false) :
    ∃ t : State, exec (.memberDepart m member) s = .next t ∧ (t.span key).departed = x.departed ++ [member] := by
  rw [memberDepart_eq hk hup hf hx hd hwho]
  dsimp only
  have h4 : Departed key (x.departed ++ [member]) (((s.recordDeparture key member x).dropHere (s.memberHere key member)).tellDeparture
      member (((s.recordDeparture key member x).dropHere (s.memberHere key member)).spanRest key)) :=
    (Departed.recordDeparture hx).dropHere.tellDeparture
  split
  · exact ⟨_, rfl, h4.settleSpan.settleHeld⟩
  · split
    · exact ⟨_, rfl, h4.settleHeld⟩
    · exact ⟨_, rfl, h4⟩

end
end

/-- Settles O43: each message by the branch that its hypotheses choose; that a departure is recorded holds because nothing
that follows it touches the departed members of a span. -/
theorem spansMove : Obligations.SpansMove := by
  unfold Obligations.SpansMove
  intro s pkey ctx k0 prio member arena save remotes x key msg hx hne heard low s1 s2 first agreed
  subst hx
  refine ⟨fun h => ?_, fun hup hh hl hc => ?_, fun hup hh hr hc hp hm => ?_, fun hr => ?_, fun hup hh hfind => ?_,
    fun hup hf => memberDepart_misfit hup hf, fun hup hk => memberDepart_replaced hup hk,
    fun hup hf hfind hd => ?_⟩
  · have h0 : s.negotiated msg = 0 := negotiated_unheard h
    exact ⟨spanReserve_nothing h0, spanCommit_nothing (.inl h0), spanPriorityUpdate_nothing h0⟩
  · exact spanReserve_eq (negotiated_heard (m := msg) hh) hne hup hl hc
  · have heq := spanCommit_eq (prio := prio) (negotiated_heard (m := msg) hh) hne hup hr hc hp hm
    refine ⟨fun hw => heq.trans (if_pos hw), fun hw => ?_⟩
    have hfree := heq.trans (if_neg (by rw [hw]; exact Bool.false_ne_true))
    intro got
    exact ⟨fun t ht => hfree.trans (congrArg (fun o => Host.Outcome.next (s.afterCommit key o)) ht),
      fun ht => hfree.trans (congrArg (fun o => Host.Outcome.next (s.afterCommit key o)) ht)⟩
  · refine spanCommit_nothing ?_
    by_cases hh : s.hears msg
    · exact .inr ((negotiated_heard hh).symm ▸ hr)
    · exact .inl (negotiated_unheard hh)
  · have heq := spanPriorityUpdate_eq (prio := prio) (negotiated_heard (m := msg) hh) hne hup hfind
    exact ⟨fun hc => heq.trans (if_pos hc), fun hc => heq.trans (if_neg (by rw [hc]; exact Bool.false_ne_true))⟩
  · intro here hwho
    have heq := memberDepart_eq (m := msg) rfl hup hf hfind hd hwho
    refine ⟨memberDepart_departs rfl hup hf hfind hd hwho, ?_⟩
    intro g y rest hnone t0 t hrest
    have hhere : s.memberHere key member = none := hnone
    have hleft : (s.recordDeparture key member (s.span key)).spanRest key = (g, y) :: rest := hrest
    rw [heq, hhere]
    dsimp only [State.dropHere]
    rw [hleft]
    rfl

end Sys2Proof.Machine

/-! PROOFS. Inboxes and task packets of a session (R330 to R333, R444, R450, R460). -/

namespace Sys2Proof.Machine
set_option Elab.async false

section
variable {s s1 : State} {n block : Nat} {x : Session} {bs : List Byte} {key : BitVec 256}

/-! ## The inbox and the key -/

/-- KILN reads the write index of an open inbox; one too far ahead stops the reading. -/
theorem inboxWake_reads (hx : s.session n = some x) (hup : s.kilnUp = true) (ho : x.overrun = false)
    (hobj : s.obj (s.agentFor x.ctx) .ten (x.header + 8) 8 = .ok (s1, bs)) :
    exec (.inboxWake n) s = if 2 ^ x.log2 < (leNat bs + 2 ^ 64 - x.read) % 2 ^ 64 then
        .next (((s1.acquire (s.agentFor x.ctx) .ten).modSession n
          (fun x => { x with write := leNat bs, overrun := true })).setOver x.ctx x.header)
      else .next ((s1.acquire (s.agentFor x.ctx) .ten).modSession n (fun x => { x with write := leNat bs })) := by
  rw [exec_inboxWake, execInboxWake, hx]
  dsimp only
  rw [hup, ho, Bool.not_true, Bool.or_self, if_neg Bool.false_ne_true, hobj]

theorem sessionKeyInstall_eq : exec (.sessionKeyInstall n key) s =
    if s.dev.firebox then .next (s.modSession n (fun x => { x with key := some key })) else .next s := rfl

/-! ## A packet -/

theorem packetRead_nothing (hx : s.session n = some x) (h : x.key = none ∨ x.read = x.write) :
    exec (.packetRead n block) s = .next s := by
  rw [exec_packetRead, execPacketRead, hx]
  refine if_pos ?_
  rcases h with h | h
  · rw [h, Option.isNone_none, Bool.or_true, Bool.true_or]
  · rw [h, beq_self_eq_true, Bool.or_true, Bool.true_or, Bool.true_or]

section
variable (hx : s.session n = some x) (hup : s.kilnUp = true) (ho : x.overrun = false) (hne : x.read ≠ x.write)
  (hkey : x.key ≠ none) (hroom : s.kiln.launches.length < 4096)
include hx hup ho hne hkey hroom

omit hx in
theorem packetRead_goes_on :
    ¬(!s.kilnUp || x.overrun || x.read == x.write || x.key.isNone || decide (maxLive ≤ s.kiln.launches.length)) = true := by
  have hlive : ¬maxLive ≤ s.kiln.launches.length := Nat.not_le.mpr hroom
  rw [hup, ho, beq_eq_false_iff_ne.mpr hne, Option.isNone_eq_false_iff.mpr (Option.isSome_iff_ne_none.mpr hkey),
    decide_eq_false hlive]
  exact Bool.false_ne_true

variable (hobj : s.obj (s.agentFor x.ctx) .ten (x.ring + 256 * (x.read % 2 ^ x.log2)) 256 = .ok (s1, bs))
include hobj

theorem packetRead_passed_over (hc : s1.checkPacket n x bs = none) : exec (.packetRead n block) s = .next (s1.packetDone n x) := by
  rw [exec_packetRead, execPacketRead, hx]
  dsimp only
  rw [if_neg (packetRead_goes_on hup ho hne hkey hroom), hobj]
  dsimp only
  rw [hc]

/-- A packet that passes its checks gives a record, which is rejected or, given a block, accepted. -/
theorem packetRead_passes {k : Kernel} {ws : List (Nat × Option Nat)} (hc : s1.checkPacket n x bs = some (k, ws)) :
    let rec_ := packetRecord x k bs ((ws.map (fun w : Nat × Option Nat => w.1)).headD 0) block
    let s2 : State := s1.modSession n (fun y => { y with seq := fieldAt bs 8 8 })
    exec (.packetRead n block) s = if !s1.recordOk x.ctx rec_ then
        .next ((s2.rejectRecord x.ctx (Record.ofBytes rec_)).packetDone n x)
      else if !s1.blockFree x.ctx block then .next s
      else .next ((((s2.modCtx x.ctx (fun c => { c with arenaTaken := c.arenaTaken ++ [(block, 128)] })).kilnWrite x.ctx .ten
        block (ws.flatMap (fun w : Nat × Option Nat => leBytes w.1 8))).accept (.packet block
        ((ws.filterMap (fun w : Nat × Option Nat => w.2)).dedup)) (Record.ofBytes rec_)).packetDone n x) := by
  rw [exec_packetRead, execPacketRead, hx]
  dsimp only
  rw [if_neg (packetRead_goes_on hup ho hne hkey hroom), hobj]
  dsimp only
  rw [hc]

end

/-! ## The checks -/

/-- A packet that passes has its session's MAC, a header of its session, a later sequence number and a registered kernel. -/
theorem checkPacket_passes {k : Kernel} {ws : List (Nat × Option Nat)} (h : s.checkPacket n x bs = some (k, ws)) :
    macOk x bs = true ∧ headerOk x n bs = true ∧ x.seq < fieldAt bs 8 8 ∧
      k ∈ (s.tenant x.tenant).kernels ∧ k.digest = BitVec.ofNat 512 (fieldAt bs 0x10 64) := by
  unfold State.checkPacket at h
  dsimp only at h
  split at h
  · cases h
  · next hok =>
    split at h
    · cases h
    · next k' hk =>
      split at h
      · cases h
        simp only [Bool.or_eq_true, Bool.not_eq_true', decide_eq_true_eq, not_or, Bool.not_eq_false, Nat.not_le] at hok
        obtain ⟨⟨hmac, hhead⟩, hseq⟩ := hok
        exact ⟨hmac, hhead, hseq, List.mem_of_find?_eq_some hk, eq_of_beq (List.find?_some (p := fun k : Kernel => k.digest == BitVec.ofNat 512 (fieldAt bs 0x10 64)) hk)⟩
      · cases h

end

/-- Settles O44: an inbox, a session's key and a packet, by the checks in their order. -/
theorem packetsLaunch : Obligations.PacketsLaunch := by
  unfold Obligations.PacketsLaunch
  intro s s1 n block x bs key hx ag
  refine ⟨fun hup ho hobj => ⟨fun hfar => ?_, fun hnear => ?_⟩, fun hf => ?_, fun hf => ?_, packetRead_nothing hx,
    fun hup ho hne hkey hroom hobj => ⟨packetRead_passed_over hx hup ho hne hkey hroom hobj, fun k ws hc => ⟨fun hok => ?_,
      fun hok hb => ?_⟩⟩, fun k ws => checkPacket_passes⟩
  · rw [inboxWake_reads hx hup ho hobj, if_pos hfar]
  · rw [inboxWake_reads hx hup ho hobj, if_neg (Nat.not_lt.mpr hnear)]
  · rw [sessionKeyInstall_eq, if_pos hf]
  · rw [sessionKeyInstall_eq, hf, if_neg Bool.false_ne_true]
  · exact (packetRead_passes hx hup ho hne hkey hroom hobj hc).trans (if_pos ((Bool.not_eq_true' _).mpr hok))
  · refine (packetRead_passes hx hup ho hne hkey hroom hobj hc).trans ((if_neg ?_).trans (if_neg ?_))
    · rw [hok]
      exact Bool.false_ne_true
    · rw [hb]
      exact Bool.false_ne_true

end Sys2Proof.Machine

/-! PROOFS. Back-invalidations, viral indications, links, routes, expanders and writebacks (R326, R327, R415, R420 to R424). -/

namespace Sys2Proof.Machine
set_option Elab.async false

/-! ## Back-invalidation -/

section
variable {s : State} {p : Place}

theorem cohHome_keeps_nothing (c : Option Nat) (q : Place) : (c.isSome && c == none && q == p.line) = false := by
  cases c <;> rfl

/-- Without a cluster that keeps its copy, every coherent copy of the line goes. -/
theorem cohHome_none : s.cohHome none p =
    if (s.copies (fun _ x => x.coheres p)).isEmpty then s
    else (((s.copies (fun _ x => x.coheres p)).foldl (fun s x => s.homeBack none x))
      (s.mapCopies (fun _ x => if x.coheres p then none else some x))).emberHit p.line 256 := by
  unfold State.cohHome State.bisnp
  simp only [cohHome_keeps_nothing, Bool.not_false, Bool.and_true]

/-- Sectors of a list that none of some copies is among stay. -/
theorem filterMap_coheres_of_none {l : List PSector} (h : ∀ z ∈ l, z.coheres p = false) :
    l.filterMap (fun x => if x.coheres p then none else some x) = l := by
  rw [List.filterMap_congr (g := some) fun z hz => by rw [h z hz, if_neg Bool.false_ne_true], List.filterMap_some]

theorem filterMap_coheres (l : List PSector) :
    l.filterMap (fun x => if x.coheres p then none else some x) = l.filter (fun x => !x.coheres p) := by
  rw [← List.filterMap_eq_filter]
  refine List.filterMap_congr fun z _ => ?_
  cases h : z.coheres p <;> simp [Option.guard, h]

variable (hc : ∀ c ∈ s.clusters, ∀ z ∈ c.2.l2, z.coheres p = false)
include hc

theorem copies_of_msc : s.copies (fun _ x => x.coheres p) = s.mem.msc.filter (fun x => x.coheres p) := by
  have hnone : s.clusters.flatMap (fun c => c.2.l2.filter (fun x => x.coheres p)) = [] := by
    simp only [List.flatMap_eq_nil_iff, List.filter_eq_nil_iff]
    intro c hcm z hz
    rw [hc c hcm z hz]
    exact Bool.false_ne_true
  rw [State.copies, hnone, List.append_nil]

theorem mapCopies_of_msc : s.mapCopies (fun _ x => if x.coheres p then none else some x) =
    { s with mem := { s.mem with msc := s.mem.msc.filter (fun x => !x.coheres p) } } := by
  have hsame : s.clusters.map (fun (c : Nat × Cluster) => (c.1, { c.2 with
      l2 := c.2.l2.filterMap (fun x => if x.coheres p then none else some x) })) = s.clusters := by
    refine (List.map_congr_left fun c hcm => ?_).trans (List.map_id s.clusters)
    rw [filterMap_coheres_of_none (hc c hcm)]
    rfl
  rw [State.mapCopies, hsame, filterMap_coheres]

theorem cohHome_untouched (hm : ∀ z ∈ s.mem.msc, z.coheres p = false) : s.cohHome none p = s := by
  have hno : s.mem.msc.filter (fun x => x.coheres p) = [] := by
    rw [List.filter_eq_nil_iff]
    intro z hz
    rw [hm z hz]
    exact Bool.false_ne_true
  rw [cohHome_none, copies_of_msc hc, hno]
  rfl

theorem cohHome_msc (hm : s.mem.msc.any (fun x => x.coheres p) = true) : s.cohHome none p =
    (((s.mem.msc.filter (fun x => x.coheres p)).foldl (fun s z => s.homeBack none z))
      ({ s with mem := { s.mem with msc := s.mem.msc.filter (fun z => !z.coheres p) } } : State)).emberHit p.line 256 := by
  have hsome : ¬(s.mem.msc.filter (fun x => x.coheres p)).isEmpty = true := by
    obtain ⟨z, hz, hzc⟩ := List.any_eq_true.mp hm
    exact fun h => List.ne_nil_of_mem (List.mem_filter.mpr ⟨hz, hzc⟩) (List.isEmpty_iff.mp h)
  rw [cohHome_none, copies_of_msc hc, mapCopies_of_msc hc, if_neg hsome]

end

/-! ## Links -/

section
variable {s : State} {link : Nat} {x : Link}

/-- Changing the state of a link. -/
def State.setLink (s : State) (link : Nat) (f : Link → Link) : State :=
  { s with dev := { s.dev with linkState := modAt s.dev.linkState link f } }

/-- The ready bits without one link's. -/
theorem getLsbD_clear_bit (v : BitVec 16) (link j : Nat) :
    (v &&& ~~~(BitVec.ofNat 16 (2 ^ link))).getLsbD j = (v.getLsbD j && decide (j ≠ link)) := by
  by_cases hj : j < 16
  · rw [BitVec.getLsbD_and, BitVec.getLsbD_not, BitVec.getLsbD_ofNat, Nat.testBit_two_pow, decide_eq_true hj, Bool.true_and,
      Bool.true_and, ← decide_not]
    simp only [ne_eq, eq_comm]
  · rw [BitVec.getLsbD_of_ge _ _ (Nat.not_lt.mp hj), BitVec.getLsbD_of_ge _ _ (Nat.not_lt.mp hj), Bool.false_and]

section
variable (hx : s.dev.linkState[link]? = some x)
include hx

theorem linkRetrain_idle (ok : Bool) (h : x.replays < 16 ∨ x.out = true) : exec (.linkRetrain link ok) s = .next s := by
  rw [exec_linkRetrain, execLinkRetrain, hx]
  exact if_pos h

variable (hr : 16 ≤ x.replays) (ho : x.out = false)
include hr ho

/-- A retrain, by its result: the link is as new, has one more failure, or leaves service with the third. -/
theorem linkRetrain_eq (ok : Bool) : exec (.linkRetrain link ok) s =
    if ok then .next (s.setLink link (fun _ => ⟨0, 0, false⟩))
    else if x.retrains < 2 then .next (s.setLink link (fun l => { l with retrains := l.retrains + 1 }))
    else .next { s with dev := { s.dev with
      linkState := modAt s.dev.linkState link (fun l => { l with retrains := 3, out := true })
      links := s.dev.links &&& ~~~(BitVec.ofNat 16 (2 ^ link)) } } := by
  rw [exec_linkRetrain, execLinkRetrain, hx]
  refine if_neg ?_
  rw [ho]
  rintro (h | h)
  · exact absurd hr (Nat.not_le.mpr h)
  · cases h

theorem linkRetrain_out (ht : 2 ≤ x.retrains) : ∃ t : State, exec (.linkRetrain link false) s = .next t ∧
    (∀ j, t.dev.links.getLsbD j = (s.dev.links.getLsbD j && decide (j ≠ link))) ∧
    t.dev.linkState[link]? = some { x with retrains := 3, out := true } := by
  rw [linkRetrain_eq hx hr ho, if_neg Bool.false_ne_true, if_neg (Nat.not_lt.mpr ht)]
  refine ⟨_, rfl, getLsbD_clear_bit _ _, ?_⟩
  dsimp only
  rw [getElem?_modAt_self, hx]
  rfl

end
end

/-! ## Requests that end, and writebacks -/

section
variable {s : State} {cl i core wid id u : Nat} {y : PSector} {w : Wave} {o : Op} {acc : Acc} {lanes : W32} {refused : Bool}

theorem endRequests_load {ag : Agent} {e : MemErr} {ls : W32} {code grp : Nat} {performed : Bool} (hl : ls ≠ 0)
    (hk : acc.kind = .load) : s.endRequests u ag grp o acc ls e code performed =
      s.holdOp u o (memBad e false false ((bitsOf ls).headD 0) (o.addr ((bitsOf ls).headD 0))) := by
  unfold State.endRequests
  rw [if_neg hl, if_pos hk]

/-- The requests of an access, its checks passed, end where the cut has no walk of its own. -/
theorem endAccess_passed {cut : Cut} {ag : Agent} {e : MemErr} {code grp : Nat} {done : Bool}
    (hw : ∀ s ag va, cut.walk s ag va = false) (hpass : o.checked = true ∨ s.memCheck ag grp o acc = none) :
    s.endAccess cut u ag grp o acc lanes e code done =
      s.endRequests u ag grp o acc (s.endingLanes cut ag grp o acc lanes) e code done := by
  have hchecked : ¬(!(o.checked || (s.memCheck ag grp o acc).isNone)) = true := by
    rw [Bool.not_eq_true', Bool.not_eq_false, Bool.or_eq_true, Option.isNone_iff_eq_none]
    exact hpass
  have hnowalk : (if o.checked || acc.kind == .load || acc.space != .glob then none
      else (bitsOf (o.todo &&& lanes)).find? (fun l => (s.l1Hit ag (o.addr l)).isNone && cut.walk s ag (o.addr l))) = none := by
    have hfind : (bitsOf (o.todo &&& lanes)).find? (fun l => (s.l1Hit ag (o.addr l)).isNone && cut.walk s ag (o.addr l)) = none := by
      rw [List.find?_eq_none]
      intro l _
      rw [hw, Bool.and_false]
      exact Bool.false_ne_true
    rw [hfind, ite_self]
  unfold State.endAccess
  rw [if_neg hchecked]
  dsimp only
  rw [hnowalk]

theorem fencedResponse_ends (hcore : core < 192) (hw : s.waveAt core wid = some (u, w))
    (ho : w.ops.find? (fun o => o.id == id) = some o) (ha : accOf o.instr = some acc)
    (hpass : o.checked = true ∨ s.memCheck (s.agentOf w.group) w.group o acc = none) :
    exec (.fencedResponse core wid id ⟨lanes, refused⟩) s = .next (s.endRequests u (s.agentOf w.group) w.group o acc
      (s.endingLanes fenceCut (s.agentOf w.group) w.group o acc lanes) ⟨5, if refused = true then 2 else 1⟩ 8 false) := by
  rw [exec_fencedResponse, execFencedResponse]
  dsimp only
  rw [if_neg (Nat.not_le.mpr hcore), hw]
  dsimp only
  rw [ho]
  dsimp only
  rw [State.endIssued, ha]
  dsimp only
  rw [endAccess_passed (fun _ _ _ => rfl) hpass]

theorem fencedResponse_sector : exec (.fencedResponse (192 + cl) wid i ⟨lanes, refused⟩) s = .next (s.fenceBack cl i) := by
  rw [exec_fencedResponse, execFencedResponse]
  dsimp only
  rw [if_pos (Nat.le_add_right _ _), Nat.add_sub_cancel_left]

/-- A lost writeback leaves the memory behind FLUE and CXL as it was. -/
theorem noteLost_mem (s : State) (c : Option Nat) (tenant addr : Nat) : (s.noteLost c tenant addr).mem = s.mem :=
  foldl_keeps (P := fun t : State => t.mem = s.mem) (fun _ _ h => ite_keeps (P := fun t : State => t.mem = s.mem) h h) rfl

theorem fenceBack_homes (hy : (s.cluster cl).l2[i]? = some y) (hcl : cl ≠ 24) : (s.fenceBack cl i).mem.homes = s.mem.homes := by
  unfold State.fenceBack
  dsimp only
  rw [if_neg hcl, hy]
  dsimp only
  split
  · rfl
  · rw [noteLost_mem]
    rfl

theorem dirtySectorWriteback_l2 (hcl : cl ≠ 24) (hy : (s.cluster cl).l2[i]? = some y) :
    exec (.dirtySectorWriteback cl i) s = if y.dirty = 0 then .next s else .next (s.l2Flush cl y.place) := by
  rw [exec_dirtySectorWriteback, execDirtySectorWriteback, if_neg hcl, hy]

theorem dirtySectorWriteback_msc (hy : s.mem.msc[i]? = some y) :
    exec (.dirtySectorWriteback 24 i) s = .next (s.mscFlush none y.place) := by
  rw [exec_dirtySectorWriteback, execDirtySectorWriteback, if_pos rfl, hy]

end

/-- A lost route leads to the destinations of its port or of its device. -/
theorem lostDests_eq (kind : WinKind) (dest : Nat) :
    lostDests kind dest = if kind = .peer then [8192 + dest % 4096] else [dest % 4096, 4096 + dest % 4096] := by
  cases kind <;> rfl

/-- Settles O46: each event of the fabric by its branch; a line without coherent copies in the L2s is the MSC's alone. -/
theorem fabricEvents : Obligations.FabricEvents := by
  unfold Obligations.FabricEvents
  intro s kind dest adr link port cl i core wid id u x y w o acc lanes refused performed place through ds ended copy once setLink
  refine ⟨rfl, fun hm hc => ?_, fun hc hm => ?_, rfl, rfl, rfl, fun hx => ⟨fun h ok => linkRetrain_idle hx ok h, fun hr ho =>
    ⟨?_, fun ht => ?_, linkRetrain_out hx hr ho⟩⟩, rfl, ?_, ?_, fun hw cut e code => ?_, fun ag e ls code hl hk =>
    endRequests_load hl hk, fun hcl hy => ⟨fun hd => ?_, fun hd => ?_⟩, dirtySectorWriteback_msc,
    fun hcore hw ho ha hpass => fencedResponse_ends hcore hw ho ha hpass, fun hy hcl _ _ _ =>
    ⟨fencedResponse_sector, fenceBack_homes hy hcl⟩⟩
  · exact congrArg Host.Outcome.next (cohHome_untouched hc hm)
  · exact congrArg Host.Outcome.next (cohHome_msc hc hm)
  · rw [linkRetrain_eq hx hr ho, if_pos rfl]
    rfl
  · rw [linkRetrain_eq hx hr ho, if_neg Bool.false_ne_true, if_pos ht]
    rfl
  · rw [exec_routeLost, execRouteLost, lostDests_eq]
    rfl
  · rw [exec_routeLost, execRouteLost, lostDests_eq]
    rfl
  · rw [State.endAll, hw]
    rfl
  · rw [dirtySectorWriteback_l2 hcl hy, if_neg hd]
  · rw [dirtySectorWriteback_l2 hcl hy, if_pos hd]

end Sys2Proof.Machine

/-! PROOFS. Self tests, functions, errors of memory, scans and the clock (R11, R21, R321, R322, R362, R367, R371, R413, R418, R419,
R437, R439). -/

namespace Sys2Proof.Machine
set_option Elab.async false

/-! ## Ready bits -/

theorem getLsbD_set_bit {k : Nat} (v : BitVec k) (n : Nat) {j : Nat} (hj : j < k) :
    (v ||| BitVec.ofNat k (2 ^ n)).getLsbD j = (v.getLsbD j || decide (j = n)) := by
  rw [BitVec.getLsbD_or, BitVec.getLsbD_ofNat, Nat.testBit_two_pow, decide_eq_true hj, Bool.true_and]
  simp only [eq_comm]

/-- The device after a function has passed its self test. -/
def Dev.passed (d : Dev) (f : Func) : Dev :=
  match f with
  | .clus n => { d with clus := d.clus ||| BitVec.ofNat 24 (2 ^ n) }
  | .link n =>
    if d.devSet && !((d.linkState[n]?).any (·.out)) && !(d.firmwareOf (0x10 + n)).stopped then
      { d with links := d.links ||| BitVec.ofNat 16 (2 ^ n), trained := true }
    else d
  | .stack n =>
    if (d.firmwareOf (0x20 + n)).stopped || (d.firmwareOf (0x30 + n)).stopped then d
    else { d with stackBits := d.stackBits ||| BitVec.ofNat 8 (2 ^ n) }
  | .port n => { d with ports := d.ports ||| BitVec.ofNat 4 (2 ^ n)
                        lostRoutes := d.lostRoutes.filter (fun x => x != n && x != 4096 + n) }
  | .firebox => if (d.firmwareOf 1).stopped then d else { d with firebox := true }
  | .kiln => if (d.firmwareOf 0).stopped then d else { d with kiln := true }

theorem selfTestPass_eq (s : State) (f : Func) : exec (.selfTestPass f) s = .next { s with dev := s.dev.passed f } := by
  cases f <;> rfl

section
variable {d : Dev} {m j : Nat}

theorem Dev.passed_stack (hj : j < 8) (h2 : (d.firmwareOf (0x20 + m)).stopped = false)
    (h3 : (d.firmwareOf (0x30 + m)).stopped = false) :
    (d.passed (.stack m)).stackBits.getLsbD j = (d.stackBits.getLsbD j || decide (j = m)) := by
  rw [Dev.passed, h2, h3]
  exact getLsbD_set_bit _ _ hj

theorem Dev.passed_link (hj : j < 16) (hd : d.devSet = true) (ho : (d.linkState[m]?).any (fun l => l.out) = false)
    (h1 : (d.firmwareOf (0x10 + m)).stopped = false) :
    (d.passed (.link m)).links.getLsbD j = (d.links.getLsbD j || decide (j = m)) := by
  rw [Dev.passed, hd, ho, h1]
  exact getLsbD_set_bit _ _ hj

theorem Dev.passed_link_unset (hd : d.devSet = false) : d.passed (.link m) = d := by
  rw [Dev.passed, hd]
  rfl

theorem Dev.passed_firebox (h : (d.firmwareOf 1).stopped = false) : (d.passed .firebox).firebox = true := by
  rw [Dev.passed, h]
  rfl

theorem Dev.passed_kiln (h : (d.firmwareOf 0).stopped = false) : (d.passed .kiln).kiln = true := by
  rw [Dev.passed, h]
  rfl

end

/-! ## Dead ranges -/

section
variable {s : State} {fn : Nat}

theorem deadRanges_sched : (s.deadRanges fn).sched = s.sched :=
  foldl_keeps (P := fun t : State => t.sched = s.sched) (fun _ _ h => h) rfl

theorem deadRanges_kiln : (s.deadRanges fn).kiln = s.kiln :=
  foldl_keeps (P := fun t : State => t.kiln = s.kiln) (fun _ _ h => h) rfl

theorem retireRows_firmware (d : Dev) (gs : List Nat) : (d.retireRows gs).firmware = d.firmware :=
  foldl_keeps (P := fun e : Dev => e.firmware = d.firmware) (fun _ _ h => h) rfl

theorem deadRanges_firmware : (s.deadRanges fn).dev.firmware = s.dev.firmware :=
  foldl_keeps (P := fun t : State => t.dev.firmware = s.dev.firmware) (fun _ _ h => (retireRows_firmware _ _).trans h) rfl

/-- Declaring some ranges dead: their bytes read 0, and the others are as before. -/
theorem declareDeads_loc (l : List (Nat × Nat)) (y : Nat) : ∀ s : State,
    (l.foldl (fun s b => s.declareDead b.1 b.2) s).mem.loc.get y =
      if ∃ b ∈ l, b.1 ≤ y ∧ y < b.1 + b.2 then 0 else s.mem.loc.get y := by
  induction l with
  | nil => exact fun s => by simp
  | cons b r ih =>
    intro s
    rw [List.foldl_cons, ih]
    have hone : (s.declareDead b.1 b.2).mem.loc.get y = if b.1 ≤ y ∧ y < b.1 + b.2 then 0 else s.mem.loc.get y :=
      Store.get_clear _ _ _ _
    simp only [hone, List.mem_cons, exists_eq_or_imp]
    by_cases hr : ∃ c ∈ r, c.1 ≤ y ∧ y < c.1 + c.2 <;> by_cases hb : b.1 ≤ y ∧ y < b.1 + b.2 <;> simp [hr, hb]

theorem deadRanges_wf (h : Store.wf s.mem.loc = true) : Store.wf (s.deadRanges fn).mem.loc = true :=
  foldl_keeps (P := fun t : State => Store.wf t.mem.loc = true) (fun _ _ ht => Store.wf_clear _ _ _ ht) h

/-! ## Functions -/

theorem State.tenant_setTenant_ne {j : Nat} {x : Tenant} (h : j ≠ fn) : (s.setTenant fn x).tenant j = s.tenant j := by
  rw [State.tenant, State.setTenant]
  dsimp only
  rw [Tab.find_put_ne _ _ _ _ h]
  rfl

theorem functionEnable_draws (hr : s.replacing 1 = false) (hfn : fn < 16) (hf : s.dev.firebox = true)
    (he : (s.tenant fn).enabled = false) : exec (.functionEnable fn) s =
      .next ((s.deadRanges fn).bumpFresh.modTenant fn (fun t =>
        { t with enabled := true, key := some (Config.drawKey s.sched.fresh) })) := by
  rw [exec_functionEnable, execFunctionEnable, hr, if_neg Bool.false_ne_true]
  refine if_neg ?_
  rw [hf, he]
  rintro (h | h | h)
  · cases h
  · exact absurd hfn (Nat.not_lt.mpr h)
  · cases h

theorem functionEnable_nothing (hr : s.replacing 1 = false)
    (h : s.dev.firebox = false ∨ 16 ≤ fn ∨ (s.tenant fn).enabled = true) : exec (.functionEnable fn) s = .next s := by
  rw [exec_functionEnable, execFunctionEnable, hr, if_neg Bool.false_ne_true]
  exact if_pos (h.imp_left (Bool.not_eq_true' _).mpr)

/-- A function reset: its ranges are dead, its key is new and its registers are empty. -/
def State.resetFunction (s : State) (fn : Nat) : State :=
  (s.deadRanges fn).bumpFresh.modTenant fn (fun t => { t with
    enabled := false, key := some (Config.drawKey (s.deadRanges fn).sched.fresh), payload := [], cmd := 0, dseq := 0, result := 0
    busy := false })

/-- What a reset of the PF does besides. -/
def Dev.resetLinks (d : Dev) : Dev :=
  { d with links := 0, devSet := false, trained := false, devid := 0, linkState := List.replicate 16 ⟨0, 0, false⟩
           firmware := d.firmware.map (fun x => (x.1, { x.2 with stopped := false })) }

theorem functionReset_eq (hr : s.replacing 1 = false) (hfn : fn < 16) : exec (.functionReset fn) s =
    .next { s.resetFunction fn with dev := if fn ≠ 0 then (s.deadRanges fn).dev else (s.deadRanges fn).dev.resetLinks } := by
  rw [exec_functionReset, execFunctionReset, hr, if_neg Bool.false_ne_true, if_neg (Nat.not_le.mpr hfn)]
  by_cases h0 : fn = 0
  · subst h0
    rfl
  · simp only [ne_eq, h0, not_false_eq_true, if_true]
    rfl

theorem resetFunction_tenant : (s.resetFunction fn).tenant fn = { (s.deadRanges fn).bumpFresh.tenant fn with
    enabled := false, key := some (Config.drawKey s.sched.fresh), payload := [], cmd := 0, dseq := 0, result := 0
    busy := false } := by
  rw [State.resetFunction, State.modTenant, State.tenant_setTenant, deadRanges_sched]

theorem resetLinks_stopped (d : Dev) (c : Nat) : (d.resetLinks.firmwareOf c).stopped = false := by
  rw [Dev.firmwareOf, Dev.resetLinks]
  dsimp only
  rw [Tab.find_map]
  cases Tab.find d.firmware c <;> rfl

end

/-! ## Errors of memory -/

theorem mem_addOnce_self (l : List Nat) (n : Nat) : n ∈ addOnce l n := by
  unfold addOnce
  split
  · next h => exact List.contains_iff_mem.mp h
  · exact List.mem_cons_self

/-- A row's first error enters the filter and nothing else. -/
theorem Clinker.log_first {c : Clinker} {row : Nat} (h : (bloomBits row).all (fun b => c.bloom.contains b) = false) :
    c.log row = { c with first := min (c.first + 1) (2 ^ 32 - 1), bloom := (c.bloom ++ bloomBits row).dedup } := by
  rw [Clinker.log]
  dsimp only
  rw [h]
  rfl

theorem Clinker.log_first_bloom {c : Clinker} {row : Nat} (h : (bloomBits row).all (fun b => c.bloom.contains b) = false) :
    (bloomBits row).all (fun b => (c.log row).bloom.contains b) = true := by
  rw [Clinker.log_first h, List.all_eq_true]
  exact fun b hb => List.contains_iff_mem.mpr (List.mem_dedup.mpr (List.mem_append_right _ hb))

theorem Clinker.retire_spare {c : Clinker} {row : Nat} (h : c.spare ≠ 0) : c.retire row =
    { c with spare := c.spare - 1, retired := min (c.retired + 1) 65535, retiredRows := row :: c.retiredRows
             table := c.table.filter (·.1 != row) } := if_neg h

theorem uncorrectableError_keeps (s : State) (loc : PoisonLoc) :
    ∃ t : State, exec (.uncorrectableError loc) s = .next t ∧ t.mem.loc = s.mem.loc ∧ t.sched = s.sched := by
  refine ⟨_, exec_uncorrectableError loc s, ?_⟩
  cases loc with
  | dram g => dsimp only; split <;> exact ⟨rfl, rfl⟩
  | msc g => dsimp only; split <;> exact ⟨rfl, rfl⟩
  | spad g i => dsimp only; split <;> exact ⟨rfl, rfl⟩
  | vreg core wid r hi =>
    dsimp only
    split
    · split <;> exact ⟨rfl, rfl⟩
    · exact ⟨rfl, rfl⟩
  | _ => exact ⟨rfl, rfl⟩

/-! ## Scans and the clock -/

section
variable {s : State} {h k : Nat} {c : Core}

theorem scanComplete_eq (hc : s.cores.find? (fun c => c.2.scanning == some h) = some (k, c)) (pass : Bool) :
    exec (.scanComplete h pass) s = .next { s.setCore k { Core.reset with clockBase := c.clockBase } with
      kiln := { s.kiln with scans := Tab.modify s.kiln.scans h (fun x => { x with status := if pass then 2 else 3 }) }
      dev := if pass then s.dev else s.dev.removeCore k } := by
  rw [exec_scanComplete, execScanComplete, hc]
  cases pass <;> rfl

theorem removeCore_none_spare {d : Dev} (hs : d.spares = 0) : k ∈ (d.removeCore k).outOfService := by
  rw [Dev.removeCore]
  dsimp only
  rw [if_pos hs]
  exact mem_addOnce_self _ _

theorem removeCore_spare {d : Dev} (hs : d.spares ≠ 0) :
    (d.removeCore k).spares = d.spares - 1 ∧ (d.removeCore k).outOfService = d.outOfService := by
  rw [Dev.removeCore]
  dsimp only
  rw [if_neg hs]
  exact ⟨rfl, rfl⟩

theorem scanRun_starts {x : Scan} (hx : Tab.find s.kiln.scans h = some x) (hup : s.kilnUp = true)
    (hs : x.status = 0 ∨ x.status = 4) (hc : x.core = none ∨ x.core = some k) (hk : s.scannable k = true) :
    exec (.scanRun h k) s = .next { (s.modCore k (fun c => { c with scanning := some h })) with
      kiln := { s.kiln with scans := Tab.modify s.kiln.scans h (fun x => { x with status := 1 }) } } := by
  have hstatus : (x.status == 0 || x.status == 4) = true := by
    rw [Bool.or_eq_true, beq_iff_eq, beq_iff_eq]
    exact hs
  have hcore : (x.core.map (fun j => j == k)).getD true = true := by
    rcases hc with hc | hc
    · rw [hc]
      rfl
    · rw [hc, Option.map_some, Option.getD_some, beq_self_eq_true]
  rw [exec_scanRun, execScanRun, hx]
  refine if_neg ?_
  rw [hup, hstatus, hcore, hk]
  exact Bool.false_ne_true

end

/-! ## What KILN and power management do by themselves -/

section
variable {s : State}

theorem clinkerClear_eq : exec .clinkerClear s = if s.dev.lastClear + 2 ^ 46 ≤ s.dev.tick ∧ s.kilnUp = true then
    .next { s with dev := { s.dev with
      lastClear := s.dev.tick
      clinker := s.dev.clinker.map (fun c => { c with bloom := [], table := [] }) } } else .next s := rfl

theorem clockAdjust_eq {mhz : Nat} : exec (.clockAdjust mhz) s =
    if 1200 ≤ mhz ∧ mhz ≤ s.dev.fitting.nominal ∧ (mhz = s.dev.mhz + 100 ∨ mhz + 100 = s.dev.mhz) then
      .next { s with dev := { s.dev with mhz := mhz } } else .next s := rfl

/-- A granule of DRAM that fails is poisoned and bad, and no byte changes. -/
theorem uncorrectableError_dram {g : Nat} (hg : 64 * g < s.dev.populated) :
    ∃ t : State, exec (.uncorrectableError (.dram g)) s = .next t ∧ g ∈ t.mem.poison ∧ g ∈ t.mem.bad ∧ t.mem.loc = s.mem.loc ∧
      (g ∉ s.mem.sram → g ∉ s.mem.wire → t.backPoison (.loc (64 * g)) = 1) := by
  refine ⟨_, (exec_uncorrectableError (.dram g) s).trans (congrArg Host.Outcome.next (if_neg (Nat.not_le.mpr hg))),
    mem_addOnce_self _ _, mem_addOnce_self _ _, rfl, fun hsram hwire => ?_⟩
  have hpoison : (addOnce s.mem.poison g).contains g = true := List.contains_iff_mem.mpr (mem_addOnce_self _ _)
  have hnot {l : List Nat} (h : g ∉ l) : l.contains g = false := by
    rw [← Bool.not_eq_true, List.contains_iff_mem]
    exact h
  rw [State.backPoison, MemSys.code, Nat.mul_div_cancel_left g (by decide), hpoison, hnot hwire, hnot hsram]
  rfl

theorem uncorrectableError_msc {g : Nat} (hg : 64 * g < s.dev.populated) :
    ∃ t : State, exec (.uncorrectableError (.msc g)) s = .next t ∧ g ∈ t.mem.poison :=
  ⟨_, (exec_uncorrectableError (.msc g) s).trans (congrArg Host.Outcome.next (if_neg (Nat.not_le.mpr hg))), mem_addOnce_self _ _⟩

/-- A function that passes its self test changes its own ready bit. -/
theorem selfTestPass_sets (f : Func) (n : Fin 24) :
    let up (c : Nat) : Prop := (s.dev.firmwareOf c).stopped = false
    ∃ t : State, exec (.selfTestPass f) s = .next t ∧ t.mem = s.mem ∧ t.kiln = s.kiln ∧
      (f = .clus n → ∀ j, j < 24 → t.dev.clus.getLsbD j = (s.dev.clus.getLsbD j || decide (j = n.val))) ∧
      (∀ m, m < 8 → f = .stack m → up (0x20 + m) → up (0x30 + m) → ∀ j, j < 8 →
        t.dev.stackBits.getLsbD j = (s.dev.stackBits.getLsbD j || decide (j = m))) ∧
      (∀ m, m < 16 → f = .link m → s.dev.devSet = true → (s.dev.linkState[m]?).any (fun l => l.out) = false → up (0x10 + m) →
        ∀ j, j < 16 → t.dev.links.getLsbD j = (s.dev.links.getLsbD j || decide (j = m))) ∧
      (∀ m, f = .link m → s.dev.devSet = false → t = s) ∧
      (∀ m, m < 4 → f = .port m → ∀ j, j < 4 → t.dev.ports.getLsbD j = (s.dev.ports.getLsbD j || decide (j = m))) ∧
      (f = .firebox → up 1 → t.dev.firebox = true) ∧ (f = .kiln → up 0 → t.dev.kiln = true) := by
  intro up
  refine ⟨_, selfTestPass_eq s f, rfl, rfl, ?_, ?_, ?_, ?_, ?_, ?_, ?_⟩
  · rintro rfl j hj
    exact getLsbD_set_bit _ _ hj
  · rintro m - rfl h2 h3 j hj
    exact Dev.passed_stack hj h2 h3
  · rintro m - rfl hd ho h1 j hj
    exact Dev.passed_link hj hd ho h1
  · rintro m rfl hd
    rw [Dev.passed_link_unset hd]
  · rintro m - rfl j hj
    exact getLsbD_set_bit _ _ hj
  · rintro rfl h
    exact Dev.passed_firebox h
  · rintro rfl h
    exact Dev.passed_kiln h

end

/-- Settles O47: each event by its branch; that a range declared dead reads 0 is `Store.get_clear` along the ranges. -/
theorem healthEvents : Obligations.HealthEvents := by
  unfold Obligations.HealthEvents
  intro s fn stack row g h k mhz u r n f loc w up
  refine ⟨selfTestPass_sets f n, fun hr => ⟨?_, ?_⟩, fun hr hfn hf he => ⟨_, functionEnable_draws hr hfn hf he, ?_, ?_, rfl,
      fun j hj => ?_⟩, functionEnable_nothing, fun hr hfn => ⟨_, functionReset_eq hr hfn, ?_, ?_, ?_, rfl, fun h0 => ?_, fun h0 => ?_⟩,
    fun hwf => ⟨deadRanges_wf hwf, fun y => declareDeads_loc _ y s⟩, rfl, fun c hc => ?_, fun c hc => if_pos hc,
    fun c hc => ?_, uncorrectableError_keeps s loc, fun hw hr => ?_, fun hg => ?_, uncorrectableError_msc, uncorrectableError_dram,
    fun ht hup => ?_, fun ht => ?_, fun x hx hup hs hc hk => scanRun_starts hx hup hs hc hk, fun c hc pass =>
    ⟨_, scanComplete_eq hc pass, ?_, fun x hx => ?_, ?_, ?_, ?_⟩, fun h1 h2 h3 => ?_, fun h1 => ?_⟩
  · rw [exec_functionEnable, execFunctionEnable, if_pos hr]
    rfl
  · rw [exec_functionReset, execFunctionReset, if_pos hr]
    rfl
  · rw [State.modTenant, State.tenant_setTenant]
  · rw [State.modTenant, State.tenant_setTenant]
  · rw [State.modTenant, State.tenant_setTenant_ne hj]
    exact congrArg (fun k : Kiln => (Tab.find k.tenants j).getD (.reset j)) deadRanges_kiln
  · exact congrArg Tenant.key resetFunction_tenant
  · exact congrArg Tenant.busy resetFunction_tenant
  · exact congrArg Tenant.payload resetFunction_tenant
  · rw [if_neg (not_not.mpr h0)]
    exact ⟨rfl, rfl, rfl, fun c _ => resetLinks_stopped _ c⟩
  · rw [if_pos h0]
  · rw [Clinker.log_first hc]
    refine ⟨rfl, rfl, rfl, ?_⟩
    have hbloom := Clinker.log_first_bloom hc
    rw [Clinker.log_first hc] at hbloom
    exact hbloom
  · rw [Clinker.retire_spare hc]
    exact ⟨rfl, List.mem_cons_self, fun z hz => bne_iff_ne.mp (List.mem_filter.mp hz).2⟩
  · rw [exec_uncorrectableError, execUncorrectableError]
    dsimp only
    rw [hw]
    exact congrArg Host.Outcome.next (if_pos hr)
  · exact congrArg Host.Outcome.next (if_pos hg)
  · rw [clinkerClear_eq, if_pos ⟨ht, hup⟩]
  · rw [clinkerClear_eq, if_neg fun hc => absurd hc.1 (Nat.not_le.mpr ht)]
  · exact State.core_setCore _ _ _
  · dsimp only
    rw [Tab.find_modify_self, hx]
    rfl
  · rintro rfl
    rfl
  · rintro rfl hs
    exact removeCore_none_spare hs
  · rintro rfl hs
    exact removeCore_spare hs
  · rw [clockAdjust_eq, if_pos ⟨h1, h2, h3⟩]
  · rw [clockAdjust_eq, if_neg]
    rintro ⟨hlo, hhi, -⟩
    rcases h1 with h | h
    · exact absurd hlo (Nat.not_le.mpr h)
    · exact absurd hhi (Nat.not_le.mpr h)

end Sys2Proof.Machine

/-! PROOFS. Mailbox commands about contexts, host queues, the debugger and sessions (R61, R310, R317, R319, R331, R364). -/

namespace Sys2Proof.Machine
set_option Elab.async false

/-! ## A command that runs -/

/-- What a body that ends comes to: its results, or the command stays BUSY. -/
def State.carried (fn seq : Nat) (z : State) (out : Option (List Byte)) : State :=
  match out with
  | none => z
  | some out => z.mbDone fn seq 0 out

/-- The requirement of a command is met. -/
theorem need_bind {α : Type} {b : Bool} (h : b = true) (f : Unit → Except Nat α) : (need b >>= f) = f () := by
  rw [need, if_pos h]
  rfl

section
variable {s s1 z : State} {fn n code : Nat} {seq : Byte} {c : Ctx}

theorem ownCtx_own (h : s.ctx n = some c ∧ c.tenant = fn) : s.ownCtx fn n = .ok c := by
  obtain ⟨hc, ht⟩ := h
  rw [State.ownCtx, hc]
  exact if_pos ht

/-- A command that runs has the effect of its body. -/
theorem command_runs (cmd : Cmd) (h : CommandRuns s s1 fn code seq cmd.pf cmd.needs cmd.fields) {out : Option (List Byte)}
    (hb : cmd.body s1 (s1.tenant fn) = .ok (z, out)) : s.command fn code seq cmd = State.carried fn seq.toNat z out := by
  obtain ⟨hstart, hup, hidle, hready, hmay, hclean⟩ := h
  unfold State.command
  rw [hstart]
  dsimp only
  unfold State.carry
  rw [hup, hidle, hready, hmay, hclean, hb]
  cases out <;> rfl

end

/-! ## The bodies -/

section
variable {s s1 s2 : State} {fn n u : Nat} {seq : Byte} {c : Ctx} {w : Wave} {x : Session} {bs : List Byte}

/-- A ring whose header fields are legal. -/
theorem ringOk_of (h0 : fieldAt bs 0 8 ≠ 0) (h64 : fieldAt bs 0 8 % 64 = 0) (htop : fieldAt bs 0 8 < 2 ^ 56)
    (hlo : 4 ≤ fieldAt bs 0x18 4) (hhi : fieldAt bs 0x18 4 ≤ 16) (hflag : fieldAt bs 0x1C 4 < 2) (hres : fieldAt bs 0x20 32 = 0) :
    ringOk bs = true := by
  simp only [ringOk, Bool.and_eq_true, bne_iff_ne, beq_iff_eq, decide_eq_true_eq]
  exact ⟨⟨⟨⟨⟨⟨h0, h64⟩, htop⟩, hlo⟩, hhi⟩, Nat.div_eq_of_lt hflag⟩, hres⟩

/-- The context that `CREATE_CONTEXT` makes from its payload. -/
def newCtx (s : State) (fn : Nat) (t : Tenant) : Ctx :=
  { tenant := fn, asid := s.freeAsid, tableRoot := t.pay 0 8, trapbase := t.pay 8 8, arena := (t.pay 0x10 8, t.pay 0x18 8)
    arenaTaken := [], reserve := (t.pay 0x20 8, t.pay 0x28 8), reserveTaken := [], mgmt := t.pay 0x30 4 == 1
    cap := t.policy.getLsbD 0, strict := t.policy.getLsbD 1, att := false, viral := false, queues := [], segments := [] }

/-- The device with a new context, its address-space identifier purged. -/
def State.withCtx (s : State) (n : Nat) (c : Ctx) : State :=
  { s.purgeAsid s.freeAsid with kiln := { (s.purgeAsid s.freeAsid).kiln with ctxs := Tab.put s.kiln.ctxs n c } }

theorem withCtx_ctx : (s.withCtx n c).ctx n = some c := Tab.find_put_self _ _ _

theorem withCtx_ctx_ne {j : Nat} (h : j ≠ n) : (s.withCtx n c).ctx j = s.ctx j := Tab.find_put_ne _ _ _ _ h

/-- The checks on the payload of `CREATE_CONTEXT`. -/
def createOk (t : Tenant) : Bool :=
  t.pay 0x30 4 < 2 && t.pay 0 8 % 65536 == 0 && inBlocks t.ranges (t.pay 0 8) 65536 && codeAddrOk (t.pay 8 8)
    && t.pay 0x10 8 % 65536 == 0 && t.pay 0x18 8 % 65536 == 0 && t.pay 0x18 8 != 0
    && decide (t.pay 0x10 8 + t.pay 0x18 8 ≤ 2 ^ 56) && t.pay 0x20 8 % 2 ^ 21 == 0 && t.pay 0x28 8 % 2 ^ 21 == 0
    && t.pay 0x28 8 != 0 && inBlocks t.ranges (t.pay 0x20 8) (t.pay 0x28 8)

theorem createContext_body {t : Tenant} (hok : createOk t = true) (hmgmt : t.pay 0x30 4 = 1 → t.policy.getLsbD 2 = true)
    (hroom : (s.kiln.ctxs.filter (fun c => c.2.tenant == fn)).length < t.policy.toNat / 65536 % 128)
    (hfree : (List.range 64).find? (fun n => (s.ctx n).isNone) = some n) :
    (cmdCreateContext fn).body s t = .ok (s.withCtx n (newCtx s fn t), some (leBytes n 4)) := by
  have hmay : ¬(t.pay 0x30 4 = 1 ∧ (!t.policy.getLsbD 2) = true) := by
    rintro ⟨h1, h2⟩
    rw [hmgmt h1] at h2
    cases h2
  dsimp only [cmdCreateContext]
  show (need (createOk t) >>= _) = _
  rw [need_bind hok, if_neg hmay, if_neg (Nat.not_le.mpr hroom), hfree]
  rfl

theorem destroyContext_body {t : Tenant} (hn : t.pay 0 4 = n) (hown : s.ctx n = some c ∧ c.tenant = fn) :
    (cmdDestroyContext fn).body s t =
      if s.kiln.launches.any (fun l => l.2.record.ctx == n) then .ok (s, none) else .ok (s.dropCtx n c, some []) := by
  dsimp only [cmdDestroyContext]
  rw [hn, ownCtx_own hown]
  rfl

/-- The host queue that a header describes. -/
def newQueue (t : Tenant) (bs : List Byte) : HostQueue :=
  { header := t.pay 8 8, ring := fieldAt bs 0 8, log2 := fieldAt bs 0x18 4, read := fieldAt bs 0x10 8, write := fieldAt bs 0x10 8
    overrun := false, rung := false }

theorem registerHostQueue_body {t : Tenant} (hn : t.pay 0 4 = n) (hown : s.ctx n = some c ∧ c.tenant = fn) (hq : t.pay 4 4 < 8)
    (hal : t.pay 8 8 % 64 = 0) (htop : t.pay 8 8 < 2 ^ 56) (hobj : s.obj (s.agentFor n) .sys (t.pay 8 8) 64 = .ok (s2, bs))
    (hring : ringOk bs = true) :
    (cmdRegisterHostQueue fn).body s t = .ok ((s2.modCtx n (fun c => { c with queues := Tab.put c.queues (t.pay 4 4) (newQueue t bs) })).kilnWrite n .sys
        (t.pay 8 8 + 0x1C) (leBytes 0 4), some []) := by
  have hlegal : (t.pay 4 4 < 8 && t.pay 8 8 % 64 == 0 && decide (t.pay 8 8 < 2 ^ 56)) = true := by
    rw [decide_eq_true hq, hal, decide_eq_true htop]
    rfl
  dsimp only [cmdRegisterHostQueue]
  rw [hn, ownCtx_own hown]
  show (need _ >>= _) = _
  rw [need_bind hlegal, hobj]
  show (need _ >>= _) = _
  rw [need_bind hring]
  rfl

theorem unregisterHostQueue_body {t : Tenant} (hn : t.pay 0 4 = n) (hown : s.ctx n = some c ∧ c.tenant = fn) (hq : t.pay 4 4 < 8) :
    (cmdUnregisterHostQueue fn).body s t = .ok (s.modCtx n (fun c => { c with queues := Tab.drop c.queues (t.pay 4 4) }), some []) := by
  dsimp only [cmdUnregisterHostQueue]
  rw [hn, ownCtx_own hown]
  show (need _ >>= _) = _
  rw [need_bind (decide_eq_true hq)]

theorem attachOrDetachDebugger_body {t : Tenant} (hn : t.pay 0 4 = n) (hown : s.ctx n = some c ∧ c.tenant = fn)
    (hf : t.pay 4 4 < 2) : (cmdAttachOrDetachDebugger fn).body s t =
      if t.pay 4 4 = 1 then .ok (s.modCtx n (fun c => { c with att := t.pay 4 4 == 1 }), some [])
      else .ok (((Tab.keys s.kiln.waves).filter (fun u => ((s.wave u).map (fun w => s.ctxNo w.group)) == some n)).foldl
        (fun s u => s.modWave u (fun w => { w with clstep := false, brkstop := false }))
        (s.modCtx n (fun c => { c with att := t.pay 4 4 == 1 })), some []) := by
  dsimp only [cmdAttachOrDetachDebugger]
  rw [hn, ownCtx_own hown]
  show (need _ >>= _) = _
  rw [need_bind (decide_eq_true hf)]

theorem readDbgctl_body {t : Tenant} (hn : t.pay 0 4 = n) (hown : s.ctx n = some c ∧ c.tenant = fn)
    (hw : s.namedWave t = some (u, w)) : (cmdReadDbgctl fn).body s t = .ok (s, some (leBytes (w.dbgctl c.att) 4)) := by
  dsimp only [cmdReadDbgctl]
  rw [hn, ownCtx_own hown, hw]
  rfl

theorem writeDbgctl_body {t : Tenant} (hn : t.pay 0 4 = n) (hown : s.ctx n = some c ∧ c.tenant = fn)
    (hw : s.namedWave t = some (u, w)) (hv : t.pay 0x10 4 < 16) : (cmdWriteDbgctl fn).body s t =
      .ok (((s.modWave u (fun w => { w with
        clstep := c.att && t.pay 0x10 4 / 2 % 2 == 1
        brkstop := c.att && t.pay 0x10 4 % 2 == 1
        halted := w.halted && t.pay 0x10 4 / 4 % 2 == 1 })).wake u).pollAsync u, some []) := by
  dsimp only [cmdWriteDbgctl]
  rw [hn, ownCtx_own hown]
  show (need _ >>= _) = _
  rw [need_bind (beq_iff_eq.mpr (Nat.div_eq_of_lt hv)), hw]

/-! ## Sessions -/

/-- The address in local memory that an address of a context leads to. -/
def State.localOf (s : State) (ag : Agent) (a : Nat) : Option Nat :=
  match s.translate ag a .read with
  | .ok (.loc p, _) => some p
  | _ => none

/-- The addresses, one for each page, of the ring that a header describes. -/
def ringPages (bs : List Byte) : List Nat :=
  (List.range ((fieldAt bs 0 8 % 4096 + 256 * 2 ^ fieldAt bs 0x18 4 + 4095) / 4096)).map (fun i =>
    if i = 0 then fieldAt bs 0 8 else fieldAt bs 0 8 / 4096 * 4096 + 4096 * i)

/-- The extent in which a session's header and every page of its ring stand. -/
def State.sessionExtent (s : State) (ag : Agent) (t : Tenant) (p : Nat) (bs : List Byte) : Option (Nat × Nat) :=
  t.extents.find? (fun b => inBlocks [b] p 64 && (ringPages bs).all (fun a => (s.localOf ag a).any (fun r => inBlocks [b] r 1)))

/-- The session that a header describes. -/
def newSession (fn n : Nat) (t : Tenant) (bs : List Byte) (base : Nat) : Session :=
  { tenant := fn, ctx := n, header := t.pay 8 8, ring := fieldAt bs 0 8, log2 := fieldAt bs 0x18 4, read := fieldAt bs 0x10 8
    write := fieldAt bs 0x10 8, overrun := false, seq := 0, key := none, extent := base }

/-- A session opens: it is in the table, and the status of its header is clear. -/
def State.withSession (s : State) (fn n : Nat) (t : Tenant) (bs : List Byte) (base : Nat) : State :=
  ({ s with kiln := { s.kiln with sessions := Tab.put s.kiln.sessions (t.pay 0 4) (newSession fn n t bs base) } } : State).kilnWrite
    n .ten (t.pay 8 8 + 0x1C) (leBytes 0 4)

/-- The checks on the payload of `OPEN_SESSION`. -/
def State.openOk (s : State) (fn : Nat) (t : Tenant) : Bool :=
  s.dev.fitting == .l900 && t.pay 0 4 < 64 && (s.session (t.pay 0 4)).isNone
    && (match s.ownCtx fn (t.pay 4 4) with | .ok _ => true | .error _ => false) && t.pay 8 8 % 64 == 0 && decide (t.pay 8 8 < 2 ^ 56)

theorem openSession_eq (t : Tenant) : (cmdOpenSession fn).body s t = (need (s.openOk fn t) >>= fun _ =>
    match s.obj (s.agentFor (t.pay 4 4)) .ten (t.pay 8 8) 64, s.localOf (s.agentFor (t.pay 4 4)) (t.pay 8 8) with
    | .ok (s1, bs), some p => need (ringOk bs) >>= fun _ =>
      match s.sessionExtent (s.agentFor (t.pay 4 4)) t p bs with
      | none => .error 1
      | some b => .ok (s1.withSession fn (t.pay 4 4) t bs b.1, some [])
    | _, _ => .error 1) := by
  dsimp only [cmdOpenSession]
  rfl

theorem openOk_of {t : Tenant} (hn : t.pay 4 4 = n) (hown : s.ctx n = some c ∧ c.tenant = fn) (hfit : s.dev.fitting = .l900)
    (hnum : t.pay 0 4 < 64) (hnew : s.session (t.pay 0 4) = none) (hal : t.pay 8 8 % 64 = 0) (htop : t.pay 8 8 < 2 ^ 56) :
    s.openOk fn t = true := by
  rw [State.openOk, hn, ownCtx_own hown, hfit, hnew, hal, decide_eq_true hnum, decide_eq_true htop]
  rfl

theorem openSession_body {t : Tenant} {p : Nat} {b : Nat × Nat} (hok : s.openOk fn t = true)
    (hobj : s.obj (s.agentFor (t.pay 4 4)) .ten (t.pay 8 8) 64 = .ok (s2, bs)) (hring : ringOk bs = true)
    (hp : s.localOf (s.agentFor (t.pay 4 4)) (t.pay 8 8) = some p)
    (hb : s.sessionExtent (s.agentFor (t.pay 4 4)) t p bs = some b) :
    (cmdOpenSession fn).body s t = .ok (s2.withSession fn (t.pay 4 4) t bs b.1, some []) := by
  rw [openSession_eq, need_bind hok, hobj, hp]
  dsimp only
  rw [need_bind hring, hb]

theorem closeSession_body {t : Tenant} (hfit : s.dev.fitting = .l900) (hx : s.session (t.pay 0 4) = some x) (ht : x.tenant = fn) :
    (cmdCloseSession fn).body s t = .ok (s.dropSession (t.pay 0 4), some []) := by
  dsimp only [cmdCloseSession]
  rw [need_bind (beq_iff_eq.mpr hfit), hx]
  exact if_pos ht

end

/-- Settles O48: each command that runs has the effect of its body, and the body that of its payload. -/
theorem contextCommands : Obligations.ContextCommands := by
  unfold Obligations.ContextCommands
  intro s s1 s2 fn n u seq c w x bs t done own
  refine ⟨?_, fun hr hn hown => ⟨fun hl => ?_, fun hl => ?_⟩, ?_, fun hr hn hown hq => ?_, fun hr hn hown hf => ?_,
    fun hr hn hown hw => ?_, fun hr hn hown hw hv => ?_, ?_, fun hr hfit hx ht => ?_⟩
  · intro hr arena save hflag hmgmt hroot hin htrap ha hal ha0 hat hs hsl hs0 hsin hroom hfree
    have hok : createOk t = true := by
      simp only [createOk, Bool.and_eq_true, beq_iff_eq, bne_iff_ne, decide_eq_true_eq]
      exact ⟨⟨⟨⟨⟨⟨⟨⟨⟨⟨⟨hflag, hroot⟩, hin⟩, htrap⟩, ha⟩, hal⟩, ha0⟩, hat⟩, hs⟩, hsl⟩, hs0⟩, hsin⟩
    refine ⟨s1.withCtx n (newCtx s1 fn t), newCtx s1 fn t, ?_, withCtx_ctx, rfl, rfl, rfl, rfl, rfl, rfl, rfl, rfl, rfl, rfl, rfl,
      fun j => withCtx_ctx_ne⟩
    rw [exec_createContext, execCreateContext, command_runs (cmdCreateContext fn) hr (createContext_body hok hmgmt hroom hfree)]
    rfl
  · rw [exec_destroyContext, execDestroyContext, command_runs (cmdDestroyContext fn) hr ((destroyContext_body hn hown).trans (if_pos hl))]
    rfl
  · have hnot : ¬s1.kiln.launches.any (fun l => l.2.record.ctx == n) = true := Bool.not_eq_true _ ▸ hl
    rw [exec_destroyContext, execDestroyContext, command_runs (cmdDestroyContext fn) hr ((destroyContext_body hn hown).trans (if_neg hnot))]
    rfl
  · intro hr hn hown hq hal htop hobj h0 h64 hhigh hlo hhi hflag hres q
    rw [exec_registerHostQueue, execRegisterHostQueue, command_runs (cmdRegisterHostQueue fn) hr
      (registerHostQueue_body hn hown hq hal htop hobj (ringOk_of h0 h64 hhigh hlo hhi hflag hres))]
    rfl
  · rw [exec_unregisterHostQueue, execUnregisterHostQueue, command_runs (cmdUnregisterHostQueue fn) hr (unregisterHostQueue_body hn hown hq)]
    rfl
  · intro s2
    have hbody := attachOrDetachDebugger_body hn hown hf
    refine ⟨fun h1 => ?_, fun h0 => ?_⟩
    · rw [exec_attachOrDetachDebugger, execAttachOrDetachDebugger, command_runs (cmdAttachOrDetachDebugger fn) hr (hbody.trans (if_pos h1))]
      rfl
    · rw [exec_attachOrDetachDebugger, execAttachOrDetachDebugger, command_runs (cmdAttachOrDetachDebugger fn) hr (hbody.trans (if_neg (by rw [h0]; decide)))]
      rfl
  · rw [exec_readDbgctl, execReadDbgctl, command_runs (cmdReadDbgctl fn) hr (readDbgctl_body hn hown hw)]
    rfl
  · rw [exec_writeDbgctl, execWriteDbgctl, command_runs (cmdWriteDbgctl fn) hr (writeDbgctl_body hn hown hw hv)]
    rfl
  · intro hr hn hown hfit hnum hnew hal htop hobj h0 h64 hhigh hlo hhi hflag hres local_ ring pages p b hp hb x z
    have hok : s1.openOk fn t = true := openOk_of hn hown hfit hnum hnew hal htop
    have hring := ringOk_of h0 h64 hhigh hlo hhi hflag hres
    subst hn
    rw [exec_openSession, execOpenSession, command_runs (cmdOpenSession fn) hr (openSession_body hok hobj hring hp hb)]
    rfl
  · rw [exec_closeSession, execCloseSession, command_runs (cmdCloseSession fn) hr (closeSession_body hfit hx ht)]
    rfl

end Sys2Proof.Machine

/-! PROOFS. Firmware is staged, activated, confirmed by CONE, rolled back or taken out of service (R367 to R370, R442, R443). -/

namespace Sys2Proof.Machine
set_option Elab.async false

section
variable {s s1 : State} {fn code : Nat} {seq : Byte}

/-- A command whose body refuses completes with that RESULT. -/
theorem command_refuses (cmd : Cmd) (h : CommandRuns s s1 fn code seq cmd.pf cmd.needs cmd.fields) {r : Nat}
    (hb : cmd.body s1 (s1.tenant fn) = .error r) : s.command fn code seq cmd = s1.mbDone fn seq.toNat r [] := by
  obtain ⟨hstart, hup, hidle, hready, hmay, hclean⟩ := h
  unfold State.command
  rw [hstart]
  dsimp only
  unfold State.carry
  rw [hup, hidle, hready, hmay, hclean, hb]
  rfl

/-- The command register of a function holds the command that it has started. -/
theorem mbStart_cmd (h : s.mbStart fn code seq.toNat = some s1) : (s1.tenant fn).cmd = BitVec.ofNat 32 (code + 256 * seq.toNat) := by
  unfold State.mbStart at h
  dsimp only at h
  split at h
  · cases h
  · split at h
    · cases h
    · cases h
      rw [State.modTenant, State.tenant_setTenant]

/-- The sequence number in the command register. -/
theorem mbStart_seq (h : s.mbStart fn code seq.toNat = some s1) (hc : code < 256) :
    (s1.tenant fn).cmd.toNat / 256 % 256 = seq.toNat := by
  have hseq : seq.toNat < 256 := seq.isLt
  rw [mbStart_cmd h, BitVec.toNat_ofNat]
  omega

/-! ## Staging and activating -/

section
variable {t : Tenant} (hc : controllerOk (t.pay 0 4) = true)
include hc

theorem stageFirmware_body (h0 : t.pay 0x10 8 ≠ 0) (hin : inBlocks t.ranges (t.pay 8 8) (t.pay 0x10 8) = true)
    (hw : s.rangeWaits (t.pay 8 8) (t.pay 0x10 8) = false) : cmdStageFirmware.body s t =
      match (if s.readable (t.pay 8 8) (t.pay 0x10 8) then Config.firmware (t.pay 0 4) (s.mem.loc.bytes (t.pay 8 8) (t.pay 0x10 8))
        else none) with
      | none => .error 4
      | some v => .ok ({ s with dev := s.dev.modFirmware (t.pay 0 4) (fun x => { x with staged := some v }) }, some []) := by
  have hlegal : (controllerOk (t.pay 0 4) && t.pay 0x10 8 != 0 && inBlocks t.ranges (t.pay 8 8) (t.pay 0x10 8)) = true := by
    rw [hc, hin, bne_iff_ne.mpr h0]
    rfl
  dsimp only [cmdStageFirmware]
  rw [need_bind hlegal]
  refine if_neg ?_
  rw [hw]
  exact Bool.false_ne_true

theorem activateFirmware_body (hs : s.stopped (t.pay 0 4) = false) : (cmdActivateFirmware fn).body s t =
    if s.dev.activation.isSome ∨ (s.dev.firmwareOf (t.pay 0 4)).staged.isNone then .error 5
    else .ok ({ s with dev := { s.dev with
      activation := some ⟨t.pay 0 4, fn, t.cmd.toNat / 256 % 256, none, false, none⟩ } }, none) := by
  dsimp only [cmdActivateFirmware]
  rw [need_bind hc]
  refine if_neg ?_
  rw [hs]
  exact Bool.false_ne_true

end

/-! ## The safe point and CONE -/

section
variable {a : Activation} {d : Nat} {ver : W64} (ha : s.dev.activation = some a)
include ha

theorem safePoint_reached (hd : a.deadline = none) :
    let b : Activation := { a with deadline := some (s.dev.tick + 50000000), block := some (s.handOver a.controller) }
    let s2 : State := { s with dev := { s.dev with activation := some b } }
    exec .safePoint s = .next (if a.controller = 0 then s2.pollMarked else s2) := by
  intro b s2
  rw [exec_safePoint, execSafePoint, ha]
  refine if_neg ?_
  rw [hd]
  exact Bool.false_ne_true

variable (hd : a.deadline = some d)
include hd

/-- CONE in time, by the image that runs. -/
theorem cone_in_time (ht : s.dev.tick ≤ d) : exec (.cone ver) s =
    if a.old then (if ver = (s.dev.firmwareOf a.controller).version then .next (s.endActivation a 6) else .next s)
    else if (s.dev.firmwareOf a.controller).staged = some ver then
      .next (({ s with dev := s.dev.modFirmware a.controller (fun x => { x with version := ver, staged := none }) } :
        State).endActivation a 0)
    else .next s := by
  rw [exec_cone, execCone, ha]
  dsimp only
  rw [hd]
  exact if_neg (Nat.not_lt.mpr ht)

theorem coneDeadline_in_time (ht : s.dev.tick ≤ d) : exec .coneDeadlineExpiry s = .next s := by
  rw [exec_coneDeadlineExpiry, execConeDeadlineExpiry, ha]
  dsimp only
  rw [hd]
  exact if_pos ht

variable (ht : d < s.dev.tick)
include ht

/-- The new image is discarded, and the old one has 50 ms. -/
theorem coneDeadline_new (ho : a.old = false) : exec .coneDeadlineExpiry s = .next { s with dev :=
    { s.dev.modFirmware a.controller (fun x => { x with staged := none }) with
      activation := some { a with old := true, deadline := some (s.dev.tick + 50000000) } } } := by
  rw [exec_coneDeadlineExpiry, execConeDeadlineExpiry, ha]
  dsimp only
  rw [hd]
  refine (if_neg (Nat.not_le.mpr ht)).trans (if_pos ?_)
  rw [ho]
  rfl

theorem coneDeadline_old (ho : a.old = true) :
    let s2 : State := if 0x20 ≤ a.controller then s.endAll waitCut ⟨7, 2⟩ 7 false
      else if a.controller = 0 then s.unmark.pollMarked else s
    exec .coneDeadlineExpiry s = .next (({ s2 with dev := s2.dev.outOfControl a.controller } : State).endActivation a 7) := by
  intro s2
  rw [exec_coneDeadlineExpiry, execConeDeadlineExpiry, ha]
  dsimp only
  rw [hd]
  refine (if_neg (Nat.not_le.mpr ht)).trans (if_neg ?_)
  rw [ho]
  exact Bool.false_ne_true

end

/-! ## Controllers out of service -/

theorem firmwareOf_modFirmware (x : Dev) (c : Nat) (f : Firmware → Firmware) : (x.modFirmware c f).firmwareOf c = f (x.firmwareOf c) := by
  rw [Dev.firmwareOf, Dev.modFirmware, Tab.find_put_self, Option.getD_some]

theorem outOfControl_firmware (x : Dev) (c : Nat) :
    (x.outOfControl c).firmware = (x.modFirmware c (fun y => { y with stopped := true })).firmware := by
  unfold Dev.outOfControl
  dsimp only
  split
  · rfl
  · split
    · rfl
    · split <;> rfl

theorem outOfControl_stopped (x : Dev) (c : Nat) : ((x.outOfControl c).firmwareOf c).stopped = true := by
  rw [Dev.firmwareOf, outOfControl_firmware]
  exact congrArg Firmware.stopped (firmwareOf_modFirmware x c _)

/-- No gang is being stopped once KILN is down, or has forgotten its marks. -/
theorem preempting_down {g : Nat} (h : s.kilnUp = false) : s.preempting g = false := by
  rw [State.preempting, h, Bool.false_and]

theorem preempting_unmark (g : Nat) : s.unmark.preempting g = false := by
  have hmark (k : Nat) : ((s.unmark.gang k).map (·.marked)).getD false = false := by
    rw [State.gang, State.unmark]
    dsimp only
    rw [Tab.find_map]
    cases Tab.find s.kiln.gangs k <;> rfl
  rw [State.preempting]
  cases s.unmark.group g with
  | none => exact Bool.and_false _
  | some x =>
    rw [Option.bind_some, hmark]
    exact Bool.and_false _

end

/-- Settles O50: each step of a replacement, by what the activation in progress says. -/
theorem firmwareReplaced : Obligations.FirmwareReplaced := by
  unfold Obligations.FirmwareReplaced
  intro s s1 fn d seq ver a t c
  refine ⟨fun hr hc h0 hin hw => ⟨fun hread => ?_, fun hread => ?_⟩, fun hr hc hs => ⟨fun ha hst => ?_, fun h => ?_⟩,
    fun ha => ⟨?_, ?_, ?_⟩, fun ha hd => safePoint_reached ha hd, fun ha hd => ⟨fun ht ho hst => ?_, fun ht ho hv => ?_,
      coneDeadline_in_time ha hd, fun ht ho => ⟨_, coneDeadline_new ha hd ht ho, rfl, ?_, ?_⟩, fun ht ho => coneDeadline_old ha hd ht ho⟩,
    fun g => ⟨preempting_down, preempting_unmark g, rfl, rfl⟩, ⟨rfl, rfl, rfl⟩, fun x => ⟨outOfControl_stopped x d, ?_, ?_⟩⟩
  · have hbody := stageFirmware_body hc h0 hin hw
    rw [if_pos hread] at hbody
    rw [exec_stageFirmware, execStageFirmware]
    cases hf : Config.firmware c (s1.mem.loc.bytes (t.pay 8 8) (t.pay 0x10 8)) with
    | none =>
      rw [hf] at hbody
      rw [command_refuses cmdStageFirmware hr hbody]
    | some ver =>
      rw [hf] at hbody
      rw [command_runs cmdStageFirmware hr hbody]
      rfl
  · have hbody := stageFirmware_body hc h0 hin hw
    rw [hread] at hbody
    rw [exec_stageFirmware, execStageFirmware, command_refuses cmdStageFirmware hr hbody]
  · have hgo : ¬(s1.dev.activation.isSome = true ∨ (s1.dev.firmwareOf c).staged.isNone = true) := by
      rw [ha, Option.isNone_iff_eq_none]
      exact not_or.mpr ⟨Bool.false_ne_true, hst⟩
    rw [exec_activateFirmware, execActivateFirmware,
      command_runs (cmdActivateFirmware fn) hr ((activateFirmware_body hc hs).trans (if_neg hgo)), mbStart_seq hr.start (by decide)]
    rfl
  · have hstop : s1.dev.activation.isSome = true ∨ (s1.dev.firmwareOf c).staged.isNone = true :=
      h.imp Option.isSome_iff_ne_none.mpr Option.isNone_iff_eq_none.mpr
    rw [exec_activateFirmware, execActivateFirmware,
      command_refuses (cmdActivateFirmware fn) hr ((activateFirmware_body hc hs).trans (if_pos hstop))]
  · rw [exec_safePoint, execSafePoint, ha]
  · rw [exec_cone, execCone, ha]
  · rw [exec_coneDeadlineExpiry, execConeDeadlineExpiry, ha]
  · rw [cone_in_time ha hd ht, ho, if_neg Bool.false_ne_true, if_pos hst]
  · rw [cone_in_time ha hd ht, if_pos ho, if_pos hv.symm]
  · exact congrArg Firmware.staged (firmwareOf_modFirmware s.dev a.controller (fun x => { x with staged := none }))
  · exact (congrArg Firmware.version (firmwareOf_modFirmware s.dev a.controller (fun x => { x with staged := none }))).trans rfl
  · rintro rfl
    rfl
  · rintro rfl
    rfl

end Sys2Proof.Machine

/-! PROOFS. Reading an object does not see the copies that wait for a port, nor the next unique number: a read after they have
changed is the read before, with the same change after it. -/

namespace Sys2Proof.Machine
set_option Elab.async false

/-! ## Tables -/

theorem Tab.put_comm {α : Type} {j k : Nat} (h : j ≠ k) (a b : α) : ∀ t : Tab α,
    Tab.put (Tab.put t j a) k b = Tab.put (Tab.put t k b) j a
  | [] => by
    rcases Nat.lt_or_gt_of_ne h with hlt | hlt
    · simp [Tab.put, hlt, Nat.lt_asymm hlt, Ne.symm h]
    · simp [Tab.put, hlt, Nat.lt_asymm hlt, h]
  | (i, v) :: r => by
    have ih := Tab.put_comm h a b r
    simp only [Tab.put]
    split <;> split <;> grind [Tab.put]

theorem Tab.map_put {α : Type} (g : α → α) (k : Nat) (v : α) : ∀ t : Tab α,
    (Tab.put t k v).map (fun c => (c.1, g c.2)) = Tab.put (t.map (fun c => (c.1, g c.2))) k (g v)
  | [] => rfl
  | (i, w) :: r => by
    have ih := Tab.map_put g k v r
    simp only [Tab.put, List.map_cons]
    split
    · rfl
    · split
      · rfl
      · rw [List.map_cons, ih]

/-- What a change commutes with one by one, it commutes with all along a list. -/
theorem foldl_commutes {α σ : Type} (F : σ → σ) {f : σ → α → σ} (h : ∀ s x, f (F s) x = F (f s x)) {l : List α} {s t : σ}
    (ht : t = F s) : l.foldl f t = F (l.foldl f s) := by
  subst ht
  induction l generalizing s with
  | nil => rfl
  | cons x r ih => rw [List.foldl_cons, h, ih, List.foldl_cons]

/-! ## The change -/

/-- A state with other copies waiting for the port of a core, and another next unique number. -/
def State.withPend (k n : Nat) (ps : List Copy) (s : State) : State :=
  { s.modCore k (fun c => { c with pend := ps }) with kiln := { s.kiln with nextUid := n } }

section
variable {k n : Nat} {ps : List Copy} {s : State}

theorem core_withPend (j : Nat) : (s.withPend k n ps).core j = if j = k then { s.core k with pend := ps } else s.core j := by
  by_cases h : j = k
  · subst h
    rw [if_pos rfl]
    exact State.core_setCore _ _ _
  · rw [if_neg h]
    exact congrArg (fun o => o.getD Core.reset) (Tab.find_put_ne _ _ _ _ h)

theorem core_withPend_l1 (j : Nat) : ((s.withPend k n ps).core j).l1 = (s.core j).l1 := by
  rw [core_withPend]
  split
  · next h => rw [h]
  · rfl

/-- A change of a core that leaves its waiting copies. -/
theorem withPend_modCore {j : Nat} {f : Core → Core} (hf : ∀ c, f { c with pend := ps } = { f c with pend := ps }) :
    (s.withPend k n ps).modCore j f = (s.modCore j f).withPend k n ps := by
  have hcores : Tab.put (Tab.put s.cores k { s.core k with pend := ps }) j (f ((s.withPend k n ps).core j)) =
      Tab.put (Tab.put s.cores j (f (s.core j))) k { (s.modCore j f).core k with pend := ps } := by
    rw [core_withPend]
    by_cases h : j = k
    · subst h
      rw [if_pos rfl, State.modCore, State.core_setCore, Tab.put_put, Tab.put_put, hf]
    · have hk : (s.modCore j f).core k = s.core k :=
        congrArg (fun o => o.getD Core.reset) (Tab.find_put_ne _ _ _ _ (Ne.symm h))
      rw [if_neg h, hk, Tab.put_comm (Ne.symm h)]
  exact congrArg (fun cs => { s with cores := cs, kiln := { s.kiln with nextUid := n } }) hcores

end

/-! ## The memory system -/

section
variable {k n : Nat} {ps : List Copy} (s : State)

theorem withPend_noteWait (p : Place) : (s.withPend k n ps).noteWait p = (s.noteWait p).withPend k n ps :=
  (apply_ite (State.withPend k n ps) (s.waitsAt p = true) s.hold s).symm

theorem withPend_noteRead (p : Place) : (s.withPend k n ps).noteRead p = (s.noteRead p).withPend k n ps := by
  unfold State.noteRead
  rw [withPend_noteWait]
  exact (apply_ite (State.withPend k n ps) _ s (s.noteWait p)).symm

theorem withPend_modCluster (c : Nat) (f : Cluster → Cluster) :
    (s.withPend k n ps).modCluster c f = (s.modCluster c f).withPend k n ps := rfl

theorem withPend_goViral (c : Nat) : (s.withPend k n ps).goViral c = (s.goViral c).withPend k n ps := by
  unfold State.goViral
  rw [apply_ite (State.withPend k n ps)]
  rfl

theorem withPend_noteLost (cl : Option Nat) (t a : Nat) :
    (s.withPend k n ps).noteLost cl t a = (s.noteLost cl t a).withPend k n ps := by
  unfold State.noteLost
  exact foldl_commutes (State.withPend k n ps) (fun s c => withPend_goViral s c) rfl

theorem withPend_forget (p : Place) : (s.withPend k n ps).forget p = (s.forget p).withPend k n ps := by
  let g (c : Core) : Core := { c with l1 := c.l1.filter (fun x => x.place != p) }
  have hcores : (Tab.put s.cores k { s.core k with pend := ps }).map (fun c => (c.1, g c.2)) =
      Tab.put (s.cores.map (fun c => (c.1, g c.2))) k { (s.forget p).core k with pend := ps } := by
    rw [Tab.map_put]
    congr 1
    have hk : (s.forget p).core k = g (s.core k) := by
      rw [State.core, State.forget]
      dsimp only
      rw [Tab.find_map (fun c => g c.2), State.core]
      cases Tab.find s.cores k <;> rfl
    rw [hk]
  exact congrArg (fun cs => { s.forget p with cores := cs, kiln := { s.kiln with nextUid := n } }) hcores

theorem withPend_homeBack (cl : Option Nat) (x : PSector) :
    (s.withPend k n ps).homeBack cl x = (s.homeBack cl x).withPend k n ps := by
  unfold State.homeBack
  split
  · simp only [apply_ite (State.withPend k n ps), withPend_forget, withPend_noteWait, withPend_noteLost]
    rfl
  · rfl

theorem withPend_mapCopies (f : Option Nat → PSector → Option PSector) :
    (s.withPend k n ps).mapCopies f = (s.mapCopies f).withPend k n ps := rfl

theorem withPend_bisnp (keep : Option Nat → Place → Bool) (p : Place) :
    (s.withPend k n ps).bisnp keep p = (s.bisnp keep p).withPend k n ps := by
  unfold State.bisnp
  dsimp only
  rw [apply_ite (State.withPend k n ps), withPend_mapCopies,
    foldl_commutes (State.withPend k n ps) (f := fun s x => s.homeBack none x) (fun s x => withPend_homeBack s none x) rfl]
  rfl

theorem withPend_cohHome (cl : Option Nat) (p : Place) : (s.withPend k n ps).cohHome cl p = (s.cohHome cl p).withPend k n ps :=
  withPend_bisnp s _ p

theorem withPend_mscFlush (cl : Option Nat) (p : Place) : (s.withPend k n ps).mscFlush cl p = (s.mscFlush cl p).withPend k n ps := by
  have hfind : (s.withPend k n ps).mscFind p = s.mscFind p := rfl
  unfold State.mscFlush
  rw [hfind]
  split
  · rfl
  · next x _ =>
    rw [← withPend_homeBack, apply_ite (State.withPend k n ps), ← withPend_cohHome]
    rfl

theorem withPend_mscRoom (l : Place) : (s.withPend k n ps).mscRoom l = (s.mscRoom l).withPend k n ps := by
  unfold State.mscRoom
  dsimp only
  rw [show (s.withPend k n ps).sched = s.sched from rfl, show (s.withPend k n ps).mem = s.mem from rfl]
  split
  · rfl
  · rfl
  · exact foldl_commutes (State.withPend k n ps) (fun s p => withPend_mscFlush s none p) rfl

theorem withPend_mscPut (x : PSector) : (s.withPend k n ps).mscPut x = (s.mscPut x).withPend k n ps := by
  unfold State.mscPut
  rw [withPend_mscRoom]
  rfl

theorem withPend_mscHold (p : Place) : (s.withPend k n ps).mscHold p = (s.mscHold p).withPend k n ps := by
  unfold State.mscHold
  refine foldl_commutes (State.withPend k n ps) (fun t l => ?_) rfl
  dsimp only
  rw [withPend_mscRoom, apply_ite (State.withPend k n ps)]
  rfl

theorem withPend_mscFill (p : Place) (t c : Nat) (a : Attr) :
    (s.withPend k n ps).mscFill p t c a = (s.mscFill p t c a).withPend k n ps := by
  unfold State.mscFill
  simp only [apply_ite (State.withPend k n ps), ← withPend_mscHold, ← withPend_mscPut]
  rfl

theorem withPend_mscWrite (x : PSector) (mask : BitVec 128) :
    (s.withPend k n ps).mscWrite x mask = (s.mscWrite x mask).withPend k n ps := withPend_mscPut s _

theorem withPend_emberHit (p : Place) (m : Nat) : (s.withPend k n ps).emberHit p m = (s.emberHit p m).withPend k n ps := rfl

theorem withPend_backWrite (x : PSector) (mask : BitVec 128) :
    (s.withPend k n ps).backWrite x mask = (s.backWrite x mask).withPend k n ps := by
  have hnote : (if x.place.isHome then s.withPend k n ps else (s.withPend k n ps).noteWait x.place) =
      (if x.place.isHome then s else s.noteWait x.place).withPend k n ps := by
    rw [withPend_noteWait, apply_ite (State.withPend k n ps)]
  unfold State.backWrite
  dsimp only
  rw [hnote]
  generalize (if x.place.isHome then s else s.noteWait x.place) = s
  split
  · rfl
  · exact foldl_commutes (State.withPend k n ps) (fun _ _ => rfl) rfl
  · rw [withPend_mscWrite, apply_ite (State.withPend k n ps)]
    rfl
  · rfl

theorem withPend_l2WriteBack (cl : Nat) (p : Place) :
    (s.withPend k n ps).l2WriteBack cl p = (s.l2WriteBack cl p).withPend k n ps := by
  have hfind : (s.withPend k n ps).l2Find cl p = s.l2Find cl p := rfl
  unfold State.l2WriteBack
  rw [hfind]
  split
  · rfl
  · next x _ =>
    have hset : (s.withPend k n ps).l2Set cl { x with dirty := 0 } = (s.l2Set cl { x with dirty := 0 }).withPend k n ps := rfl
    simp only [apply_ite (State.withPend k n ps), hset, withPend_forget, withPend_noteLost, withPend_mscHold, withPend_backWrite]
    rfl

theorem withPend_l2Flush (cl : Nat) (p : Place) : (s.withPend k n ps).l2Flush cl p = (s.l2Flush cl p).withPend k n ps := by
  unfold State.l2Flush
  rw [withPend_l2WriteBack]
  rfl

theorem withPend_l2Put (cl : Nat) (x : PSector) : (s.withPend k n ps).l2Put cl x = (s.l2Put cl x).withPend k n ps := by
  unfold State.l2Put
  rw [show (s.withPend k n ps).sched = s.sched from rfl, show (s.withPend k n ps).cluster cl = s.cluster cl from rfl]
  split
  · rfl
  · exact congrArg (fun t : State => t.l2Set cl x)
      (foldl_commutes (s := s.bumpFresh) (State.withPend k n ps) (f := fun s p => s.l2Flush cl p) (fun s p => withPend_l2Flush s cl p) rfl)

theorem withPend_cohPull (cl : Nat) (p : Place) : (s.withPend k n ps).cohPull cl p = (s.cohPull cl p).withPend k n ps := by
  unfold State.cohPull
  dsimp only
  rw [show (s.withPend k n ps).cohHolders (some cl) p = s.cohHolders (some cl) p from rfl,
    foldl_commutes (State.withPend k n ps) (fun s c => withPend_l2WriteBack s c p) rfl]
  generalize (s.cohHolders (some cl) p).foldl (fun s c => s.l2WriteBack c p) s = t
  rw [apply_ite (State.withPend k n ps)]
  refine if_congr Iff.rfl rfl ?_
  exact foldl_commutes (State.withPend k n ps) (fun s x => withPend_homeBack s none x) rfl

theorem withPend_settle (ag : Agent) (pt : Point) (p : Place) :
    (s.withPend k n ps).settle ag pt p = (s.settle ag pt p).withPend k n ps := by
  cases pt with
  | l2 => rfl
  | msc => exact withPend_l2Flush s _ _
  | home =>
    unfold State.settle
    dsimp only
    rw [withPend_l2Flush, withPend_mscFlush]

/-- The state that a read leaves, with its value and its poison code, after the change. -/
def readWithPend (k n : Nat) (ps : List Copy) (r : State × Nat × Nat) : State × Nat × Nat := (r.1.withPend k n ps, r.2)

theorem readWithPend_seen {c : Prop} [Decidable c] {t t' : State} {x : Nat × Nat} (h : t' = t.withPend k n ps) :
    (if c then (t', 0, 0) else (t', x)) = readWithPend k n ps (if c then (t, 0, 0) else (t, x)) := by
  subst h
  rw [apply_ite (readWithPend k n ps)]
  rfl

theorem withPend_readAt (ag : Agent) (pt : Point) (p : Place) (m : Nat) (a : Attr) (alloc : Bool) :
    (s.withPend k n ps).readAt ag pt p m a alloc = readWithPend k n ps (s.readAt ag pt p m a alloc) := by
  have hpull : (if a.coh then (s.withPend k n ps).cohPull ag.cluster p.sector else s.withPend k n ps) =
      (if a.coh then s.cohPull ag.cluster p.sector else s).withPend k n ps := by
    rw [withPend_cohPull, apply_ite (State.withPend k n ps)]
  unfold State.readAt
  dsimp only
  rw [hpull]
  generalize (if a.coh then s.cohPull ag.cluster p.sector else s) = s
  split
  · refine readWithPend_seen ?_
    simp only [apply_ite (State.withPend k n ps), ← withPend_noteRead, ← withPend_mscFill, ← withPend_l2Put]
    rfl
  · rw [withPend_settle, withPend_noteRead]
    refine readWithPend_seen ?_
    rw [withPend_mscFill, apply_ite (State.withPend k n ps)]

/-! ## Reading objects -/

theorem withPend_l1Drop (ag : Agent) (va : Nat) : (s.withPend k n ps).l1Drop ag va = (s.l1Drop ag va).withPend k n ps :=
  withPend_modCore (f := fun c => { c with l1 := c.l1.filter (fun x => !(x.asid == s.asidOf ag.ctx && x.va / 256 == va / 256)) })
    fun _ => rfl

theorem withPend_l1Hit (ag : Agent) (va : Nat) : (s.withPend k n ps).l1Hit ag va = s.l1Hit ag va := by
  unfold State.l1Hit
  rw [core_withPend_l1]
  rfl

theorem withPend_pte : (s.withPend k n ps).pte = s.pte := rfl

theorem withPend_locErr : (s.withPend k n ps).locErr = s.locErr := rfl

theorem withPend_walkFrom : (s.withPend k n ps).walkFrom = s.walkFrom := by
  delta State.walkFrom State.walkFrom._f
  rw [withPend_pte, withPend_locErr]

theorem withPend_walk (ctx va : Nat) : (s.withPend k n ps).walk ctx va = s.walk ctx va := by
  unfold State.walk
  rw [withPend_walkFrom]
  rfl

theorem withPend_walkReads : (s.withPend k n ps).walkReads = s.walkReads := by
  delta State.walkReads State.walkReads._f
  rw [withPend_pte]

theorem withPend_lookup (ag : Agent) (va : Nat) : (s.withPend k n ps).lookup ag va = s.lookup ag va := by
  unfold State.lookup
  rw [withPend_walk]
  rfl

theorem withPend_translate (ag : Agent) (va : Nat) (need : Need) :
    (s.withPend k n ps).translate ag va need = s.translate ag va need := by
  unfold State.translate
  rw [withPend_lookup]
  rfl

theorem withPend_lostRead (ag : Agent) (sc : Scope) (p : Place) : (s.withPend k n ps).lostRead ag sc p = s.lostRead ag sc p := rfl

theorem withPend_tlbFill (ag : Agent) (va : Nat) : (s.withPend k n ps).tlbFill ag va = (s.tlbFill ag va).withPend k n ps := by
  unfold State.tlbFill
  dsimp only
  rw [show (s.withPend k n ps).tlbFind ag.cluster (((s.withPend k n ps).ctx ag.ctx).map (·.asid) |>.getD 0) va =
    s.tlbFind ag.cluster (((s.ctx ag.ctx).map (·.asid)).getD 0) va from rfl,
    withPend_walk, withPend_walkReads]
  split
  · rfl
  · split
    · rw [foldl_commutes (State.withPend k n ps) (f := fun s a => s.noteWait (.loc a)) (fun s a => withPend_noteWait s _) rfl]
      exact withPend_modCluster _ _ _
    · rfl

/-- What a read of an object answers, after the change. -/
def objWithPend (k n : Nat) (ps : List Copy) (r : Except ObjErr (State × List Byte)) : Except ObjErr (State × List Byte) :=
  r.map (fun x => (x.1.withPend k n ps, x.2))

theorem withPend_readObj (ag : Agent) (sc : Scope) (fuel : Nat) : ∀ (s : State) (va m : Nat),
    (s.withPend k n ps).readObj ag sc va fuel m = objWithPend k n ps (s.readObj ag sc va fuel m) := by
  induction fuel with
  | zero => exact fun _ _ _ => rfl
  | succ fuel ih =>
    intro s va m
    rw [State.readObj, State.readObj]
    by_cases hm : m = 0
    · rw [if_pos hm, if_pos hm]
      rfl
    rw [if_neg hm, if_neg hm]
    dsimp only
    rw [withPend_translate]
    split
    · rfl
    · next p at_ _ =>
      rw [withPend_lostRead]
      split
      · rfl
      · next _ =>
        have hdrop : (if ((s.withPend k n ps).l1Hit ag va).isSome then (s.withPend k n ps).l1Drop ag va else s.withPend k n ps) =
            (if (s.l1Hit ag va).isSome then s.l1Drop ag va else s).withPend k n ps := by
          rw [withPend_l1Hit, withPend_l1Drop, apply_ite (State.withPend k n ps)]
        rw [hdrop, withPend_tlbFill, withPend_readAt]
        rw [apply_ite (objWithPend k n ps)]
        refine if_congr Iff.rfl rfl ?_
        dsimp only [readWithPend]
        rw [ih]
        generalize State.readObj _ ag sc _ fuel _ = r
        cases r <;> rfl

theorem withPend_obj (ag : Agent) (sc : Scope) (va m : Nat) :
    (s.withPend k n ps).obj ag sc va m = objWithPend k n ps (s.obj ag sc va m) := withPend_readObj ag sc 520 s va m

end

end Sys2Proof.Machine

/-! PROOFS. A copy instruction puts the copies of its lanes in the port (R145, R183, R304). -/

namespace Sys2Proof.Machine
set_option Elab.async false

/-! ## The checks of a lane do not see the port -/

section
variable {k n : Nat} {ps : List Copy} {s z : State} {grp l : Nat} {ag : Agent} {o : Op} {b : Box}

theorem withPend_copyItems : (s.withPend k n ps).copyItems grp o l = s.copyItems grp o l := rfl

theorem withPend_boxItems (bs : List Byte) : (s.withPend k n ps).boxItems grp o l bs b = s.boxItems grp o l bs b := rfl

/-- A lane that passes its checks passes them with the same box whatever waits for the port. -/
theorem withPend_copyBox (h : s.copyBox grp ag o l = .ok (z, b)) :
    (s.withPend k n ps).copyBox grp ag o l = .ok (z.withPend k n ps, b) := by
  unfold State.copyBox at h ⊢
  dsimp only at h ⊢
  split at h
  · cases h
  · next haddr =>
    rw [if_neg haddr, withPend_obj, withPend_copyItems]
    split at h
    · split at h <;> cases h
    · next s1 bs hobj =>
      rw [hobj]
      dsimp only [objWithPend, Except.map]
      rw [withPend_boxItems]
      split at h
      · cases h
      · next hmin =>
        cases h
        rfl

end

/-! ## The copies of an instruction -/

/-- The copies of some lanes, with unique numbers from n on. -/
def lanesCopies (u op : Nat) (o : Op) (bx : Nat → Box) : Nat → List Nat → List Copy
  | _, [] => []
  | n, l :: ls => mkCopy n u op l o (bx l) :: lanesCopies u op o bx (n + 1) ls

section
variable {u op : Nat} {o : Op} {bx : Nat → Box}

theorem lanesCopies_boxes (ls : List Nat) : ∀ n,
    (lanesCopies u op o bx n ls).map (fun y => (y.lane, y.box)) = ls.map (fun l => (l, bx l)) := by
  induction ls with
  | nil => exact fun _ => rfl
  | cons l ls ih =>
    intro n
    rw [lanesCopies, List.map_cons, ih, List.map_cons]
    rfl

/-- Each of them is new: it has moved nothing. -/
theorem lanesCopies_new (ls : List Nat) : ∀ n, ∀ y ∈ lanesCopies u op o bx n ls,
    y.wave = u ∧ y.op = op ∧ y.instr = o.instr ∧ y.done = 0 ∧ y.spad = (o.val32 3 y.lane).toNat := by
  induction ls with
  | nil => exact fun _ _ hy => absurd hy List.not_mem_nil
  | cons l ls ih =>
    intro n y hy
    rcases List.mem_cons.mp hy with rfl | hy
    · exact ⟨rfl, rfl, rfl, rfl, rfl⟩
    · exact ih _ y hy

/-- One lane's copy joins those that wait for the port. -/
def State.queueCopy (s : State) (grp u k op : Nat) (ag : Agent) (o : Op) (l : Nat) : State :=
  match s.copyBox grp ag o l with
  | .error _ => s
  | .ok (_, b) => s.takeUid.2.modCore k (fun c => { c with pend := c.pend ++ [mkCopy s.takeUid.1 u op l o b] })

variable {s z : State} {grp k : Nat} {ag : Agent}

theorem queueCopy_eq {l : Nat} {b : Box} (h : s.copyBox grp ag o l = .ok (z, b)) : s.queueCopy grp u k op ag o l =
    s.withPend k (s.kiln.nextUid + 1) ((s.core k).pend ++ [mkCopy s.kiln.nextUid u op l o b]) := by
  rw [State.queueCopy, h]
  rfl

/-- The copies of lanes that pass their checks join in lane order, and nothing else of a core or of a wave changes. -/
theorem queueCopies_eq (ls : List Nat) : ∀ s : State, (∀ l ∈ ls, ∃ z, s.copyBox grp ag o l = .ok (z, bx l)) →
    (ls.foldl (fun s l => s.queueCopy grp u k op ag o l) s).core k =
        { s.core k with pend := (s.core k).pend ++ lanesCopies u op o bx s.kiln.nextUid ls } ∧
      ∀ v, (ls.foldl (fun s l => s.queueCopy grp u k op ag o l) s).wave v = s.wave v := by
  induction ls with
  | nil =>
    intro s _
    rw [lanesCopies, List.append_nil]
    exact ⟨rfl, fun _ => rfl⟩
  | cons l ls ih =>
    intro s h
    obtain ⟨z, hz⟩ := h l List.mem_cons_self
    have hnext : ∀ j ∈ ls, ∃ z, (s.queueCopy grp u k op ag o l).copyBox grp ag o j = .ok (z, bx j) := by
      intro j hj
      obtain ⟨y, hy⟩ := h j (List.mem_cons_of_mem _ hj)
      rw [queueCopy_eq hz]
      exact ⟨_, withPend_copyBox hy⟩
    obtain ⟨hcore, hwave⟩ := ih _ hnext
    rw [List.foldl_cons, hcore]
    constructor
    · rw [queueCopy_eq hz, core_withPend, if_pos rfl, lanesCopies]
      show ({ s.core k with pend := _ } : Core) = _
      rw [List.append_assoc]
      rfl
    · intro v
      rw [hwave, queueCopy_eq hz]
      rfl

end

/-! ## The issue -/

section
variable {s t : State} {g : Guard} {i : Instr} {m : CpMods} {caps : List (Opd × Nat)} {e : Env} {bx : Nat → Box}

/-- The lanes that make a copy are among those that participate. -/
theorem copyLanes_mem {l : Nat} (hl : l ∈ bitsOf (e.copyLanes m)) : l ∈ bitsOf e.part := by
  unfold Env.copyLanes at hl
  split at hl
  · rw [mem_bitsOf, Env.lead] at hl
    have hlt : l < 32 := BitVec.lt_of_getLsbD hl
    rw [getLsbD_maskOf _ _ hlt, decide_eq_true_eq, Option.mem_toList] at hl
    exact List.mem_of_mem_head? hl
  · exact hl

/-- What follows the issue of a copy instruction: its copies wait, and the port accepts what it has room for. -/
def State.portCopies (t : State) (e : Env) (i : Instr) (m : CpMods) (caps : List (Opd × Nat)) (id : Nat) : State :=
  ((bitsOf (e.copyLanes m)).foldl (fun t l => t.queueCopy e.w.group e.u e.ag.core id e.ag (e.op i id none caps []) l) t).modCore
    e.ag.core Core.accept

theorem issueCopy_issues (h : Issues s g m.fs [] caps e) (hp : e.part ≠ 0) (hb : e.w.behind e.sl = false)
    (hroom : (s.core e.ag.core).copies.length < 64) (hc : t.uncapped e m.fscope)
    (hchk : (if m.acq then s.acquire e.ag (s.capScope e.ag.ctx m.fscope) else s).copyCheck e.w.group e.ag (e.op i 0 none caps [])
      (bitsOf (e.copyLanes m)) = .ok t) :
    issueCopy i g m caps s = .next ((t.issued e i m.fs caps []).portCopies e i m caps t.takeUid.1) := by
  have hpart : (e.part != 0) = true := bne_iff_ne.mpr hp
  have hstall : (e.part != 0 && (e.w.behind e.sl || decide (portSize ≤ (s.core e.ag.core).copies.length))) = false := by
    have hfree : ¬portSize ≤ (s.core e.ag.core).copies.length := Nat.not_le.mpr hroom
    rw [hb, decide_eq_false hfree, Bool.or_self, Bool.and_false]
  unfold issueCopy
  refine (issueWith_issues (t := t) h.toExecutes h.flag hstall ?_ (poisonLane_mono h.clean fun l hl => copyLanes_mem hl) hp).trans rfl
  dsimp only
  rw [hpart, Bool.and_true, hchk]
  dsimp only
  split
  · exact ceiling_uncapped hc 1
  · rfl

theorem issued_core (t : State) (fs : FlagSel) (dsts : List (Opd × Nat)) (k : Nat) : (t.issued e i fs caps dsts).core k = t.core k := rfl

theorem issued_nextUid (t : State) (fs : FlagSel) (dsts : List (Opd × Nat)) :
    (t.issued e i fs caps dsts).kiln.nextUid = t.kiln.nextUid + 1 := rfl

theorem portCopies_eq {id : Nat}
    (h : ∀ l, (e.copyLanes m).getLsbD l = true → ∃ z, t.copyBox e.w.group e.ag (e.op i id none caps []) l = .ok (z, bx l)) :
    (t.portCopies e i m caps id).core e.ag.core = Core.accept { t.core e.ag.core with
        pend := (t.core e.ag.core).pend ++ lanesCopies e.u id (e.op i id none caps []) bx t.kiln.nextUid (bitsOf (e.copyLanes m)) } ∧
      (t.portCopies e i m caps id).wave e.u = t.wave e.u := by
  obtain ⟨hcore, hwave⟩ := queueCopies_eq (u := e.u) (op := id) (k := e.ag.core) (bitsOf (e.copyLanes m)) t
    fun l hl => h l ((mem_bitsOf _ _).mp hl)
  constructor
  · rw [State.portCopies, State.modCore, State.core_setCore, hcore]
  · exact hwave e.u

/-- The port takes as many of the waiting copies as it has room for, in order. -/
theorem accept_fills (k : Core) (h : k.copies.length ≤ 64) : k.accept.copies.length ≤ 64 ∧
    k.accept.copies ++ k.accept.pend = k.copies ++ k.pend ∧ (k.accept.pend = [] ∨ k.accept.copies.length = 64) := by
  have hlen : k.accept.copies.length = k.copies.length + min (64 - k.copies.length) k.pend.length := by
    rw [Core.accept]
    dsimp only
    rw [List.length_append, List.length_take]
    rfl
  refine ⟨by omega, ?_, ?_⟩
  · rw [Core.accept]
    dsimp only
    rw [List.append_assoc, List.take_append_drop]
  · by_cases hfit : k.pend.length ≤ 64 - k.copies.length
    · exact .inl (List.drop_eq_nil_of_le hfit)
    · exact .inr (by omega)

end

/-- Settles O33: a copy instruction is issued, and its copies wait for the port with the boxes that their records give; a box
does not depend on the copies that wait before it. -/
theorem copiesIssue : Obligations.CopiesIssue := by
  unfold Obligations.CopiesIssue
  refine ⟨?_, accept_fills⟩
  intro s t g d a b c m mask e i n bx hi caps k o s0 h hp hb hroom hunc hchk hbox
  have hexec : exec i s = issueCopy i g m caps s := by
    rcases hi with ⟨rfl, rfl⟩ | ⟨rfl, rfl⟩ | ⟨rfl, rfl⟩ | ⟨rfl, rfl⟩ <;> rfl
  obtain ⟨hcore, hwave⟩ := portCopies_eq hbox
  exact ⟨_, _, hexec.trans (issueCopy_issues h hp hb hroom hunc hchk), hcore, hwave, lanesCopies_boxes _ _,
    lanesCopies_new _ _⟩

end Sys2Proof.Machine

/-! PROOFS. A positive quotient is rounded once to a format, by every mode (R156, R157). -/

namespace Sys2Proof.Machine
set_option Elab.async false

/-! ## Quotients and their logarithm -/

/-- A pair of naturals as a quotient. -/
def quot (x : Nat × Nat) : ℚ := (x.1 : ℚ) / x.2

/-- A scaled quotient is the quotient times the power of two. -/
theorem quot_scale (n d : Nat) (e : Int) : quot (scale n d e) = n / d * 2 ^ e := by
  unfold scale quot
  split
  · next he =>
    lift e to ℕ using he
    push_cast
    rw [Int.toNat_natCast, zpow_natCast, div_mul_eq_mul_div]
  · next he =>
    have hn : 2 ^ (-e).toNat = (2 : ℚ) ^ (-e) := by rw [← zpow_natCast, Int.toNat_of_nonneg (by omega)]
    push_cast
    rw [hn, zpow_neg, div_mul_eq_div_div, div_inv_eq_mul]

theorem scale_den_pos {n d : Nat} (hd : 0 < d) (e : Int) : 0 < (scale n d e).2 := by
  unfold scale
  split <;> positivity

theorem scale_num_pos {n d : Nat} (hn : 0 < n) (e : Int) : 0 < (scale n d e).1 := by
  unfold scale
  split <;> positivity

/-- A positive number lies between the power of two of its binary logarithm and the next one. -/
theorem two_pow_log2_le {n : Nat} (hn : 0 < n) : (2 : ℚ) ^ (n.log2 : Int) ≤ n ∧ (n : ℚ) < 2 ^ (n.log2 + 1 : Int) := by
  have h1 : 2 ^ n.log2 ≤ n := Nat.log2_self_le hn.ne'
  have h2 : n < 2 ^ (n.log2 + 1) := Nat.lt_log2_self
  constructor
  · exact_mod_cast h1
  · exact_mod_cast h2

/-- The binary logarithm of a number between a power of two and the next one. -/
theorem int_log_eq {x : ℚ} {l : Int} (h1 : (2 : ℚ) ^ l ≤ x) (h2 : x < 2 ^ (l + 1)) : Int.log 2 x = l := by
  have hx : 0 < x := lt_of_lt_of_le (by positivity) h1
  have hle : l ≤ Int.log 2 x := (Int.zpow_le_iff_le_log one_lt_two hx).mp (by exact_mod_cast h1)
  have hlt : Int.log 2 x < l + 1 := (Int.lt_zpow_iff_log_lt one_lt_two hx).mp (by exact_mod_cast h2)
  omega

/-- `log2Floor` is the binary logarithm of its quotient. -/
theorem log2Floor_eq {n d : Nat} (hn : 0 < n) (hd : 0 < d) : log2Floor n d = Int.log 2 ((n : ℚ) / d) := by
  obtain ⟨n1, n2⟩ := two_pow_log2_le hn
  obtain ⟨d1, d2⟩ := two_pow_log2_le hd
  have hd0 : (0 : ℚ) < d := by exact_mod_cast hd
  have hlow : (2 : ℚ) ^ (n.log2 - d.log2 - 1 : Int) ≤ n / d := by
    rw [le_div_iff₀ hd0]
    calc (2 : ℚ) ^ (n.log2 - d.log2 - 1 : Int) * d
        ≤ 2 ^ (n.log2 - d.log2 - 1 : Int) * 2 ^ (d.log2 + 1 : Int) := by gcongr
      _ = 2 ^ (n.log2 : Int) := by rw [← zpow_add₀ two_ne_zero]; congr 1; omega
      _ ≤ n := n1
  have hhigh : (n : ℚ) / d < 2 ^ (n.log2 - d.log2 + 1 : Int) := by
    rw [div_lt_iff₀ hd0]
    calc (n : ℚ) < 2 ^ (n.log2 + 1 : Int) := n2
      _ = 2 ^ (n.log2 - d.log2 + 1 : Int) * 2 ^ (d.log2 : Int) := by rw [← zpow_add₀ two_ne_zero]; congr 1; omega
      _ ≤ 2 ^ (n.log2 - d.log2 + 1 : Int) * d := by gcongr
  have hq := quot_scale n d (-(n.log2 - d.log2 : Int))
  have hs : (0 : ℚ) < (scale n d (-(n.log2 - d.log2 : Int))).2 := by exact_mod_cast scale_den_pos hd _
  have hiff : (scale n d (-(n.log2 - d.log2 : Int))).1 < (scale n d (-(n.log2 - d.log2 : Int))).2 ↔
      (n : ℚ) / d < 2 ^ (n.log2 - d.log2 : Int) := by
    rw [← Nat.cast_lt (α := ℚ), ← div_lt_one hs, show (_ / _ : ℚ) = _ from hq, zpow_neg, ← div_eq_mul_inv,
      div_lt_one (by positivity)]
  symm
  show _ = if _ < _ then _ else _
  split
  · next h => exact int_log_eq hlow (by rw [sub_add_cancel]; exact hiff.mp h)
  · next h => exact int_log_eq (not_lt.mp (mt hiff.mpr h)) hhigh

/-! ## Rounding to an integer -/

/-- R156 on the grid of the integers. -/
def intRound (mode : Rnd) (y : ℚ) : ℤ :=
  let lo : ℤ := ⌊y⌋
  let hi : ℤ := lo + 1
  if (lo : ℚ) = y then lo
  else match mode with
    | .rne => if y - lo < hi - y then lo else if hi - y < y - lo then hi else if lo % 2 = 0 then lo else hi
    | .rna => if y - lo < hi - y then lo else if hi - y < y - lo then hi else if |lo| < |hi| then hi else lo
    | .rtz => if |lo| < |hi| then lo else hi
    | .rdn => lo
    | .rup => hi

/-- R156's number is rounded to an integer multiple of the grid's distance. -/
theorem exactRound_eq (f : Fmt) (mode : Rnd) (x : ℚ) {e : Int} (he : max (Int.log 2 |x|) (1 - f.b) = e) :
    f.exactRound mode x = intRound mode (x / 2 ^ (e - f.m)) * 2 ^ (e - f.m) := by
  have hq : (0 : ℚ) < 2 ^ (e - f.m) := by positivity
  have hx : x = x / 2 ^ (e - f.m) * 2 ^ (e - f.m) := (div_mul_cancel₀ x hq.ne').symm
  unfold Fmt.exactRound
  dsimp only
  rw [he]
  generalize (2 : ℚ) ^ (e - f.m) = q at *
  generalize x / q = y at *
  subst hx
  have hself : (⌊y⌋ : ℚ) * q = y * q ↔ (⌊y⌋ : ℚ) = y := mul_left_inj' hq.ne'
  have hadd : (⌊y⌋ : ℚ) * q + q = (⌊y⌋ + 1 : ℤ) * q := by push_cast; ring
  have habs (a b : ℤ) : |(a : ℚ) * q| < |(b : ℚ) * q| ↔ |a| < |b| := by
    rw [abs_mul, abs_mul, mul_lt_mul_iff_left₀ (abs_pos.mpr hq.ne')]
    exact_mod_cast Iff.rfl
  unfold intRound
  simp only [hself, hadd, ← sub_mul, mul_lt_mul_iff_left₀ hq, habs]
  split
  · next h => rw [h]
  · cases mode <;> simp only [Int.cast_ite, ite_mul]

/-- An integer stays. -/
theorem intRound_int (mode : Rnd) (z : ℤ) : intRound mode z = z := by
  unfold intRound
  dsimp only
  rw [Int.floor_intCast, if_pos rfl]

section
variable {k r d : Nat}

/-- Whether the rest is less than a half, or more. -/
theorem rest_lt_half (hd : 0 < d) : (r : ℚ) / d < 1 - r / d ↔ 2 * r < d := by
  have hd0 : (0 : ℚ) < d := by exact_mod_cast hd
  rw [lt_sub_iff_add_lt, ← add_div, div_lt_one hd0]
  norm_cast
  omega

theorem half_lt_rest (hd : 0 < d) : 1 - (r : ℚ) / d < r / d ↔ d < 2 * r := by
  have hd0 : (0 : ℚ) < d := by exact_mod_cast hd
  rw [sub_lt_iff_lt_add, ← add_div, one_lt_div hd0]
  norm_cast
  omega

variable (hr0 : 0 < r) (hrd : r < d)
include hr0 hrd

theorem rest_bounds : 0 < (r : ℚ) / d ∧ (r : ℚ) / d < 1 := by
  have hd0 : (0 : ℚ) < d := by exact_mod_cast hr0.trans hrd
  have hr1 : (0 : ℚ) < r := by exact_mod_cast hr0
  exact ⟨by positivity, (div_lt_one hd0).mpr (by exact_mod_cast hrd)⟩

/-- A positive number between k and k + 1. -/
theorem intRound_pos (mode : Rnd) :
    intRound mode (k + r / d) = (if roundsUp mode false k r d then k + 1 else k : Nat) := by
  obtain ⟨ht0, ht1⟩ := rest_bounds hr0 hrd
  have hdown := rest_lt_half (r := r) (hr0.trans hrd)
  have hup := half_lt_rest (r := r) (hr0.trans hrd)
  generalize (r : ℚ) / d = t at *
  have hfl : ⌊(k : ℚ) + t⌋ = k := by
    rw [Int.floor_eq_iff]
    constructor <;> push_cast <;> linarith
  have hne : ((k : Int) : ℚ) ≠ k + t := by
    push_cast
    linarith
  have hlo : (k : ℚ) + t - ((k : Int) : ℚ) = t := by push_cast; ring
  have hhi : ((k + 1 : Int) : ℚ) - (k + t) = 1 - t := by push_cast; ring
  unfold intRound
  dsimp only
  rw [hfl, if_neg hne, hlo, hhi]
  simp only [hdown, hup]
  cases mode with
  | rne => simp only [roundsUp]; grind
  | rna => simp only [roundsUp]; grind
  | rtz => exact (if_pos (by grind)).trans rfl
  | rdn => rfl
  | rup => simp only [roundsUp]; grind

/-- A negative one: its magnitude is between k and k + 1. -/
theorem intRound_neg (mode : Rnd) :
    intRound mode (-(k + r / d)) = -((if roundsUp mode true k r d then k + 1 else k : Nat) : Int) := by
  obtain ⟨ht0, ht1⟩ := rest_bounds hr0 hrd
  have hdown := rest_lt_half (r := r) (hr0.trans hrd)
  have hup := half_lt_rest (r := r) (hr0.trans hrd)
  generalize (r : ℚ) / d = t at *
  have hfl : ⌊-((k : ℚ) + t)⌋ = -(k + 1) := by
    rw [Int.floor_eq_iff]
    constructor <;> push_cast <;> linarith
  have hne : ((-(k + 1) : Int) : ℚ) ≠ -(k + t) := by
    push_cast
    intro h
    linarith
  have hlo : -((k : ℚ) + t) - ((-(k + 1) : Int) : ℚ) = 1 - t := by push_cast; ring
  have hhi : ((-(k + 1) + 1 : Int) : ℚ) - -(k + t) = t := by push_cast; ring
  unfold intRound
  dsimp only
  rw [hfl, if_neg hne, hlo, hhi]
  simp only [hdown, hup]
  cases mode with
  | rne => simp only [roundsUp]; grind
  | rna => simp only [roundsUp]; grind
  | rtz => simp only [roundsUp]; grind
  | rdn => simp only [roundsUp]; grind
  | rup => simp only [roundsUp]; grind

end

/-- The sign of a number as a factor. -/
def sgn (neg : Bool) : ℤ := if neg then -1 else 1

/-- Nothing is rounded up where nothing remains. -/
theorem roundsUp_zero (mode : Rnd) (neg : Bool) (k : Nat) {d : Nat} (hd : 0 < d) : roundsUp mode neg k 0 d = false := by
  cases mode
  · show (decide (d < 0) || (0 == d && k % 2 == 1)) = false
    simp [hd.ne]
  · rfl
  · show (neg && false) = false
    rw [Bool.and_false]
  · show (!neg && false) = false
    rw [Bool.and_false]
  · show decide (d ≤ 0) = false
    simp [hd.ne']

/-- A signed quotient is rounded as `roundsUp` says of its integer part and its rest. -/
theorem intRound_quot (mode : Rnd) (neg : Bool) (n : Nat) {d : Nat} (hd : 0 < d) :
    intRound mode (sgn neg * (n / d)) =
      sgn neg * (if roundsUp mode neg (n / d) (n % d) d then n / d + 1 else n / d : Nat) := by
  have hd0 : (d : ℚ) ≠ 0 := by exact_mod_cast hd.ne'
  have hn : (n : ℚ) / d = (n / d : Nat) + (n % d : Nat) / d := by
    rw [div_eq_iff hd0, add_mul, div_mul_cancel₀ _ hd0]
    exact_mod_cast (Nat.div_add_mod' n d).symm
  have hlt := Nat.mod_lt n hd
  rw [hn]
  generalize n / d = k, n % d = r at *
  rcases Nat.eq_zero_or_pos r with rfl | hr
  · rw [roundsUp_zero mode neg _ hd, if_neg Bool.false_ne_true, Nat.cast_zero, zero_div, add_zero]
    exact_mod_cast intRound_int mode (sgn neg * k)
  · cases neg
    · rw [sgn, if_neg Bool.false_ne_true, Int.cast_one, one_mul, one_mul, intRound_pos hr hlt]
    · rw [sgn, if_pos rfl, Int.cast_neg, Int.cast_one, neg_one_mul, neg_one_mul, intRound_neg hr hlt]

end Sys2Proof.Machine

/-! PROOFS. What a code of a format is worth, and that rounding delivers the code of the rounded number
(R152 to R158). -/

namespace Sys2Proof.Machine
set_option Elab.async false

/-! ## The magnitudes that codes stand for -/

/-- What a magnitude code is worth. -/
def Fmt.worth (f : Fmt) (c : Nat) : ℚ :=
  if c / 2 ^ f.m = 0 then (c % 2 ^ f.m : Nat) * 2 ^ (1 - (f.b : Int) - f.m)
  else (2 ^ f.m + c % 2 ^ f.m : Nat) * 2 ^ ((c / 2 ^ f.m : Nat) - (f.b : Int) - f.m)

/-- A format whose finite codes stand before its infinity and its sign. -/
structure Fmt.Regular (f : Fmt) : Prop where
  fits : f.maxf < if f.signed then 2 ^ (f.width - 1) else 2 ^ f.width
  width : f.width ≠ 0
  inf : ∀ i, f.inf = some i → f.maxf < i

/-- The formats of R152 and R153 are such. -/
theorem regular_of_mem {f : Fmt} (h : f ∈ [fF32, fF16, fBf16, fE4m3, fE5m2, fE2m1, fE3m5]) : f.Regular := by
  simp only [List.mem_cons, List.not_mem_nil, or_false] at h
  obtain rfl | rfl | rfl | rfl | rfl | rfl | rfl := h <;>
    exact ⟨by decide, by decide, fun i hi => by cases hi <;> decide⟩

section
variable {f : Fmt}

/-- The code (E, k) of the quotient k, counted from exponent code E on, k + 2^m standing for the next exponent. -/
theorem worth_mul_add {E k : Nat} (hk : k ≤ 2 ^ (f.m + 1)) (hE : E = 0 ∨ 2 ^ f.m ≤ k) :
    f.worth (E * 2 ^ f.m + k) = k * 2 ^ (E + 1 - (f.b : Int) - f.m) := by
  have hp : 0 < 2 ^ f.m := Nat.two_pow_pos _
  have hpow : (2 : ℚ) ^ f.m ≠ 0 := by positivity
  rw [Nat.pow_succ] at hk
  unfold Fmt.worth
  rcases Nat.lt_or_ge k (2 ^ f.m) with hlt | hge
  · obtain rfl : E = 0 := hE.resolve_right (by omega)
    rw [Nat.zero_mul, Nat.zero_add, Nat.div_eq_of_lt hlt, if_pos rfl, Nat.mod_eq_of_lt hlt, Nat.cast_zero, zero_add]
  · obtain ⟨j, rfl⟩ := Nat.exists_eq_add_of_le hge
    have hc : E * 2 ^ f.m + (2 ^ f.m + j) = j + (E + 1) * 2 ^ f.m := by ring
    rw [hc, Nat.add_mul_div_right _ _ hp, Nat.add_mul_mod_self_right]
    rcases Nat.lt_or_ge j (2 ^ f.m) with hj | hj
    · rw [Nat.div_eq_of_lt hj, Nat.mod_eq_of_lt hj, Nat.zero_add, if_neg E.succ_ne_zero]
      push_cast
      rfl
    · obtain rfl : j = 2 ^ f.m := by omega
      rw [Nat.div_self hp, Nat.mod_self, if_neg (by omega)]
      push_cast
      have he : (1 + (E + 1) - f.b - f.m : Int) = 1 + (E + 1 - f.b - f.m) := by ring
      rw [he, zpow_add₀ two_ne_zero]
      ring

/-- Every code is such a pair with a place above it. -/
theorem code_eq_mul_add (f : Fmt) (c : Nat) :
    ∃ E k, c = E * 2 ^ f.m + k ∧ k + 1 ≤ 2 ^ (f.m + 1) ∧ (E = 0 ∨ 2 ^ f.m ≤ k) := by
  have hmod := Nat.mod_lt c (Nat.two_pow_pos f.m)
  have hdiv := Nat.div_add_mod' c (2 ^ f.m)
  rcases h : c / 2 ^ f.m with _ | E
  · rw [h, Nat.zero_mul, Nat.zero_add] at hdiv
    exact ⟨0, c, by rw [Nat.zero_mul, Nat.zero_add], by rw [Nat.pow_succ]; omega, .inl rfl⟩
  · rw [h, Nat.succ_mul] at hdiv
    exact ⟨E, 2 ^ f.m + c % 2 ^ f.m, by omega, by rw [Nat.pow_succ]; omega, .inr (Nat.le_add_right _ _)⟩

/-- A greater code is worth more. -/
theorem worth_strictMono (f : Fmt) : StrictMono f.worth := by
  refine strictMono_nat_of_lt_succ fun c => ?_
  obtain ⟨E, k, rfl, hk, hE⟩ := code_eq_mul_add f c
  rw [worth_mul_add (by omega) hE, Nat.add_assoc, worth_mul_add hk (hE.imp_right (by omega))]
  gcongr
  omega

theorem worth_nonneg (f : Fmt) (c : Nat) : 0 ≤ f.worth c := by
  unfold Fmt.worth
  split <;> positivity

/-! ## Finite codes -/

theorem exact_fin (neg : Bool) (m : Nat) (e : Int) : Val.exact (.fin neg m e) = sgn neg * (m * 2 ^ e) := by
  unfold Val.exact sgn
  rw [← mul_assoc]
  push_cast
  rfl

/-- The magnitude and the sign that a code is read as. -/
theorem sign_add_split (hf : f.Regular) {neg : Bool} (hs : f.signed = true ∨ neg = false) {c : Nat} (hc : c ≤ f.maxf) :
    (if f.signed then (f.sign neg + c) % 2 ^ (f.width - 1) else (f.sign neg + c) % 2 ^ f.width) = c ∧
    (f.signed && (f.sign neg + c) / 2 ^ (f.width - 1) % 2 == 1) = neg := by
  have hlt := hc.trans_lt hf.fits
  unfold Fmt.sign
  cases hsg : f.signed with
  | false =>
    rw [hsg, if_neg Bool.false_ne_true] at hlt
    obtain rfl : neg = false := hs.resolve_left (by simp [hsg])
    exact ⟨by simp [Nat.mod_eq_of_lt hlt], rfl⟩
  | true =>
    rw [hsg, if_pos rfl] at hlt
    cases neg with
    | false => simp [Nat.mod_eq_of_lt hlt, Nat.div_eq_of_lt hlt]
    | true => simp [Nat.mod_eq_of_lt hlt, Nat.div_eq_of_lt hlt, Nat.add_div_left _ (Nat.two_pow_pos _)]

/-- A finite code is read as its sign and its magnitude. -/
theorem val_sign_add (hf : f.Regular) {neg : Bool} (hs : f.signed = true ∨ neg = false) {c : Nat} (hc : c ≤ f.maxf) :
    ∃ m e, f.val (f.sign neg + c) = .fin neg m e ∧ (m * 2 ^ e : ℚ) = f.worth c := by
  obtain ⟨hmag, hneg⟩ := sign_add_split hf hs hc
  have hinf : ¬f.inf = some c := fun h => absurd (hf.inf c h) (by omega)
  unfold Fmt.val
  dsimp only
  rw [hmag, hneg, if_neg hinf, if_neg (by omega)]
  unfold Fmt.worth
  split
  · exact ⟨_, _, rfl, rfl⟩
  · exact ⟨_, _, rfl, rfl⟩

/-- A finite code is worth its magnitude with its sign. -/
theorem exact_sign_add (hf : f.Regular) {neg : Bool} (hs : f.signed = true ∨ neg = false) {c : Nat} (hc : c ≤ f.maxf) :
    ∃ m e, f.val (f.sign neg + c) = .fin neg m e ∧ (f.val (f.sign neg + c)).exact = sgn neg * f.worth c := by
  obtain ⟨m, e, hv, hw⟩ := val_sign_add hf hs hc
  exact ⟨m, e, hv, by rw [hv, exact_fin, hw]⟩

/-- The largest finite value. -/
theorem exact_maxf (hf : f.Regular) : (f.val f.maxf).exact = f.worth f.maxf := by
  obtain ⟨_, _, _, h⟩ := exact_sign_add hf (neg := false) (.inr rfl) (le_refl f.maxf)
  have h0 : f.sign false = 0 := by rw [Fmt.sign, Bool.and_false, if_neg Bool.false_ne_true]
  rwa [h0, Nat.zero_add, sgn, if_neg Bool.false_ne_true, Int.cast_one, one_mul] at h

end

/-! ## The code of a rounded quotient -/

/-- The exponent of R156 for a quotient. -/
def Fmt.expOf (f : Fmt) (n d : Nat) : Int := max (log2Floor n d) (1 - (f.b : Int))

/-- The multiple of the least place that a quotient is rounded to. -/
def Fmt.places (f : Fmt) (mode : Rnd) (neg : Bool) (n d : Nat) : Nat :=
  let x := scale n d (f.m - f.expOf n d)
  if roundsUp mode neg (x.1 / x.2) (x.1 % x.2) x.2 then x.1 / x.2 + 1 else x.1 / x.2

/-- The magnitude code of a rounded quotient, whether it is in range or not. -/
def Fmt.magCode (f : Fmt) (mode : Rnd) (neg : Bool) (n d : Nat) : Nat :=
  ((f.expOf n d + f.b - 1) * (2 ^ f.m : Nat) + f.places mode neg n d).toNat

/-- R157's table. -/
def awayFromZero (mode : Rnd) (neg : Bool) : Bool :=
  match mode with
  | .rne | .rna => true
  | .rtz => false
  | .rdn => neg
  | .rup => !neg

/-- What `roundQ` delivers. -/
theorem roundQ_eq (f : Fmt) (mode : Rnd) (neg : Bool) (n d : Nat) : f.roundQ mode neg n d =
    f.sign neg + (if f.magCode mode neg n d ≤ f.maxf then f.magCode mode neg n d
      else if awayFromZero mode neg then f.inf.getD f.maxf else f.maxf) := by
  unfold Fmt.roundQ
  show (if f.magCode mode neg n d ≤ f.maxf then _ else _) = _
  split
  · rfl
  · cases f.inf with
    | none => rw [Option.getD_none, ite_self]
    | some i => cases mode <;> cases neg <;> rfl

section
variable {f : Fmt} {n d : Nat} (hn : 0 < n) (hd : 0 < d) (mode : Rnd) (neg : Bool)
include hn hd

/-- The quotient in units of the least place: below 2^(m + 1), and at least 2^m where the exponent is not the least. -/
theorem quot_bounds : (n : ℚ) / d * 2 ^ (f.m - f.expOf n d) < (2 ^ (f.m + 1) : Nat) ∧
    (f.expOf n d = 1 - (f.b : Int) ∨ ((2 ^ f.m : Nat) : ℚ) ≤ n / d * 2 ^ (f.m - f.expOf n d)) := by
  have hx : (0 : ℚ) < n / d := by positivity
  have hlt := Int.lt_zpow_succ_log_self one_lt_two (b := 2) ((n : ℚ) / d)
  have hle := Int.zpow_log_le_self one_lt_two (b := 2) hx
  rw [← log2Floor_eq hn hd, Nat.cast_ofNat] at hlt hle
  constructor
  · calc (n : ℚ) / d * 2 ^ (f.m - f.expOf n d)
        < 2 ^ (log2Floor n d + 1) * 2 ^ (f.m - f.expOf n d) := by gcongr
      _ = 2 ^ (log2Floor n d + 1 + (f.m - f.expOf n d)) := (zpow_add₀ two_ne_zero _ _).symm
      _ ≤ 2 ^ ((f.m + 1 : Nat) : Int) := by
        have : log2Floor n d ≤ f.expOf n d := le_max_left _ _
        gcongr
        · norm_num
        · push_cast
          omega
      _ = _ := by push_cast; rfl
  · refine (max_choice (log2Floor n d) (1 - (f.b : Int))).symm.imp id fun he => ?_
    rw [Fmt.expOf, he]
    calc ((2 ^ f.m : Nat) : ℚ) = 2 ^ (log2Floor n d + (f.m - log2Floor n d)) := by
          rw [add_sub_cancel, zpow_natCast]
          push_cast
          rfl
      _ = 2 ^ log2Floor n d * 2 ^ (f.m - log2Floor n d) := zpow_add₀ two_ne_zero _ _
      _ ≤ n / d * 2 ^ (f.m - log2Floor n d) := by gcongr

/-- So is the number of places that it is rounded to. -/
theorem places_bounds : f.places mode neg n d ≤ 2 ^ (f.m + 1) ∧
    (f.expOf n d = 1 - (f.b : Int) ∨ 2 ^ f.m ≤ f.places mode neg n d) := by
  obtain ⟨hlt, hle⟩ := quot_bounds (f := f) hn hd
  have hs := scale_den_pos (n := n) hd (f.m - f.expOf n d)
  have hD : (0 : ℚ) < (scale n d (f.m - f.expOf n d)).2 := by exact_mod_cast hs
  rw [← quot_scale, quot] at hlt hle
  rw [div_lt_iff₀ hD] at hlt
  rw [le_div_iff₀ hD] at hle
  have hup : (scale n d (f.m - f.expOf n d)).1 / (scale n d (f.m - f.expOf n d)).2 < 2 ^ (f.m + 1) :=
    (Nat.div_lt_iff_lt_mul hs).mpr (by exact_mod_cast hlt)
  have hlow := hle.imp_right fun h => (Nat.le_div_iff_mul_le hs).mpr (by exact_mod_cast h)
  unfold Fmt.places
  dsimp only
  split
  · exact ⟨hup, hlow.imp_right Nat.le_succ_of_le⟩
  · exact ⟨hup.le, hlow⟩

/-- The code of the rounded quotient is worth its places. -/
theorem worth_magCode : f.worth (f.magCode mode neg n d) = f.places mode neg n d * 2 ^ (f.expOf n d - f.m) := by
  obtain ⟨hup, hlow⟩ := places_bounds (f := f) hn hd mode neg
  obtain ⟨E, hE⟩ : ∃ E : Nat, f.expOf n d = E + 1 - f.b := by
    have : 1 - (f.b : Int) ≤ f.expOf n d := le_max_right _ _
    exact ⟨(f.expOf n d + f.b - 1).toNat, by omega⟩
  have hcode : f.magCode mode neg n d = E * 2 ^ f.m + f.places mode neg n d := by
    have he : f.expOf n d + f.b - 1 = E := by omega
    rw [Fmt.magCode, he]
    exact_mod_cast Int.toNat_natCast _
  rw [hcode, worth_mul_add hup (hlow.imp_left (by omega)), hE]

/-- R156's number for a signed quotient is what the code is worth, with the sign. -/
theorem exactRound_quot : f.exactRound mode (sgn neg * (n / d)) = sgn neg * f.worth (f.magCode mode neg n d) := by
  have hx : (0 : ℚ) < n / d := by positivity
  have habs : |(sgn neg : ℚ) * (n / d)| = n / d := by
    rw [abs_mul, abs_of_pos hx]
    cases neg <;> simp [sgn]
  have hexp : max (Int.log 2 |(sgn neg : ℚ) * (n / d)|) (1 - f.b) = f.expOf n d := by
    rw [habs, ← log2Floor_eq hn hd]
    rfl
  have hgrid : (sgn neg : ℚ) * (n / d) / 2 ^ (f.expOf n d - f.m) = sgn neg *
      ((scale n d (f.m - f.expOf n d)).1 / (scale n d (f.m - f.expOf n d)).2) := by
    rw [mul_div_assoc, div_eq_mul_inv _ ((2 : ℚ) ^ _), ← zpow_neg, neg_sub, ← quot_scale, quot]
  rw [exactRound_eq f mode _ hexp, hgrid, intRound_quot mode neg _ (scale_den_pos hd _), worth_magCode hn hd]
  rw [Int.cast_mul, Int.cast_natCast, mul_assoc]
  rfl

/-! ## Rounding and converting -/

/-- The code of the rounded quotient, and R157's table beyond the largest finite one, is what a format delivers. -/
theorem rounds_of_magCode (hf : f.Regular) (hs : f.signed = true ∨ neg = false) (sat : Bool) :
    f.Rounds mode sat neg (sgn neg * (n / d)) (f.sign neg + (if f.magCode mode neg n d ≤ f.maxf then f.magCode mode neg n d
      else if awayFromZero mode neg && !sat then f.inf.getD f.maxf else f.maxf)) := by
  have habs : |(sgn neg : ℚ) * f.worth (f.magCode mode neg n d)| = f.worth (f.magCode mode neg n d) := by
    rw [abs_mul, abs_of_nonneg (worth_nonneg f _)]
    cases neg <;> simp [sgn]
  have hle := (worth_strictMono f).le_iff_le (a := f.magCode mode neg n d) (b := f.maxf)
  unfold Fmt.Rounds
  dsimp only
  rw [exactRound_quot hn hd, habs, exact_maxf hf]
  split
  · next hc =>
    rw [if_pos (hle.mp hc)]
    exact exact_sign_add hf hs (hle.mp hc)
  · next hc =>
    rw [if_neg (mt hle.mpr hc)]
    rfl

/-- `roundQ` rounds once. -/
theorem roundQ_rounds (hf : f.Regular) (hs : f.signed = true ∨ neg = false) :
    f.Rounds mode false neg (sgn neg * (n / d)) (f.roundQ mode neg n d) := by
  rw [roundQ_eq]
  have h := rounds_of_magCode hn hd mode neg hf hs false
  rwa [Bool.not_false, Bool.and_true] at h

end

section
variable {f : Fmt} {m : Nat}

/-- What a conversion delivers for a number. -/
theorem conv_eq_magCode (hf : f.Regular) {neg : Bool} (hs : f.signed = true ∨ neg = false) (mode : Rnd) (sat : Bool)
    (hm : m ≠ 0) (k : Int) : f.conv mode sat (.fin neg m k) =
    f.sign neg + (if f.magCode mode neg (scale m 1 k).1 (scale m 1 k).2 ≤ f.maxf
      then f.magCode mode neg (scale m 1 k).1 (scale m 1 k).2
      else if awayFromZero mode neg && !sat then f.inf.getD f.maxf else f.maxf) := by
  have hneg : (!f.signed && neg) = false := by rcases hs with h | h <;> rw [h] <;> simp
  rw [conv_fin f mode sat neg k hm, hneg, if_neg Bool.false_ne_true, roundQ_eq, Nat.add_sub_cancel_left]
  generalize f.magCode mode neg (scale m 1 k).1 (scale m 1 k).2 = c
  cases sat with
  | false => rw [Bool.false_and, if_neg Bool.false_ne_true, Bool.not_false, Bool.and_true]
  | true =>
    rw [Bool.true_and, Bool.not_true, Bool.and_false, if_neg Bool.false_ne_true]
    have hfin (x : Nat) (hx : x ≤ f.maxf) : (f.inf == some x) = false :=
      beq_false_of_ne fun h => absurd (hf.inf x h) (by omega)
    split
    · next hc => rw [hfin c hc, if_neg Bool.false_ne_true]
    · next hc =>
      cases awayFromZero mode neg with
      | false => rw [if_neg Bool.false_ne_true, hfin _ (le_refl _), if_neg Bool.false_ne_true]
      | true =>
        rw [if_pos rfl]
        cases hi : f.inf with
        | none => rfl
        | some i => exact if_pos (beq_self_eq_true _)

/-- A number other than 0 is delivered as R156 and R157 round it. -/
theorem conv_rounds (hf : f.Regular) {neg : Bool} (hs : f.signed = true ∨ neg = false) (mode : Rnd) (sat : Bool)
    (hm : m ≠ 0) (k : Int) :
    f.Rounds mode sat neg (Val.exact (.fin neg m k)) (f.conv mode sat (.fin neg m k)) := by
  have hq := quot_scale m 1 k
  rw [Nat.cast_one, div_one, quot] at hq
  rw [conv_eq_magCode hf hs mode sat hm, exact_fin, ← hq]
  exact rounds_of_magCode (scale_num_pos (Nat.pos_of_ne_zero hm) k) (scale_den_pos Nat.one_pos k) mode neg hf hs sat

end

end Sys2Proof.Machine

/-! PROOFS. Exact sums and products, comparisons of values, and the special values of the operations (R155, R158, R220, R221,
R232, R233, R238, R239). -/

namespace Sys2Proof.Machine
set_option Elab.async false

/-! ## Exact sums and products (R155, R220) -/

theorem sgn_xor (a b : Bool) : sgn (a != b) = sgn a * sgn b := by cases a <;> cases b <;> rfl

theorem sgn_mul (n : Bool) (x : Int) : sgn n * x = if n then -x else x := by cases n <;> simp [sgn]

/-- An integer is its sign and its magnitude. -/
theorem sgn_mul_natAbs (x : Int) : sgn (decide (x < 0)) * x.natAbs = x := by
  rcases lt_or_ge x 0 with h | h
  · rw [decide_eq_true h, sgn, if_pos rfl]
    omega
  · rw [decide_eq_false (not_lt.mpr h), sgn, if_neg Bool.false_ne_true]
    omega

/-- A mantissa moved to a smaller exponent. -/
theorem mantissa_shift (m : Nat) {k e : Int} (he : e ≤ k) : ((m * 2 ^ (k - e).toNat : Nat) : ℚ) * 2 ^ e = m * 2 ^ k := by
  obtain ⟨j, hj⟩ := Int.eq_ofNat_of_zero_le (sub_nonneg.mpr he)
  have hk : k = j + e := by omega
  rw [hj, Int.toNat_natCast, hk, zpow_add₀ two_ne_zero]
  push_cast
  rw [zpow_natCast, mul_assoc]

/-- The sum of two numbers at the smaller exponent. -/
def alignedSum (na nb : Bool) (ma mb : Nat) (ka kb : Int) : Int :=
  sgn na * (ma * 2 ^ (ka - min ka kb).toNat : Nat) + sgn nb * (mb * 2 ^ (kb - min ka kb).toNat : Nat)

section
variable (na nb : Bool) (ma mb : Nat) (ka kb : Int)

theorem alignedSum_exact : (alignedSum na nb ma mb ka kb : ℚ) * 2 ^ min ka kb =
    Val.exact (.fin na ma ka) + Val.exact (.fin nb mb kb) := by
  rw [exact_fin, exact_fin, ← mantissa_shift ma (min_le_left ka kb), ← mantissa_shift mb (min_le_right ka kb), alignedSum]
  push_cast
  ring

theorem add_fin (rdn : Bool) : Val.add rdn (.fin na ma ka) (.fin nb mb kb) =
    if alignedSum na nb ma mb ka kb = 0 then .fin (if na = nb then na else rdn) 0 0
    else .fin (decide (alignedSum na nb ma mb ka kb < 0)) (alignedSum na nb ma mb ka kb).natAbs (min ka kb) := by
  rw [alignedSum, sgn_mul, sgn_mul]
  rfl

/-- The sum is exact; a zero has the sign of both, or of the mode, any other number its own. -/
theorem add_exact (rdn : Bool) : ∃ n m k, Val.add rdn (.fin na ma ka) (.fin nb mb kb) = .fin n m k ∧
    Val.exact (.fin n m k) = Val.exact (.fin na ma ka) + Val.exact (.fin nb mb kb) ∧
    (m = 0 → n = if na = nb then na else rdn) ∧
    (m ≠ 0 → n = decide (Val.exact (.fin na ma ka) + Val.exact (.fin nb mb kb) < 0)) := by
  rw [add_fin, ← alignedSum_exact]
  have hp : (0 : ℚ) < 2 ^ min ka kb := by positivity
  generalize alignedSum na nb ma mb ka kb = x
  split
  · next h =>
    subst h
    exact ⟨_, 0, 0, rfl, by rw [exact_fin]; simp, fun _ => rfl, fun h => absurd rfl h⟩
  · next h =>
    refine ⟨_, _, _, rfl, ?_, fun h0 => absurd (Int.natAbs_eq_zero.mp h0) h, fun _ => ?_⟩
    · rw [exact_fin, ← mul_assoc]
      congr 1
      rw [← Int.cast_natCast, ← Int.cast_mul, sgn_mul_natAbs]
    · rw [decide_eq_decide, ← not_le, ← not_le, mul_nonneg_iff_of_pos_right hp]
      norm_cast

/-- So is the product. -/
theorem mul_exact : ∃ m k, Val.mul (.fin na ma ka) (.fin nb mb kb) = .fin (na != nb) m k ∧
    Val.exact (.fin (na != nb) m k) = Val.exact (.fin na ma ka) * Val.exact (.fin nb mb kb) := by
  refine ⟨_, _, rfl, ?_⟩
  rw [exact_fin, exact_fin, exact_fin, sgn_xor, zpow_add₀ two_ne_zero]
  push_cast
  ring

/-! ## Comparing values (R221, R233) -/

theorem lt_fin : Val.lt (.fin na ma ka) (.fin nb mb kb) =
    decide (Val.exact (.fin na ma ka) < Val.exact (.fin nb mb kb)) := by
  obtain ⟨n, m, k, hadd, hex, -, hneg⟩ := add_exact na (!nb) ma mb ka kb false
  have hopp : Val.exact (.fin (!nb) mb kb) = -Val.exact (.fin nb mb kb) := by
    rw [exact_fin, exact_fin]
    cases nb <;> simp [sgn]
  rw [hopp, ← sub_eq_add_neg] at hex hneg
  have hval : Val.lt (.fin na ma ka) (.fin nb mb kb) = (n && m != 0) := by
    unfold Val.lt
    dsimp only
    rw [hadd]
  rw [hval]
  by_cases hm : m = 0
  · subst hm
    rw [exact_fin, Nat.cast_zero, zero_mul, mul_zero, eq_comm, sub_eq_zero] at hex
    simp [hex]
  · rw [hneg hm, bne_iff_ne.mpr hm, Bool.and_true, decide_eq_decide, sub_neg]

end

/-- No two values are each less than the other. -/
theorem lt_asymm_val : ∀ {x y : Val}, x.lt y = true → y.lt x = false
  | .fin na ma ka, .fin nb mb kb, h => by
    rw [lt_fin, decide_eq_true_eq] at h
    rw [lt_fin, decide_eq_false (not_lt.mpr h.le)]
  | .inf na, .inf nb, h => by
    obtain ⟨hna, hnb⟩ := (Bool.and_eq_true ..).mp (show (na && !nb) = true from h)
    show (nb && !na) = false
    rw [hna, Bool.not_true, Bool.and_false]
  | .inf na, .fin .., h => by
    show (!na) = false
    rw [show na = true from h, Bool.not_true]
  | .fin .., .inf nb, h => (Bool.not_eq_true' nb).mp h
  | .nan, _, h => Bool.noConfusion (show false = true from h)
  | .inf _, .nan, h => Bool.noConfusion (show false = true from h)
  | .fin .., .nan, h => Bool.noConfusion (show false = true from h)

/-- The values that are zero. -/
theorem isZero_iff {x : Val} : x.isZero = true ↔ ∃ n k, x = .fin n 0 k := by
  constructor
  · intro h
    rcases x with _ | n | ⟨n, _ | m, k⟩
    · cases h
    · cases h
    · exact ⟨n, k, rfl⟩
    · cases h
  · rintro ⟨n, k, rfl⟩
    rfl

/-- Neither of two zeros is less. -/
theorem lt_zeros {x y : Val} (hx : x.isZero = true) (hy : y.isZero = true) : x.lt y = false := by
  obtain ⟨n, k, rfl⟩ := isZero_iff.mp hx
  obtain ⟨n', k', rfl⟩ := isZero_iff.mp hy
  rw [lt_fin, exact_fin, exact_fin]
  simp

theorem isNan_iff {x : Val} : x.isNan = true ↔ x = .nan := by
  cases x <;> simp [Val.isNan]

theorem isNan_false {x : Val} (h : x ≠ .nan) : x.isNan = false :=
  Bool.eq_false_iff.mpr (mt isNan_iff.mp h)

/-- The two conditions on values where one is a NaN. -/
theorem onVal_unordered {x y : Val} (h : x = .nan ∨ y = .nan) (c : Cond) :
    Cond.onVal c x y = (c == .uo || c == .ne) := by
  have huo : (x.isNan || y.isNan) = true := by
    rcases h with rfl | rfl
    · rfl
    · exact Bool.or_true _
  unfold Cond.onVal
  dsimp only
  rw [huo]
  cases c <;> rfl

/-- Where neither is, every other condition is said by `lt`. -/
theorem onVal_ordered {x y : Val} (hx : x ≠ .nan) (hy : y ≠ .nan) (c : Cond) : Cond.onVal c x y = match c with
    | .eq => !x.lt y && !y.lt x
    | .ne => !(!x.lt y && !y.lt x)
    | .lt => x.lt y
    | .le => !y.lt x
    | .gt => y.lt x
    | .ge => !x.lt y
    | .uo => false
    | .ord => true := by
  unfold Cond.onVal Val.eqv
  dsimp only
  rw [isNan_false hx, isNan_false hy]
  cases c <;> rfl

/-! ## Minimum and maximum (R221) -/

section
variable {f : Fmt} {mx : Bool} {a b : Nat}

/-- Of two numbers, none a NaN, the lesser or the greater is chosen; of two zeros by the sign. -/
theorem minmax_ordered (hx : f.val a ≠ .nan) (hy : f.val b ≠ .nan) : f.minmax mx a b =
    if (f.val a).isZero && (f.val b).isZero then (if a = b then a else if mx then 0 else f.sign true)
    else if mx then (if (f.val a).lt (f.val b) then b else a) else (if (f.val b).lt (f.val a) then b else a) := by
  unfold Fmt.minmax
  dsimp only
  rw [isNan_false hx, isNan_false hy]
  rfl

theorem not_both_zero_of_lt {x y : Val} (h : x.lt y = true) : ¬(x.isZero && y.isZero) = true := by
  intro hz
  obtain ⟨hx, hy⟩ := (Bool.and_eq_true ..).mp hz
  rw [lt_zeros hx hy] at h
  cases h

/-- The lesser operand is the minimum. -/
theorem minmax_lt (hx : f.val a ≠ .nan) (hy : f.val b ≠ .nan) (h : (f.val a).lt (f.val b) = true) :
    f.minmax mx a b = if mx then b else a := by
  rw [minmax_ordered hx hy, if_neg (not_both_zero_of_lt h), lt_asymm_val h, h]
  rfl

/-- The greater one is the maximum. -/
theorem minmax_gt (hx : f.val a ≠ .nan) (hy : f.val b ≠ .nan) (h : (f.val b).lt (f.val a) = true) :
    f.minmax mx a b = if mx then a else b := by
  have hz : ¬((f.val a).isZero && (f.val b).isZero) = true := by
    rw [Bool.and_comm]
    exact not_both_zero_of_lt h
  rw [minmax_ordered hx hy, if_neg hz, lt_asymm_val h, h]
  rfl

theorem minmax_zeros (hx : (f.val a).isZero = true) (hy : (f.val b).isZero = true) (hab : a ≠ b) :
    f.minmax mx a b = if mx then 0 else f.sign true := by
  have hnan {c : Nat} (h : (f.val c).isZero = true) : f.val c ≠ .nan := by
    intro hn
    rw [hn] at h
    cases h
  rw [minmax_ordered (hnan hx) (hnan hy), hx, hy, Bool.and_self, if_pos rfl, if_neg hab]

end

/-! ## The functions of one operand (R232) -/

section
variable {r : Rnd} {x : W32}

/-- The reciprocal rounds the exact quotient. -/
theorem frcp32_rounds {n : Bool} {m : Nat} {k : Int} (h : f32 x = .fin n m k) (hm : m ≠ 0) :
    fF32.Rounds r false n (1 / (f32 x).exact) (frcp32 r x).toNat := by
  have hcode : (frcp32 r x).toNat = fF32.roundQ r n (scale 1 m (-k)).1 (scale 1 m (-k)).2 := by
    unfold frcp32
    rw [h]
    cases m with
    | zero => exact absurd rfl hm
    | succ m => exact (BitVec.toNat_ofNat ..).trans (Nat.mod_eq_of_lt (roundQ_f32_lt ..))
  have hm0 : 0 < m := Nat.pos_of_ne_zero hm
  have hq : 1 / (f32 x).exact = sgn n * ((scale 1 m (-k)).1 / (scale 1 m (-k)).2) := by
    have hs := quot_scale 1 m (-k)
    rw [quot] at hs
    rw [hs, h, exact_fin, zpow_neg, Nat.cast_one]
    cases n <;> simp [sgn, mul_comm]
  rw [hcode, hq]
  exact roundQ_rounds (scale_num_pos Nat.one_pos _) (scale_den_pos hm0 _) r n (regular_of_mem (by simp)) (.inl rfl)

/-- A NaN gives the canonical NaN. -/
theorem unary_nan (h : f32 x = .nan) : frcp32 r x = 0x7FC00000 ∧ fsqrt32 r x = 0x7FC00000 ∧ frsqrt32 r x = 0x7FC00000 ∧
    fexp2_32 r x = 0x7FC00000 ∧ flog2_32 r x = 0x7FC00000 ∧ frnd32 r x = 0x7FC00000 := by
  unfold frcp32 fsqrt32 frsqrt32 fexp2_32 flog2_32 frnd32
  rw [h]
  exact ⟨rfl, rfl, rfl, rfl, rfl, rfl⟩

/-- So does a negative number where the function has no value. -/
theorem unary_negative {m : Nat} {k : Int} (hm : m ≠ 0) (h : f32 x = .fin true m k) :
    fsqrt32 r x = 0x7FC00000 ∧ frsqrt32 r x = 0x7FC00000 ∧ flog2_32 r x = 0x7FC00000 := by
  unfold fsqrt32 frsqrt32 flog2_32
  rw [h]
  cases m with
  | zero => exact absurd rfl hm
  | succ m => exact ⟨rfl, rfl, rfl⟩

end

/-! ## The ends of a block's scales (R238, R239) -/

section
variable {elem scale : Nat} {band : Val}

theorem elemValue_zero (h : elem = 0 ∨ elem = 8 ∨ scale = 0) : elemValue elem scale band = .fin false 0 0 :=
  if_pos (by omega)

theorem elemValue_eq (he : elem < 16) (h0 : elem ≠ 0) (h8 : elem ≠ 8) (hs : scale ≠ 0) :
    elemValue elem scale band = (blockValue elem scale).mul band :=
  if_neg (by omega)

theorem blockValue_max (he : elem < 16) (h0 : elem ≠ 0) (h8 : elem ≠ 8) : blockValue elem 0xFF = .nan :=
  (if_neg (by omega)).trans (if_pos rfl)

/-- A finite code other than 0 is a number other than 0 with its sign. -/
theorem val_sign_add_ne_zero {f : Fmt} (hf : f.Regular) {neg : Bool} (hs : f.signed = true ∨ neg = false) {c : Nat}
    (h0 : c ≠ 0) (hc : c ≤ f.maxf) : ∃ m k, f.val (f.sign neg + c) = .fin neg m k ∧ m ≠ 0 := by
  obtain ⟨m, k, hv, hw⟩ := val_sign_add hf hs hc
  refine ⟨m, k, hv, ?_⟩
  rintro rfl
  have hpos : f.worth 0 < f.worth c := worth_strictMono f (Nat.pos_of_ne_zero h0)
  rw [← hw, Nat.cast_zero, zero_mul] at hpos
  exact absurd (worth_nonneg f 0) (not_le.mpr hpos)

theorem val_elem (he : elem < 16) (h0 : elem ≠ 0) (h8 : elem ≠ 8) :
    ∃ m k, fE2m1.val elem = .fin (decide (8 < elem)) m k ∧ m ≠ 0 := by
  have hcode : fE2m1.sign (decide (8 < elem)) + elem % 8 = elem := by
    by_cases h : 8 < elem
    · rw [decide_eq_true h]
      show 8 + elem % 8 = elem
      omega
    · rw [decide_eq_false h]
      show 0 + elem % 8 = elem
      omega
  have := val_sign_add_ne_zero (f := fE2m1) (neg := decide (8 < elem)) (c := elem % 8) (regular_of_mem (by simp)) (.inl rfl)
    (by omega) (show elem % 8 ≤ 7 by omega)
  rwa [hcode] at this

theorem val_scale (hs : scale ≠ 0) (h : scale < 0xFF) : ∃ m k, fE3m5.val scale = .fin false m k ∧ m ≠ 0 := by
  have := val_sign_add_ne_zero (f := fE3m5) (neg := false) (c := scale) (regular_of_mem (by simp)) (.inr rfl)
    hs (show scale ≤ 0xFE by omega)
  rwa [show fE3m5.sign false + scale = scale from Nat.zero_add _] at this

/-- A block value within the range is a number other than 0. -/
theorem blockValue_fin (he : elem < 16) (h0 : elem ≠ 0) (h8 : elem ≠ 8) (hs : scale ≠ 0) (hF : scale < 0xFF) :
    ∃ m k, blockValue elem scale = .fin (decide (8 < elem)) m k ∧ m ≠ 0 := by
  obtain ⟨m, k, hm, hm0⟩ := val_elem he h0 h8
  obtain ⟨m', k', hm', hm0'⟩ := val_scale hs hF
  refine ⟨m * m', k + k', ?_, Nat.mul_ne_zero hm0 hm0'⟩
  rw [blockValue, if_neg (by omega), if_neg (by omega), if_neg hs, hm, hm']
  exact congrArg (fun n => Val.fin n _ _) (Bool.xor_false _)

end

/-- The constant operands of R232. -/
theorem unary_constants (r : Rnd) :
    (frcp32 r 0 = 0x7F800000 ∧ frcp32 r 0x80000000 = 0xFF800000 ∧ frcp32 r 0x7F800000 = 0 ∧
      frcp32 r 0xFF800000 = 0x80000000) ∧
    (fsqrt32 r 0 = 0 ∧ fsqrt32 r 0x80000000 = 0x80000000 ∧ fsqrt32 r 0x7F800000 = 0x7F800000 ∧
      fsqrt32 r 0xFF800000 = 0x7FC00000) ∧
    (frsqrt32 r 0 = 0x7F800000 ∧ frsqrt32 r 0x80000000 = 0xFF800000 ∧ frsqrt32 r 0x7F800000 = 0 ∧
      frsqrt32 r 0xFF800000 = 0x7FC00000) ∧
    (fexp2_32 r 0 = 0x3F800000 ∧ fexp2_32 r 0x80000000 = 0x3F800000 ∧ fexp2_32 r 0x7F800000 = 0x7F800000 ∧
      fexp2_32 r 0xFF800000 = 0) ∧
    (flog2_32 r 0 = 0xFF800000 ∧ flog2_32 r 0x80000000 = 0xFF800000 ∧ flog2_32 r 0x7F800000 = 0x7F800000 ∧
      flog2_32 r 0xFF800000 = 0x7FC00000 ∧ flog2_32 r 0x3F800000 = 0) ∧
    (frnd32 r 0 = 0 ∧ frnd32 r 0x80000000 = 0x80000000 ∧ frnd32 r 0x7F800000 = 0x7F800000 ∧
      frnd32 r 0xFF800000 = 0xFF800000) := by
  cases r <;> decide

/-! ## The statement -/

/-- A conversion of a NaN, an infinity and a zero, and of any other number. -/
theorem conv_cases {f : Fmt} (hf : f ∈ [fF32, fF16, fBf16, fE4m3, fE5m2, fE2m1, fE3m5]) {neg : Bool}
    (hs : f.signed = true ∨ neg = false) (r : Rnd) (sat : Bool) (m : Nat) (k : Int) :
    (f.conv r sat .nan = f.nan ∧ f.conv r sat (.fin neg 0 k) = f.sign neg ∧
      f.conv r sat (.inf neg) = f.sign neg + (if sat then f.maxf else f.inf.getD f.maxf)) ∧
    (m ≠ 0 → f.Rounds r sat neg (Val.exact (.fin neg m k)) (f.conv r sat (.fin neg m k))) := by
  have hneg : (!f.signed && neg) = false := by rcases hs with h | h <;> rw [h] <;> simp
  refine ⟨⟨rfl, rfl, ?_⟩, fun hm => conv_rounds (regular_of_mem hf) hs r sat hm k⟩
  unfold Fmt.conv
  dsimp only
  rw [hneg, if_neg Bool.false_ne_true]
  cases f.inf with
  | none => rw [Option.getD_none, ite_self]
  | some i => rfl

/-- The choice of minimum and maximum, for two codes of a format with a sign. -/
theorem minmax_cases {f : Fmt} (hf : f.signed = true) (a b : Nat) (mx : Bool) :
    (f.val a = .nan → f.val b = .nan → f.minmax mx a b = f.nan) ∧
    (f.val a = .nan → f.val b ≠ .nan → f.minmax mx a b = b) ∧
    (f.val a ≠ .nan → f.val b = .nan → f.minmax mx a b = a) ∧
    ((f.val a).isZero = true → (f.val b).isZero = true → a ≠ b → f.minmax mx a b = if mx then 0 else 2 ^ (f.width - 1)) ∧
    (f.val a ≠ .nan → f.val b ≠ .nan → (f.val a).lt (f.val b) = true → f.minmax mx a b = if mx then b else a) ∧
    (f.val a ≠ .nan → f.val b ≠ .nan → (f.val b).lt (f.val a) = true → f.minmax mx a b = if mx then a else b) := by
  have hsign : f.sign true = 2 ^ (f.width - 1) := by rw [Fmt.sign, hf]; rfl
  refine ⟨fun hx hy => ?_, fun hx hy => ?_, fun hx hy => ?_, fun hx hy hab => ?_, minmax_lt, minmax_gt⟩
  · unfold Fmt.minmax
    rw [hx, hy]
    rfl
  · unfold Fmt.minmax
    dsimp only
    rw [hx, isNan_false hy]
    rfl
  · unfold Fmt.minmax
    dsimp only
    rw [hy, isNan_false hx]
    rfl
  · rw [minmax_zeros hx hy hab, hsign]

/-- The conditions on values. -/
theorem onVal_cases (x y : Val) :
    ((x = .nan ∨ y = .nan) → Cond.onVal .uo x y = true ∧ Cond.onVal .ord x y = false ∧ Cond.onVal .ne x y = true ∧
      Cond.onVal .eq x y = false ∧ Cond.onVal .lt x y = false ∧ Cond.onVal .le x y = false ∧ Cond.onVal .gt x y = false ∧
      Cond.onVal .ge x y = false) ∧
    (x ≠ .nan → y ≠ .nan → Cond.onVal .uo x y = false ∧ Cond.onVal .ord x y = true ∧
      Cond.onVal .ne x y = !Cond.onVal .eq x y ∧ Cond.onVal .gt x y = Cond.onVal .lt y x ∧
      Cond.onVal .ge x y = Cond.onVal .le y x) ∧
    (x.isZero = true → y.isZero = true → Cond.onVal .eq x y = true) := by
  refine ⟨fun h => ?_, fun hx hy => ?_, fun hx hy => ?_⟩
  · simp only [onVal_unordered h]
    decide
  · simp only [onVal_ordered hx hy, onVal_ordered hy hx, and_self]
  · have hlt := lt_zeros hx hy
    have hgt := lt_zeros hy hx
    obtain ⟨n, k, rfl⟩ := isZero_iff.mp hx
    obtain ⟨n', k', rfl⟩ := isZero_iff.mp hy
    rw [onVal_ordered (fun h => by cases h) (fun h => by cases h)]
    dsimp only
    rw [hlt, hgt]
    rfl

/-- A block with no usable band. -/
theorem quantBlock_no_band {xs : List Val} {band : Val} (h : band.isZero = true ∨ band.isFinite = false) :
    quantBlock xs band = (0xFF, List.replicate 8 0) := by
  rcases band with _ | n | ⟨n, m, k⟩
  · rfl
  · rfl
  · obtain ⟨_, _, hz⟩ := isZero_iff.mp (h.resolve_right (by simp [Val.isFinite]))
    cases hz
    rfl

/-- The full value of an element in range by a band that is no finite number, or 0. -/
theorem elemValue_range {elem scale : Nat} (band : Val) (he : elem < 16) (h0 : elem ≠ 0) (h8 : elem ≠ 8) (hs : scale ≠ 0)
    (hF : scale < 0xFF) :
    (band = .nan → rne32 (elemValue elem scale band) = 0x7FC00000) ∧
    (∀ n, band = .inf n → rne32 (elemValue elem scale band) = if (n != decide (8 < elem)) then 0xFF800000 else 0x7F800000) ∧
    (∀ n k, band = .fin n 0 k →
      rne32 (elemValue elem scale band) = if (n != decide (8 < elem)) then 0x80000000 else 0) := by
  obtain ⟨m, k, hv, hm⟩ := blockValue_fin he h0 h8 hs hF
  rw [elemValue_eq he h0 h8 hs, hv]
  generalize decide (8 < elem) = neg
  refine ⟨?_, ?_, ?_⟩
  · rintro rfl
    rfl
  · rintro n rfl
    have hmul : Val.mul (.fin neg m k) (.inf n) = .inf (neg != n) := if_neg hm
    rw [hmul]
    cases neg <;> cases n <;> rfl
  · rintro n k' rfl
    cases neg <;> cases n <;> rfl

/-- Settles O7: rounding is the code of the rounded multiple of the least place, codes being worth more in their order;
the special values are read off. -/
theorem specialValues : Obligations.SpecialValues := by
  unfold Obligations.SpecialValues
  refine ⟨⟨?_, ?_, fun f r a b c => ⟨rfl, rfl, rfl, rfl⟩, fun r x n m k h hm => frcp32_rounds h hm⟩, ?_, ?_,
    onVal_cases, ?_⟩
  · exact fun f r sat neg m k hf hs => conv_cases hf hs r sat m k
  · exact fun rdn na nb ma mb ka kb => ⟨add_exact na nb ma mb ka kb rdn, mul_exact na nb ma mb ka kb⟩
  · intro f a b hf _ _ x y mx
    refine minmax_cases ?_ a b mx
    simp only [List.mem_cons, List.not_mem_nil, or_false] at hf
    rcases hf with rfl | rfl | rfl <;> rfl
  · intro r x
    obtain ⟨hrcp, hsqrt, hrsqrt, hexp, hlog, hrnd⟩ := unary_constants r
    exact ⟨hrcp, hsqrt, hrsqrt, hexp, hlog, hrnd, unary_nan, fun m k hm h => unary_negative hm h⟩
  · intro xs band elem scale he _
    refine ⟨quantBlock_no_band, fun h => ?_, fun h0 h8 hF => ?_, fun h0 h8 hs hF =>
      elemValue_range band he h0 h8 hs (by omega)⟩
    · rw [elemValue_zero h]
      rfl
    · subst hF
      rw [elemValue_eq he h0 h8 (by decide), blockValue_max he h0 h8]
      rfl

end Sys2Proof.Machine
